-- ==== Sys2Proof/Word.lean ====
section
/-! DEFINITION. The words of the KP8 and its keyed lists.

A keyed list is the one shape of sparse data in the model: pairs of a key and a value, the keys strictly
rising.  A memory and a register file are keyed lists of words in which a word of zero is not listed. -/

namespace Sys2Proof

/-- A byte. -/
abbrev Byte := BitVec 8

/-- A 32-bit word: a v-register (R168). -/
abbrev W32 := BitVec 32

/-- A 64-bit word: an s-register, a capability, a program counter (R168, R90, R161). -/
abbrev W64 := BitVec 64

/-- Data by key; see `mapSorted` for its form. -/
abbrev KMap (β : Type) := List (Nat × β)

/-- Words by key, a word of zero not listed; see `zwf` for its form. -/
abbrev ZMap (w : Nat) := KMap (BitVec w)

/-- Bytes by address (`Host.Cell`): an unlisted address reads as zero. -/
abbrev Memory := ZMap 8

end Sys2Proof
end

