-- ==== Sys2Proof/Config.lean ====
section
/-! DEFINITION. What the manual leaves open: the free values.

Every constant here is opaque: nothing can evaluate it or prove a value of it.  The first argument of most
of them is the counter `State.fresh`, which the step advances, so that two uses are two values. -/

namespace Sys2Proof.Config

/-- The core cycles that passed since the counter of R413 was last read: the manual gives no figure that a
value rests on (R183, R467).
Marks: DESIGN CHOICE, safe (assumption 9). -/
opaque clockTick : Nat → Nat

/-- A byte of main memory decrypted under another key than it was written with: "values unrelated to the
earlier data" (R120).  Arguments: the reading key, the address.
Marks: DESIGN CHOICE, safe (assumption 72). -/
opaque foreignByte : Nat → Nat → BitVec 8

/-- The SHAKE256 digest of the firmware image of a stage and instance (R460, R461): no image is given. -/
opaque imageDigest : Nat → Nat → Nat → BitVec 8

/-- The version word of the firmware image of a stage and instance (R461). -/
opaque imageVersion : Nat → Nat → BitVec 32

/-- Byte `k` of the device public key (R462). -/
opaque publicKey : Nat → BitVec 8

/-- Byte `k` of the certificate of the manufacturing authority (R462). -/
opaque certificate : Nat → BitVec 8

/-- The length of that certificate: the manual gives none. -/
opaque certificateLength : Nat

/-- The value field of a response for which the manual names no value (R447, R448).
Marks: DESIGN CHOICE, safe (assumption 49). -/
opaque responseValue : Nat → BitVec 64

/-- Byte `k` of the ML-DSA-65 signature over a report (R462). -/
opaque signature : List (BitVec 8) → Nat → BitVec 8

end Sys2Proof.Config
end

