-- ==== Sys2Proof/Syntax.lean ====
section
/-! DEFINITION. The instructions and events of the KP8: one constructor per row of the opcode table.

A row that issues to a run of lanes carries its guard, lookahead, register fields and immediate (`Ops`, R165)
and its modifier as a record of named fields.  A row of another agent carries what that agent brings:
which operation, which node, which bytes. -/

namespace Sys2Proof

/-- Type codes of R173, in code order. -/
inductive NumType
  | s32 | ui32 | s64 | ui64 | f32 | f16 | bf16 | f64 | sli32 | sli16 | s16 | ui16 | s8 | ui8 | e4m3 | e5m2
  deriving DecidableEq, Repr

/-- Rounding modes of R52 and R172, in code order. -/
inductive Rnd
  | rn | rz | ru | rd | rna
  deriving DecidableEq, Repr

/-- Comparisons of R200 and R274, in code order. -/
inductive Cmp
  | eq | ne | lt | le | gt | ge | un | ord
  deriving DecidableEq, Repr

/-- How a comparison joins the predicate of src c (R200), in code order. -/
inductive Comb
  | none | and | or | xor
  deriving DecidableEq, Repr

/-- Scopes of R127, in code order; code 7 is illegal. -/
inductive Scope
  | lane | warp | group | cluster | die | device | system
  deriving DecidableEq, Repr

/-- Ordering kinds of R128, in code order. -/
inductive OrdKind
  | plain | acquire | release | acqRel
  deriving DecidableEq, Repr

/-- Atomic operations of R234, in code order. -/
inductive AtomOp
  | add | mins | maxs | minz | maxz | and | or | xor | exch | fadd | inc | dec
  deriving DecidableEq, Repr

/-- Reduction operations of R261, in code order. -/
inductive RedOp
  | add | min | max | and | or | xor
  deriving DecidableEq, Repr

/-- Narrow formats of R281, in code order. -/
inductive NarrowFmt
  | e4m3 | e5m2 | e2m1 | int8
  deriving DecidableEq, Repr

/-- The guard (R171): predicate and negate bit. -/
structure Guard where
  neg : Bool
  p : BitVec 4
  deriving DecidableEq, Repr

/-- Guard, lookahead, register fields and immediate of an instruction word (R165).
The register fields hold indices of R168. -/
structure Ops where
  g : Guard
  la : BitVec 4
  d : BitVec 8
  a : BitVec 8
  b : BitVec 8
  c : BitVec 8
  imm : BitVec 32
  deriving DecidableEq, Repr

/-- The standard modifier layout (R172). -/
structure StdMod where
  ty : NumType
  rnd : Rnd
  na : Bool
  nb : Bool
  aa : Bool
  ab : Bool
  sat : Bool
  w : Bool
  deriving DecidableEq, Repr

/-- The comparison layout (R200, R274). -/
structure CmpMod where
  ty : NumType
  cmp : Cmp
  na : Bool
  nb : Bool
  aa : Bool
  ab : Bool
  comb : Comb
  deriving DecidableEq, Repr

/-- The capability layout (R210): MASK in bits 35:32, in the order RD, WR, EX, AT. -/
structure CapMod where
  mask : BitVec 4
  deriving DecidableEq, Repr

/-- `BRX` and `CALLX` (R213): N in bits 39:32. -/
structure TableMod where
  n : BitVec 8
  deriving DecidableEq, Repr

/-- `BAR` and `CBAR` (R213): the barrier in bits 35:32. -/
structure BarMod where
  i : BitVec 4
  deriving DecidableEq, Repr

/-- The one flag in bit 32 of `HRET` (NEXT, R425), `CUEB` (LOFT, R318) and `FTEST` (PRED, R241). -/
structure FlagMod where
  b : Bool
  deriving DecidableEq, Repr

/-- The memory layout (R227). -/
structure MemMod where
  scope : Scope
  kind : OrdKind
  size : BitVec 2
  sx : Bool
  op : AtomOp
  deriving DecidableEq, Repr

/-- `FENCE` (R130). -/
structure FenceMod where
  scope : Scope
  kind : OrdKind
  deriving DecidableEq, Repr

/-- `RINGW` (R246): the predicate that receives the phase. -/
structure RingwMod where
  k : BitVec 4
  deriving DecidableEq, Repr

/-- `SHFL`, `QXCH`, `QBC` (R258). -/
structure ShflMod where
  mode : BitVec 2
  wrel : Bool
  b64 : Bool
  deriving DecidableEq, Repr

/-- `VOTE`, `MATCH` (R260). -/
structure VoteMod where
  mode : BitVec 2
  np : Bool
  b64 : Bool
  deriving DecidableEq, Repr

/-- `RED`, `SCAN` (R261). -/
structure RedMod where
  ty : NumType
  op : RedOp
  excl : Bool
  deriving DecidableEq, Repr

/-- `REGROUP` (R266): C - 1. -/
structure RegroupMod where
  c : BitVec 3
  deriving DecidableEq, Repr

/-- `LANEMASK` (R269). -/
structure LaneMaskMod where
  sel : BitVec 3
  deriving DecidableEq, Repr

/-- `CVT`, `CVTW`, `LICVT` (R278, R293). -/
structure CvtMod where
  dty : NumType
  rnd : Rnd
  sty : NumType
  sat : Bool
  w : Bool
  deriving DecidableEq, Repr

/-- `CVTN` (R281). -/
structure CvtnMod where
  fmt : NarrowFmt
  expand : Bool
  rnd : Rnd
  sel : BitVec 3
  sc : Bool
  deriving DecidableEq, Repr

/-- `QSCALE` (R282). -/
structure QscaleMod where
  fmt : NarrowFmt
  deriving DecidableEq, Repr

/-- `CPY`, `CPYG`, `CPYX` (R320). -/
structure CopyMod where
  ctx : BitVec 6
  recGen : Bool
  sameGen : Bool
  deriving DecidableEq, Repr

/-- `REDST` (R324); the operations are add, min and max. -/
structure RedstMod where
  ctx : BitVec 6
  tag : Bool
  ty : NumType
  op : RedOp
  deriving DecidableEq, Repr

/-- `CROSS`, `CROSSB` (R382). -/
structure CrossMod where
  ctx : BitVec 6
  loft : Bool
  keepy : Bool
  deriving DecidableEq, Repr

/-- `XBANK` (R387). -/
structure XbankMod where
  ctx : BitVec 6
  deriving DecidableEq, Repr

/-- `XSTAT` (R388). -/
structure XstatMod where
  sel : BitVec 4
  clr : Bool
  deriving DecidableEq, Repr

/-- `COVER` (R431). -/
structure CoverMod where
  all : Bool
  clr : Bool
  deriving DecidableEq, Repr

/-! ## What the events carry -/

/-- CTXCREATE (R448, R469). -/
structure CtxCreateArgs where
  ctx : Nat
  scrim : W64
  deriving DecidableEq, Repr

/-- OBJINSTALL (R448, R94): the four words of the entry and byte 40. -/
structure ObjInstallArgs where
  ctx : Nat
  idx : Nat
  w0 : W64
  w1 : W64
  w2 : W64
  w3 : W64
  first : Byte
  deriving DecidableEq, Repr

/-- LOAD (R448): the bytes that the device reads by DMA. -/
structure LoadArgs where
  ctx : Nat
  idx : Nat
  off : Nat
  data : List Byte
  deriving DecidableEq, Repr

/-- One entry of PTEWRITE (R448): the level 0 to 2, the virtual address it indexes and its value. -/
structure PteArgs where
  level : Nat
  va : Nat
  entry : W64
  deriving DecidableEq, Repr

/-- LQCREATE (R450): the queue, the host address of its ring, E, the completion word and the doorbell. -/
structure LqCreateArgs where
  ctx : Nat
  q : Nat
  ring : W64
  entries : Nat
  completion : W64
  doorbell : Nat
  deriving DecidableEq, Repr

/-- PEER (R468): the 16-bit fields GX and GY, PCTX, bytes 14-15, LSEL, and bytes 24-63. -/
structure PeerArgs where
  ctx : Nat
  gx : BitVec 16
  gy : BitVec 16
  pctx : BitVec 16
  zero : BitVec 16
  lsel : List Byte
  rest : List Byte
  deriving DecidableEq, Repr

/-- What PREEMPT and RESUME name (R435). -/
inductive Target
  | ctx
  | node (n : Nat)
  | cores (die : Nat) (cs : List Nat)
  | group (node lin : Nat)
  deriving DecidableEq, Repr

/-- What STAT reads (R448). -/
inductive StatSel
  | lateSignals
  | droppedRedst (die : Nat)
  | capability (die core : Nat)
  | errorLog (k : Nat)
  | nodeStatus (k : Nat)
  | abort (k : Nat)
  deriving DecidableEq, Repr

/-- What RESUME names (R435), and whether the host has cleared BKEN in the frames of what is named (R427). -/
structure ResumeArgs where
  target : Target
  clear : Bool
  deriving DecidableEq, Repr

/-- A mailbox command (R448). -/
inductive Cmd
  | ctxCreate (c : CtxCreateArgs)
  | ctxDestroy (ctx : Nat)
  | objInstall (c : ObjInstallArgs)
  | objRemove (ctx idx : Nat)
  | load (c : LoadArgs)
  | l3Write (ctx index : Nat) (entry : W64)
  | pteWrite (ctx : Nat) (entries : List PteArgs)
  | pageState (ctx va : Nat) (present : Bool)
  | dieMap (ctx : Nat) (map : List (Option Nat))
  | framePool (ctx : Nat) (ranges : List (Nat × Nat))
  | nodeWrite (ctx idx : Nat) (desc : List Byte)
  | lqCreate (c : LqCreateArgs)
  | bind (ctx obj node : Nat)
  | peer (c : PeerArgs)
  | preempt (ctx : Nat) (t : Target)
  | resume (ctx : Nat) (t : ResumeArgs)
  | stat (ctx : Nat) (what : StatSel)
  | attest (nonce : List Byte) (opt : Nat) (addr : W64)
  | debug (ctx : Nat)
  | power (mw : Nat)
  | unlisted (op : Byte) (ctx : Nat)
  deriving DecidableEq, Repr

/-- A command of the ring, 64 bytes (R447): OP, the context identifier of bytes 2-3, bytes 4-7, and the arguments as a
command gives them. -/
structure CmdSlot where
  op : Byte
  ctx : BitVec 16
  pad : W32
  args : Cmd
  deriving DecidableEq, Repr

/-- An entry of a launch queue (R450): OP, the node, the tag, and whether every other byte is zero. -/
structure LqEntry where
  op : Byte
  node : Nat
  tag : W64
  zeros : Bool
  deriving DecidableEq, Repr

/-- A chunk that a peer sends (R328, R405): the receiving context and object, the offset of its first
element, its bytes, the element size, and the reduction with its type code (0 writes). -/
structure ChunkArgs where
  ctx : Nat
  obj : Nat
  off : Nat
  data : List Byte
  op : Nat
  ty : Nat
  deriving DecidableEq, Repr

/-- A quadrant that fails the test of R442. -/
structure QuadrantFail where
  die : Nat
  core : Nat
  quadrant : Nat
  deriving DecidableEq, Repr

/-- A start of an engine operation `id`: with `upto`, it goes on for that many accesses and then pauses (R126, R151). -/
structure CopyRun where
  id : Nat
  upto : Option Nat
  deriving DecidableEq, Repr

/-- The arrival of entry `k` of the writes on their way; `late` says that an operation reads the bytes that it copies only
now (R126). -/
structure Landing where
  k : Nat
  late : Bool
  deriving DecidableEq, Repr

/-- A completion: the long-latency operation `id`; `late` says that a load of it is performed only now (R124, R126). -/
structure Completion where
  id : Nat
  late : Bool
  deriving DecidableEq, Repr

/-- A launch queue of a context (R450). -/
structure LqName where
  ctx : Nat
  q : Nat
  deriving DecidableEq, Repr

/-- A flit that arrives: the link and its number there (R457). -/
structure FlitIn where
  link : Nat
  n : Nat
  deriving DecidableEq, Repr

/-- What a reset meets: the quadrants that fail their test (R442), and the stage whose image is malformed (R460). -/
structure BringUp where
  failed : List QuadrantFail
  malformed : Option (Nat × Nat)
  deriving DecidableEq, Repr

/-- The instructions and events: one constructor per row of the opcode table. -/
inductive Instr
  | nop (o : Ops)
  | bra (o : Ops)
  | brx (o : Ops) (m : TableMod)
  | call (o : Ops)
  | callx (o : Ops) (m : TableMod)
  | ret (o : Ops)
  | exit (o : Ops)
  | reconv (o : Ops)
  | yield (o : Ops)
  | bar (o : Ops) (m : BarMod)
  | cbar (o : Ops) (m : BarMod)
  | trap (o : Ops)
  | bkpt (o : Ops)
  | elect (o : Ops)
  | hret (o : Ops) (m : FlagMod)
  /-- A word whose opcode is not assigned (R185). -/
  | unassignedOpcode (op : BitVec 10)
  | iadd (o : Ops) (m : StdMod)
  | isub (o : Ops) (m : StdMod)
  | imul (o : Ops) (m : StdMod)
  | imulh (o : Ops) (m : StdMod)
  | imad (o : Ops) (m : StdMod)
  | imadw (o : Ops) (m : StdMod)
  | idiv (o : Ops) (m : StdMod)
  | irem (o : Ops) (m : StdMod)
  | iabs (o : Ops) (m : StdMod)
  | ineg (o : Ops) (m : StdMod)
  | imin (o : Ops) (m : StdMod)
  | imax (o : Ops) (m : StdMod)
  | icmp (o : Ops) (m : CmpMod)
  | isel (o : Ops) (m : StdMod)
  | idp4 (o : Ops) (m : StdMod)
  | andB (o : Ops) (m : StdMod)
  | orB (o : Ops) (m : StdMod)
  | xorB (o : Ops) (m : StdMod)
  | notB (o : Ops) (m : StdMod)
  | lop3 (o : Ops) (m : StdMod)
  | shl (o : Ops) (m : StdMod)
  | shr (o : Ops) (m : StdMod)
  | sar (o : Ops) (m : StdMod)
  | rot (o : Ops) (m : StdMod)
  | fshf (o : Ops) (m : StdMod)
  | popc (o : Ops) (m : StdMod)
  | clz (o : Ops) (m : StdMod)
  | brev (o : Ops) (m : StdMod)
  | bfe (o : Ops) (m : StdMod)
  | bfi (o : Ops) (m : StdMod)
  | prmt (o : Ops) (m : StdMod)
  | mov (o : Ops) (m : StdMod)
  | movi (o : Ops) (m : StdMod)
  | movs (o : Ops) (m : StdMod)
  | pset (o : Ops) (m : StdMod)
  | plop (o : Ops)
  | ptov (o : Ops)
  | vtop (o : Ops)
  | capadd (o : Ops) (m : CapMod)
  | capnar (o : Ops) (m : CapMod)
  | capoff (o : Ops) (m : CapMod)
  | capobj (o : Ops) (m : CapMod)
  | capchk (o : Ops) (m : CapMod)
  | fadd (o : Ops) (m : StdMod)
  | fsub (o : Ops) (m : StdMod)
  | fmul (o : Ops) (m : StdMod)
  | ffma (o : Ops) (m : StdMod)
  | fmin (o : Ops) (m : StdMod)
  | fmax (o : Ops) (m : StdMod)
  | fcmp (o : Ops) (m : CmpMod)
  | frnd (o : Ops) (m : StdMod)
  | fclass (o : Ops) (m : StdMod)
  | fscale (o : Ops) (m : StdMod)
  | hadd2 (o : Ops) (m : StdMod)
  | hmul2 (o : Ops) (m : StdMod)
  | hfma2 (o : Ops) (m : StdMod)
  | dadd (o : Ops) (m : StdMod)
  | dmul (o : Ops) (m : StdMod)
  | dfma (o : Ops) (m : StdMod)
  | cvt (o : Ops) (m : CvtMod)
  | cvtn (o : Ops) (m : CvtnMod)
  | cvtw (o : Ops) (m : CvtMod)
  | qscale (o : Ops) (m : QscaleMod)
  | rcp (o : Ops) (m : StdMod)
  | rsq (o : Ops) (m : StdMod)
  | sqrt (o : Ops) (m : StdMod)
  | ex2 (o : Ops) (m : StdMod)
  | lg2 (o : Ops) (m : StdMod)
  | sin (o : Ops) (m : StdMod)
  | cos (o : Ops) (m : StdMod)
  | fdiv (o : Ops) (m : StdMod)
  | flagr (o : Ops)
  | flagc (o : Ops)
  | liadd (o : Ops) (m : StdMod)
  | lisub (o : Ops) (m : StdMod)
  | limul (o : Ops) (m : StdMod)
  | lidiv (o : Ops) (m : StdMod)
  | licmp (o : Ops) (m : CmpMod)
  | lircp (o : Ops) (m : StdMod)
  | liexp (o : Ops) (m : StdMod)
  | liln (o : Ops) (m : StdMod)
  | licvt (o : Ops) (m : CvtMod)
  | lilvl (o : Ops) (m : StdMod)
  | shfl (o : Ops) (m : ShflMod)
  | qxch (o : Ops) (m : ShflMod)
  | qbc (o : Ops) (m : ShflMod)
  | vote (o : Ops) (m : VoteMod)
  | matchB (o : Ops) (m : VoteMod)
  | red (o : Ops) (m : RedMod)
  | scan (o : Ops) (m : RedMod)
  | regroup (o : Ops) (m : RegroupMod)
  | lanemask (o : Ops) (m : LaneMaskMod)
  | lds (o : Ops) (m : MemMod)
  | sts (o : Ops) (m : MemMod)
  | ldl (o : Ops) (m : MemMod)
  | stl (o : Ops) (m : MemMod)
  | ldk (o : Ops) (m : MemMod)
  | stk (o : Ops) (m : MemMod)
  | atms (o : Ops) (m : MemMod)
  | atml (o : Ops) (m : MemMod)
  | cass (o : Ops) (m : MemMod)
  | casl (o : Ops) (m : MemMod)
  | fence (o : Ops) (m : FenceMod)
  | cpy (o : Ops) (m : CopyMod)
  | cpyg (o : Ops) (m : CopyMod)
  | cpyx (o : Ops) (m : CopyMod)
  | redst (o : Ops) (m : RedstMod)
  | cueb (o : Ops) (m : FlagMod)
  | cuef (o : Ops)
  | ringi (o : Ops)
  | ringpTake (o : Ops)
  | ringpFill (o : Ops)
  | ringw (o : Ops) (m : RingwMod)
  | ringr (o : Ops)
  | fwait (o : Ops)
  | ftest (o : Ops) (m : FlagMod)
  | fcancel (o : Ops)
  | tlrdCnt (o : Ops)
  | tlrdName (o : Ops)
  | tlwait (o : Ops)
  | signal (o : Ops)
  | mma (o : Ops)
  | mmab (o : Ops)
  | mmad (o : Ops)
  | accz (o : Ops)
  | acco (o : Ops) (m : StdMod)
  | acci (o : Ops) (m : StdMod)
  | accg (o : Ops) (m : StdMod)
  | cross (o : Ops) (m : CrossMod)
  | crossb (o : Ops) (m : CrossMod)
  | xbank (o : Ops) (m : XbankMod)
  | xstat (o : Ops) (m : XstatMod)
  | emit (o : Ops)
  | rand (o : Ops)
  | mode (o : Ops)
  | cover (o : Ops) (m : CoverMod)
  | clock (o : Ops)
  /-- `WRITE_REACHES_HOME`. R114: entry `k` of the writes not yet at their homes arrives. -/
  | writeReachesHome (x : Landing)
  /-- `LONG_LATENCY_COMPLETE`. R178: a long-latency operation completes. -/
  | longLatencyComplete (x : Completion)
  /-- `COPY_START`. R321: the queued copy-engine operation `id` starts, or goes on. -/
  | copyStart (x : CopyRun)
  /-- `COPY_COMPLETE`. R237: the copy-engine operation `id` completes. -/
  | copyComplete (id : Nat)
  /-- `ENGINE_RING_CLAIM`. R252: operation `id` claims, writes and fills its next ring slot. -/
  | engineRingClaim (id : Nat)
  /-- `SIGNAL_APPLY`. R396: signal `k` of those not yet applied is applied. -/
  | signalApply (k : Nat)
  /-- `MATRIX_ENTRY_EXECUTE`. R349: the engine of a core executes its next eligible entry. -/
  | matrixEntryExecute (die core : Nat)
  /-- `DUET_BOUND_EXPIRY`. R362: the 4,096 resident cycles of a warp's held entry have passed. -/
  | duetBoundExpiry (gid warp : Nat)
  /-- `CROSSING_START`. R384: crossing `id` starts. -/
  | crossingStart (id : Nat)
  /-- `CROSSING_DELIVERY`. R385: crossing `id` is delivered. -/
  | crossingDelivery (id : Nat)
  /-- `XBANK_LOAD_COMPLETE`. R387: bank load `id` completes. -/
  | xbankLoadComplete (id : Nat)
  /-- `EMIT_RECORDS_ARRIVE`. R401: the records of `EMIT` `k` of those under way reach the queue. -/
  | emitRecordsArrive (k : Nat)
  /-- `LINE_FETCH_COMPLETE`. R158: fetch `k` returns; the transfer flipped the bits named. -/
  | lineFetchComplete (k : Nat) (flips : List Nat)
  /-- `LINE_REFETCH_COMPLETE`. R158: the second fetch of `k` returns. -/
  | lineRefetchComplete (k : Nat) (flips : List Nat)
  /-- `PAGE_WALK_COMPLETE`. R105: walk `k` returns. -/
  | pageWalkComplete (k : Nat)
  /-- `SWAP_OUT`. R45: the unit that holds the group is saved. -/
  | swapOut (gid : Nat)
  /-- `RESTORE`. R46: the unit that holds the group is restored, its groups to the cores named. -/
  | restore (gid : Nat) (cores : List Nat)
  /-- `CALLBOARD_DISPATCH`. R399: the callboard of a die places the next groups on the cores its policy chose. -/
  | callboardDispatch (die : Nat) (cores : List Nat)
  /-- `NODE_COMPLETE`. R406: a node completes. -/
  | nodeComplete (ctx node : Nat)
  /-- `TOHOST`. R455: a ready TOHOST node acts. -/
  | toHost (ctx node : Nat)
  /-- `TODEVICE`. R455: a ready TODEVICE node acts. -/
  | toDevice (ctx node : Nat)
  /-- `JOIN`. R455: a ready JOIN node acts. -/
  | joinNode (ctx node : Nat)
  /-- `GRID_COPY_LOCAL_COMPLETE`. R328: the last flit of grid copy `id` is in the retry buffer. -/
  | gridCopyLocalComplete (id : Nat)
  /-- `CHUNK_ARRIVAL`. R405: received chunk `k` reaches its homes. -/
  | chunkArrival (k : Nat)
  /-- `CTXCREATE`. R448 `0x01`. -/
  | ctxCreate (c : CtxCreateArgs)
  /-- `CTXDESTROY`. R448 `0x02`. -/
  | ctxDestroy (ctx : Nat)
  /-- `OBJINSTALL`. R448 `0x03`. -/
  | objInstall (c : ObjInstallArgs)
  /-- `OBJREMOVE`. R448 `0x04`. -/
  | objRemove (ctx idx : Nat)
  /-- `LOAD`. R448 `0x05`. -/
  | load (c : LoadArgs)
  /-- `L3WRITE`. R448 `0x06`. -/
  | l3Write (ctx index : Nat) (entry : W64)
  /-- `PTEWRITE`. R448 `0x07`. -/
  | pteWrite (ctx : Nat) (entries : List PteArgs)
  /-- `PAGESTATE`. R448 `0x08`. -/
  | pageState (ctx va : Nat) (present : Bool)
  /-- `DIEMAP`. R448 `0x09`. -/
  | dieMap (ctx : Nat) (map : List (Option Nat))
  /-- `FRAMEPOOL`. R448 `0x0A`: ranges of device addresses and units. -/
  | framePool (ctx : Nat) (ranges : List (Nat × Nat))
  /-- `NODEWRITE`. R448 `0x0B`. -/
  | nodeWrite (ctx idx : Nat) (desc : List Byte)
  /-- `LQCREATE`. R448 `0x0C`. -/
  | lqCreate (c : LqCreateArgs)
  /-- `BIND`. R448 `0x0D`. -/
  | bind (ctx obj node : Nat)
  /-- `PEER`. R448 `0x0E`. -/
  | peer (c : PeerArgs)
  /-- `PREEMPT`. R448 `0x0F`. -/
  | preempt (ctx : Nat) (t : Target)
  /-- `RESUME`. R448 `0x10`: `clear` says that the host has cleared BKEN in the frames of what is named (R427). -/
  | resume (ctx : Nat) (t : ResumeArgs)
  /-- `STAT`. R448 `0x11`. -/
  | stat (ctx : Nat) (what : StatSel)
  /-- `ATTEST`. R448 `0x12`. -/
  | attest (nonce : List Byte) (opt : Nat) (addr : W64)
  /-- `DEBUG`. R448 `0x13`. -/
  | debug (ctx : Nat)
  /-- `POWER`. R448 `0x14`, milliwatts. -/
  | power (mw : Nat)
  /-- `MBTAIL_WRITE`. R447: the new tail, and the commands that the device reads by DMA. -/
  | mbTailWrite (tail : W64) (cmds : List CmdSlot)
  /-- `DOORBELL_WRITE`. R451: the new tail, and the entries that the device reads by DMA. -/
  | doorbellWrite (d : Nat) (tail : W64) (entries : List LqEntry)
  /-- `REGISTER_WRITE`. R447: any other BAR0 register. -/
  | registerWrite (off v : W64)
  /-- `SUBMIT`. R451: the next entry of launch queue `q` of a context is taken. -/
  | submit (q : LqName)
  /-- `CXL_MEM_READ`. R445: a 64-byte line of the decoder window. -/
  | cxlMemRead (addr : Nat)
  /-- `CXL_MEM_WRITE`. R446. -/
  | cxlMemWrite (addr : Nat) (data : List Byte)
  /-- `FLIT_RECEIVE`. R457: a flit arrives, `n` its number on the link; the last flit of a chunk carries the chunk. -/
  | flitReceive (flit : FlitIn) (crcOk : Bool) (chunk : Option ChunkArgs)
  /-- `FLIT_ACK`. R458: the peer acknowledges the first `n` flits held. -/
  | flitAck (link n : Nat)
  /-- `FLIT_NAK`. R458: the peer asks again for flit `n` of those held and those after it. -/
  | flitNak (link n : Nat)
  /-- `RESEND_TIMEOUT`. R458: flit `n` of those held had no acknowledgement for 4 us. -/
  | resendTimeout (link n : Nat)
  /-- `LINK_RETRAIN`. R459. -/
  | linkRetrain (link : Nat)
  /-- `LINK_RETRAIN_COMPLETE`. R459: `within` says that this failure and the two before it fall within 10 ms. -/
  | linkRetrainComplete (link : Nat) (ok within : Bool)
  /-- `RESET`. R463, R442: the quadrants that fail the test, and the stage and instance whose image is malformed
  (R460). -/
  | reset (b : BringUp)
  /-- `POWER_AVERAGE_WINDOW`. R464: the power averaged over 1 ms. -/
  | powerAverageWindow (mw : Nat)
  /-- `JUNCTION_THROTTLE`. R465. -/
  | junctionThrottle (die : Nat)
  /-- `JUNCTION_RECOVER`. R465. -/
  | junctionRecover (die : Nat)
  /-- `DIE_LOST`. R391. -/
  | dieLost (die : Nat)
  /-- `COOLANT_FLOW_LOSS`. R465. -/
  | coolantFlowLoss 
  deriving DecidableEq, Repr

end Sys2Proof
end

