-- ==== Sys2Proof/WellFormed.lean ====
section
/-! DEFINITION. Which instruction words are legal (R166 to R178), as far as the word alone says.

`Form` says what each register field of an instruction holds; `Instr.form` is the table of the operand lists
of the manual.  The limits that the kernel's `.vregs` and `.sregs` set are tested at issue (`FieldKind.inRange`).
A word that breaks `Instr.wf` faults with `ILLEGAL_FIELD` at step 2 of R167. -/

namespace Sys2Proof

/-- What a register field holds (R168, R169, R195). -/
inductive FieldKind
  /-- Not used: `0xF0` (R166). -/
  | none
  /-- Any 32-bit source. -/
  | src32
  /-- Any 64-bit source: an even v-pair, an s-register, a position register, the immediate. -/
  | src64
  /-- As `src32`, without the immediate (R203, R228). -/
  | reg32
  /-- As `src64`, without the immediate (R203). -/
  | reg64
  /-- An s-register or an even v-pair (R210, R241). -/
  | cap
  /-- An s-register, an even v-pair or the immediate (R257; an F64 source, R270; the addend of `IMADW`, whose position
  registers are the 32-bit sources that R199 refuses). -/
  | capImm
  /-- As `cap`, or `0xF0`. -/
  | capNone
  /-- An s-register. -/
  | sreg
  /-- An s-register or the immediate. -/
  | sregImm
  /-- An s-register, the immediate or `0xF0`. -/
  | sregImmNone
  /-- An s-register or `0xF0`. -/
  | sregNone
  /-- A v-register. -/
  | vreg
  /-- An even v-pair. -/
  | vreg64
  /-- A v-register or s-register holding a value of at most 32 bits to store. -/
  | vs32
  /-- A predicate (R170). -/
  | pred
  /-- The immediate alone. -/
  | immOnly
  /-- Destination: a v-register or an s-register. -/
  | dst32
  /-- Destination: an even v-pair or an s-register. -/
  | dst64
  /-- Destination: a v-register. -/
  | dstV
  /-- Destination: an even v-pair. -/
  | dstV64
  /-- Destination: an s-register. -/
  | dstS
  /-- Destination: an s-register or `0xF0`. -/
  | dstSNone
  /-- Destination: a v-register, an s-register or `0xF0`. -/
  | dst32None
  /-- Destination: the first of `n` consecutive v-registers. -/
  | dstVs (n : Nat)
  /-- Source: the first of `n` consecutive v-registers. -/
  | srcVs (n : Nat)
  /-- Destination: an s-register `s0` to `s46`, the next one being read (R324). -/
  | dstSTag
  /-- An accumulator tile, `0x00` to `0x1F` (R346). -/
  | tile
  deriving DecidableEq, Repr

/-- How the immediate is used (R166): as the immediate source of a field that holds `0xFF`, or, in its low
`n` bits, as the instruction's own. -/
inductive ImmKind
  | source
  | own (n : Nat)
  deriving DecidableEq, Repr

/-- What an instruction's fields hold; `long` when it is one of R175. -/
structure Form where
  d : FieldKind
  a : FieldKind
  b : FieldKind
  c : FieldKind
  imm : ImmKind
  long : Bool
  deriving DecidableEq, Repr

/-- Index classes of R168. -/
def isV (i : BitVec 8) : Bool := decide (i.toNat < 0xC0)
def isS (i : BitVec 8) : Bool := decide (0xC0 ≤ i.toNat) && decide (i.toNat < 0xF0)
def isPos (i : BitVec 8) : Bool := decide (0xF0 ≤ i.toNat) && decide (i.toNat < 0xFA)
def isImm (i : BitVec 8) : Bool := i == 0xFF
def isNone (i : BitVec 8) : Bool := i == 0xF0
def isEvenV (i : BitVec 8) : Bool := isV i && decide (i.toNat % 2 = 0)

/-- The number of the s-register that an index names (R168). -/
def sNum (i : BitVec 8) : Nat := i.toNat - 0xC0

/-- May the field hold this index, by the word alone (R168 to R170)? -/
def FieldKind.ok (k : FieldKind) (i : BitVec 8) : Bool :=
  match k with
  | .none => isNone i
  | .src32 => isV i || isS i || isPos i || isImm i
  | .src64 => isEvenV i || isS i || isPos i || isImm i
  | .reg32 => isV i || isS i || isPos i
  | .reg64 => isEvenV i || isS i || isPos i
  | .cap => isEvenV i || isS i
  | .capImm => isEvenV i || isS i || isImm i
  | .capNone => isEvenV i || isS i || isNone i
  | .sreg => isS i
  | .sregImm => isS i || isImm i
  | .sregImmNone => isS i || isImm i || isNone i
  | .sregNone => isS i || isNone i
  | .vreg => isV i
  | .vreg64 => isEvenV i
  | .vs32 => isV i || isS i
  | .pred => decide (i.toNat < 16)
  | .immOnly => isImm i
  | .dst32 => isV i || isS i
  | .dst64 => isEvenV i || isS i
  | .dstV => isV i
  | .dstV64 => isEvenV i
  | .dstS => isS i
  | .dstSNone => isS i || isNone i
  | .dst32None => isV i || isS i || isNone i
  | .dstVs n => decide (i.toNat + n ≤ 0xC0)
  | .srcVs n => decide (i.toNat + n ≤ 0xC0)
  | .dstSTag => isS i && decide (i.toNat < 0xEF)
  | .tile => decide (i.toNat < 32)

/-- The v-registers that a field reaches beyond its index. -/
def FieldKind.span (k : FieldKind) : Nat :=
  match k with
  | .src64 | .reg64 | .cap | .capImm | .capNone | .vreg64 | .dst64 | .dstV64 => 2
  | .dstVs n | .srcVs n => n
  | _ => 1

/-- Is the field a register field at all, so that R168's limits apply to it? -/
def FieldKind.isReg (k : FieldKind) : Bool :=
  match k with
  | .none | .pred | .tile | .immOnly => false
  | _ => true

/-- Is the field a source? -/
def FieldKind.isSrc (k : FieldKind) : Bool :=
  match k with
  | .src32 | .src64 | .reg32 | .reg64 | .cap | .capImm | .capNone | .sreg | .sregImm | .sregImmNone | .sregNone
  | .vreg | .vreg64 | .vs32 | .immOnly | .srcVs _ => true
  | _ => false

/-- The limits of `.vregs` and `.sregs` (R168): a v-index at or above `.vregs`, or an s-index from `.sregs`
to s42, is illegal in any field used. -/
def FieldKind.inRange (k : FieldKind) (vregs sregs : Nat) (i : BitVec 8) : Bool :=
  if !k.isReg then true
  else if isV i then decide (i.toNat + k.span ≤ vregs)
  else if isS i then
    let sOk := fun n : Nat => decide (n < sregs) || decide (43 ≤ n)
    sOk (sNum i) && (decide (k ≠ .dstSTag) || sOk (sNum i + 1))
  else true

/-- Does the field read the immediate? -/
def FieldKind.readsImm (k : FieldKind) (i : BitVec 8) : Bool := k.isSrc && isImm i

/-- The word's register fields, lookahead and immediate obey the form (R166, R168 to R170, R175). -/
def Ops.fits (o : Ops) (f : Form) : Bool :=
  f.d.ok o.d && f.a.ok o.a && f.b.ok o.b && f.c.ok o.c
  && (f.long || o.la == 0)
  && (match f.imm with
      | .own n => decide (o.imm.toNat < 2 ^ n)
      | .source => f.a.readsImm o.a || f.b.readsImm o.b || f.c.readsImm o.c || o.imm == 0)

/-- The limits of R168 for every field of the form. -/
def Ops.inRange (o : Ops) (f : Form) (vregs sregs : Nat) : Bool :=
  f.d.inRange vregs sregs o.d && f.a.inRange vregs sregs o.a && f.b.inRange vregs sregs o.b
  && f.c.inRange vregs sregs o.c

/-! ## Types -/

/-- Bits of a value of the type. -/
def NumType.bits : NumType → Nat
  | .s8 | .ui8 | .e4m3 | .e5m2 => 8
  | .s16 | .ui16 | .f16 | .bf16 | .sli16 => 16
  | .s32 | .ui32 | .f32 | .sli32 => 32
  | .s64 | .ui64 | .f64 => 64

def NumType.isSigned : NumType → Bool
  | .s8 | .s16 | .s32 | .s64 => true
  | _ => false

def NumType.isInt : NumType → Bool
  | .s8 | .s16 | .s32 | .s64 | .ui8 | .ui16 | .ui32 | .ui64 => true
  | _ => false

def NumType.isSli : NumType → Bool
  | .sli32 | .sli16 => true
  | _ => false

/-- An IEEE or FP8 format of R49 with a type code. -/
def NumType.isFloat : NumType → Bool
  | .f64 | .f32 | .f16 | .bf16 | .e4m3 | .e5m2 => true
  | _ => false

def NumType.is64 (t : NumType) : Bool := t.bits == 64

/-- The fields of the standard layout that an instruction uses, beyond TYPE (R172). -/
structure StdUse where
  rnd : Bool := false
  ma : Bool := false
  mb : Bool := false
  sat : Bool := false
  w : Bool := false

/-- Every field outside the list is zero, and the type is accepted (R172, R174). -/
def StdMod.uses (m : StdMod) (tys : List NumType) (u : StdUse) : Bool :=
  tys.contains m.ty && (u.rnd || m.rnd == .rn) && (u.ma || (!m.na && !m.aa)) && (u.mb || (!m.nb && !m.ab))
  && (u.sat || !m.sat) && (u.w || !m.w)

def allInt : List NumType := [.s32, .ui32, .s64, .ui64, .s16, .ui16, .s8, .ui8]
def wideInt : List NumType := [.s32, .ui32, .s64, .ui64]
def uLogic : List NumType := [.ui32, .ui64]
def sli : List NumType := [.sli32, .sli16]

/-! ## Forms -/

/-- A source of a type: a pair, an s-register, the immediate or, but for F64, a position register at 64 bits (R169,
R196, R270). -/
def src (t : NumType) : FieldKind := if t = .f64 then .capImm else if t.is64 then .src64 else .src32
def reg (t : NumType) : FieldKind := if t.is64 then .reg64 else .reg32
def dst (t : NumType) : FieldKind := if t.is64 then .dst64 else .dst32

/-- d, a. -/
def form1 (t : NumType) (long : Bool := false) : Form :=
  { d := dst t, a := src t, b := .none, c := .none, imm := .source, long := long }
/-- d, a, b. -/
def form2 (t : NumType) (long : Bool := false) : Form :=
  { d := dst t, a := src t, b := src t, c := .none, imm := .source, long := long }
/-- d, a, b, c. -/
def form3 (t : NumType) : Form :=
  { d := dst t, a := src t, b := src t, c := src t, imm := .source, long := false }
/-- pd, a, b and, when a COMB is given, pc (R200, R274). -/
def formCmp (m : CmpMod) (long : Bool := false) : Form :=
  { d := .pred, a := src m.ty, b := src m.ty, c := if m.comb = .none then .none else .pred, imm := .source,
    long := long }
/-- No register field. -/
def formNone (n : Nat) : Form := { d := .none, a := .none, b := .none, c := .none, imm := .own n, long := false }
/-- A destination alone. -/
def formDst (d : FieldKind) : Form := { d := d, a := .none, b := .none, c := .none, imm := .source, long := false }

def formCvt (dt st : NumType) (long : Bool := false) : Form :=
  { d := dst dt, a := src st, b := .none, c := .none, imm := .source, long := long }

/-- The width of a memory value (R230). -/
def memDst (m : MemMod) : FieldKind := if m.size = 3 then .dst64 else .dst32
def memSrc (m : MemMod) : FieldKind := if m.size = 3 then .cap else .vs32
def memDstV (m : MemMod) : FieldKind := if m.size = 3 then .dstV64 else .dstV
def memSrcV (m : MemMod) : FieldKind := if m.size = 3 then .vreg64 else .vreg
/-- An operand of an atomic, at the size of SIZE. -/
def memOpr (m : MemMod) : FieldKind := if m.size = 3 then .reg64 else .reg32

def formLoad (d addr : FieldKind) (long : Bool) : Form :=
  { d := d, a := addr, b := .reg32, c := .none, imm := .own 32, long := long }
def formStore (c addr : FieldKind) : Form :=
  { d := .none, a := addr, b := .reg32, c := c, imm := .own 32, long := false }
def formAtom (m : MemMod) (addr : FieldKind) : Form :=
  { d := memDstV m, a := addr, b := .reg32, c := memOpr m, imm := .own 32, long := true }
def formCas (m : MemMod) (addr : FieldKind) : Form :=
  { d := memDst m, a := addr, b := memOpr m, c := memOpr m, imm := .own 32, long := true }

def formCopy : Form := { d := .dstS, a := .capNone, b := .cap, c := .sregImm, imm := .source, long := true }
def formMma : Form := { d := .tile, a := .reg32, b := .none, c := .none, imm := .own 32, long := false }

/-- Registers of a tile image (R351). -/
def imageRegs (t : NumType) : Nat := if t = .bf16 then 8 else 16

/-- A value of a cross-lane instruction and its destination (R257): at 32 bits the immediate only where src b is free,
at 64 bits no position register. -/
def xval (b64 immFree : Bool) : FieldKind := if b64 then .capImm else if immFree then .src32 else .reg32
def xdst (b64 : Bool) : FieldKind := if b64 then .dstV64 else .dstV

/-- The operand lists of the instructions, by their descriptions. -/
def Instr.form : Instr → Option Form
  | .nop _ | .exit _ | .yield _ | .hret _ _ => some (formNone 0)
  | .bra _ | .call _ => some (formNone 32)
  | .trap _ | .bkpt _ => some (formNone 16)
  | .brx _ _ | .callx _ _ => some { formNone 32 with a := .src32 }
  | .ret _ => some { formNone 0 with a := .cap }
  | .reconv _ => some { formNone 0 with a := .sreg }
  | .bar _ _ | .cbar _ _ => some { formNone 0 with a := .sregImmNone, imm := .source }
  | .elect _ => some (formDst .pred)
  | .iadd _ m | .isub _ m | .imul _ m | .imulh _ m | .imin _ m | .imax _ m => some (form2 m.ty)
  | .idiv _ m | .irem _ m => some (form2 m.ty true)
  | .imad _ m => some (form3 m.ty)
  | .imadw _ _ => some { d := .dst64, a := .src32, b := .src32, c := .capImm, imm := .source, long := false }
  | .iabs _ m | .ineg _ m => some (form1 m.ty)
  | .icmp _ m | .fcmp _ m => some (formCmp m)
  | .isel _ m => some { form2 m.ty with c := .pred }
  | .idp4 _ _ => some (form3 .s32)
  | .andB _ m | .orB _ m | .xorB _ m => some (form2 m.ty)
  | .notB _ m | .popc _ m | .clz _ m | .brev _ m | .mov _ m => some (form1 m.ty)
  | .lop3 _ m => some { d := dst m.ty, a := reg m.ty, b := reg m.ty, c := reg m.ty, imm := .own 8, long := false }
  | .shl _ m | .shr _ m | .sar _ m | .rot _ m | .bfe _ m => some (form2 m.ty)
  | .fshf _ m | .bfi _ m => some (form3 m.ty)
  | .prmt _ _ => some (form3 .ui32)
  | .movi _ m => some { formDst (dst m.ty) with imm := .own 32 }
  | .movs _ m =>
    some { d := .dstS, a := if m.ty.is64 then .vreg64 else .vreg, b := .sregImm, c := .none, imm := .source,
           long := false }
  | .pset _ m => some { form1 m.ty with d := .pred }
  | .plop _ => some { d := .pred, a := .pred, b := .pred, c := .pred, imm := .own 8, long := false }
  | .ptov _ => some (formDst .dst32)
  | .vtop _ => some { formNone 16 with a := .src32 }
  | .capadd _ _ | .capoff _ _ =>
    some { d := .dst64, a := .cap, b := .src64, c := .none, imm := .source, long := false }
  | .capnar _ _ | .capobj _ _ => some { d := .dst64, a := .cap, b := .none, c := .none, imm := .source, long := false }
  | .capchk _ _ => some { d := .pred, a := .cap, b := .src64, c := .none, imm := .source, long := false }
  | .fadd _ _ | .fsub _ _ | .fmul _ _ | .fmin _ _ | .fmax _ _ | .fscale _ _ => some (form2 .f32)
  | .ffma _ _ => some (form3 .f32)
  | .frnd _ _ => some (form1 .f32)
  | .fclass _ m => some { form1 m.ty with d := .dst32 }
  | .hadd2 _ _ | .hmul2 _ _ => some (form2 .f32)
  | .hfma2 _ _ => some (form3 .f32)
  | .dadd _ _ | .dmul _ _ => some (form2 .f64)
  | .dfma _ _ => some (form3 .f64)
  | .cvt _ m => some (formCvt m.dty m.sty)
  | .cvtn _ m =>
    some { d := .dst32, a := .src32, b := if m.sc then .src32 else .none,
           c := if m.expand then .none else .vreg, imm := .source, long := true }
  | .cvtw _ _ => some (form2 .f32)
  | .qscale _ _ => some (form1 .f32 true)
  | .rcp _ _ | .rsq _ _ | .sqrt _ _ | .ex2 _ _ | .lg2 _ _ | .sin _ _ | .cos _ _ => some (form1 .f32 true)
  | .fdiv _ _ => some (form2 .f32 true)
  | .flagr _ => some (formDst .dst32)
  | .flagc _ => some { formDst .none with a := .sregImm }
  | .liadd _ m | .lisub _ m | .limul _ m | .lidiv _ m => some (form2 m.ty true)
  | .licmp _ m => some (formCmp m true)
  | .lircp _ m | .liexp _ m | .liln _ m => some (form1 m.ty true)
  | .licvt _ m => some (formCvt m.dty m.sty true)
  | .lilvl _ m => some (form1 m.ty true)
  | .shfl _ m =>
    some { d := xdst m.b64, a := xval m.b64 false, b := if m.wrel then .immOnly else .src32, c := .sreg,
           imm := if m.wrel then .own 3 else .source, long := false }
  | .qxch _ m => some { d := xdst m.b64, a := xval m.b64 true, b := .none, c := .sreg, imm := .source, long := false }
  | .qbc _ m => some { d := xdst m.b64, a := xval m.b64 false, b := .immOnly, c := .sreg, imm := .own 2, long := false }
  | .vote _ m =>
    some { d := if m.mode = 3 then .dst64 else .pred, a := .pred, b := .none, c := .sreg, imm := .source,
           long := false }
  | .matchB _ m =>
    some { d := if m.mode = 0 then .dstV64 else .pred, a := xval m.b64 true, b := .none, c := .sreg,
           imm := .source, long := false }
  | .red _ m | .scan _ m =>
    some { d := xdst m.ty.is64, a := xval m.ty.is64 true, b := .none, c := .sreg, imm := .source, long := true }
  | .regroup _ m =>
    some { d := .dstVs (m.c.toNat + 1), a := .src32, b := .none, c := .none, imm := .source, long := false }
  | .lanemask _ _ => some (formDst .dst64)
  | .lds _ m => some (formLoad (memDst m) .reg32 false)
  | .sts _ m => some (formStore (memSrc m) .reg32)
  | .ldl _ m => some (formLoad (memDst m) .cap true)
  | .stl _ m => some (formStore (memSrc m) .cap)
  | .ldk _ m => some (formLoad (memDstV m) .reg32 true)
  | .stk _ m => some (formStore (memSrcV m) .reg32)
  | .atms _ m => some (formAtom m .reg32)
  | .atml _ m => some (formAtom m .cap)
  | .cass _ m => some (formCas m .reg32)
  | .casl _ m => some (formCas m .cap)
  | .fence _ _ => some (formNone 0)
  | .cpy _ _ | .cpyg _ _ | .cpyx _ _ => some formCopy
  | .redst _ m => some { formCopy with d := if m.tag then .dstSTag else .dstS, a := .cap }
  | .cueb _ m =>
    some { d := .dstS, a := if m.b then .cap else .reg32, b := .none, c := .none, imm := .own 32, long := true }
  | .cuef _ => some { formDst .none with a := .sregImm }
  | .ringi _ => some { d := .none, a := .src32, b := .src32, c := .src32, imm := .source, long := false }
  | .ringpTake _ => some { formDst .dst64 with a := .src32 }
  | .ringpFill _ | .ringr _ =>
    some { d := .none, a := .src32, b := .src64, c := .none, imm := .source, long := false }
  | .ringw _ _ => some { d := .dstV, a := .src32, b := .src64, c := .none, imm := .source, long := false }
  | .fwait _ => some { formDst .none with a := .cap }
  | .ftest _ m => some { formDst (if m.b then .pred else .dstV) with a := .cap }
  | .fcancel _ => some { formDst .pred with a := .cap }
  | .tlrdCnt _ | .tlrdName _ => some { formDst .dst64 with a := .cap }
  | .tlwait _ => some { d := .none, a := .cap, b := .src64, c := .none, imm := .source, long := false }
  | .signal _ => some { formDst .none with a := .sregImm }
  | .mma _ | .mmab _ | .mmad _ => some formMma
  | .accz _ => some (formDst .tile)
  | .acco _ _ => some { formDst .dstV with imm := .own 5 }
  | .acci _ m => some { formDst .tile with a := .srcVs (imageRegs m.ty) }
  | .accg _ m =>
    some { d := .dstVs (if m.w then 2 * imageRegs m.ty else imageRegs m.ty), a := .sreg, b := .none, c := .none,
           imm := .own 5, long := false }
  | .cross _ m | .crossb _ m =>
    some { d := .dstS, a := if m.loft then .cap else .reg32, b := .sreg, c := .none, imm := .own 0, long := true }
  | .xbank _ _ => some { d := .dstS, a := .cap, b := .sregImm, c := .none, imm := .source, long := true }
  | .xstat _ m =>
    some { formDst .dst64 with
           a := if m.sel = 0 ∨ m.sel = 4 then .none else .sregImm }
  | .emit _ => some { d := .dstSNone, a := .src32, b := .src32, c := .capNone, imm := .source, long := false }
  | .rand _ => some (formDst .dstV)
  | .mode _ => some { d := .dst32None, a := .sregNone, b := .none, c := .none, imm := .own 4, long := false }
  | .cover _ _ | .clock _ => some (formDst .dst64)
  | _ => none

/-! ## Modifiers -/

/-- The source modifiers and rounding of F32 and F64 arithmetic (R272, R277). -/
def useF : StdUse := { rnd := true, ma := true, mb := true, sat := true }
def useM : StdUse := { ma := true, mb := true }
def useI : StdUse := { ma := true, mb := true, sat := true }

/-- SCOPE and KIND of a load or store (R228): scope 0 when plain. -/
def MemMod.plainScope (m : MemMod) (k : OrdKind) : Bool :=
  (m.kind == .plain && m.scope == .lane) || m.kind == k

/-- The modifiers an instruction accepts, and the joint conditions of modifier, fields and immediate. -/
def Instr.modOk : Instr → Bool
  | .brx o m | .callx o m => decide (m.n ≠ 0) && o.imm.extractLsb' 0 6 == 0
  | .cbar _ m => decide (m.i.toNat ≤ 3)
  | .iadd _ m | .isub _ m | .imul _ m | .imad _ m => m.uses allInt useI
  | .imulh _ m => m.uses wideInt useM
  | .imadw _ m => m.uses [.s32, .ui32] { sat := true }
  | .idiv _ m => m.uses wideInt { sat := true }
  | .irem _ m => m.uses wideInt {}
  | .iabs _ m => m.uses [.s32, .s64, .s16, .s8] { sat := true }
  | .ineg _ m => m.uses allInt { sat := true }
  | .imin _ m | .imax _ m => m.uses allInt useM
  | .icmp _ m => m.ty.isInt && m.cmp != .un && m.cmp != .ord
  | .isel _ m => m.uses wideInt {}
  | .idp4 _ m => m.uses [.s8, .ui8] { sat := true }
  | .andB _ m | .orB _ m | .xorB _ m | .notB _ m | .lop3 _ m | .shl _ m | .shr _ m | .popc _ m | .clz _ m
  | .brev _ m | .bfi _ m => m.uses uLogic {}
  | .sar _ m => m.uses [.s32, .s64] {}
  | .rot _ m | .fshf _ m => m.uses uLogic { w := true }
  | .bfe _ m => m.uses wideInt {}
  | .prmt _ m => m.uses [.ui32] {}
  | .mov _ m => m.uses wideInt {}
  | .movi _ m => m.uses wideInt { w := true } && (!m.w || m.ty.is64)
  | .movs _ m | .pset _ m => m.uses uLogic {}
  | .capadd _ m | .capoff _ m | .capobj _ m => m.mask == 0
  | .fadd _ m | .fsub _ m | .fmul _ m | .ffma _ m => m.uses [.f32] useF
  | .fmin _ m | .fmax _ m => m.uses [.f32] useM
  | .fcmp _ m => m.ty == .f32 || m.ty == .f64
  | .frnd _ m => m.uses [.f32] { rnd := true, ma := true }
  | .fscale _ m => m.uses [.f32] { rnd := true, ma := true, sat := true }
  | .fclass _ m => m.uses [.f32, .f64, .f16, .bf16] { w := true } && (!m.w || m.ty.bits == 16)
  | .hadd2 _ m | .hmul2 _ m | .hfma2 _ m => m.uses [.f16, .bf16] useF
  | .dadd _ m | .dmul _ m | .dfma _ m => m.uses [.f64] useF
  | .cvt _ m => !m.dty.isSli && !m.sty.isSli && (!m.w || m.sty.bits == 16)
  | .cvtw _ m =>
    [NumType.f16, .bf16, .s16, .ui16].contains m.dty && [NumType.f32, .s32, .ui32].contains m.sty && !m.w
  | .cvtn _ m => m.fmt == .e2m1 || decide (m.sel.toNat < 4)
  | .rcp _ m | .rsq _ m | .sqrt _ m | .ex2 _ m | .lg2 _ m | .sin _ m | .cos _ m =>
    m.uses [.f32] { ma := true, sat := true }
  | .fdiv _ m => m.uses [.f32] useI
  | .liadd _ m | .lisub _ m | .limul _ m | .lidiv _ m => m.uses sli useM
  | .licmp _ m => m.ty.isSli
  | .lircp _ m | .liexp _ m | .liln _ m | .lilvl _ m => m.uses sli { ma := true }
  | .licvt _ m =>
    m.rnd == .rn && m.dty != m.sty && (!m.w || m.sty.bits == 16)
    && ((m.dty.isSli && (m.sty.isSli || [NumType.f32, .f64, .f16, .bf16].contains m.sty) && !m.sat)
        || (m.sty.isSli && [NumType.f32, .f64, .f16, .bf16].contains m.dty))
  | .shfl _ m => !(m.wrel && m.mode == 0)
  | .qxch _ m => m.mode != 0 && !m.wrel
  | .qbc _ m => m.mode == 0 && !m.wrel
  | .vote _ m => !m.b64
  | .matchB _ m => !m.np && decide (m.mode.toNat < 2)
  | .red _ m =>
    !m.excl && (wideInt.contains m.ty || (m.ty == .f32 && [RedOp.add, .min, .max].contains m.op))
  | .scan _ m => wideInt.contains m.ty || (m.ty == .f32 && [RedOp.add, .min, .max].contains m.op)
  | .lanemask _ m => m.sel != 7
  | .lds _ m | .ldl _ m => m.op == .add && m.plainScope .acquire && !(m.size == 3 && m.sx)
  | .sts _ m | .stl _ m => m.op == .add && m.plainScope .release && !m.sx
  | .ldk _ m | .stk _ m =>
    m.op == .add && m.kind == .plain && m.scope == .lane && !m.sx && decide (2 ≤ m.size.toNat)
  | .atms _ m | .atml _ m => decide (2 ≤ m.size.toNat) && !m.sx
  | .cass _ m | .casl _ m => decide (2 ≤ m.size.toNat) && !m.sx && m.op == .add
  | .fence _ m => m.kind != .plain
  | .cpy o _ | .cpyg o _ | .cpyx o _ => !isImm o.c || decide (o.imm.toNat < 256)
  | .redst o m =>
    [NumType.s32, .ui32, .s64, .ui64, .f32, .bf16].contains m.ty && [RedOp.add, .min, .max].contains m.op
    && (!isImm o.c || decide (o.imm.toNat < 256))
  | .signal o => !isImm o.a || decide (o.imm.toNat < 2 ^ 16)
  | .acco _ m => m.uses [.f32, .bf16] { sat := true }
  | .acci _ m => m.uses [.f32, .bf16] {}
  | .accg _ m => m.uses [.f32, .bf16] { sat := true, w := true }
  | .crossb _ m => !m.keepy
  | .emit o => isImm o.b || o.imm == 0
  | .xbank o _ => !isImm o.b || decide (o.imm.toNat < 2 ^ 11)
  | .xstat _ m => decide (m.sel.toNat < 7) && (!m.clr || decide (m.sel.toNat < 4))
  | _ => true

/-! ## Events -/

/-- The numbers an event carries lie in their ranges (R2, R371, R447, R457, R460); an address at 2^40 or above is in the
raw alias (R118). -/
def Instr.eventOk : Instr → Bool
  | .matrixEntryExecute die core => decide (die < 8) && decide (core < 72)
  | .callboardDispatch die cores => decide (die < 8) && cores.all (fun c => decide (c < 72))
  | .restore _ cores => cores.all (fun c => decide (c < 72))
  | .doorbellWrite d _ _ => decide (d < 1024)
  | .submit q => decide (q.q < 256)
  | .cxlMemRead addr => decide (addr < 2 ^ 41) && decide (addr % 64 = 0)
  | .cxlMemWrite addr data => decide (addr < 2 ^ 41) && decide (addr % 64 = 0) && decide (data.length = 64)
  | .flitReceive f _ _ => decide (f.link < 16)
  | .flitAck l _ | .flitNak l _ | .resendTimeout l _ | .linkRetrain l
  | .linkRetrainComplete l _ _ => decide (l < 16)
  | .lineFetchComplete _ fl | .lineRefetchComplete _ fl => fl.all (fun b => decide (b < 512))
  | .reset b =>
    b.failed.all (fun f => decide (f.die < 8) && decide (f.core < 72) && decide (f.quadrant < 4))
    && b.malformed.all (fun m => decide (1 ≤ m.1) && decide (m.1 ≤ 6)
      && decide (m.2 < (if m.1 = 2 then 8 else if m.1 = 3 then 16 else 1)))
  | .junctionThrottle d | .junctionRecover d | .dieLost d => decide (d < 8)
  | .unassignedOpcode _ => true
  | _ => true

/-- Guard, register fields and immediate of an instruction that issues to lanes. -/
def Instr.ops : Instr → Option Ops
  | .nop o | .bra o | .brx o _ | .call o | .callx o _ | .ret o | .exit o | .reconv o | .yield o | .bar o _
  | .cbar o _ | .trap o | .bkpt o | .elect o | .hret o _ | .iadd o _ | .isub o _ | .imul o _ | .imulh o _
  | .imad o _ | .imadw o _ | .idiv o _ | .irem o _ | .iabs o _ | .ineg o _ | .imin o _ | .imax o _ | .icmp o _
  | .isel o _ | .idp4 o _ | .andB o _ | .orB o _ | .xorB o _ | .notB o _ | .lop3 o _ | .shl o _ | .shr o _
  | .sar o _ | .rot o _ | .fshf o _ | .popc o _ | .clz o _ | .brev o _ | .bfe o _ | .bfi o _ | .prmt o _
  | .mov o _ | .movi o _ | .movs o _ | .pset o _ | .plop o | .ptov o | .vtop o | .capadd o _ | .capnar o _
  | .capoff o _ | .capobj o _ | .capchk o _ | .fadd o _ | .fsub o _ | .fmul o _ | .ffma o _ | .fmin o _
  | .fmax o _ | .fcmp o _ | .frnd o _ | .fclass o _ | .fscale o _ | .hadd2 o _ | .hmul2 o _ | .hfma2 o _
  | .dadd o _ | .dmul o _ | .dfma o _ | .cvt o _ | .cvtn o _ | .cvtw o _ | .qscale o _ | .rcp o _ | .rsq o _
  | .sqrt o _ | .ex2 o _ | .lg2 o _ | .sin o _ | .cos o _ | .fdiv o _ | .flagr o | .flagc o | .liadd o _
  | .lisub o _ | .limul o _ | .lidiv o _ | .licmp o _ | .lircp o _ | .liexp o _ | .liln o _ | .licvt o _
  | .lilvl o _ | .shfl o _ | .qxch o _ | .qbc o _ | .vote o _ | .matchB o _ | .red o _ | .scan o _
  | .regroup o _ | .lanemask o _ | .lds o _ | .sts o _ | .ldl o _ | .stl o _ | .ldk o _ | .stk o _ | .atms o _
  | .atml o _ | .cass o _ | .casl o _ | .fence o _ | .cpy o _ | .cpyg o _ | .cpyx o _ | .redst o _ | .cueb o _
  | .cuef o | .ringi o | .ringpTake o | .ringpFill o | .ringw o _ | .ringr o | .fwait o | .ftest o _
  | .fcancel o | .tlrdCnt o | .tlrdName o | .tlwait o | .signal o | .mma o | .mmab o | .mmad o | .accz o
  | .acco o _ | .acci o _ | .accg o _ | .cross o _ | .crossb o _ | .xbank o _ | .xstat o _ | .emit o | .rand o
  | .mode o | .cover o _ | .clock o => some o
  | _ => none

/-- The opcodes of R184. -/
def assigned (op : BitVec 10) : Bool :=
  let n := op.toNat
  [(0x000, 0x00E), (0x040, 0x04E), (0x050, 0x05F), (0x060, 0x066), (0x070, 0x074), (0x100, 0x109),
   (0x110, 0x112), (0x118, 0x11A), (0x120, 0x123), (0x140, 0x147), (0x160, 0x161), (0x180, 0x184),
   (0x186, 0x18A), (0x200, 0x208), (0x280, 0x285), (0x288, 0x28C), (0x300, 0x30F), (0x380, 0x386),
   (0x3C0, 0x3C3), (0x3E0, 0x3E0), (0x3E2, 0x3E5)].any fun r => decide (r.1 ≤ n) && decide (n ≤ r.2)

/-- A well-formed instruction or event.
Marks: DEDUCED, unsafe (assumption 73). -/
def Instr.wf (i : Instr) : Bool :=
  match i.form, i.ops, i with
  | some f, some o, i => o.fits f && i.modOk
  | _, _, .unassignedOpcode op => !assigned op
  | _, _, i => i.eventOk

end Sys2Proof
end

