-- ==== Sys2Proof/Decode.lean ====
section
/-! DEFINITION. The decoder and the encoder of the 96-bit word (R155, R165 to R185).

`decodeWord` takes the steps of R167: an opcode that is not assigned is the instruction `unassignedOpcode`,
whose meaning is its fault; a word that the fields refuse is the error `illegalField`, which the issue of the
word turns into the fault for every lane of its run. -/

namespace Sys2Proof

/-- Why bytes are no instruction. -/
inductive DecodeError
  /-- Fewer than twelve bytes. -/
  | short
  /-- Step 2 of R167. -/
  | illegalField
  deriving DecidableEq, Repr

/-! ## Codes -/

def NumType.code : NumType → BitVec 4
  | .s32 => 0 | .ui32 => 1 | .s64 => 2 | .ui64 => 3 | .f32 => 4 | .f16 => 5 | .bf16 => 6 | .f64 => 7
  | .sli32 => 8 | .sli16 => 9 | .s16 => 10 | .ui16 => 11 | .s8 => 12 | .ui8 => 13 | .e4m3 => 14 | .e5m2 => 15

def NumType.ofCode (c : BitVec 4) : NumType :=
  match c.toNat with
  | 0 => .s32 | 1 => .ui32 | 2 => .s64 | 3 => .ui64 | 4 => .f32 | 5 => .f16 | 6 => .bf16 | 7 => .f64
  | 8 => .sli32 | 9 => .sli16 | 10 => .s16 | 11 => .ui16 | 12 => .s8 | 13 => .ui8 | 14 => .e4m3 | _ => .e5m2

def Rnd.code : Rnd → BitVec 3
  | .rn => 0 | .rz => 1 | .ru => 2 | .rd => 3 | .rna => 4

def Rnd.ofCode (c : BitVec 3) : Option Rnd :=
  match c.toNat with
  | 0 => some .rn | 1 => some .rz | 2 => some .ru | 3 => some .rd | 4 => some .rna | _ => none

def Cmp.code : Cmp → BitVec 3
  | .eq => 0 | .ne => 1 | .lt => 2 | .le => 3 | .gt => 4 | .ge => 5 | .un => 6 | .ord => 7

def Cmp.ofCode (c : BitVec 3) : Cmp :=
  match c.toNat with
  | 0 => .eq | 1 => .ne | 2 => .lt | 3 => .le | 4 => .gt | 5 => .ge | 6 => .un | _ => .ord

def Comb.code : Comb → BitVec 2
  | .none => 0 | .and => 1 | .or => 2 | .xor => 3

def Comb.ofCode (c : BitVec 2) : Comb :=
  match c.toNat with
  | 0 => .none | 1 => .and | 2 => .or | _ => .xor

def Scope.code : Scope → BitVec 3
  | .lane => 0 | .warp => 1 | .group => 2 | .cluster => 3 | .die => 4 | .device => 5 | .system => 6

def Scope.ofCode (c : BitVec 3) : Option Scope :=
  match c.toNat with
  | 0 => some .lane | 1 => some .warp | 2 => some .group | 3 => some .cluster | 4 => some .die
  | 5 => some .device | 6 => some .system | _ => none

def OrdKind.code : OrdKind → BitVec 2
  | .plain => 0 | .acquire => 1 | .release => 2 | .acqRel => 3

def OrdKind.ofCode (c : BitVec 2) : OrdKind :=
  match c.toNat with
  | 0 => .plain | 1 => .acquire | 2 => .release | _ => .acqRel

def AtomOp.code : AtomOp → BitVec 4
  | .add => 0 | .mins => 1 | .maxs => 2 | .minz => 3 | .maxz => 4 | .and => 5 | .or => 6 | .xor => 7
  | .exch => 8 | .fadd => 9 | .inc => 10 | .dec => 11

def AtomOp.ofCode (c : BitVec 4) : Option AtomOp :=
  match c.toNat with
  | 0 => some .add | 1 => some .mins | 2 => some .maxs | 3 => some .minz | 4 => some .maxz | 5 => some .and
  | 6 => some .or | 7 => some .xor | 8 => some .exch | 9 => some .fadd | 10 => some .inc | 11 => some .dec
  | _ => none

def RedOp.code : RedOp → BitVec 3
  | .add => 0 | .min => 1 | .max => 2 | .and => 3 | .or => 4 | .xor => 5

def RedOp.ofCode (c : BitVec 3) : Option RedOp :=
  match c.toNat with
  | 0 => some .add | 1 => some .min | 2 => some .max | 3 => some .and | 4 => some .or | 5 => some .xor | _ => none

def NarrowFmt.code : NarrowFmt → BitVec 3
  | .e4m3 => 0 | .e5m2 => 1 | .e2m1 => 2 | .int8 => 3

def NarrowFmt.ofCode (c : BitVec 3) : Option NarrowFmt :=
  match c.toNat with
  | 0 => some .e4m3 | 1 => some .e5m2 | 2 => some .e2m1 | 3 => some .int8 | _ => none

/-! ## Modifier layouts.  Bit `k` here is bit `32 + k` of the word. -/

/-- One bit as a number. -/
def bit (b : Bool) : BitVec 1 := BitVec.ofBool b

/-- The modifier of an instruction that uses none (R166). -/
def noMod (m : BitVec 13) (i : Instr) : Option Instr := if m == 0 then some i else none

/-- The modifier of the instructions that only bit 32 tells apart (R241, R246). -/
def bareMod (m : BitVec 13) (f : Bool → Instr) : Option Instr :=
  if m.extractLsb' 1 12 == 0 then some (f (m.getLsbD 0)) else none

def StdMod.decode (m : BitVec 13) : Option StdMod :=
  (Rnd.ofCode (m.extractLsb' 6 3)).map fun r =>
    { ty := NumType.ofCode (m.extractLsb' 9 4), rnd := r, na := m.getLsbD 5, nb := m.getLsbD 4,
      aa := m.getLsbD 3, ab := m.getLsbD 2, sat := m.getLsbD 1, w := m.getLsbD 0 }
def StdMod.encode (m : StdMod) : BitVec 13 :=
  m.ty.code ++ m.rnd.code ++ bit m.na ++ bit m.nb ++ bit m.aa ++ bit m.ab ++ bit m.sat ++ bit m.w

def CmpMod.decode (m : BitVec 13) : Option CmpMod :=
  some { ty := NumType.ofCode (m.extractLsb' 9 4), cmp := Cmp.ofCode (m.extractLsb' 6 3), na := m.getLsbD 5,
         nb := m.getLsbD 4, aa := m.getLsbD 3, ab := m.getLsbD 2, comb := Comb.ofCode (m.extractLsb' 0 2) }
def CmpMod.encode (m : CmpMod) : BitVec 13 :=
  m.ty.code ++ m.cmp.code ++ bit m.na ++ bit m.nb ++ bit m.aa ++ bit m.ab ++ m.comb.code

def CapMod.decode (m : BitVec 13) : Option CapMod :=
  if m.extractLsb' 4 9 == 0 then some { mask := m.extractLsb' 0 4 } else none
def CapMod.encode (m : CapMod) : BitVec 13 := (0 : BitVec 9) ++ m.mask

def TableMod.decode (m : BitVec 13) : Option TableMod :=
  if m.extractLsb' 8 5 == 0 then some { n := m.extractLsb' 0 8 } else none
def TableMod.encode (m : TableMod) : BitVec 13 := (0 : BitVec 5) ++ m.n

def BarMod.decode (m : BitVec 13) : Option BarMod :=
  if m.extractLsb' 4 9 == 0 then some { i := m.extractLsb' 0 4 } else none
def BarMod.encode (m : BarMod) : BitVec 13 := (0 : BitVec 9) ++ m.i

def FlagMod.decode (m : BitVec 13) : Option FlagMod :=
  if m.extractLsb' 1 12 == 0 then some { b := m.getLsbD 0 } else none
def FlagMod.encode (m : FlagMod) : BitVec 13 := (0 : BitVec 12) ++ bit m.b

def MemMod.decode (m : BitVec 13) : Option MemMod :=
  match Scope.ofCode (m.extractLsb' 10 3), AtomOp.ofCode (m.extractLsb' 1 4), m.getLsbD 0 with
  | some s, some op, false =>
    some { scope := s, kind := OrdKind.ofCode (m.extractLsb' 8 2), size := m.extractLsb' 6 2,
           sx := m.getLsbD 5, op := op }
  | _, _, _ => none
def MemMod.encode (m : MemMod) : BitVec 13 :=
  m.scope.code ++ m.kind.code ++ m.size ++ bit m.sx ++ m.op.code ++ (0 : BitVec 1)

def FenceMod.decode (m : BitVec 13) : Option FenceMod :=
  match Scope.ofCode (m.extractLsb' 10 3) with
  | some s => if m.extractLsb' 0 8 == 0 then some { scope := s, kind := OrdKind.ofCode (m.extractLsb' 8 2) } else none
  | none => none
def FenceMod.encode (m : FenceMod) : BitVec 13 := m.scope.code ++ m.kind.code ++ (0 : BitVec 8)

def RingwMod.decode (m : BitVec 13) : Option RingwMod :=
  if m.extractLsb' 4 9 == 0 then some { k := m.extractLsb' 0 4 } else none
def RingwMod.encode (m : RingwMod) : BitVec 13 := (0 : BitVec 9) ++ m.k

def ShflMod.decode (m : BitVec 13) : Option ShflMod :=
  if m.extractLsb' 0 9 == 0 then
    some { mode := m.extractLsb' 11 2, wrel := m.getLsbD 10, b64 := m.getLsbD 9 }
  else none
def ShflMod.encode (m : ShflMod) : BitVec 13 := m.mode ++ bit m.wrel ++ bit m.b64 ++ (0 : BitVec 9)

def VoteMod.decode (m : BitVec 13) : Option VoteMod :=
  if m.extractLsb' 0 9 == 0 then
    some { mode := m.extractLsb' 11 2, np := m.getLsbD 10, b64 := m.getLsbD 9 }
  else none
def VoteMod.encode (m : VoteMod) : BitVec 13 := m.mode ++ bit m.np ++ bit m.b64 ++ (0 : BitVec 9)

def RedMod.decode (m : BitVec 13) : Option RedMod :=
  match RedOp.ofCode (m.extractLsb' 6 3) with
  | some op =>
    if m.extractLsb' 0 5 == 0 then
      some { ty := NumType.ofCode (m.extractLsb' 9 4), op := op, excl := m.getLsbD 5 }
    else none
  | none => none
def RedMod.encode (m : RedMod) : BitVec 13 := m.ty.code ++ m.op.code ++ bit m.excl ++ (0 : BitVec 5)

def RegroupMod.decode (m : BitVec 13) : Option RegroupMod :=
  if m.extractLsb' 3 10 == 0 then some { c := m.extractLsb' 0 3 } else none
def RegroupMod.encode (m : RegroupMod) : BitVec 13 := (0 : BitVec 10) ++ m.c

def LaneMaskMod.decode (m : BitVec 13) : Option LaneMaskMod :=
  if m.extractLsb' 0 10 == 0 then some { sel := m.extractLsb' 10 3 } else none
def LaneMaskMod.encode (m : LaneMaskMod) : BitVec 13 := m.sel ++ (0 : BitVec 10)

def CvtMod.decode (m : BitVec 13) : Option CvtMod :=
  (Rnd.ofCode (m.extractLsb' 6 3)).map fun r =>
    { dty := NumType.ofCode (m.extractLsb' 9 4), rnd := r, sty := NumType.ofCode (m.extractLsb' 2 4),
      sat := m.getLsbD 1, w := m.getLsbD 0 }
def CvtMod.encode (m : CvtMod) : BitVec 13 := m.dty.code ++ m.rnd.code ++ m.sty.code ++ bit m.sat ++ bit m.w

def CvtnMod.decode (m : BitVec 13) : Option CvtnMod :=
  match NarrowFmt.ofCode (m.extractLsb' 10 3), Rnd.ofCode (m.extractLsb' 6 3) with
  | some f, some r =>
    if m.extractLsb' 0 2 == 0 then
      some { fmt := f, expand := m.getLsbD 9, rnd := r, sel := m.extractLsb' 3 3, sc := m.getLsbD 2 }
    else none
  | _, _ => none
def CvtnMod.encode (m : CvtnMod) : BitVec 13 :=
  m.fmt.code ++ bit m.expand ++ m.rnd.code ++ m.sel ++ bit m.sc ++ (0 : BitVec 2)

def QscaleMod.decode (m : BitVec 13) : Option QscaleMod :=
  match NarrowFmt.ofCode (m.extractLsb' 10 3) with
  | some f => if m.extractLsb' 0 10 == 0 then some { fmt := f } else none
  | none => none
def QscaleMod.encode (m : QscaleMod) : BitVec 13 := m.fmt.code ++ (0 : BitVec 10)

def CopyMod.decode (m : BitVec 13) : Option CopyMod :=
  if m.extractLsb' 0 5 == 0 then
    some { ctx := m.extractLsb' 7 6, recGen := m.getLsbD 6, sameGen := m.getLsbD 5 }
  else none
def CopyMod.encode (m : CopyMod) : BitVec 13 := m.ctx ++ bit m.recGen ++ bit m.sameGen ++ (0 : BitVec 5)

def RedstMod.decode (m : BitVec 13) : Option RedstMod :=
  (RedOp.ofCode ((0 : BitVec 1) ++ m.extractLsb' 0 2)).map fun op =>
    { ctx := m.extractLsb' 7 6, tag := m.getLsbD 6, ty := NumType.ofCode (m.extractLsb' 2 4), op := op }
def RedstMod.encode (m : RedstMod) : BitVec 13 :=
  m.ctx ++ bit m.tag ++ m.ty.code ++ m.op.code.extractLsb' 0 2

def CrossMod.decode (m : BitVec 13) : Option CrossMod :=
  if m.extractLsb' 0 5 == 0 then
    some { ctx := m.extractLsb' 7 6, loft := m.getLsbD 6, keepy := m.getLsbD 5 }
  else none
def CrossMod.encode (m : CrossMod) : BitVec 13 := m.ctx ++ bit m.loft ++ bit m.keepy ++ (0 : BitVec 5)

def XbankMod.decode (m : BitVec 13) : Option XbankMod :=
  if m.extractLsb' 0 7 == 0 then some { ctx := m.extractLsb' 7 6 } else none
def XbankMod.encode (m : XbankMod) : BitVec 13 := m.ctx ++ (0 : BitVec 7)

def XstatMod.decode (m : BitVec 13) : Option XstatMod :=
  if m.extractLsb' 0 8 == 0 then some { sel := m.extractLsb' 9 4, clr := m.getLsbD 8 } else none
def XstatMod.encode (m : XstatMod) : BitVec 13 := m.sel ++ bit m.clr ++ (0 : BitVec 8)

def CoverMod.decode (m : BitVec 13) : Option CoverMod :=
  if m.extractLsb' 2 11 == 0 then some { all := m.getLsbD 1, clr := m.getLsbD 0 } else none
def CoverMod.encode (m : CoverMod) : BitVec 13 := (0 : BitVec 11) ++ bit m.all ++ bit m.clr

/-! ## The word -/

/-- Guard, lookahead, register fields and immediate of a word (R165). -/
def wordOps (w : BitVec 96) : Ops :=
  { g := { neg := w.getLsbD 81, p := w.extractLsb' 77 4 }, la := w.extractLsb' 82 4, d := w.extractLsb' 69 8,
    a := w.extractLsb' 61 8, b := w.extractLsb' 53 8, c := w.extractLsb' 45 8, imm := w.extractLsb' 0 32 }

/-- The opcode map (R184); `none` where the modifier layout refuses the bits. -/
def buildAssigned (op : BitVec 10) (o : Ops) (m : BitVec 13) : Option Instr :=
  match op.toNat with
  | 0x000 => noMod m (.nop o)
  | 0x001 => noMod m (.bra o)
  | 0x002 => (TableMod.decode m).map (.brx o)
  | 0x003 => noMod m (.call o)
  | 0x004 => (TableMod.decode m).map (.callx o)
  | 0x005 => noMod m (.ret o)
  | 0x006 => noMod m (.exit o)
  | 0x007 => noMod m (.reconv o)
  | 0x008 => noMod m (.yield o)
  | 0x009 => (BarMod.decode m).map (.bar o)
  | 0x00A => (BarMod.decode m).map (.cbar o)
  | 0x00B => noMod m (.trap o)
  | 0x00C => noMod m (.bkpt o)
  | 0x00D => noMod m (.elect o)
  | 0x00E => (FlagMod.decode m).map (.hret o)
  | 0x040 => (StdMod.decode m).map (.iadd o)
  | 0x041 => (StdMod.decode m).map (.isub o)
  | 0x042 => (StdMod.decode m).map (.imul o)
  | 0x043 => (StdMod.decode m).map (.imulh o)
  | 0x044 => (StdMod.decode m).map (.imad o)
  | 0x045 => (StdMod.decode m).map (.imadw o)
  | 0x046 => (StdMod.decode m).map (.idiv o)
  | 0x047 => (StdMod.decode m).map (.irem o)
  | 0x048 => (StdMod.decode m).map (.iabs o)
  | 0x049 => (StdMod.decode m).map (.ineg o)
  | 0x04A => (StdMod.decode m).map (.imin o)
  | 0x04B => (StdMod.decode m).map (.imax o)
  | 0x04C => (CmpMod.decode m).map (.icmp o)
  | 0x04D => (StdMod.decode m).map (.isel o)
  | 0x04E => (StdMod.decode m).map (.idp4 o)
  | 0x050 => (StdMod.decode m).map (.andB o)
  | 0x051 => (StdMod.decode m).map (.orB o)
  | 0x052 => (StdMod.decode m).map (.xorB o)
  | 0x053 => (StdMod.decode m).map (.notB o)
  | 0x054 => (StdMod.decode m).map (.lop3 o)
  | 0x055 => (StdMod.decode m).map (.shl o)
  | 0x056 => (StdMod.decode m).map (.shr o)
  | 0x057 => (StdMod.decode m).map (.sar o)
  | 0x058 => (StdMod.decode m).map (.rot o)
  | 0x059 => (StdMod.decode m).map (.fshf o)
  | 0x05A => (StdMod.decode m).map (.popc o)
  | 0x05B => (StdMod.decode m).map (.clz o)
  | 0x05C => (StdMod.decode m).map (.brev o)
  | 0x05D => (StdMod.decode m).map (.bfe o)
  | 0x05E => (StdMod.decode m).map (.bfi o)
  | 0x05F => (StdMod.decode m).map (.prmt o)
  | 0x060 => (StdMod.decode m).map (.mov o)
  | 0x061 => (StdMod.decode m).map (.movi o)
  | 0x062 => (StdMod.decode m).map (.movs o)
  | 0x063 => (StdMod.decode m).map (.pset o)
  | 0x064 => noMod m (.plop o)
  | 0x065 => noMod m (.ptov o)
  | 0x066 => noMod m (.vtop o)
  | 0x070 => (CapMod.decode m).map (.capadd o)
  | 0x071 => (CapMod.decode m).map (.capnar o)
  | 0x072 => (CapMod.decode m).map (.capoff o)
  | 0x073 => (CapMod.decode m).map (.capobj o)
  | 0x074 => (CapMod.decode m).map (.capchk o)
  | 0x100 => (StdMod.decode m).map (.fadd o)
  | 0x101 => (StdMod.decode m).map (.fsub o)
  | 0x102 => (StdMod.decode m).map (.fmul o)
  | 0x103 => (StdMod.decode m).map (.ffma o)
  | 0x104 => (StdMod.decode m).map (.fmin o)
  | 0x105 => (StdMod.decode m).map (.fmax o)
  | 0x106 => (CmpMod.decode m).map (.fcmp o)
  | 0x107 => (StdMod.decode m).map (.frnd o)
  | 0x108 => (StdMod.decode m).map (.fclass o)
  | 0x109 => (StdMod.decode m).map (.fscale o)
  | 0x110 => (StdMod.decode m).map (.hadd2 o)
  | 0x111 => (StdMod.decode m).map (.hmul2 o)
  | 0x112 => (StdMod.decode m).map (.hfma2 o)
  | 0x118 => (StdMod.decode m).map (.dadd o)
  | 0x119 => (StdMod.decode m).map (.dmul o)
  | 0x11A => (StdMod.decode m).map (.dfma o)
  | 0x120 => (CvtMod.decode m).map (.cvt o)
  | 0x121 => (CvtnMod.decode m).map (.cvtn o)
  | 0x122 => (CvtMod.decode m).map (.cvtw o)
  | 0x123 => (QscaleMod.decode m).map (.qscale o)
  | 0x140 => (StdMod.decode m).map (.rcp o)
  | 0x141 => (StdMod.decode m).map (.rsq o)
  | 0x142 => (StdMod.decode m).map (.sqrt o)
  | 0x143 => (StdMod.decode m).map (.ex2 o)
  | 0x144 => (StdMod.decode m).map (.lg2 o)
  | 0x145 => (StdMod.decode m).map (.sin o)
  | 0x146 => (StdMod.decode m).map (.cos o)
  | 0x147 => (StdMod.decode m).map (.fdiv o)
  | 0x160 => noMod m (.flagr o)
  | 0x161 => noMod m (.flagc o)
  | 0x180 => (StdMod.decode m).map (.liadd o)
  | 0x181 => (StdMod.decode m).map (.lisub o)
  | 0x182 => (StdMod.decode m).map (.limul o)
  | 0x183 => (StdMod.decode m).map (.lidiv o)
  | 0x184 => (CmpMod.decode m).map (.licmp o)
  | 0x186 => (StdMod.decode m).map (.lircp o)
  | 0x187 => (StdMod.decode m).map (.liexp o)
  | 0x188 => (StdMod.decode m).map (.liln o)
  | 0x189 => (CvtMod.decode m).map (.licvt o)
  | 0x18A => (StdMod.decode m).map (.lilvl o)
  | 0x200 => (ShflMod.decode m).map (.shfl o)
  | 0x201 => (ShflMod.decode m).map (.qxch o)
  | 0x202 => (ShflMod.decode m).map (.qbc o)
  | 0x203 => (VoteMod.decode m).map (.vote o)
  | 0x204 => (VoteMod.decode m).map (.matchB o)
  | 0x205 => (RedMod.decode m).map (.red o)
  | 0x206 => (RedMod.decode m).map (.scan o)
  | 0x207 => (RegroupMod.decode m).map (.regroup o)
  | 0x208 => (LaneMaskMod.decode m).map (.lanemask o)
  | 0x280 => (MemMod.decode m).map (.lds o)
  | 0x281 => (MemMod.decode m).map (.sts o)
  | 0x282 => (MemMod.decode m).map (.ldl o)
  | 0x283 => (MemMod.decode m).map (.stl o)
  | 0x284 => (MemMod.decode m).map (.ldk o)
  | 0x285 => (MemMod.decode m).map (.stk o)
  | 0x288 => (MemMod.decode m).map (.atms o)
  | 0x289 => (MemMod.decode m).map (.atml o)
  | 0x28A => (MemMod.decode m).map (.cass o)
  | 0x28B => (MemMod.decode m).map (.casl o)
  | 0x28C => (FenceMod.decode m).map (.fence o)
  | 0x300 => (CopyMod.decode m).map (.cpy o)
  | 0x301 => (CopyMod.decode m).map (.cpyg o)
  | 0x302 => (CopyMod.decode m).map (.cpyx o)
  | 0x303 => (FlagMod.decode m).map (.cueb o)
  | 0x304 => noMod m (.cuef o)
  | 0x305 => noMod m (.ringi o)
  | 0x306 => (RingwMod.decode m).map (.ringw o)
  | 0x307 => noMod m (.ringr o)
  | 0x308 => noMod m (.fwait o)
  | 0x309 => (FlagMod.decode m).map (.ftest o)
  | 0x30A => noMod m (.fcancel o)
  | 0x30B => bareMod m (fun b => if b then .tlrdName o else .tlrdCnt o)
  | 0x30C => noMod m (.tlwait o)
  | 0x30D => (RedstMod.decode m).map (.redst o)
  | 0x30E => bareMod m (fun b => if b then .ringpFill o else .ringpTake o)
  | 0x30F => noMod m (.signal o)
  | 0x380 => noMod m (.mma o)
  | 0x381 => noMod m (.mmab o)
  | 0x382 => noMod m (.mmad o)
  | 0x383 => noMod m (.accz o)
  | 0x384 => (StdMod.decode m).map (.acco o)
  | 0x385 => (StdMod.decode m).map (.acci o)
  | 0x386 => (StdMod.decode m).map (.accg o)
  | 0x3C0 => (CrossMod.decode m).map (.cross o)
  | 0x3C1 => (CrossMod.decode m).map (.crossb o)
  | 0x3C2 => (XbankMod.decode m).map (.xbank o)
  | 0x3C3 => (XstatMod.decode m).map (.xstat o)
  | 0x3E0 => noMod m (.emit o)
  | 0x3E2 => noMod m (.rand o)
  | 0x3E3 => noMod m (.mode o)
  | 0x3E4 => (CoverMod.decode m).map (.cover o)
  | 0x3E5 => noMod m (.clock o)
  | _ => none

/-- The instruction of an opcode, a listed one or any other (R184, R185). -/
def buildInstr (op : BitVec 10) (o : Ops) (m : BitVec 13) : Option Instr :=
  if assigned op then buildAssigned op o m else some (.unassignedOpcode op)

/-- Decode a word in the order of R167. -/
def decodeWord (w : BitVec 96) : Except DecodeError Instr :=
  match buildInstr (w.extractLsb' 86 10) (wordOps w) (w.extractLsb' 32 13) with
  | some i => if i.wf then .ok i else .error .illegalField
  | none => .error .illegalField

/-- The word whose bytes these are, the first in bits 7:0 (R155). -/
def wordOfBytes : List Byte → Nat
  | [] => 0
  | b :: bs => b.toNat + 256 * wordOfBytes bs

/-- The low `n` bytes of a number, little-endian (R4). -/
def bytesOfWord : Nat → Nat → List Byte
  | 0, _ => []
  | n + 1, w => BitVec.ofNat 8 w :: bytesOfWord n (w / 256)

/-- Decode the first twelve bytes. -/
def decodeBytes (bs : List Byte) : Except DecodeError Instr :=
  if bs.length < 12 then .error .short else decodeWord (BitVec.ofNat 96 (wordOfBytes (bs.take 12)))

/-- The instruction that the decoder reads from an instruction whose bits are `w`, bit 0 the least significant
bit of its first byte. -/
def decodeTableWord (nbits w : Nat) : Option Instr :=
  match decodeBytes (bytesOfWord 12 (w % 2 ^ nbits)) with
  | .ok i => some i
  | .error _ => none

/-! ## The encoder -/

/-- The opcode of an instruction that has one (R184). -/
def Instr.opcode : Instr → Option (BitVec 10)
  | .nop _ => some 0x000
  | .bra _ => some 0x001
  | .brx _ _ => some 0x002
  | .call _ => some 0x003
  | .callx _ _ => some 0x004
  | .ret _ => some 0x005
  | .exit _ => some 0x006
  | .reconv _ => some 0x007
  | .yield _ => some 0x008
  | .bar _ _ => some 0x009
  | .cbar _ _ => some 0x00A
  | .trap _ => some 0x00B
  | .bkpt _ => some 0x00C
  | .elect _ => some 0x00D
  | .hret _ _ => some 0x00E
  | .iadd _ _ => some 0x040
  | .isub _ _ => some 0x041
  | .imul _ _ => some 0x042
  | .imulh _ _ => some 0x043
  | .imad _ _ => some 0x044
  | .imadw _ _ => some 0x045
  | .idiv _ _ => some 0x046
  | .irem _ _ => some 0x047
  | .iabs _ _ => some 0x048
  | .ineg _ _ => some 0x049
  | .imin _ _ => some 0x04A
  | .imax _ _ => some 0x04B
  | .icmp _ _ => some 0x04C
  | .isel _ _ => some 0x04D
  | .idp4 _ _ => some 0x04E
  | .andB _ _ => some 0x050
  | .orB _ _ => some 0x051
  | .xorB _ _ => some 0x052
  | .notB _ _ => some 0x053
  | .lop3 _ _ => some 0x054
  | .shl _ _ => some 0x055
  | .shr _ _ => some 0x056
  | .sar _ _ => some 0x057
  | .rot _ _ => some 0x058
  | .fshf _ _ => some 0x059
  | .popc _ _ => some 0x05A
  | .clz _ _ => some 0x05B
  | .brev _ _ => some 0x05C
  | .bfe _ _ => some 0x05D
  | .bfi _ _ => some 0x05E
  | .prmt _ _ => some 0x05F
  | .mov _ _ => some 0x060
  | .movi _ _ => some 0x061
  | .movs _ _ => some 0x062
  | .pset _ _ => some 0x063
  | .plop _ => some 0x064
  | .ptov _ => some 0x065
  | .vtop _ => some 0x066
  | .capadd _ _ => some 0x070
  | .capnar _ _ => some 0x071
  | .capoff _ _ => some 0x072
  | .capobj _ _ => some 0x073
  | .capchk _ _ => some 0x074
  | .fadd _ _ => some 0x100
  | .fsub _ _ => some 0x101
  | .fmul _ _ => some 0x102
  | .ffma _ _ => some 0x103
  | .fmin _ _ => some 0x104
  | .fmax _ _ => some 0x105
  | .fcmp _ _ => some 0x106
  | .frnd _ _ => some 0x107
  | .fclass _ _ => some 0x108
  | .fscale _ _ => some 0x109
  | .hadd2 _ _ => some 0x110
  | .hmul2 _ _ => some 0x111
  | .hfma2 _ _ => some 0x112
  | .dadd _ _ => some 0x118
  | .dmul _ _ => some 0x119
  | .dfma _ _ => some 0x11A
  | .cvt _ _ => some 0x120
  | .cvtn _ _ => some 0x121
  | .cvtw _ _ => some 0x122
  | .qscale _ _ => some 0x123
  | .rcp _ _ => some 0x140
  | .rsq _ _ => some 0x141
  | .sqrt _ _ => some 0x142
  | .ex2 _ _ => some 0x143
  | .lg2 _ _ => some 0x144
  | .sin _ _ => some 0x145
  | .cos _ _ => some 0x146
  | .fdiv _ _ => some 0x147
  | .flagr _ => some 0x160
  | .flagc _ => some 0x161
  | .liadd _ _ => some 0x180
  | .lisub _ _ => some 0x181
  | .limul _ _ => some 0x182
  | .lidiv _ _ => some 0x183
  | .licmp _ _ => some 0x184
  | .lircp _ _ => some 0x186
  | .liexp _ _ => some 0x187
  | .liln _ _ => some 0x188
  | .licvt _ _ => some 0x189
  | .lilvl _ _ => some 0x18A
  | .shfl _ _ => some 0x200
  | .qxch _ _ => some 0x201
  | .qbc _ _ => some 0x202
  | .vote _ _ => some 0x203
  | .matchB _ _ => some 0x204
  | .red _ _ => some 0x205
  | .scan _ _ => some 0x206
  | .regroup _ _ => some 0x207
  | .lanemask _ _ => some 0x208
  | .lds _ _ => some 0x280
  | .sts _ _ => some 0x281
  | .ldl _ _ => some 0x282
  | .stl _ _ => some 0x283
  | .ldk _ _ => some 0x284
  | .stk _ _ => some 0x285
  | .atms _ _ => some 0x288
  | .atml _ _ => some 0x289
  | .cass _ _ => some 0x28A
  | .casl _ _ => some 0x28B
  | .fence _ _ => some 0x28C
  | .cpy _ _ => some 0x300
  | .cpyg _ _ => some 0x301
  | .cpyx _ _ => some 0x302
  | .cueb _ _ => some 0x303
  | .cuef _ => some 0x304
  | .ringi _ => some 0x305
  | .ringw _ _ => some 0x306
  | .ringr _ => some 0x307
  | .fwait _ => some 0x308
  | .ftest _ _ => some 0x309
  | .fcancel _ => some 0x30A
  | .tlrdCnt _ | .tlrdName _ => some 0x30B
  | .tlwait _ => some 0x30C
  | .redst _ _ => some 0x30D
  | .ringpTake _ | .ringpFill _ => some 0x30E
  | .signal _ => some 0x30F
  | .mma _ => some 0x380
  | .mmab _ => some 0x381
  | .mmad _ => some 0x382
  | .accz _ => some 0x383
  | .acco _ _ => some 0x384
  | .acci _ _ => some 0x385
  | .accg _ _ => some 0x386
  | .cross _ _ => some 0x3C0
  | .crossb _ _ => some 0x3C1
  | .xbank _ _ => some 0x3C2
  | .xstat _ _ => some 0x3C3
  | .emit _ => some 0x3E0
  | .rand _ => some 0x3E2
  | .mode _ => some 0x3E3
  | .cover _ _ => some 0x3E4
  | .clock _ => some 0x3E5
  | .unassignedOpcode op => some op
  | _ => none

/-- The modifier bits 44:32. -/
def Instr.modBits : Instr → BitVec 13
  | .brx _ m => m.encode
  | .callx _ m => m.encode
  | .bar _ m => m.encode
  | .cbar _ m => m.encode
  | .hret _ m => m.encode
  | .iadd _ m => m.encode
  | .isub _ m => m.encode
  | .imul _ m => m.encode
  | .imulh _ m => m.encode
  | .imad _ m => m.encode
  | .imadw _ m => m.encode
  | .idiv _ m => m.encode
  | .irem _ m => m.encode
  | .iabs _ m => m.encode
  | .ineg _ m => m.encode
  | .imin _ m => m.encode
  | .imax _ m => m.encode
  | .icmp _ m => m.encode
  | .isel _ m => m.encode
  | .idp4 _ m => m.encode
  | .andB _ m => m.encode
  | .orB _ m => m.encode
  | .xorB _ m => m.encode
  | .notB _ m => m.encode
  | .lop3 _ m => m.encode
  | .shl _ m => m.encode
  | .shr _ m => m.encode
  | .sar _ m => m.encode
  | .rot _ m => m.encode
  | .fshf _ m => m.encode
  | .popc _ m => m.encode
  | .clz _ m => m.encode
  | .brev _ m => m.encode
  | .bfe _ m => m.encode
  | .bfi _ m => m.encode
  | .prmt _ m => m.encode
  | .mov _ m => m.encode
  | .movi _ m => m.encode
  | .movs _ m => m.encode
  | .pset _ m => m.encode
  | .capadd _ m => m.encode
  | .capnar _ m => m.encode
  | .capoff _ m => m.encode
  | .capobj _ m => m.encode
  | .capchk _ m => m.encode
  | .fadd _ m => m.encode
  | .fsub _ m => m.encode
  | .fmul _ m => m.encode
  | .ffma _ m => m.encode
  | .fmin _ m => m.encode
  | .fmax _ m => m.encode
  | .fcmp _ m => m.encode
  | .frnd _ m => m.encode
  | .fclass _ m => m.encode
  | .fscale _ m => m.encode
  | .hadd2 _ m => m.encode
  | .hmul2 _ m => m.encode
  | .hfma2 _ m => m.encode
  | .dadd _ m => m.encode
  | .dmul _ m => m.encode
  | .dfma _ m => m.encode
  | .cvt _ m => m.encode
  | .cvtn _ m => m.encode
  | .cvtw _ m => m.encode
  | .qscale _ m => m.encode
  | .rcp _ m => m.encode
  | .rsq _ m => m.encode
  | .sqrt _ m => m.encode
  | .ex2 _ m => m.encode
  | .lg2 _ m => m.encode
  | .sin _ m => m.encode
  | .cos _ m => m.encode
  | .fdiv _ m => m.encode
  | .liadd _ m => m.encode
  | .lisub _ m => m.encode
  | .limul _ m => m.encode
  | .lidiv _ m => m.encode
  | .licmp _ m => m.encode
  | .lircp _ m => m.encode
  | .liexp _ m => m.encode
  | .liln _ m => m.encode
  | .licvt _ m => m.encode
  | .lilvl _ m => m.encode
  | .shfl _ m => m.encode
  | .qxch _ m => m.encode
  | .qbc _ m => m.encode
  | .vote _ m => m.encode
  | .matchB _ m => m.encode
  | .red _ m => m.encode
  | .scan _ m => m.encode
  | .regroup _ m => m.encode
  | .lanemask _ m => m.encode
  | .lds _ m => m.encode
  | .sts _ m => m.encode
  | .ldl _ m => m.encode
  | .stl _ m => m.encode
  | .ldk _ m => m.encode
  | .stk _ m => m.encode
  | .atms _ m => m.encode
  | .atml _ m => m.encode
  | .cass _ m => m.encode
  | .casl _ m => m.encode
  | .fence _ m => m.encode
  | .cpy _ m => m.encode
  | .cpyg _ m => m.encode
  | .cpyx _ m => m.encode
  | .cueb _ m => m.encode
  | .ringw _ m => m.encode
  | .ftest _ m => m.encode
  | .redst _ m => m.encode
  | .acco _ m => m.encode
  | .acci _ m => m.encode
  | .accg _ m => m.encode
  | .cross _ m => m.encode
  | .crossb _ m => m.encode
  | .xbank _ m => m.encode
  | .xstat _ m => m.encode
  | .cover _ m => m.encode
  | .ringpFill _ | .tlrdName _ => 1
  | _ => 0

/-- Pack the fields of R165. -/
def packWord (op : BitVec 10) (o : Ops) (m : BitVec 13) : BitVec 96 :=
  op ++ o.la ++ bit o.g.neg ++ o.g.p ++ o.d ++ o.a ++ o.b ++ o.c ++ m ++ o.imm

/-- The word of an instruction; events have none.  An unassigned opcode stands in a word of otherwise zeros. -/
def encode (i : Instr) : Option (BitVec 96) :=
  match i.opcode, i.ops with
  | some op, some o => some (packWord op o i.modBits)
  | some op, none => some (op ++ (0 : BitVec 86))
  | none, _ => none

end Sys2Proof
end

