-- ==== Sys2Proof/Machine/Keccak.lean ====
section
/-! DEFINITION. SHAKE256 (R461), the extendable-output function of FIPS 202 that the manual names.

The state of the permutation is the list of its 25 lanes; the lane of column `x` and row `y` has index `x + 5 * y`. -/

namespace Sys2Proof.Machine

/-- Lane `x` of row `y`, both counted modulo 5. -/
def keccakLane (a : List W64) (x y : Nat) : W64 := a.getD (x % 5 + 5 * (y % 5)) 0

/-- The walk that gives the rotations: step `t` is at column `x` and row `y`, and turns the lane there by the triangular
number of `t + 1`.  The answer is the amount for each lane. -/
def turnFrom : Nat → Nat → Nat → Nat → List Nat → List Nat
  | 0, _, _, _, out => out
  | n + 1, t, x, y, out => turnFrom n (t + 1) y ((2 * x + 3 * y) % 5) (out.set (x + 5 * y) ((t + 1) * (t + 2) / 2 % 64))

/-- The rotation of each lane. -/
def keccakTurns : List Nat := turnFrom 24 0 1 0 (List.replicate 25 0)

/-- The shift register of the round constants, one step on. -/
def nextTap (r : Nat) : Nat := if 128 ≤ r then (2 * r) ^^^ 0x171 else 2 * r

/-- The constant of the round that starts at a state of the register, and the state for the next: bit `2 ^ j - 1` is
output `j` of seven. -/
def tapConst (r : Nat) : W64 × Nat :=
  (List.range 7).foldl (fun (acc : W64 × Nat) j =>
    (if acc.2 % 2 = 1 then acc.1 ||| 1#64 <<< (2 ^ j - 1) else acc.1, nextTap acc.2)) (0, r)

/-- The constants of a number of rounds. -/
def tapConsts : Nat → Nat → List W64
  | 0, _ => []
  | n + 1, r => (tapConst r).1 :: tapConsts n (tapConst r).2

/-- The parity of a column. -/
def keccakParity (a : List W64) (x : Nat) : W64 :=
  (List.range 5).foldl (fun c y => c ^^^ keccakLane a x y) 0

/-- One round with its constant. -/
def keccakRound (a : List W64) (rc : W64) : List W64 :=
  let cols := (List.range 5).map (keccakParity a)
  let mixed := (List.range 25).map fun i =>
    a.getD i 0 ^^^ cols.getD ((i + 4) % 5) 0 ^^^ (cols.getD ((i + 1) % 5) 0).rotateLeft 1
  let moved := (List.range 25).map fun i =>
    let j := (i % 5 + 3 * (i / 5)) % 5 + 5 * (i % 5)
    (mixed.getD j 0).rotateLeft (keccakTurns.getD j 0)
  (List.range 25).map fun i =>
    let x := i % 5
    let y := i / 5
    let l := keccakLane moved x y ^^^ (~~~keccakLane moved (x + 1) y &&& keccakLane moved (x + 2) y)
    if i = 0 then l ^^^ rc else l

/-- The permutation of 24 rounds. -/
def keccak (a : List W64) : List W64 := (tapConsts 24 1).foldl keccakRound a

/-- The little-endian lane at byte `i` of a block. -/
def laneAt (block : List Byte) (i : Nat) : W64 :=
  BitVec.ofNat 64 (((block.drop i).take 8).foldr (fun b n => b.toNat + 256 * n) 0)

/-- Absorbs the blocks of 136 bytes of a padded message. -/
def absorb : Nat → List Byte → List W64 → List W64
  | 0, _, a => a
  | n + 1, m, a =>
    absorb n (m.drop 136) (keccak ((List.range 25).map fun i =>
      a.getD i 0 ^^^ (if i < 17 then laneAt m (8 * i) else 0)))

/-- A message with the suffix of SHAKE and the padding to blocks of 136 bytes. -/
def shakePad (m : List Byte) : List Byte :=
  let room := 136 - m.length % 136
  if room = 1 then m ++ [0x9F] else m ++ [0x1F] ++ List.replicate (room - 2) 0 ++ [0x80]

/-- SHAKE256 with 512 bits of output (R461), one block of which holds them all.
Marks: PRESUMED, unsafe (assumption 89). -/
def shake256 (m : List Byte) : List Byte :=
  let p := shakePad m
  let a := absorb (p.length / 136) p (List.replicate 25 0)
  (List.range 64).map fun k => ((a.getD (k / 8) 0) >>> (8 * (k % 8))).setWidth 8

end Sys2Proof.Machine
end

