-- ==== Sys2Proof/Machine/State.lean ====
section
/-! DEFINITION. The state of the module: plain data, everything the manual gives it.

Sparse data is a keyed list (`KMap`).  Registers and memories are keyed lists of words in which a word of zero
is not listed (`ZMap`), so that equal contents are equal data. -/

namespace Sys2Proof.Machine

/-! ## Faults of a program (R417 to R424) -/

/-- The fault codes of R419. -/
inductive FCode
  | illegalOpcode | illegalField | illegalLine | lineParity | badTarget | tableRange
  | bounds | rights | object | capOverflow | misaligned | stackOverflow | straddleAtomic
  | maskMismatch | memberGone | memberBlocked | barrierMismatch
  | futureFailed | cueInvalid | ringMisuse | scrimRatio | scrimBank | dieAbsent
  | duetAbsent | accRange | rehearsal | trap | bkpt | pageInvalid | machineCheck
  deriving DecidableEq, Repr

/-- What a lane raises: the code and its own s45. -/
structure Flt where
  code : FCode
  s45 : W64
  deriving DecidableEq, Repr

/-- A fault held pending at its instruction (R420, R422). -/
structure Pending where
  lane : Nat
  flt : Flt
  pc : W64
  deriving DecidableEq, Repr

/-- The fault record of R418. -/
structure Record where
  s44 : W64
  s45 : W64
  s46 : W64
  s47 : W64
  deriving DecidableEq, Repr

/-! ## Lanes and warps -/

/-- Lane states of R16. -/
inductive LaneSt
  | never | real | helper | exited
  deriving DecidableEq, Repr

/-- Where a result goes. -/
inductive Dst
  | none
  | v32 (r : Nat)
  | v64 (r : Nat)
  | s (r : Nat)
  /-- Bits 63:32 of an s-register (R207). -/
  | sHi (r : Nat)
  | pred (p : Nat)
  deriving DecidableEq, Repr

/-- The spaces of R83 whose locations the ordering model covers (R122). -/
inductive Space
  | shared (gid : Nat)
  | loft (die : Nat)
  | hbm
  deriving DecidableEq, Repr

/-- An open lookahead window (R178 to R182).  `stamp` is the issue order and names the operation; `cycle` is the cycle
of the issue (R29). -/
structure Window where
  stamp : Nat
  cycle : Nat
  left : Nat
  pc : W64
  dst : Dst
  val : W64
  tag : Bool
  flags : W32
  done : Bool
  flt : Option Flt
  deriving DecidableEq, Repr

/-- An accumulator tile (R79, R334): chains, term counts, pending flags, error latch; `bad` says that a word of its
accumulator memory has an uncorrectable error (R440). -/
structure Tile where
  e : ZMap 32
  o : ZMap 32
  n : KMap Nat
  flags : W32
  latch : Bool
  bad : Bool
  deriving DecidableEq, Repr

/-- What a lane that waits at `ACCO` or `ACCG` issued with (R353, R367): base register, tile, type BF16, SAT, W, the
guidance weight, and whether the lane's guard was true.  `snap` is the tile as the entries that the join includes left it,
once a later entry has changed it (R145). -/
structure JoinArgs where
  base : Nat
  tile : Nat
  bf : Bool
  sat : Bool
  both : Bool
  weight : W32
  act : Bool
  snap : Option Tile
  deriving DecidableEq, Repr

/-- What an instruction that a parked page stops had read (R176): nothing, the target of a transfer, or an index of a
target table with the line that is awaited, each with the call that it belongs to, or the operands of a wait that is over. -/
inductive Kept
  | none
  | target (pc : W64) (call : Option Nat)
  | entry (i line : Nat) (call : Option Nat)
  | future (h : W64)
  | timeline (name v : W64)
  | ringw (ring : W32) (n : W64)
  | ringp (ring : W32)
  deriving DecidableEq, Repr

/-- What a lane waits for (R43), the stalls of R162 and R330, and a fault held pending (R420). -/
inductive Wait
  | none
  | future (h : W64)
  | timeline (name v : W64)
  | ringw (ring : W32) (n : W64)
  | ringp (ring : W32)
  | page (kept : Kept)
  /-- The line of a target is on its way (R162); `call` names the issue of the `CALL` or `CALLX` whose link is still to
  be written (R216). -/
  | target (pc : W64) (call : Option Nat)
  /-- The page of the target table is there, and the lane goes on with the index that it read (R218). -/
  | entry (i : Nat) (call : Option Nat)
  | bar (i : Nat)
  | cbar (i : Nat)
  | mask
  | regroup
  | duet (id : Nat)
  | join (upto : Nat) (args : JoinArgs)
  /-- `upto` is none until the partner warp has issued its `ACCG` (R368). -/
  | accg (upto : Option Nat) (args : JoinArgs)
  /-- The matrix entry of this identity waits for a place in the queue (R330). -/
  | queue (id : Nat)
  | fault
  deriving DecidableEq, Repr

/-- The registers that the second member of a pair reads: those before the pair (R22), for a lane that issued the first
member, or meets at it, and has yet to issue the second at `pc`. -/
structure Before where
  pc : W64
  v : ZMap 32
  p : BitVec 15
  s : ZMap 64
  tags : BitVec 48
  deriving DecidableEq, Repr

structure Lane where
  st : LaneSt
  pc : W64
  /-- The PC has just been given by dispatch or delivery, and its TGT bit is still to be checked (R163). -/
  entry : Bool
  v : ZMap 32
  p : BitVec 15
  starve : Nat
  /-- The lanes that go before this one since its `YIELD` (R26). -/
  behind : W64
  draw : Nat
  wait : Wait
  windows : List Window
  before : Option Before
  deriving DecidableEq, Repr

/-- An arrival at a membership-mask instruction with the operands read (R33, R255); `ghost` says that the lane faulted at it,
and counts as one that arrived with a false guard (R32, R417). -/
structure Arrival where
  lane : Nat
  pc : W64
  mask : W64
  guard : Bool
  a : W64
  b : W32
  pred : Bool
  ghost : Bool
  deriving DecidableEq, Repr

structure Warp where
  slot : Nat
  lanes : List Lane
  s : ZMap 64
  tags : BitVec 48
  flags : W32
  mode : W32
  stack : Memory
  lines : KMap (List Byte)
  hset : W64
  hrec : Option Record
  pend : List Pending
  shadowed : W64
  checked : W64
  pairing : W64
  arrivals : List Arrival
  /-- Lanes whose next checked instruction meets a soft error (R39). -/
  soft : W64
  /-- Words of registers with an uncorrectable error (R440): lane and register, lane 64 for bits 31:0 of an s-register and
  lane 65 for its bits 63:32. -/
  regErr : List (Nat × Nat)
  /-- Words of the spill SRAM with an uncorrectable error (R440). -/
  stackErr : List Nat
  order : Nat
  /-- `YIELD` of another warp handed the next opportunity to this one (R26). -/
  handed : Bool
  /-- Opportunities of its issue unit that went to others while the warp held a ready lane (R408). -/
  waited : Nat
  deriving DecidableEq, Repr

/-! ## Groups -/

/-- An instance of a named barrier, with the count of its first arrivals (R224). -/
structure Barrier where
  count : W64
  arrived : Nat
  deriving DecidableEq, Repr

/-- A record of `REGROUP` (R267). -/
structure RegRec where
  t : Nat
  key : BitVec 16
  base : Nat
  payload : List W32
  deriving DecidableEq, Repr

/-- The `REGROUP` instance (R267). -/
structure RegInst where
  c : Nat
  arrived : Nat
  recs : List RegRec
  deriving DecidableEq, Repr

/-- A ring header (R245), `owner` the claiming context of a loft ring (R244).  The marks are the sequence
numbers filled or released beyond the counters. -/
structure Ring where
  k : Nat
  size : Nat
  base : W64
  claimed : Nat
  filled : Nat
  freed : Nat
  fillMarks : List Nat
  freeMarks : List Nat
  owner : Nat
  deriving DecidableEq, Repr

/-- What an appended matrix entry does (R330, R349 to R351). -/
inductive MOp
  | mac (words : List W32) (a b : List Byte) (scales : List Byte) (acap bcap : W64) (apitch bpitch : W64)
  | zero
  | init (image : List W32)
  /-- An operand that its pair read once met an uncorrectable error (R336, R364). -/
  | failed
  deriving DecidableEq, Repr

/-- How an `MMAD` entry stands at its rendezvous (R362). -/
inductive Rdv
  | free
  | held (seq : Nat) (desc : List W64)
  | paired (other : Nat)
  deriving DecidableEq, Repr

/-- A matrix entry: its identity, and its order of entry once it has a place in the queue (R330).  `cycles` counts the
resident cycles of a held entry (R362); `numbered` says that it took a sequence number (R360). -/
structure MEntry where
  id : Nat
  entered : Option Nat
  cycles : Nat
  numbered : Bool
  gid : Nat
  warp : Nat
  tile : Nat
  op : MOp
  rdv : Rdv
  deriving DecidableEq, Repr

/-- Why a group is saved: swapped out, pre-empted, or pre-empted and resumed (R44, R46, R435). -/
inductive Saved
  | swapped
  | preempted
  | resumed
  deriving DecidableEq, Repr

/-- Where a group stands (R44 to R47, R435).  A draining group has exited or was aborted: nothing of it is left
but what its engine operations under way still use (R220, R424). -/
inductive Residence
  | resident
  | halted
  | saved (why : Saved)
  | draining
  deriving DecidableEq, Repr

structure Group where
  ctx : Nat
  node : Nat
  lin : Nat
  ldie : Nat
  die : Nat
  core : Nat
  res : Residence
  shared : Memory
  sharedErr : List Nat
  barriers : KMap Barrier
  regroup : Option RegInst
  tiles : KMap Tile
  /-- Die-wide numbers of the copy contexts allotted (R471). -/
  copyCtxs : List Nat
  rings : KMap Ring
  emitted : Nat
  /-- Matrix entries of a group that is not on a core: those held, and those behind them on their tiles (R437). -/
  kept : List MEntry
  /-- The group's frame has an uncorrectable error (R440). -/
  frameErr : Bool
  warps : List Warp
  deriving DecidableEq, Repr

/-- A cluster barrier instance (R223). -/
structure ClusterBar where
  ctx : Nat
  node : Nat
  cluster : Nat
  i : Nat
  bar : Barrier
  deriving DecidableEq, Repr

/-- DUET_SPLIT of a pair (R365). -/
structure Duet where
  ctx : Nat
  node : Nat
  pair : Nat
  split : Bool
  deriving DecidableEq, Repr

/-! ## Contexts -/

/-- Ordering kinds of locations (R110). -/
inductive Ord
  | so | rc | uo
  deriving DecidableEq, Repr

/-- Object kinds (R94). -/
inductive ObjKind
  | loft | mem | host
  deriving DecidableEq, Repr

/-- An entry of the object table (R94, R466); `hostOwned` is the owner side of a HOST object (R453). -/
structure Obj where
  base : Nat
  len : Nat
  gen : W32
  owner : Nat
  ldie : Nat
  ord : Ord
  kind : ObjKind
  rights : BitVec 4
  placed : Option Nat
  hostOwned : Bool
  deriving DecidableEq, Repr

/-- The fields of a node descriptor (R393, R394). -/
structure Desc where
  code : W64
  entry : W64
  handler : W64
  groups : Nat
  threads : Nat
  cluster : Nat
  flags : BitVec 8
  vregs : Nat
  sregs : Nat
  acc : Nat
  bars : Nat
  floor : Nat
  shared : Nat
  stack : Nat
  pred : Nat
  prio : Nat
  aff : Nat
  nops : Nat
  ctl : Nat
  cueMask : BitVec 16
  qrec : Nat
  qbatch : Nat
  qcap : Nat
  emax : Nat
  edst : Nat
  lq : Nat
  nctx : Nat
  nring : Nat
  succ : List Nat
  launch : W64
  ops : List W64
  deriving DecidableEq, Repr

/-- A record held in an input queue, with its producer, a group of a node, and the emit ordinal (R401). -/
structure QRecord where
  node : Nat
  producer : Nat
  ordinal : Nat
  bytes : List Byte
  deriving DecidableEq, Repr

/-- A node of a context (R396, R397, R401, R406). -/
structure Node where
  desc : Desc
  count : Nat
  live : Bool
  complete : Bool
  failed : Bool
  aborted : Bool
  tag : W64
  /-- The place of the submission in its launch queue. -/
  place : Nat
  /-- The order of submission (R398). -/
  order : Nat
  /-- The order of readiness in the callboard, when it has entered. -/
  board : Option Nat
  dispatched : Nat
  exited : Nat
  queue : List QRecord
  /-- Record places reserved by resident groups of the producers. -/
  reserved : Nat
  /-- The cue handle of each operand that is one. -/
  handles : List (Nat × Nat)
  held : Bool
  deriving DecidableEq, Repr

/-- A peer pairing (R468). -/
structure Peer where
  gx : Nat
  gy : Nat
  pctx : Nat
  lsel : List Byte
  deriving DecidableEq, Repr

/-- A tag that an understage holds for a destination object (R326). -/
structure OnceTag where
  stack : Nat
  obj : Nat
  tag : W64
  deriving DecidableEq, Repr

structure Ctx where
  key : Nat
  scrim : W64
  map : List (Option Nat)
  objs : KMap Obj
  l3 : KMap W64
  /-- Pages declared never arriving (R433), by virtual page of 64 KiB. -/
  never : List Nat
  /-- Pages that were declared so and made present again, each with the stamp that later operations have passed (R434). -/
  lapsed : List (Nat × Nat)
  /-- The ranges of the frame pool: address and units (R449). -/
  pool : List (Nat × Nat)
  used : Nat
  cues : KMap (List Byte)
  nodes : KMap Node
  late : Nat
  dropped : KMap Nat
  tags : List OnceTag
  binds : KMap Nat
  peers : List Peer
  debug : Bool
  deriving DecidableEq, Repr

/-! ## Dies -/

/-- A copy or scrim engine context (R237, R238, R323, R471); `holder` names the context and the group that a copy
context is allotted to. -/
structure ECtx where
  alloc : W32
  holder : Option (Nat × Nat)
  counter : Nat
  next : Nat
  done : List Nat
  statuses : List (Nat × W32)
  gen : Option W32
  deriving DecidableEq, Repr

/-- The counts of a scrim context (R380, R388). -/
structure ScrimStat where
  sent : Nat
  sat : Nat
  nan : Nat
  deriving DecidableEq, Repr

/-- A cached leaf (R107). -/
structure Tlb where
  ctx : Nat
  page : Nat
  bits : Nat
  leaf : W64
  deriving DecidableEq, Repr

/-- An entry of a core's object cache (R97): the length held for an object of a context. -/
structure HeldObj where
  ctx : Nat
  obj : Nat
  len : Nat
  deriving DecidableEq, Repr

/-- A core: its capability vector, with the mismatch count that the last reset published and the count since (R441),
cycle counter (R413), matrix queue and the entries that wait for a place in it (R330), first-level TLB and instruction
TLB (R107), object cache (R97), and whether it logged an accumulator error since the last reset (R442). -/
structure Core where
  state : Nat
  qmask : BitVec 4
  shown : Nat
  mism : Nat
  clock : W64
  queue : List MEntry
  waiting : List MEntry
  dtlb : List Tlb
  itlb : List Tlb
  objs : List HeldObj
  accErr : Bool
  deriving DecidableEq, Repr

/-- A bank record of one owning context (R375, R377), with the unit of the bank save area that holds it while it is
saved (R376). -/
structure BankRec where
  ctx : Nat
  bytes : List Byte
  saved : Option Nat
  deriving DecidableEq, Repr

/-- A bank's directory entry (R375). -/
structure Bank where
  holder : Option Nat
  recs : List BankRec
  deriving DecidableEq, Repr

structure Die where
  cores : List Core
  /-- The second-level TLB (R107). -/
  tlb : List Tlb
  copyCtx : KMap ECtx
  scrimCtx : KMap ECtx
  scrimStat : KMap ScrimStat
  banks : KMap Bank
  rings : KMap Ring
  mhz : Nat
  throttled : Bool
  lost : Bool
  stopped : Bool
  deriving DecidableEq, Repr

/-! ## Writes and operations under way -/

/-- An agent of R122, and what stands between two agents at an edge of R133: an engine operation that has completed (the
die, the number of its context there, the allotment and the sequence number), a place of a launch queue whose node has
completed (R452), a stage ring, a node whose groups are still to be dispatched, a grid as far as its groups are gone, and
every agent of a group. -/
inductive Agent
  | lane (gid w l : Nat)
  | op (id gid : Nat)
  | host
  | done (die k alloc seq : Nat)
  | placed (queue n : Nat)
  | ring (loft : Bool) (at_ idx : Nat)
  | node (ctx n : Nat)
  | grid (ctx n : Nat)
  | group (gid : Nat)
  deriving DecidableEq, Repr

/-- An agent and where it stands (R127): its context, node, cluster and logical die. -/
structure Stand where
  agent : Agent
  ctx : Nat
  node : Nat
  cluster : Nat
  ldie : Nat
  deriving DecidableEq, Repr

/-- A release (R132): who makes it, its scope, and the recent writes that happen-before it. -/
structure Rel where
  by_ : Stand
  scope : Scope
  ids : List Nat
  deriving DecidableEq, Repr

/-- What an atomic does at its home (R234, R235). -/
inductive RmwFn
  | atom (op : AtomOp)
  | cas (b : Nat)
  deriving DecidableEq, Repr

/-- An atomic on its way to its home (R114, R126): the stamp of the windows that its result goes to, its function and
operand, and whether the windows of every lane of the instruction share the result (R29). -/
structure Rmw where
  win : Nat
  fn : RmwFn
  c : Nat
  shared : Bool
  deriving DecidableEq, Repr

/-- A write issued and not yet at its home (R114, R125, R131), by a lane or by an engine operation `op`: with the object
that a release touches (R99), the releases that it is (R132), and whether its own agent has read it.  `cycle` is the cycle
of its issue (R125); `rmw` is there for an atomic, whose `bytes` give its length alone; `late` is where an operation may
still read, as the write arrives, the bytes that it copies (R126): space, address and length. -/
structure PWrite where
  cycle : Nat
  gid : Nat
  warp : Nat
  lane : Nat
  op : Option Nat
  space : Space
  addr : Nat
  bytes : List Byte
  ord : Ord
  release : Bool
  rels : List Rel
  seen : Bool
  obj : Option (Nat × Nat)
  ctx : Nat
  node : Nat
  rmw : Option Rmw
  late : List (Space × Nat × Nat)
  deriving DecidableEq, Repr

/-- A write that has its place in the location order and that an agent may still miss (R126): the bytes before it, the
releases that it is (R132), the agents that it is visible to, and the scopes that it is visible to as a whole (R131). -/
structure Recent where
  id : Nat
  by_ : Agent
  space : Space
  addr : Nat
  old : List Byte
  ord : Ord
  rels : List Rel
  known : List Agent
  wide : List (Scope × Stand)
  ctx : Nat
  node : Nat
  deriving DecidableEq, Repr

/-- A memory request of a lane that has not completed (R2): its window, and the extension of its value.  Unless its value is
`fixed`, another read of its lane, or its completion, may still place its read later in the order of its location (R124,
R126). -/
structure Load where
  id : Nat
  gid : Nat
  warp : Nat
  lane : Nat
  space : Space
  addr : Nat
  bytes : Nat
  signed : Bool
  fixed : Bool
  deriving DecidableEq, Repr

/-- A line that failed its parity once (R158). -/
structure Refetch where
  gid : Nat
  warp : Nat
  line : Nat
  first : List Byte
  deriving DecidableEq, Repr

/-- A 256-byte sector of a stack (R119): the key generation under which it is encrypted now, and which of its
bytes were written under that key.  A sector not listed is under the device key, every byte known. -/
structure Sector where
  key : Nat
  known : BitVec 256
  deriving DecidableEq, Repr

/-- Who waits on a page that is absent (R432). -/
inductive Walker
  | fetch (gid warp line : Nat)
  | op (id : Nat)
  deriving DecidableEq, Repr

structure Walk where
  who : Walker
  ctx : Nat
  va : Nat
  deriving DecidableEq, Repr

/-! ### Endpoints of an engine operation (R297) -/

/-- Where an endpoint lies. -/
inductive Place
  | shared (gid : Nat)
  | obj (idx : Nat) (o : Obj)
  deriving DecidableEq, Repr

/-- An endpoint: its place, the capability's offset, and the bound. -/
structure End where
  place : Place
  off : Nat
  len : Nat
  deriving DecidableEq, Repr

/-- Where output goes; a device is reached through links, each with the grid coordinates and the peer context. -/
inductive Sink
  | ends (es : List (Nat × End))
  | ring
  | device (links : List (Nat × Nat × Nat × Nat))
  deriving DecidableEq, Repr

/-- Endpoints that have passed the checks, the rows of the source and destination, and the keys of the stream. -/
structure Ends where
  src : End
  dst : Sink
  auxa : Option End
  auxb : Option End
  srows : List Int
  drows : List Int
  keys : List Nat
  /-- The size of the slots of its ring as the operation began. -/
  slot : Nat
  deriving DecidableEq, Repr

/-- One action of an operation that has been done: a read with what it gave, or an effect. -/
inductive Did
  | read (bs : List Byte)
  | act (ok : Bool)
  deriving DecidableEq, Repr

/-- How far an operation that has moved data has come (R433). -/
structure Prog where
  ends : Ends
  log : List Did
  deriving DecidableEq, Repr

/-- What an engine operation does. -/
inductive OpKind
  | copy (mode : Nat) (dst src : W64) (cue : List Byte) (recGen sameGen : Bool)
  | redst (op : RedOp) (ty : NumType) (tag dst src : W64) (cue : List Byte)
  | cross (back loft keepy : Bool) (src desc : W64)
  | xbank (src : W64) (bank die : Nat)
  deriving DecidableEq, Repr

/-- A ring slot still to be claimed and filled (R252, R316): the pieces of its output with their offsets in the slot,
the byte count and the status that the trailer reports. -/
structure Slot where
  pieces : List (Nat × List Byte)
  count : Nat
  status : W32
  deriving DecidableEq, Repr

/-- An engine operation issued and not complete (R237, R321, R384, R387).  `id` is its issue order. -/
structure Op where
  id : Nat
  gid : Nat
  ctx : Nat
  node : Nat
  die : Nat
  ldie : Nat
  core : Nat
  ectx : Nat
  seq : Nat
  kind : OpKind
  started : Bool
  parked : Bool
  /-- Every write is at its home and every slot filled: only completion is due. -/
  moved : Bool
  slots : List Slot
  ring : W32
  status : W32
  stats : ScrimStat
  /-- Objects whose bytes the operation wrote (R99). -/
  wrote : List (Nat × Nat)
  /-- Encoder and decoder records that a crossing uses (R387). -/
  banks : List (Nat × Nat)
  /-- What a parked operation has done already (R433). -/
  prog : Option Prog
  /-- The record that a bank load has read (R387). -/
  record : List Byte
  deriving DecidableEq, Repr

/-- The records of an `EMIT` under way (R403). -/
structure Emit where
  ctx : Nat
  node : Nat
  edst : Nat
  records : List QRecord
  deriving DecidableEq, Repr

/-- A `SIGNAL` not yet applied (R404). -/
structure Sig where
  ctx : Nat
  node : Nat
  target : Nat
  deriving DecidableEq, Repr

/-! ## Host, links and trust -/

/-- A launch queue (R450, R451). -/
structure LQueue where
  ctx : Nat
  ring : W64
  entries : Nat
  completion : W64
  doorbell : Nat
  tail : W64
  waiting : List LqEntry
  submitted : Nat
  done : List Nat
  counter : Nat
  deriving DecidableEq, Repr

/-- An entry of the error log (R439, R440, R445, R451). -/
inductive LogEntry
  | machineCheck (die core unit : Nat) (s45 : W64)
  | discard (space : Space) (addr : Nat)
  | cxl (addr : Nat) (write : Bool)
  | doorbell (off v : Nat)
  | exhausted (die : Nat)
  deriving DecidableEq, Repr

/-- An abort record (R424). -/
structure Abort where
  ctx : Nat
  node : Nat
  lin : Nat
  warp : Nat
  record : Record
  earlier : Option Record
  deriving DecidableEq, Repr

/-- What the host is told through the mailbox. -/
inductive Notice
  | nodeFailed (ctx node : Nat) (tag : W64)
  | pageAbsent (ctx va : Nat)
  | breakpoint (ctx node lin : Nat) (record : Record)
  | linkDown (link gx gy pctx chunks : Nat)
  | contextEnded (ctx : Nat) (lost : Option Nat)
  deriving DecidableEq, Repr

/-- What the host has placed in 64 bytes of its own memory for the device to read: a command (R447), or an entry of a launch
queue (R450). -/
inductive HostSlot
  | cmd (c : CmdSlot)
  | entry (e : LqEntry)
  deriving DecidableEq, Repr

/-- The status of a completed node (R407, R450). -/
structure NodeStat where
  ctx : Nat
  node : Nat
  tag : W64
  ok : Bool
  deriving DecidableEq, Repr

/-- What `STAT` returns beside a value (R448). -/
inductive Report
  | none
  | log (e : LogEntry)
  | node (s : NodeStat)
  | abort (a : Abort)
  deriving DecidableEq, Repr

/-- A response of the mailbox (R447): status and value. -/
structure Response where
  status : Nat
  value : W64
  report : Report
  deriving DecidableEq, Repr

/-- The mailbox registers (R447), the commands not yet started, and the responses (R448). -/
structure Mailbox where
  base : W64
  size : W64
  tail : W64
  head : W64
  resp : W64
  cmds : List CmdSlot
  responses : List Response
  deriving DecidableEq, Repr

/-- A DMA write to host memory. -/
structure HostWrite where
  addr : W64
  bytes : List Byte
  deriving DecidableEq, Repr

/-- A response to a CXL.mem access (R445). -/
structure CxlResp where
  addr : Nat
  write : Bool
  poison : Bool
  data : List Byte
  deriving DecidableEq, Repr

/-- A flit held in a retry buffer (R458): its number on the link, the device and context that it is for, and whether it
ends a chunk. -/
structure Flit where
  n : Nat
  payload : List Byte
  resends : Nat
  gx : Nat
  gy : Nat
  pctx : Nat
  endsChunk : Bool
  deriving DecidableEq, Repr

/-- A device link (R457 to R459): the flits held, the number of the next flit to send, and that of the next to accept. -/
structure Link where
  retry : List Flit
  next : Nat
  expect : Nat
  retraining : Bool
  fails : Nat
  down : Bool
  deriving DecidableEq, Repr

/-- What the device sends over a link (R457, R458): a flit, or an acknowledgement. -/
inductive LinkMsg
  | flit (link n : Nat) (payload : List Byte)
  | ack (link n : Nat)
  | nak (link n : Nat)
  deriving DecidableEq, Repr

/-- A chunk received over a link and not yet at its homes (R405, R457). -/
structure ChunkIn where
  link : Nat
  args : ChunkArgs
  deriving DecidableEq, Repr

/-- A log entry of measured start (R461). -/
structure Measure where
  stage : Nat
  inst : Nat
  version : W32
  digest : List Byte
  deriving DecidableEq, Repr

structure Trust where
  log : List Measure
  chain : List Byte
  deriving DecidableEq, Repr

/-! ## The model's own fields -/

/-- A fault of one lane. -/
abbrev LFlt := Nat × Flt

/-- The run to which the current instruction issues (R21): lanes, their PC, the warp as it stood at the start
of the cycle (R28), and the lanes that issue with a true guard in this cycle (R37).  `cycle` names the cycle (R29); lanes
`out` of the run have faulted already, and `pre` holds the faults that go into one raise with those of the instruction
(R420). -/
structure Issue where
  gid : Nat
  warp : Nat
  lanes : W64
  pc : W64
  snap : Warp
  busy : W64
  cycle : Nat
  out : W64
  pre : List LFlt
  deriving DecidableEq, Repr

/-- The second issue of the cycle (R21, R22): `pair` when it is the second member of a pair. -/
structure Second where
  iss : Issue
  pair : Bool
  deriving DecidableEq, Repr

/-- An entry of the agenda: an event that happens now, or an issue opportunity of the unit of a warp; and the recent
writes that a reader misses in that step, each with the lane (R126). -/
inductive Item
  | event (i : Instr) (stale : List (Nat × Nat))
  | issue (gid warp : Nat) (stale : List (Nat × Nat))
  deriving DecidableEq, Repr

/-- The stream of a rehearsal launch on a core (R409). -/
structure Stream where
  ctx : Nat
  node : Nat
  die : Nat
  core : Nat
  gid : Nat
  warp : Nat
  deriving DecidableEq, Repr

structure State where
  agenda : List Item
  /-- Counts what the part did by itself: issues and events take turns, and so do the issue units. -/
  turn : Nat
  issue : Option Issue
  second : Option Second
  fresh : Nat
  stamp : Nat
  hbm : Memory
  hbmKey : KMap Sector
  hbmErr : List Nat
  loft : Memory
  loftErr : List Nat
  /-- The owner (key generation) for which a 64-byte unit of a loft was last installed (R96). -/
  loftOwner : KMap Nat
  ctxs : KMap Ctx
  nextKey : Nat
  groups : KMap Group
  nextGid : Nat
  cbars : List ClusterBar
  duets : List Duet
  streams : List Stream
  writes : List PWrite
  recent : List Recent
  loads : List Load
  /-- The releases that later writes of a lane are, since a release `FENCE` of it (R132). -/
  fenced : List (Agent × Rel)
  /-- The releases that reads of a lane have read, and that its next acquire `FENCE` synchronises with (R132). -/
  met : List (Agent × Rel)
  /-- The recent writes that readers miss in this step, each with its lane (R126). -/
  stale : List (Nat × Nat)
  refetches : List Refetch
  walks : List Walk
  ops : List Op
  emits : List Emit
  signals : List Sig
  chunks : List ChunkIn
  dies : List Die
  lqs : KMap LQueue
  mailbox : Mailbox
  /-- What the host has placed in its memory, by address (R447, R450). -/
  hostMem : KMap HostSlot
  errLog : List LogEntry
  aborts : List Abort
  nodeStatus : List NodeStat
  notices : List Notice
  links : List Link
  limit : Nat
  trust : Trust
  hostOut : List HostWrite
  cxlOut : List CxlResp
  linkOut : List LinkMsg
  /-- Bring-up has halted (R460), or the coolant flow is lost (R465): nothing happens before the next reset. -/
  halted : Bool
  deriving DecidableEq, Repr

/-- Why a step stops the model.
Marks: DESIGN CHOICE, safe (assumption 70). -/
inductive Fault
  /-- Raised by `step` for an event that names a die, core, link, doorbell, queue or line that the part does not have
  (R2, R371, R447, R457; `Instr.eventOk`): no such event exists.  Safe. -/
  | noSuchUnit
  deriving DecidableEq, Repr

/-- Why the model gives no answer. -/
inductive Refusal
  /-- The instruction named has no meaning yet.  Raised by `exec` only.  Safe. -/
  | notModelled (mnemonic : String)
  deriving DecidableEq, Repr

/-- The outcome of an instruction or a step. -/
abbrev Out := Host.Outcome State Fault Refusal

/-! ## Reset (R463) -/

/-- A core right after reset: cores 0 to 63 enabled, the rest spare, all quadrants working (R2, R441).
Marks: DESIGN CHOICE, unsafe (assumption 8). -/
def Core.reset (k : Nat) : Core :=
  { state := if k < 64 then 0 else 1, qmask := 0xF, shown := 0, mism := 0, clock := 0, queue := [], waiting := [],
    dtlb := [], itlb := [], objs := [], accErr := false }

/-- A die right after reset, at 4,000 MHz (R2).
Marks: DESIGN CHOICE, unsafe (assumption 8). -/
def Die.reset : Die :=
  { cores := (List.range 72).map Core.reset, tlb := [], copyCtx := [], scrimCtx := [], scrimStat := [], banks := [],
    rings := [], mhz := 4000, throttled := false, lost := false, stopped := false }

def Link.reset : Link := { retry := [], next := 0, expect := 0, retraining := false, fails := 0, down := false }

/-- The stages of R460 and their instances, in the order in which R463 measures them. -/
def measuredStages : List (Nat × Nat) :=
  (1, 0) :: (List.range 8).map (fun d => (2, d)) ++ [(4, 0)] ++ (List.range 16).map (fun k => (3, k))
    ++ [(5, 0), (6, 0)]

/-- The log entry of a stage (R461): its digest and version are free values.
Marks: DESIGN CHOICE, safe (assumption 71). -/
def measure (p : Nat × Nat) : Measure :=
  { stage := p.1, inst := p.2, version := Config.imageVersion p.1 p.2,
    digest := (List.range 64).map (Config.imageDigest p.1 p.2) }

/-- The 80 bytes of a log entry (R461). -/
def Measure.bytes (m : Measure) : List Byte :=
  bytesOfWord 2 m.stage ++ bytesOfWord 2 m.inst ++ bytesOfWord 4 m.version.toNat ++ bytesOfWord 8 0 ++ m.digest

/-- The chain value after a list of entries (R461), from 64 zero bytes.
Marks: PRESUMED, unsafe (assumption 89). -/
def chainOf (log : List Measure) : List Byte :=
  log.foldl (fun h m => shake256 (h ++ m.bytes)) (List.replicate 64 0)

/-- The root of trust after the six stages. -/
def Trust.reset : Trust :=
  let log := measuredStages.map measure
  { log := log, chain := chainOf log }

/-- The mailbox right after reset.
Marks: DESIGN CHOICE, unsafe (assumption 7). -/
def Mailbox.reset : Mailbox :=
  { base := 0, size := 0, tail := 0, head := 0, resp := 0, cmds := [], responses := [] }

/-- The module right after reset.
Marks: DESIGN CHOICE, unsafe (assumptions 4, 5, 6, 7). -/
def State.reset : State :=
  { agenda := [], turn := 0, issue := none, second := none, fresh := 0, stamp := 0, hbm := [], hbmKey := [], hbmErr := [],
    loft := [], loftErr := [], loftOwner := [], ctxs := [], nextKey := 0, groups := [], nextGid := 0, cbars := [],
    duets := [], streams := [], writes := [], recent := [], loads := [],
    fenced := [], met := [], stale := [], refetches := [], walks := [], ops := [], emits := [],
    signals := [], chunks := [], dies := List.replicate 8 Die.reset, lqs := [], mailbox := Mailbox.reset,
    hostMem := [],
    errLog := [], aborts := [], nodeStatus := [], notices := [], links := List.replicate 16 Link.reset,
    limit := 4400000, trust := Trust.reset, hostOut := [], cxlOut := [], linkOut := [],
    halted := false }

end Sys2Proof.Machine
end

