-- ==== Sys2Proof/Machine/Map.lean ====
section
/-! DEFINITION. Keyed lists: read and write by key, the keys kept strictly rising. -/

namespace Sys2Proof.Machine

/-- The value at a key. -/
def mapGet {β : Type} : KMap β → Nat → Option β
  | [], _ => none
  | (k, v) :: m, i => if i = k then some v else if i < k then none else mapGet m i

/-- Write a value at a key. -/
def mapSet {β : Type} : KMap β → Nat → β → KMap β
  | [], i, x => [(i, x)]
  | (k, v) :: m, i, x =>
    if i = k then (k, x) :: m else if i < k then (i, x) :: (k, v) :: m else (k, v) :: mapSet m i x

/-- Remove a key. -/
def mapErase {β : Type} : KMap β → Nat → KMap β
  | [], _ => []
  | (k, v) :: m, i => if i = k then m else if i < k then (k, v) :: m else (k, v) :: mapErase m i

/-- Change the value at a key, if there is one. -/
def mapMod {β : Type} : KMap β → Nat → (β → β) → KMap β
  | [], _, _ => []
  | (k, v) :: m, i, f => if i = k then (k, f v) :: m else if i < k then (k, v) :: m else (k, v) :: mapMod m i f

/-- The keys of a list lie above `lo` and rise strictly. -/
def mapSorted {β : Type} : Option Nat → KMap β → Bool
  | _, [] => true
  | lo, (k, _) :: m => (match lo with | none => true | some l => decide (l < k)) && mapSorted (some k) m

/-- The word at a key: zero where none is listed. -/
def zget {w : Nat} (m : ZMap w) (i : Nat) : BitVec w := (mapGet m i).getD 0

/-- Write a word: a word of zero is not listed. -/
def zset {w : Nat} (m : ZMap w) (i : Nat) (x : BitVec w) : ZMap w :=
  if x = 0 then mapErase m i else mapSet m i x

/-- The canonical form of a list of words: keys strictly rising, no word of zero. -/
def zwf {w : Nat} (m : ZMap w) : Bool := mapSorted none m && m.all fun c => c.2 != 0

/-- The canonical form of a memory. -/
abbrev Memory.wf (m : Memory) : Bool := zwf m

/-- One byte. -/
def readByte (m : Memory) (a : Nat) : Byte := zget m a

/-- The `n` bytes from `a`. -/
def readBytes (m : Memory) (a : Nat) : Nat → List Byte
  | 0 => []
  | n + 1 => readByte m a :: readBytes m (a + 1) n

/-- Write bytes from `a`. -/
def writeBytes (m : Memory) (a : Nat) : List Byte → Memory
  | [] => m
  | b :: bs => writeBytes (zset m a b) (a + 1) bs

/-- The number that bytes hold, little-endian (R4). -/
def leNat (bs : List Byte) : Nat := wordOfBytes bs

/-- The number in the `n` bytes from `a`. -/
def readNat (m : Memory) (a n : Nat) : Nat := leNat (readBytes m a n)

/-- Element `i` of a list, changed. -/
def listMod {α : Type} : List α → Nat → (α → α) → List α
  | [], _, _ => []
  | x :: xs, 0, f => f x :: xs
  | x :: xs, n + 1, f => x :: listMod xs n f

/-- Map with the index, counted from `k`. -/
def mapFrom {α β : Type} (k : Nat) (f : Nat → α → β) : List α → List β
  | [] => []
  | x :: xs => f k x :: mapFrom (k + 1) f xs

/-- Insert into a list of rising numbers. -/
def insertNat : List Nat → Nat → List Nat
  | [], x => [x]
  | y :: ys, x => if x = y then y :: ys else if x < y then x :: y :: ys else y :: insertNat ys x

/-- Ceiling division. -/
def ceilDiv (a b : Nat) : Nat := (a + b - 1) / b

/-- The least number of a list. -/
def listMin : List Nat → Option Nat
  | [] => none
  | x :: xs => match listMin xs with
    | none => some x
    | some y => some (min x y)

/-- Insert into a list by a key, after those of an equal key. -/
def insertBy {α : Type} (key : α → Nat) (x : α) : List α → List α
  | [] => [x]
  | y :: ys => if key x < key y then x :: y :: ys else y :: insertBy key x ys

/-- A stable sort by a key. -/
def sortBy {α : Type} (key : α → Nat) (rs : List α) : List α := rs.foldl (fun acc r => insertBy key r acc) []

end Sys2Proof.Machine
end

