-- ==== Sys2Proof/Machine/Num.lean ====
section
/-! DEFINITION. Floating-point values: formats, one rounding, and the exact operations (R49 to R58).

A finite value is a sign, an integer and an exponent of two.  A `sticky` bit beside an integer says that the
exact value lies strictly above it and below the next integer. -/

namespace Sys2Proof.Machine

/-! ## Flags (R77) -/

def fIV : W32 := 0x001
def fDZ : W32 := 0x002
def fOF : W32 := 0x004
def fUF : W32 := 0x008
def fNX : W32 := 0x010
def fLUP : W32 := 0x020
def fLDN : W32 := 0x040
def fNAR : W32 := 0x080
def fSAT : W32 := 0x100

/-- The number that `n` bits stand for. -/
def toNum (n : Nat) (sg : Bool) (x : Nat) : Int :=
  if sg && decide (2 ^ (n - 1) ≤ x) then (x : Int) - 2 ^ n else x

/-! ## Formats (R49) -/

/-- A format: exponent and fraction widths, bias, and whether it has infinities. -/
structure Fmt where
  eb : Nat
  mb : Nat
  bias : Nat
  hasInf : Bool
  deriving DecidableEq, Repr

def fmtF64 : Fmt := { eb := 11, mb := 52, bias := 1023, hasInf := true }
def fmtF32 : Fmt := { eb := 8, mb := 23, bias := 127, hasInf := true }
def fmtF16 : Fmt := { eb := 5, mb := 10, bias := 15, hasInf := true }
def fmtBF16 : Fmt := { eb := 8, mb := 7, bias := 127, hasInf := true }
def fmtE5M2 : Fmt := { eb := 5, mb := 2, bias := 15, hasInf := true }
def fmtE4M3 : Fmt := { eb := 4, mb := 3, bias := 7, hasInf := false }
def fmtE2M1 : Fmt := { eb := 2, mb := 1, bias := 1, hasInf := false }

/-- The format of a type code. -/
def fmtOf : NumType → Fmt
  | .f64 => fmtF64
  | .f16 => fmtF16
  | .bf16 => fmtBF16
  | .e4m3 => fmtE4M3
  | .e5m2 => fmtE5M2
  | _ => fmtF32

/-- The code of the largest finite magnitude. -/
def Fmt.maxCode (f : Fmt) : Nat :=
  if f.hasInf then (2 ^ f.eb - 1) * 2 ^ f.mb - 1
  else if f.mb = 1 then 7 else 2 ^ (f.eb + f.mb) - 2

/-- The code of the sign bit. -/
def Fmt.signBit (f : Fmt) : Nat := 2 ^ (f.eb + f.mb)

/-- The code of +infinity. -/
def Fmt.infCode (f : Fmt) : Nat := (2 ^ f.eb - 1) * 2 ^ f.mb

/-- The canonical NaN (R51); E2M1 has none and gives +0 (R57). -/
def Fmt.nanCode (f : Fmt) : Nat :=
  if f.hasInf then f.infCode + 2 ^ (f.mb - 1) else if f.mb = 1 then 0 else 2 ^ (f.eb + f.mb) - 1

/-- A value: NaN (signalling or quiet), an infinity, or the finite value (-1)^neg * m * 2^e. -/
inductive FV
  | nan (signalling : Bool)
  | inf (neg : Bool)
  | fin (neg : Bool) (m : Nat) (e : Int)
  deriving DecidableEq, Repr

/-- The value of a code (R49, R51). -/
def fdecode (f : Fmt) (code : Nat) : FV :=
  let c := code % (2 * f.signBit)
  let neg := decide (f.signBit ≤ c)
  let mag := c % f.signBit
  let e := mag / 2 ^ f.mb
  let m := mag % 2 ^ f.mb
  if f.hasInf && e == 2 ^ f.eb - 1 then
    if m = 0 then .inf neg else .nan (decide (m < 2 ^ (f.mb - 1)))
  else if !f.hasInf && f.mb == 3 && mag == 2 ^ (f.eb + f.mb) - 1 then .nan false
  else if e = 0 then .fin neg m (1 - (f.bias : Int) - f.mb)
  else .fin neg (2 ^ f.mb + m) ((e : Int) - f.bias - f.mb)

def signOf (f : Fmt) (neg : Bool) : Nat := if neg then f.signBit else 0

/-- Number of bits of a natural number. -/
def bitLen (m : Nat) : Nat := if m = 0 then 0 else Nat.log2 m + 1

/-! ## Rounding (R52, R53) -/

/-- Does an inexact value round away from zero?  `half` compares the dropped part with one half. -/
def roundsUp (rnd : Rnd) (neg odd : Bool) (half : Ordering) (exact : Bool) : Bool :=
  match rnd with
  | .rn => half == .gt || (half == .eq && odd)
  | .rna => half != .lt
  | .rz => false
  | .ru => !neg && !exact
  | .rd => neg && !exact

/-- `m * 2^e` (and a little more when `sticky`) as a multiple of `2^q`: the rounded integer and whether it
is exact. -/
def roundAt (rnd : Rnd) (neg : Bool) (m : Nat) (e q : Int) (sticky : Bool) : Nat × Bool :=
  if q ≤ e then
    let k := m * 2 ^ (e - q).toNat
    let up := roundsUp rnd neg (k % 2 == 1) .lt (!sticky)
    (if up then k + 1 else k, !sticky)
  else
    let s := (q - e).toNat
    let k := m / 2 ^ s
    let r := m % 2 ^ s
    let h := 2 ^ (s - 1)
    let half := if r < h then Ordering.lt else if r = h && !sticky then .eq else .gt
    let exact := r == 0 && !sticky
    (if roundsUp rnd neg (k % 2 == 1) half exact then k + 1 else k, exact)

/-- Does the mode round a magnitude beyond the largest finite value away from zero (R53)? -/
def roundsAway (rnd : Rnd) (neg : Bool) : Bool :=
  match rnd with
  | .rn | .rna => true
  | .rz => false
  | .ru => !neg
  | .rd => neg

/-- The overflowed result: the largest finite value or an infinity, as the mode rounds (R53); under `.sat` the largest
finite value with SAT where that would be an infinity (R54), and always into the formats of R57. -/
def foverflow (f : Fmt) (rnd : Rnd) (sat neg : Bool) : Nat × W32 :=
  if !f.hasInf || (sat && (roundsAway rnd neg || f.mb == 2)) then (signOf f neg + f.maxCode, fOF ||| fNX ||| fSAT)
  else (signOf f neg + (if roundsAway rnd neg then f.infCode else f.maxCode), fOF ||| fNX)

/-- A finite nonzero value rounded once to a format, with its flags (R52 to R54, R57). -/
def fround (f : Fmt) (rnd : Rnd) (sat neg : Bool) (m : Nat) (e : Int) (sticky : Bool) : Nat × W32 :=
  if m = 0 && !sticky then (signOf f neg, 0)
  else
    let top := e + (bitLen m : Int) - 1
    let emin := 1 - (f.bias : Int)
    let qn := top - f.mb
    let q := max qn (emin - f.mb)
    let (k, exact) := roundAt rnd neg m e q sticky
    let code := (q + f.mb + f.bias).toNat * 2 ^ f.mb + k - 2 ^ f.mb
    if f.maxCode < code then foverflow f rnd sat neg
    else
      let kn := (roundAt rnd neg m e qn sticky).1
      let tiny := decide (top < emin) && decide ((bitLen kn : Int) + qn - 1 < emin)
      let nx := if exact then 0 else if tiny then fNX ||| fUF else fNX
      (signOf f neg + code, nx)

/-- A result: code and flags. -/
abbrev FRes := Nat × W32

/-- The NaN result: IV when `iv` (R51, R53). -/
def fnan (f : Fmt) (iv : Bool) : FRes := (f.nanCode, if iv then fIV else 0)

def FV.isNaN : FV → Bool
  | .nan _ => true
  | _ => false

def FV.isSig : FV → Bool
  | .nan s => s
  | _ => false

def FV.isZero : FV → Bool
  | .fin _ 0 _ => true
  | _ => false

def FV.isInf : FV → Bool
  | .inf _ => true
  | _ => false

def FV.neg : FV → FV
  | .nan s => .nan s
  | .inf n => .inf !n
  | .fin n m e => .fin (!n) m e

def FV.isNeg : FV → Bool
  | .nan _ => false
  | .inf n => n
  | .fin n _ _ => n

/-- A signed integer at an exponent: the exact value of a finite operand. -/
def signed (neg : Bool) (m : Nat) : Int := if neg then -(m : Int) else m

/-- The exact sum of two finite values: integer and exponent. -/
def addExact (n1 : Bool) (m1 : Nat) (e1 : Int) (n2 : Bool) (m2 : Nat) (e2 : Int) : Int × Int :=
  let e := min e1 e2
  (signed n1 m1 * 2 ^ (e1 - e).toNat + signed n2 m2 * 2 ^ (e2 - e).toNat, e)

/-- The sum of two values rounded once; the sign of an exact zero sum follows R53. -/
def fadd (f : Fmt) (rnd : Rnd) (sat : Bool) (x y : FV) : FRes :=
  if x.isSig || y.isSig then fnan f true
  else match x, y with
    | .nan _, _ => fnan f false
    | _, .nan _ => fnan f false
    | .inf a, .inf b => if a = b then (signOf f a + f.infCode, 0) else fnan f true
    | .inf a, _ => (signOf f a + f.infCode, 0)
    | _, .inf b => (signOf f b + f.infCode, 0)
    | .fin n1 m1 e1, .fin n2 m2 e2 =>
      let (z, e) := addExact n1 m1 e1 n2 m2 e2
      if z = 0 then
        if n1 = n2 then (signOf f n1, 0) else (signOf f (rnd == .rd), 0)
      else fround f rnd sat (decide (z < 0)) z.natAbs e false

/-- The exact product of two values, when it is not invalid. -/
def fmulExact (x y : FV) : Option FV :=
  match x, y with
  | .nan s, _ => some (.nan s)
  | _, .nan s => some (.nan s)
  | .inf a, .inf b => some (.inf (a != b))
  | .inf a, .fin b m _ => if m = 0 then none else some (.inf (a != b))
  | .fin a m _, .inf b => if m = 0 then none else some (.inf (a != b))
  | .fin a m1 e1, .fin b m2 e2 => some (.fin (a != b) (m1 * m2) (e1 + e2))

/-- A value rounded to a format. -/
def froundV (f : Fmt) (rnd : Rnd) (sat : Bool) : FV → FRes
  | .nan s => fnan f s
  | .inf n => (signOf f n + f.infCode, 0)
  | .fin n m e => fround f rnd sat n m e false

def fmul (f : Fmt) (rnd : Rnd) (sat : Bool) (x y : FV) : FRes :=
  if x.isSig || y.isSig then fnan f true
  else match fmulExact x y with
    | none => fnan f true
    | some p => froundV f rnd sat p

/-- x * y + z, rounded once. -/
def ffma (f : Fmt) (rnd : Rnd) (sat : Bool) (x y z : FV) : FRes :=
  if x.isSig || y.isSig || z.isSig then fnan f true
  else match fmulExact x y with
    | none => fnan f true
    | some p => fadd f rnd sat p z

/-- Two integers divided to `extra` bits beyond the quotient of their lengths: integer, exponent, sticky. -/
def divExact (m1 : Nat) (e1 : Int) (m2 : Nat) (e2 : Int) : Nat × Int × Bool :=
  let k := bitLen m2 + 64
  let n := m1 * 2 ^ k
  (n / m2, e1 - e2 - k, n % m2 != 0)

def fdiv (f : Fmt) (rnd : Rnd) (sat : Bool) (x y : FV) : FRes :=
  if x.isSig || y.isSig then fnan f true
  else match x, y with
    | .nan _, _ => fnan f false
    | _, .nan _ => fnan f false
    | .inf _, .inf _ => fnan f true
    | .inf a, .fin b _ _ => (signOf f (a != b) + f.infCode, 0)
    | .fin a _ _, .inf b => (signOf f (a != b), 0)
    | .fin a m1 e1, .fin b m2 e2 =>
      if m2 = 0 then
        if m1 = 0 then fnan f true else (signOf f (a != b) + f.infCode, fDZ)
      else if m1 = 0 then (signOf f (a != b), 0)
      else
        let (q, e, st) := divExact m1 e1 m2 e2
        fround f rnd sat (a != b) q e st

/-- The integer square root, one bit at a time from bit `i - 1`. -/
def isqrtFrom (x : Nat) : Nat → Nat → Nat
  | 0, r => r
  | i + 1, r => if (r + 2 ^ i) * (r + 2 ^ i) ≤ x then isqrtFrom x i (r + 2 ^ i) else isqrtFrom x i r

def isqrt (x : Nat) : Nat := isqrtFrom x (bitLen x / 2 + 1) 0

/-- The square root of `m * 2^e` to at least 64 bits: integer, exponent, sticky. -/
def sqrtExact (m : Nat) (e : Int) : Nat × Int × Bool :=
  let k : Nat := 128 + (if e % 2 = 0 then 0 else 1)
  let n := m * 2 ^ k
  let r := isqrt n
  (r, (e - k) / 2, r * r != n)

/-- Compare two values that are not NaN: -0 equals +0. -/
def fcompare (x y : FV) : Ordering :=
  match x, y with
  | .inf a, .inf b => if a = b then .eq else if a then .lt else .gt
  | .inf a, _ => if a then .lt else .gt
  | _, .inf b => if b then .gt else .lt
  | .fin n1 m1 e1, .fin n2 m2 e2 =>
    let (z, _) := addExact n1 m1 e1 (!n2) m2 e2
    compare z 0
  | _, _ => .eq

/-- A comparison of R274. -/
def fcmpHolds (c : Cmp) (x y : FV) : Bool :=
  if x.isNaN || y.isNaN then c == .ne || c == .un
  else
    let o := fcompare x y
    match c with
    | .eq => o == .eq
    | .ne => o != .eq
    | .lt => o == .lt
    | .le => o != .gt
    | .gt => o == .gt
    | .ge => o != .lt
    | .un => false
    | .ord => true

/-- Smaller (or larger) of two codes under R263 and R273: -0 below +0, a lone NaN ignored. -/
def fminmax (f : Fmt) (isMax : Bool) (a b : Nat) : FRes :=
  let x := fdecode f a
  let y := fdecode f b
  let fl := if x.isSig || y.isSig then fIV else 0
  if x.isNaN && y.isNaN then (f.nanCode, fl)
  else if x.isNaN then (b % (2 * f.signBit), fl)
  else if y.isNaN then (a % (2 * f.signBit), fl)
  else
    let less := match fcompare x y with
      | .lt => true
      | .gt => false
      | .eq => x.isNeg
    (if less == isMax then b % (2 * f.signBit) else a % (2 * f.signBit), fl)

/-! ## Conversions (R57, R58) -/

/-- Float to float: `sat` acts on the formats of R54 and R57. -/
def fconvert (g : Fmt) (rnd : Rnd) (sat : Bool) (x : FV) : FRes :=
  match x with
  | .nan s => if g.mb = 1 then (0, fIV) else fnan g s
  | .inf n =>
    if !g.hasInf then (signOf g n + g.maxCode, fSAT)
    else if sat && g.mb == 2 then (signOf g n + g.maxCode, fSAT)
    else (signOf g n + g.infCode, 0)
  | .fin n m e => fround g rnd sat n m e false

/-- The integer range of a type. -/
def intRange (n : Nat) (sg : Bool) : Int × Int :=
  if sg then (-(2 ^ (n - 1) : Int), 2 ^ (n - 1) - 1) else (0, 2 ^ n - 1)

/-- An exact integer reduced modulo 2^n, or clamped with SAT (R55): the value and its flags. -/
def intFit (n : Nat) (sg sat : Bool) (x : Int) : Int × W32 :=
  if sat then
    let (lo, hi) := intRange n sg
    if x < lo then (lo, fSAT) else if hi < x then (hi, fSAT) else (x, 0)
  else if sg then (Int.bmod x (2 ^ n), 0) else (x % 2 ^ n, 0)

/-- Float to integer (R58). -/
def fToInt (n : Nat) (sg : Bool) (rnd : Rnd) (x : FV) : Int × W32 :=
  let (lo, hi) := intRange n sg
  match x with
  | .nan _ => (0, fIV)
  | .inf neg => (if neg then lo else hi, fSAT)
  | .fin neg m e =>
    let (k, exact) := roundAt rnd neg m e 0 false
    let z := signed neg k
    if z < lo then (lo, fSAT ||| fNX) else if hi < z then (hi, fSAT ||| fNX)
    else (z, if exact then 0 else fNX)

/-- Integer to float (R58). -/
def intToF (g : Fmt) (rnd : Rnd) (sat : Bool) (z : Int) : FRes :=
  fround g rnd sat (decide (z < 0)) z.natAbs 0 false

/-! ## Fixed-point functions, for results that are never exact

An approximation is an integer in units of `2^-P` with an error of less than eight units. -/

/-- Sum of the Taylor series of e^x, x in units of `2^-p`, 0 <= x < 1. -/
def expTerms (p : Nat) (x : Nat) : Nat → Nat → Nat → Nat
  | 0, _, _ => 0
  | fuel + 1, k, t => if t = 0 then 0 else t + expTerms p x fuel (k + 1) (t * x / 2 ^ p / k)

/-- Sum of x^(2k+1)/(2k+1), x = num/den: atanh when `alt` is false, atan when true. -/
def atTerms (alt : Bool) (n2 d2 : Nat) : Nat → Nat → Nat → Int
  | 0, _, _ => 0
  | fuel + 1, k, t =>
    if t = 0 then 0
    else
      let u : Int := (t / (2 * k + 1) : Nat)
      (if alt && k % 2 == 1 then -u else u) + atTerms alt n2 d2 fuel (k + 1) (t * n2 / d2)

def atSeries (alt : Bool) (p num den : Nat) : Int :=
  atTerms alt (num * num) (den * den) (p + 8) 0 (2 ^ p * num / den)

/-- Guard bits of the fixed-point functions. -/
def fxGuard : Nat := 64

/-- ln 2 in units of `2^-q`. -/
def fxLn2 (q : Nat) : Int := 2 * atSeries false q 1 3

/-- pi in units of `2^-q`. -/
def fxPi (q : Nat) : Int := 16 * atSeries true q 1 5 - 4 * atSeries true q 1 239

/-- e^x for x in units of `2^-p`: mantissa in units of `2^-p` between 1 and 2 or so, and a power of two. -/
def fxExp (p : Nat) (x : Int) : Nat × Int :=
  let q := p + fxGuard
  let ln2 := fxLn2 (q + 64)
  let n := x * 2 ^ (fxGuard + 64) / ln2
  let r := (x * 2 ^ (fxGuard + 64) - n * ln2) / 2 ^ 64
  (expTerms q r.toNat (q + 8) 1 (2 ^ q) / 2 ^ fxGuard, n)

/-- ln of `m * 2^e`, m > 0, in units of `2^-p`. -/
def fxLn (p : Nat) (m : Nat) (e : Int) : Int :=
  let q := p + fxGuard
  let l := bitLen m
  let num := m - 2 ^ (l - 1)
  let den := m + 2 ^ (l - 1)
  ((e + (l : Int) - 1) * fxLn2 (q + 64) / 2 ^ 64 + 2 * atSeries false q num den) / 2 ^ fxGuard

/-- Terms of the series of sin (from k = 1) or cos (from k = 0) of x, in units of `2^-q`. -/
def trigTerms (q : Nat) (x2 : Int) : Nat → Nat → Int → Int
  | 0, _, _ => 0
  | fuel + 1, k, t =>
    if t = 0 then 0 else t + trigTerms q x2 fuel (k + 2) (-(t * x2 / 2 ^ q / ((k + 1) * (k + 2))))

/-- sin or cos of `m * 2^e` in units of `2^-p`, by exact reduction modulo pi/2. -/
def fxTrig (isCos : Bool) (p m : Nat) (e : Int) : Int :=
  let q := p + fxGuard
  let big := q + 256
  let half := fxPi big / 2
  let x : Int := (m : Int) * 2 ^ (e + big).toNat
  let n := (x + half / 2) / half
  let r := (x - n * half) / 2 ^ 256
  let x2 := r * r / 2 ^ q
  let quad := (n + (if isCos then 1 else 0)) % 4
  let v := if quad % 2 = 0 then trigTerms q x2 (q + 8) 1 r else trigTerms q x2 (q + 8) 0 (2 ^ q)
  (if quad < 2 then v else -v) / 2 ^ fxGuard

/-- The precisions tried, in turn, until both ends of the error interval round alike.
Marks: DESIGN CHOICE, unsafe (assumption 74). -/
def precisions : List Nat := [96, 192, 384, 768, 1536]

/-- The first precision at which the two ends agree; the last one's lower end otherwise.
Marks: DESIGN CHOICE, unsafe (assumption 74). -/
def settle {α : Type} [DecidableEq α] (f : Nat → α × α) : List Nat → α
  | [] => (f 96).1
  | [p] => (f p).1
  | p :: ps => let r := f p; if r.1 = r.2 then r.1 else settle f ps

/-- A signed fixed-point interval of eight units about `v * 2^e`, rounded RN at both ends; never exact. -/
def froundIv (f : Fmt) (sat : Bool) (v e : Int) : FRes × FRes :=
  let lo := v - 8
  let hi := v + 8
  (fround f .rn sat (decide (lo < 0)) (if lo < 0 then lo.natAbs - 1 else lo.natAbs) e true,
   fround f .rn sat (decide (hi < 0)) (if hi < 0 then hi.natAbs - 1 else hi.natAbs) e true)

/-! ## The special functions (R283, R284), correctly rounded -/

def fF32 : Fmt := fmtF32

def frcp (sat : Bool) (x : FV) : FRes := fdiv fF32 .rn sat (.fin false 1 0) x

def fsqrt (sat : Bool) (x : FV) : FRes :=
  match x with
  | .nan s => fnan fF32 s
  | .inf n => if n then fnan fF32 true else (fF32.infCode, 0)
  | .fin n m e =>
    if m = 0 then (signOf fF32 n, 0) else if n then fnan fF32 true
    else
      let (r, q, st) := sqrtExact m e
      fround fF32 .rn sat false r q st

def frsq (sat : Bool) (x : FV) : FRes :=
  match x with
  | .nan s => fnan fF32 s
  | .inf n => if n then fnan fF32 true else (0, 0)
  | .fin n m e =>
    if m = 0 then (signOf fF32 n + fF32.infCode, fDZ) else if n then fnan fF32 true
    else
      let k : Nat := 256 + (if e % 2 = 0 then 0 else 1)
      let y := 2 ^ k / m
      let r := isqrt y
      fround fF32 .rn sat false r ((-e - k) / 2) (r * r != y || 2 ^ k % m != 0)

def fex2 (sat : Bool) (x : FV) : FRes :=
  match x with
  | .nan s => fnan fF32 s
  | .inf n => if n then (0, 0) else (fF32.infCode, 0)
  | .fin n m e =>
    if m = 0 then (127 * 2 ^ 23, 0)
    else if 0 ≤ e then
      let z := signed n (m * 2 ^ (min e 12).toNat)
      fround fF32 .rn sat false 1 (max (-4096) (min 4096 z)) false
    else if m % 2 ^ (-e).toNat = 0 then
      fround fF32 .rn sat false 1 (max (-4096) (min 4096 (signed n (m / 2 ^ (-e).toNat)))) false
    else if 12 < (bitLen m : Int) + e then fround fF32 .rn sat false 1 (if n then -4096 else 4096) true
    else
      settle (fun p =>
        let q := p + fxGuard
        let a := signed n m * 2 ^ (q + 160) / 2 ^ (-e).toNat
        let whole := a / 2 ^ (q + 160)
        let frac := (a - whole * 2 ^ (q + 160)) / 2 ^ 160
        let (w, k) := fxExp p (frac * fxLn2 q / 2 ^ q / 2 ^ fxGuard)
        froundIv fF32 sat w (k + whole - p)) precisions

def flg2 (sat : Bool) (x : FV) : FRes :=
  match x with
  | .nan s => fnan fF32 s
  | .inf n => if n then fnan fF32 true else (fF32.infCode, 0)
  | .fin n m e =>
    if m = 0 then (fF32.signBit + fF32.infCode, fDZ) else if n then fnan fF32 true
    else
      let l := bitLen m
      let t := e + (l : Int) - 1
      if m = 2 ^ (l - 1) then fround fF32 .rn sat (decide (t < 0)) t.natAbs 0 false
      else
        settle (fun p =>
          let q := p + fxGuard
          froundIv fF32 sat ((t * 2 ^ q + fxLn q m (1 - (l : Int)) * 2 ^ q / fxLn2 q) / 2 ^ fxGuard) (-(p : Int)))
          precisions

def ftrig (isCos sat : Bool) (x : FV) : FRes :=
  match x with
  | .nan s => fnan fF32 s
  | .inf _ => fnan fF32 true
  | .fin n m e =>
    if m = 0 then (if isCos then 127 * 2 ^ 23 else signOf fF32 n, 0)
    else if (bitLen m : Int) + e < -40 then
      if isCos then (127 * 2 ^ 23, fNX)
      else fround fF32 .rn sat n (m * 2 ^ 40 - 1) (e - 40) true
    else
      settle (fun p =>
        let v := fxTrig isCos p m e
        froundIv fF32 sat (if n && !isCos then -v else v) (-(p : Int))) precisions

end Sys2Proof.Machine
end

