-- ==== Sys2Proof/Machine/Sli.lean ====
section
/-! DEFINITION. Symmetric level-index arithmetic (R64 to R74, R288 to R293).

An operand is read as a sign and an index; the index `mu` of R66 is an integer in units of `2^-F`.  The logarithm
of a nonzero value is `+-phi(p)`, where `p` is one below the operand's `x`, so that sums and products are sums of
logarithms, computed in intervals of fixed point.  Where `phi(p)` passes `e^60`, the other operand moves the
index by less than `2^-80`, and the rounded result is the operand with the larger `p`. -/

namespace Sys2Proof.Machine

/-- Fraction width of the type (R64). -/
def sliF (t : NumType) : Nat := if t = .sli16 then 11 else 27

/-- An SLI operand (R65): `neg`, `r`, and `x` in units of `2^-F`; a one with r = 1 reads as one. -/
inductive SV
  | zero
  | nar
  | val (neg r : Bool) (x : Nat)
  deriving DecidableEq, Repr

def sdecode (F code : Nat) : SV :=
  let x := code % 2 ^ (F + 3)
  let r := code / 2 ^ (F + 3) % 2 == 1
  let neg := code / 2 ^ (F + 4) % 2 == 1
  if x < 2 ^ F then (if r then .nar else .zero)
  else .val neg (r && x != 2 ^ F) x

/-- The level an operand has for LUP and LDN (R77): that of a nonzero, non-NaR operand. -/
def SV.level (F : Nat) : SV → Option Nat
  | .val _ _ x => some (x / 2 ^ F)
  | _ => none

def sliOne (F : Nat) : Int := 2 ^ F
def sliMax (F : Nat) : Int := 8 * 2 ^ F - 1
def sliMin (F : Nat) : Int := -6 * 2 ^ F + 1
def sliNarCode (F : Nat) : Nat := 2 ^ (F + 3)

/-- The code of a sign and an index, clamped to the range of R66. -/
def sencode (F : Nat) (neg : Bool) (mu : Int) : Nat :=
  let m := max (sliMin F) (min (sliMax F) mu)
  (if neg then 2 ^ (F + 4) else 0) +
    (if sliOne F ≤ m then m.toNat else 2 ^ (F + 3) + (2 * sliOne F - m).toNat)

/-- The index of an operand. -/
def svMu (F : Nat) (r : Bool) (x : Nat) : Int := if r then 2 * sliOne F - x else x

/-- A rounded value with the flags NX, LUP and LDN (R77, R288). -/
def sliValue (F : Nat) (levels : List Nat) (neg : Bool) (mu : Int) (exact : Bool) : FRes :=
  let code := sencode F neg mu
  let lv := code % 2 ^ (F + 3) / 2 ^ F
  let up := if !levels.isEmpty && levels.all (fun l => decide (l < lv)) then fLUP else 0
  let dn := if !levels.isEmpty && levels.all (fun l => decide (lv < l)) then fLDN else 0
  (code, up ||| dn ||| (if exact then 0 else fNX))

def sliNar (F : Nat) (iv : Bool) : FRes := (sliNarCode F, if iv then fNAR ||| fIV else fNAR)
def sliZero : FRes := (0, 0)

/-! ## Intervals in units of `2^-P` -/

structure Iv where
  lo : Int
  hi : Int
  deriving DecidableEq, Repr

def Iv.neg (v : Iv) : Iv := { lo := -v.hi, hi := -v.lo }
def Iv.add (a b : Iv) : Iv := { lo := a.lo + b.lo, hi := a.hi + b.hi }
def Iv.sub (a b : Iv) : Iv := a.add b.neg

/-- `m * 2^n` rounded down. -/
def shiftDown (m n : Int) : Int := if 0 ≤ n then m * 2 ^ n.toNat else m / 2 ^ (-n).toNat

def Iv.exp (p : Nat) (v : Iv) : Iv :=
  let (a, n) := fxExp p v.lo
  let (b, k) := fxExp p v.hi
  { lo := shiftDown ((a : Int) - 8) n, hi := shiftDown ((b : Int) + 8) k + 1 }

/-- ln of an interval above zero; `none` when it is not. -/
def Iv.ln (p : Nat) (v : Iv) : Option Iv :=
  if v.lo ≤ 0 then none
  else some { lo := fxLn p v.lo.toNat (-(p : Int)) - 8, hi := fxLn p v.hi.toNat (-(p : Int)) + 8 }

/-- phi of `x` in units of `2^-F` (R64), by level; `none` above `e^60`. -/
def phiIv (F p : Nat) : Nat → Nat → Option Iv
  | 0, x => some { lo := x * 2 ^ (p - F), hi := x * 2 ^ (p - F) }
  | lv + 1, x =>
    match phiIv F p lv (x - 2 ^ F) with
    | none => none
    | some v => if 60 * 2 ^ p < v.lo then none else some (v.exp p)

/-- phi at an index below its own level count. -/
def phiOf (F p x : Nat) : Option Iv := phiIv F p (x / 2 ^ F) x

/-- The inverse of phi at a number, from below or from above. -/
def phiInv (p : Nat) (up : Bool) : Nat → Int → Int
  | 0, x => x
  | fuel + 1, x =>
    if x < 2 ^ p then x
    else 2 ^ p + phiInv p up fuel (max 0 (fxLn p x.toNat (-(p : Int)) + (if up then 8 else -8)))

/-- e^-d for an interval d at or above zero. -/
def expNeg (p : Nat) (d : Iv) : Iv := if (p : Int) * 2 ^ p < d.lo then { lo := 0, hi := 1 } else d.neg.exp p

/-- ln(1 + t) or ln(1 - t). -/
def lnOne (p : Nat) (minus : Bool) (t : Iv) : Option Iv :=
  let one : Iv := { lo := 2 ^ p, hi := 2 ^ p }
  (if minus then one.sub t else one.add t).ln p

/-- To the nearest multiple of `2^-F`, ties to even. -/
def roundMu (F p : Nat) (v : Int) : Int :=
  let s : Int := 2 ^ (p - F)
  let k := v / s
  let r := v - k * s
  if 2 * r < s then k else if s < 2 * r then k + 1 else if k % 2 = 0 then k else k + 1

/-- The two candidate indices of a value whose logarithm lies in the interval (R66): `1 +- phi^-1(|L|)`, plus
`off` more levels. -/
def muOfLog (F p : Nat) (L : Iv) : Int × Int :=
  let one : Int := 2 ^ p
  let at_ := fun (up : Bool) (l : Int) =>
    if 0 ≤ l then one + phiInv p up 6 l else one - phiInv p (!up) 6 (-l)
  (roundMu F p (at_ false L.lo), roundMu F p (at_ true L.hi))

/-- Two answers that differ: not settled at this precision.
Marks: DESIGN CHOICE, unsafe (assumption 74). -/
def unsettled : Int × Int := (0, 1)

/-! ## Sums (R70) -/

/-- The index of |A +- B|, where |A| >= |B| and the result is not zero: `sa`, `sb` are the signs of the logarithms
and `p`, `q` their indices.
Marks: DESIGN CHOICE, unsafe (assumption 74). -/
def sumMu (F : Nat) (sa : Bool) (p : Nat) (sb : Bool) (q : Nat) (minus : Bool) : Int :=
  settle (fun pr =>
    match phiOf F pr p with
    | none => let m := if sa then sliOne F - p else sliOne F + p; (m, m)
    | some a =>
      let la := if sa then a.neg else a
      let t : Iv := match phiOf F pr q with
        | none => { lo := 0, hi := 1 }
        | some b => expNeg pr (la.sub (if sb then b.neg else b))
      match lnOne pr minus t with
      | none => unsettled
      | some d => muOfLog F pr (la.add d)) precisions

/-- A value as the sign of its logarithm and the logarithm's index. -/
def svLog (F : Nat) (r : Bool) (x : Nat) : Bool × Nat := (r, x - 2 ^ F)

def sliAdd (F : Nat) (a b : SV) : FRes :=
  match a, b with
  | .nar, _ => sliNar F false
  | _, .nar => sliNar F false
  | .zero, .zero => sliZero
  | .zero, .val n r x => sliValue F [x / 2 ^ F] n (svMu F r x) true
  | .val n r x, .zero => sliValue F [x / 2 ^ F] n (svMu F r x) true
  | .val n1 r1 x1, .val n2 r2 x2 =>
    let m1 := svMu F r1 x1
    let m2 := svMu F r2 x2
    let lv := [x1 / 2 ^ F, x2 / 2 ^ F]
    if m1 = m2 && n1 != n2 then sliZero
    else if m2 ≤ m1 then sliValue F lv n1 (sumMu F r1 (x1 - 2 ^ F) r2 (x2 - 2 ^ F) (n1 != n2)) false
    else sliValue F lv n2 (sumMu F r2 (x2 - 2 ^ F) r1 (x1 - 2 ^ F) (n1 != n2)) false

def SV.negate : SV → SV
  | .val n r x => .val (!n) r x
  | v => v

/-! ## Products and quotients (R70) -/

/-- The index of the value whose logarithm is `+-phi(p) +- phi(q)`, with p >= q > 0 and the sum not zero, and
whether it is exact. -/
def logSumMu (F : Nat) (sa : Bool) (p : Nat) (sb : Bool) (q : Nat) : Int × Bool :=
  if p ≤ 2 ^ F then
    let l := signed sa p + signed sb q
    if l.natAbs ≤ 2 ^ F then (sliOne F + l, true)
    else (settle (fun pr => muOfLog F pr { lo := l * 2 ^ (pr - F), hi := l * 2 ^ (pr - F) }) precisions, false)
  else
    (settle (fun pr =>
      match phiOf F pr p with
      | some a =>
        match phiOf F pr q with
        | some b => muOfLog F pr ((if sa then a.neg else a).add (if sb then b.neg else b))
        | none => unsettled
      | none =>
        match phiOf F pr (p - 2 ^ F) with
        | none => let m := if sa then sliOne F - p else sliOne F + p; (m, m)
        | some a1 =>
          let b1 : Option Iv :=
            if 2 ^ F ≤ q then phiOf F pr (q - 2 ^ F)
            else ({ lo := q * 2 ^ (pr - F), hi := q * 2 ^ (pr - F) } : Iv).ln pr
          match b1 with
          | none => unsettled
          | some b1 =>
            match lnOne pr (sa != sb) (expNeg pr (a1.sub b1)) with
            | none => unsettled
            | some d =>
              let l := a1.add d
              let one : Int := 2 ^ pr
              let jlo := 2 * one + phiInv pr false 6 l.lo
              let jhi := 2 * one + phiInv pr true 6 l.hi
              if sa then (roundMu F pr (2 * one - jhi), roundMu F pr (2 * one - jlo))
              else (roundMu F pr jlo, roundMu F pr jhi)) precisions, false)

/-- The product of two values given by sign and logarithm. -/
def sliMulV (F : Nat) (lv : List Nat) (neg : Bool) (r1 : Bool) (p1 : Nat) (r2 : Bool) (p2 : Nat) : FRes :=
  if p1 = 0 then sliValue F lv neg (if r2 then sliOne F - p2 else sliOne F + p2) true
  else if p2 = 0 then sliValue F lv neg (if r1 then sliOne F - p1 else sliOne F + p1) true
  else if p1 = p2 && r1 != r2 then sliValue F lv neg (sliOne F) true
  else
    let (m, ex) := if p2 ≤ p1 then logSumMu F r1 p1 r2 p2 else logSumMu F r2 p2 r1 p1
    sliValue F lv neg m ex

def sliMul (F : Nat) (a b : SV) : FRes :=
  match a, b with
  | .nar, _ => sliNar F false
  | _, .nar => sliNar F false
  | .zero, _ => sliZero
  | _, .zero => sliZero
  | .val n1 r1 x1, .val n2 r2 x2 =>
    sliMulV F [x1 / 2 ^ F, x2 / 2 ^ F] (n1 != n2) r1 (x1 - 2 ^ F) r2 (x2 - 2 ^ F)

def sliDiv (F : Nat) (a b : SV) : FRes :=
  match a, b with
  | .nar, _ => sliNar F false
  | _, .nar => sliNar F false
  | .zero, .zero => sliNar F true
  | .val n r x, .zero =>
    let v := sliValue F [x / 2 ^ F] n (sliMax F) true
    let _ := r
    (v.1, v.2 ||| fDZ)
  | .zero, .val _ _ _ => sliZero
  | .val n1 r1 x1, .val n2 r2 x2 =>
    sliMulV F [x1 / 2 ^ F, x2 / 2 ^ F] (n1 != n2) r1 (x1 - 2 ^ F) (!r2) (x2 - 2 ^ F)

def sliRcp (F : Nat) (a : SV) : FRes :=
  match a with
  | .nar => sliNar F false
  | .zero => (sencode F false (sliMax F), fDZ)
  | .val n r x => sliValue F [x / 2 ^ F] n (2 * sliOne F - svMu F r x) true

/-- e^X (R69, R71). -/
def sliExp (F : Nat) (a : SV) : FRes :=
  match a with
  | .nar => sliNar F false
  | .zero => (sencode F false (sliOne F), 0)
  | .val n r x =>
    let lv := [x / 2 ^ F]
    if !r then
      if x < 7 * 2 ^ F then
        sliValue F lv false (if n then sliOne F - x else sliOne F + x) true
      else (sencode F false (if n then sliMin F else sliMax F), fLUP ||| fNX)
    else
      let m := settle (fun pr =>
        let j : Iv := match phiOf F pr (x - 2 ^ F) with
          | none => { lo := 0, hi := 1 }
          | some d => expNeg pr d
        let one : Int := 2 ^ pr
        if n then (roundMu F pr (one - j.hi), roundMu F pr (one - j.lo))
        else (roundMu F pr (one + j.lo), roundMu F pr (one + j.hi))) precisions
      sliValue F lv false m false

/-- ln X (R70, R71). -/
def sliLn (F : Nat) (a : SV) : FRes :=
  match a with
  | .nar => sliNar F false
  | .zero => sliNar F true
  | .val n r x =>
    if n then sliNar F true
    else if 2 * 2 ^ F ≤ x then sliValue F [x / 2 ^ F] r ((x : Int) - sliOne F) true
    else
      let f := x - 2 ^ F
      if f = 0 then sliZero
      else
        let m := settle (fun pr =>
          match ({ lo := f * 2 ^ (pr - F), hi := f * 2 ^ (pr - F) } : Iv).ln pr with
          | none => unsettled
          | some l => muOfLog F pr l) precisions
        sliValue F [1] r m false

/-! ## Conversions (R73) and comparison (R74) -/

/-- IEEE to SLI. -/
def sliOfF (F : Nat) (v : FV) : FRes :=
  match v with
  | .nan _ => sliNar F false
  | .inf n => (sencode F n (sliMax F), fSAT)
  | .fin n m e =>
    if m = 0 then sliZero
    else if m = 2 ^ (bitLen m - 1) && e == 1 - (bitLen m : Int) then (sencode F n (sliOne F), 0)
    else
      let mu := settle (fun pr =>
        let l := fxLn pr m e
        muOfLog F pr { lo := l - 8, hi := l + 8 }) precisions
      (sencode F n mu, fNX)

/-- SLI to IEEE. -/
def sliToF (F : Nat) (g : Fmt) (sat : Bool) (a : SV) : FRes :=
  match a with
  | .zero => (0, 0)
  | .nar => (g.nanCode, 0)
  | .val n r x =>
    if x = 2 ^ F then fround g .rn sat n 1 0 false
    else
      settle (fun pr =>
        let far : FRes := fround g .rn sat n 1 (if r then -5000 else 5000) true
        match phiOf F pr (x - 2 ^ F) with
        | none => (far, far)
        | some v =>
          if 2000 * 2 ^ pr < v.lo then (far, far)
          else
            let u := if r then v.neg else v
            let (a, i) := fxExp pr u.lo
            let (b, j) := fxExp pr u.hi
            (fround g .rn sat n (a - 8) (i - pr) true, fround g .rn sat n (b + 8) (j - pr) true)) precisions

/-- Between the SLI widths: exact upwards, rounded in the index downwards. -/
def sliResize (F G : Nat) (a : SV) : FRes :=
  match a with
  | .zero => sliZero
  | .nar => sliNar G false
  | .val n r x =>
    let lv := [x / 2 ^ F]
    if F ≤ G then sliValue G lv n (svMu G r (x * 2 ^ (G - F))) true
    else
      let k := roundMu G F (svMu F r x)
      sliValue G lv n k (x % 2 ^ (F - G) == 0)

/-- A comparison (R74, R291). -/
def sliCmp (F : Nat) (c : Cmp) (a b : SV) : Bool :=
  let key : SV → Int := fun v => match v with
    | .val n r x => signed n (svMu F r x + 8 * sliOne F).toNat
    | _ => 0
  if a = .nar || b = .nar then c == .ne || c == .un
  else
    let x := key a
    let y := key b
    match c with
    | .eq => decide (x = y)
    | .ne => decide (x ≠ y)
    | .lt => decide (x < y)
    | .le => decide (x ≤ y)
    | .gt => decide (y < x)
    | .ge => decide (y ≤ x)
    | .un => false
    | .ord => true

/-- The class word of `LILVL` (R292). -/
def sliClass (F code : Nat) : Nat :=
  let s := code / 2 ^ (F + 4) % 2
  let r := code / 2 ^ (F + 3) % 2
  match sdecode F code with
  | .zero => 64 + 16 * s + 8 * r
  | .nar => 32 + 16 * s + 8 * r
  | .val _ _ x => 16 * s + 8 * r + x / 2 ^ F

end Sys2Proof.Machine
end

