-- ==== Sys2Proof/Machine/Parts.lean ====
section
/-! DEFINITION. Named operations over the state: masks of lanes, the parts of the state, program counters and registers. -/

namespace Sys2Proof.Machine

/-! ## Masks of lanes -/

/-- The lanes of a mask, in increasing order. -/
def lanesIn (m : W64) : List Nat := (List.range 64).filter fun l => m.getLsbD l

def oneLane (l : Nat) : W64 := 1#64 <<< l

def maskOf (ls : List Nat) : W64 := ls.foldl (fun m l => m ||| oneLane l) 0

def lowest (m : W64) : Option Nat := (lanesIn m).head?

/-! ## Parts of the state -/

def Lane.empty : Lane :=
  { st := .never, pc := 0, entry := false, v := [], p := 0, starve := 0, behind := 0, draw := 0, wait := .none,
    windows := [], before := none }

def Warp.empty : Warp :=
  { slot := 0, lanes := List.replicate 64 Lane.empty, s := [], tags := 0, flags := 0, mode := 0, stack := [], lines := [],
    hset := 0, hrec := none, pend := [], shadowed := 0, checked := 0, pairing := 0, arrivals := [], soft := 0,
    regErr := [], stackErr := [], order := 0, handed := false, waited := 0 }

def Desc.zero : Desc :=
  { code := 0, entry := 0, handler := 0, groups := 0, threads := 0, cluster := 0, flags := 0, vregs := 0,
    sregs := 0, acc := 0, bars := 0, floor := 0, shared := 0, stack := 0, pred := 0, prio := 0, aff := 0, nops := 0,
    ctl := 0, cueMask := 0, qrec := 0, qbatch := 0, qcap := 0, emax := 0, edst := 0, lq := 0, nctx := 0, nring := 0,
    succ := [], launch := 0, ops := [] }

def State.group (s : State) (gid : Nat) : Option Group := mapGet s.groups gid
def State.modGroup (s : State) (gid : Nat) (f : Group → Group) : State := { s with groups := mapMod s.groups gid f }
def State.ctx (s : State) (c : Nat) : Option Ctx := mapGet s.ctxs c
def State.modCtx (s : State) (c : Nat) (f : Ctx → Ctx) : State := { s with ctxs := mapMod s.ctxs c f }
def State.node (s : State) (c n : Nat) : Option Node := (s.ctx c).bind fun x => mapGet x.nodes n
def State.modNode (s : State) (c n : Nat) (f : Node → Node) : State :=
  s.modCtx c fun x => { x with nodes := mapMod x.nodes n f }
def State.die (s : State) (d : Nat) : Die := s.dies.getD d Die.reset
def State.modDie (s : State) (d : Nat) (f : Die → Die) : State := { s with dies := listMod s.dies d f }
def State.core (s : State) (d c : Nat) : Core := (s.die d).cores.getD c (Core.reset c)
def State.modCore (s : State) (d c : Nat) (f : Core → Core) : State :=
  s.modDie d fun x => { x with cores := listMod x.cores c f }

/-- The descriptor of a group's node. -/
def State.desc (s : State) (g : Group) : Desc := ((s.node g.ctx g.node).map (·.desc)).getD Desc.zero

def Group.warp (g : Group) (w : Nat) : Warp := g.warps.getD w Warp.empty
def Group.modWarp (g : Group) (w : Nat) (f : Warp → Warp) : Group := { g with warps := listMod g.warps w f }
def State.warp (s : State) (gid w : Nat) : Warp := ((s.group gid).map (·.warp w)).getD Warp.empty
def State.modWarp (s : State) (gid w : Nat) (f : Warp → Warp) : State := s.modGroup gid (·.modWarp w f)

def Warp.lane (w : Warp) (l : Nat) : Lane := w.lanes.getD l Lane.empty
def Warp.modLane (w : Warp) (l : Nat) (f : Lane → Lane) : Warp := { w with lanes := listMod w.lanes l f }
/-- Change the lanes of a mask. -/
def Warp.modLanes (w : Warp) (m : W64) (f : Nat → Lane → Lane) : Warp :=
  { w with lanes := mapFrom 0 (fun l x => if m.getLsbD l then f l x else x) w.lanes }
def State.modLane (s : State) (gid w l : Nat) (f : Lane → Lane) : State := s.modWarp gid w (·.modLane l f)

/-- The lanes of a warp that pass a test. -/
def Warp.where (w : Warp) (f : Lane → Bool) : W64 :=
  maskOf ((List.range 64).filter fun l => f (w.lane l))

def Lane.isReal (x : Lane) : Bool := x.st == .real
def Lane.isHelper (x : Lane) : Bool := x.st == .helper
/-- Real or helper: the lanes that issue (R16). -/
def Lane.isLive (x : Lane) : Bool := x.st == .real || x.st == .helper

/-- Is lane `l` alive in the warp? -/
def Warp.live (w : Warp) : W64 := w.where (·.isLive)
def Warp.real (w : Warp) : W64 := w.where (·.isReal)

/-- Node FLAGS (R393). -/
def Desc.isDuet (d : Desc) : Bool := d.flags.getLsbD 0
def Desc.isRehearsal (d : Desc) : Bool := d.flags.getLsbD 1
def Desc.isUnderstudy (d : Desc) : Bool := d.flags.getLsbD 2
def Desc.hasHelpers (d : Desc) : Bool := d.flags.getLsbD 3
def Desc.anyDie (d : Desc) : Bool := d.flags.getLsbD 4

/-- A number that no earlier step used: the issue order of results, writes and operations.
Marks: DESIGN CHOICE, unsafe (assumption 4). -/
def State.nextStamp (s : State) : State := { s with stamp := s.stamp + 1 }
/-- A fresh argument for a free value.
Marks: DESIGN CHOICE, unsafe (assumption 4). -/
def State.nextFresh (s : State) : State := { s with fresh := s.fresh + 1 }

/-! ## Program counters (R161) -/

/-- The linear slot index. -/
def pcIndex (pc : W64) : Nat := pc.toNat / 64 * 5 + pc.toNat % 8

/-- The PC of a linear slot index. -/
def pcOfIndex (n : Nat) : W64 := BitVec.ofNat 64 (n / 5 * 64 + n % 5)

/-- The slot after; slot 4 is followed by slot 0 of the next line. -/
def nextSlot (pc : W64) : W64 := pcOfIndex (pcIndex pc + 1)

def pcLine (pc : W64) : Nat := pc.toNat / 64
def pcSlot (pc : W64) : Nat := pc.toNat % 8

/-- Bits 5:3 are zero and the slot is 0 to 4 (R161). -/
def pcLegal (pc : W64) : Bool := pc.extractLsb' 3 3 == 0 && decide (pcSlot pc < 5)

/-! ## Registers -/

/-- A v-register of a lane (R168). -/
def Lane.getV (x : Lane) (r : Nat) : W32 := zget x.v r
def Lane.setV (x : Lane) (r : Nat) (v : W32) : Lane := { x with v := zset x.v r v }
/-- A v-pair: the lower register holds bits 31:0 (R169). -/
def Lane.getV64 (x : Lane) (r : Nat) : W64 := x.getV (r + 1) ++ x.getV r
def Lane.setV64 (x : Lane) (r : Nat) (v : W64) : Lane :=
  (x.setV r (v.extractLsb' 0 32)).setV (r + 1) (v.extractLsb' 32 32)
/-- A predicate; p15 reads as true (R170). -/
def Lane.getP (x : Lane) (p : Nat) : Bool := if p = 15 then true else x.p.getLsbD p
/-- Write a predicate; a write to p15 is discarded. -/
def Lane.setP (x : Lane) (p : Nat) (b : Bool) : Lane :=
  if 15 ≤ p then x
  else { x with p := (x.p &&& ~~~(1#15 <<< p)) ||| (if b then 1#15 <<< p else 0) }
/-- An s-register. -/
def Warp.getS (w : Warp) (r : Nat) : W64 := zget w.s r
/-- Write an s-register: the tag follows the write (R239). -/
def Warp.setS (w : Warp) (r : Nat) (v : W64) (tag : Bool) : Warp :=
  { w with s := zset w.s r v,
           tags := if tag then w.tags ||| (1#48 <<< r) else w.tags &&& ~~~(1#48 <<< r) }
def Warp.tagged (w : Warp) (r : Nat) : Bool := w.tags.getLsbD r
def Warp.untag (w : Warp) (r : Nat) : Warp := { w with tags := w.tags &&& ~~~(1#48 <<< r) }

/-- Writing a whole register clears its error (R440). -/
def Warp.clearErr (w : Warp) (p : Nat × Nat → Bool) : Warp := { w with regErr := w.regErr.filter fun e => !p e }

/-- A destination that the lanes of a warp share. -/
def Dst.shared : Dst → Bool
  | .s _ | .sHi _ => true
  | _ => false

/-- Write a result to its destination for a lane. -/
def Warp.put (w : Warp) (l : Nat) (d : Dst) (v : W64) (tag : Bool) : Warp :=
  match d with
  | .none => w
  | .v32 r => (w.modLane l (·.setV r (v.extractLsb' 0 32))).clearErr (· == (l, r))
  | .v64 r => (w.modLane l (·.setV64 r v)).clearErr fun e => e == (l, r) || e == (l, r + 1)
  | .s r => (w.setS r v tag).clearErr fun e => e == (64, r) || e == (65, r)
  | .sHi r => (w.setS r (v.extractLsb' 0 32 ++ (w.getS r).extractLsb' 0 32) false).clearErr (· == (65, r))
  | .pred p => w.modLane l (·.setP p (v.getLsbD 0))

/-- OR flags into the sticky word (R78). -/
def Warp.orFlags (w : Warp) (f : W32) : Warp := { w with flags := w.flags ||| f }

end Sys2Proof.Machine
end

