-- ==== Sys2Proof/Machine/Homes.lean ====
section
/-! DEFINITION. Memory at its homes, and the order of what reaches them (R83, R114, R119 to R154). -/

namespace Sys2Proof.Machine

/-! ## Homes (R114) -/

/-- The key of a byte of a loft in `State.loft`. -/
def loftKey (die addr : Nat) : Nat := die * 2 ^ 27 + addr

/-- A byte of main memory as it decrypts under a key (R119, R120).
Marks: DESIGN CHOICE, unsafe (assumption 5); DEDUCED, unsafe (assumption 54); DESIGN CHOICE, safe (assumption 72). -/
def hbmByte (s : State) (key a : Nat) : Byte :=
  match mapGet s.hbmKey (a / 256) with
  | none => if key = 0 then readByte s.hbm a else Config.foreignByte key a
  | some x => if x.key = key && x.known.getLsbD (a % 256) then readByte s.hbm a else Config.foreignByte key a

/-- Bytes at their home; `key` is the reader's key for main memory.
Marks: DESIGN CHOICE, unsafe (assumption 5). -/
def State.readHome (s : State) (key : Nat) (sp : Space) (a n : Nat) : List Byte :=
  match sp with
  | .shared gid => match s.group gid with
    | none => List.replicate n 0
    | some g => readBytes g.shared a n
  | .loft d => readBytes s.loft (loftKey d a) n
  | .hbm => (List.range n).map fun i => hbmByte s key (a + i)

/-- Bytes of an ECC unit (R440). -/
def eccUnit : Space → Nat
  | .shared _ => 4
  | .loft _ => 64
  | .hbm => 256

/-- Units with an uncorrectable error (R440). -/
def State.errUnits (s : State) (sp : Space) : List Nat :=
  match sp with
  | .shared gid => ((s.group gid).map (·.sharedErr)).getD []
  | .loft d => s.loftErr.filterMap fun u => if u / 2 ^ 21 = d then some (u % 2 ^ 21) else none
  | .hbm => s.hbmErr

def State.setErrUnits (s : State) (sp : Space) (us : List Nat) : State :=
  match sp with
  | .shared gid => s.modGroup gid fun g => { g with sharedErr := us }
  | .loft d =>
    { s with loftErr := (s.loftErr.filter fun u => u / 2 ^ 21 != d) ++ us.map fun u => d * 2 ^ 21 + u }
  | .hbm => { s with hbmErr := us }

/-- Does a read of these bytes meet an uncorrectable error?
Marks: DESIGN CHOICE, unsafe (assumption 6). -/
def State.badRead (s : State) (sp : Space) (a n : Nat) : Bool :=
  let u := eccUnit sp
  (s.errUnits sp).any fun x => decide (a < (x + 1) * u) && decide (x * u < a + n)

/-- Mark the bytes of a sector as written under a key.
Marks: DESIGN CHOICE, safe (assumption 72). -/
def Sector.write (x : Sector) (key i : Nat) : Sector :=
  if x.key = key then { x with known := x.known ||| (1#256 <<< i) } else { key := key, known := 1#256 <<< i }

/-- Write bytes at their home, without regard to errors. -/
def State.poke (s : State) (key : Nat) (sp : Space) (a : Nat) (bs : List Byte) : State :=
  match sp with
  | .shared gid => s.modGroup gid fun g => { g with shared := writeBytes g.shared a bs }
  | .loft d => { s with loft := writeBytes s.loft (loftKey d a) bs }
  | .hbm =>
    { s with hbm := writeBytes s.hbm a bs
             hbmKey := (List.range bs.length).foldl (fun m i =>
               let sec := (a + i) / 256
               let old := (mapGet m sec).getD { key := 0, known := BitVec.allOnes 256 }
               mapSet m sec (old.write key ((a + i) % 256))) s.hbmKey }

/-- Writes that pass a test are visible to every agent that a scope of the host includes: of the device, or of the whole. -/
def State.show (s : State) (sc : Scope) (p : Recent → Bool) : State :=
  let host : Stand := { agent := .host, ctx := 0, node := 0, cluster := 0, ldie := 0 }
  { s with recent := s.recent.map fun e => if p e then { e with wide := e.wide ++ [(sc, host)] } else e }

/-- What lies at some bytes is visible to all: nobody misses a write to them any more. -/
def State.forget (s : State) (sp : Space) (a n : Nat) : State :=
  s.show .system fun e => e.space == sp && decide (e.addr < a + n) && decide (a < e.addr + e.old.length)

/-- The part of a write that lands: a write of a whole ECC unit clears its error, a part of a unit in error is
discarded (R440).  The second answer says whether anything was discarded. -/
def State.putHome (s : State) (key : Nat) (sp : Space) (a : Nat) (bs : List Byte) : State × Bool :=
  let u := eccUnit sp
  let bad := (s.errUnits sp).filter fun x => decide (a < (x + 1) * u) && decide (x * u < a + bs.length)
  if bad.isEmpty then (s.poke key sp a bs, false)
  else
    let cleared := bad.filter fun x => decide (a ≤ x * u) && decide ((x + 1) * u ≤ a + bs.length)
    let kept := bad.filter fun x => !(decide (a ≤ x * u) && decide ((x + 1) * u ≤ a + bs.length))
    let s := s.setErrUnits sp ((s.errUnits sp).filter fun x => !cleared.contains x)
    let s := (bs.zipIdx).foldl (fun s p =>
      if kept.contains ((a + p.2) / u) then s else s.poke key sp (a + p.2) [p.1]) s
    if kept.isEmpty then (s, false)
    else ({ s with errLog := s.errLog ++ kept.map fun x => .discard sp (x * u) }, true)

/-- A write that every agent sees at once. -/
def State.writeHome (s : State) (key : Nat) (sp : Space) (a : Nat) (bs : List Byte) : State × Bool :=
  let r := s.putHome key sp a bs
  (r.1.forget sp a bs.length, r.2)

/-! ## Contexts and objects -/

/-- The key generation of a context; 0 is the device key (R119). -/
def State.keyOf (s : State) (c : Nat) : Nat := ((s.ctx c).map (·.key)).getD 0

def capObj (cap : W64) : Nat := (cap.extractLsb' 44 20).toNat
/-- RD, WR, EX, AT in bits 3 to 0 (R90). -/
def capRights (cap : W64) : BitVec 4 := cap.extractLsb' 40 4
def capOff (cap : W64) : Nat := (cap.extractLsb' 0 40).toNat
def capWithOff (cap : W64) (o : Nat) : W64 := cap.extractLsb' 40 24 ++ BitVec.ofNat 40 o

def rightRD : BitVec 4 := 8
def rightWR : BitVec 4 := 4
def rightEX : BitVec 4 := 2
def rightAT : BitVec 4 := 1

/-- The object that names the issuing group's shared memory to the engine (R297). -/
def sharedObj : Nat := 0xFFFFF

def State.obj (s : State) (c i : Nat) : Option Obj := (s.ctx c).bind fun x => mapGet x.objs i

def State.modObj (s : State) (c i : Nat) (f : Obj → Obj) : State :=
  s.modCtx c fun x => { x with objs := mapMod x.objs i f }

/-- The physical die of a logical die (R372). -/
def Ctx.phys (x : Ctx) (d : Nat) : Option Nat := (x.map.getD d none)
def State.phys (s : State) (c d : Nat) : Option Nat := (s.ctx c).bind (·.phys d)

/-- A release-write to an object (R99). -/
def State.bumpGen (s : State) (c i : Nat) : State := s.modObj c i fun o => { o with gen := o.gen + 1 }

/-! ## Agents and scopes (R122, R127) -/

/-- The group that an agent belongs to. -/
def Agent.gid : Agent → Option Nat
  | .lane g _ _ | .op _ g | .group g => some g
  | _ => none

/-- The place of a reader in `State.stale`. -/
def Agent.place : Agent → Nat
  | .lane _ _ l => l
  | _ => 64

/-- Where an agent stands. -/
def State.stand (s : State) (a : Agent) : Stand :=
  match a.gid.bind s.group with
  | none => { agent := a, ctx := 0, node := 0, cluster := 0, ldie := 0 }
  | some g => { agent := a, ctx := g.ctx, node := g.node, cluster := g.lin / (s.desc g).cluster, ldie := g.ldie }

/-- Does the scope of agent `x` include agent `y` (R127)? -/
def scopeIncludes (sc : Scope) (x y : Stand) : Bool :=
  match sc with
  | .lane => x.agent == y.agent
  | .warp => match x.agent, y.agent with
    | .lane g w _, .lane h v _ => g == h && w == v
    | _, _ => false
  | .group => x.agent.gid.isSome && x.agent.gid == y.agent.gid
  | .cluster => x.ctx == y.ctx && x.node == y.node && x.cluster == y.cluster
  | .die => x.ctx == y.ctx && x.ldie == y.ldie
  | .device => y.agent != .host
  | .system => true

/-- The scope at which an access acts: in shared memory the group's at most (R129). -/
def scopeAt (sp : Space) (sc : Scope) : Scope :=
  match sp, sc with
  | .shared _, .cluster | .shared _, .die | .shared _, .device | .shared _, .system => .group
  | _, sc => sc

/-! ## Writes that a reader may miss (R126, R131 to R138) -/

/-- Do two accesses touch? -/
def touches (sp : Space) (a n : Nat) (sq : Space) (b m : Nat) : Bool :=
  sp == sq && decide (a < b + m) && decide (b < a + n)

/-- The write happens-before what the agent does next, or was read by it. -/
def Agent.knows (a : Agent) (e : Recent) : Bool :=
  e.known.contains a || a.gid.any fun g => e.known.contains (.group g)

/-- The agent cannot miss the write: it made it, knows it, or an `acq_rel` fence makes it visible (R131). -/
def Stand.sees (x : Stand) (e : Recent) : Bool :=
  (e.by_ == x.agent || x.agent.knows e) || e.wide.any fun p => scopeIncludes p.1 p.2 x

/-- The reader misses the write in this step.  SO writes are missed by nobody (R142), nor is any in a rehearsal launch
(R412).
Marks: DEDUCED, unsafe (assumption 10). -/
def State.misses (s : State) (x : Stand) (e : Recent) : Bool :=
  s.stale.contains (x.agent.place, e.id) && e.ord != .so && e.ctx == x.ctx && !x.sees e
  && !((s.node x.ctx x.node).any fun n => n.desc.isRehearsal)

/-- The byte that a reader gets at an address, and the write that it comes from: the newest that it does not miss.  The
writes are given newest first, `b` is the byte at the home. -/
def State.seenAt (s : State) (x : Stand) (sp : Space) (i : Nat) : List Recent → Byte → Byte × Option Recent
  | [], b => (b, none)
  | e :: es, b =>
    if !touches e.space e.addr e.old.length sp i 1 then s.seenAt x sp i es b
    else if s.misses x e then s.seenAt x sp i es (e.old.getD (i - e.addr) 0)
    else (b, some e)

/-- The agent that made a write on its way. -/
def PWrite.agent (w : PWrite) : Agent :=
  match w.op with
  | some id => .op id w.gid
  | none => .lane w.gid w.warp w.lane

/-- The byte of an agent's own latest write on its way to an address (R124, R146). -/
def State.ownAt (s : State) (a : Agent) (sp : Space) (i : Nat) : Option Byte :=
  s.writes.foldl (fun r w =>
    if w.agent == a && touches w.space w.addr w.bytes.length sp i 1 then some (w.bytes.getD (i - w.addr) 0) else r) none

/-- Bytes as an agent reads them (R126, R146); `key` is its key for main memory.
Marks: DEDUCED, unsafe (assumption 10). -/
def State.readAs (s : State) (a : Agent) (key : Nat) (sp : Space) (i n : Nat) : List Byte :=
  (s.readHome key sp i n).zipIdx.map fun p =>
    (s.ownAt a sp (i + p.2)).getD (s.seenAt (s.stand a) sp (i + p.2) s.recent.reverse p.1).1

/-- Bytes as a lane reads them. -/
def State.readLane (s : State) (gid w l key : Nat) (sp : Space) (i n : Nat) : List Byte :=
  s.readAs (.lane gid w l) key sp i n

/-- The recent writes that bytes at their homes come from, for a reader. -/
def State.newest (s : State) (x : Stand) (sp : Space) (a n : Nat) : List Recent :=
  (List.range n).filterMap fun i => (s.seenAt x sp (a + i) s.recent.reverse 0).2

/-- The recent writes that the bytes of a read come from, unless they are the reader's own, still on their way. -/
def State.readsFrom (s : State) (x : Stand) (sp : Space) (a n : Nat) : List Recent :=
  (List.range n).filterMap fun i =>
    if (s.ownAt x.agent sp (a + i)).isSome then none else (s.seenAt x sp (a + i) s.recent.reverse 0).2

/-- Agents come to know the writes that pass a test. -/
def State.teach (s : State) (p : Recent → Bool) (bs : List Agent) : State :=
  { s with
    recent := s.recent.map fun e =>
      if p e then { e with known := e.known ++ bs.filter fun a => !e.known.contains a } else e }

/-- An edge of R133: what happens-before it at one agent is known to others. -/
def State.learn (s : State) (a : Agent) (bs : List Agent) : State := s.teach a.knows bs

/-- Nobody stands at an edge any more. -/
def State.unlearn (s : State) (a : Agent) : State :=
  { s with recent := s.recent.map fun e => { e with known := e.known.filter (· != a) } }

/-- An acquire at a scope synchronises with the releases that it reads (R132). -/
def State.acquire (s : State) (x : Stand) (sc : Scope) (rels : List Rel) : State :=
  let ids := (rels.filter fun r => scopeIncludes r.scope r.by_ x && scopeIncludes sc x r.by_).flatMap (·.ids)
  s.teach (fun e => ids.contains e.id) [x.agent]

/-- A read of some writes has returned: its agent can miss no more what it read (R137).  The releases among them whose scope
includes it synchronise with an acquire, and with its next acquire `FENCE` (R131, R132). -/
def State.noteFrom (s : State) (a : Agent) (from_ : List Recent) (sp : Space) (i n : Nat) (acq : Option Scope) : State :=
  let x := s.stand a
  let rels := from_.flatMap (·.rels)
  let t := s.teach (fun e => touches e.space e.addr e.old.length sp i n && !s.misses x e) [a]
  let t := { t with met := t.met ++ ((rels.filter fun r => scopeIncludes r.scope r.by_ x).map fun r => (a, r)) }
  match acq with
  | some sc => t.acquire x sc rels
  | none => t

/-- A load has returned: its agent's own UO write that it read is known like any other, and its earlier loads of these bytes
have their place (R124).
Marks: DEDUCED, unsafe (assumption 10). -/
def State.noteRead (s : State) (a : Agent) (sp : Space) (i n : Nat) (acq : Option Scope) : State :=
  let t := s.noteFrom a (s.readsFrom (s.stand a) sp i n) sp i n acq
  { t with
    writes := t.writes.map fun (w : PWrite) =>
      if w.agent == a && touches w.space w.addr w.bytes.length sp i n then { w with seen := true } else w
    loads := t.loads.map fun d =>
      if Agent.lane d.gid d.warp d.lane == a && touches d.space d.addr d.bytes sp i n then { d with fixed := true } else d }

/-- What a release of an agent is (R132): the writes that happen-before it. -/
def State.relOf (s : State) (a : Agent) (sc : Scope) : Rel :=
  { by_ := s.stand a, scope := sc, ids := (s.recent.filter a.knows).map (·.id) }

/-- The releases that a write of an agent is: its own, if its kind is one, and those of the agent's release fences. -/
def State.relsOf (s : State) (a : Agent) (sp : Space) (own : Option Scope) : List Rel :=
  ((own.map fun sc => s.relOf a (scopeAt sp sc)).toList)
  ++ (s.fenced.filter fun p => p.1 == a).map fun p => { p.2 with scope := scopeAt sp p.2.scope }

/-- The loads that pass a test have their value: it is fixed as it stands. -/
def State.fixLoads (s : State) (p : Load → Bool) : State :=
  { s with loads := s.loads.map fun d => if p d then { d with fixed := true } else d }

/-- The load is of a lane of a mask. -/
def Load.byLanes (gid w : Nat) (m : W64) (d : Load) : Bool := d.gid == gid && d.warp == w && m.getLsbD d.lane

/-- Loads of the lanes whose value is not fixed yet take it as it was at their issue. -/
def State.bindLoads (s : State) (gid w : Nat) (m : W64) : State := s.fixLoads (Load.byLanes gid w m)

/-- The memory requests of lanes whose windows close are complete. -/
def State.dropLoads (s : State) (gid w : Nat) (m : W64) : State :=
  { s with loads := s.loads.filter fun d => !d.byLanes gid w m }

/-- Operations read no more what the writes that pass a test copy: these carry it as it was read before. -/
def State.fixLate (s : State) (p : PWrite → Bool) : State :=
  { s with writes := s.writes.map fun w => if p w then { w with late := [] } else w }

/-- Every read of a context that could still have taken a later place has its value. -/
def State.fixCtx (s : State) (c : Nat) : State :=
  (s.fixLoads fun d => (s.group d.gid).any fun g => g.ctx == c).fixLate fun w => w.ctx == c

/-- A write takes its place in the order of its location and reaches its home (R114, R125); the second answer says
whether a part was discarded (R440). -/
def State.commit (s : State) (e : Recent) (bs : List Byte) : State × Bool :=
  let e := { e with id := s.stamp, old := s.readHome (s.keyOf e.ctx) e.space e.addr bs.length }
  let r := s.putHome (s.keyOf e.ctx) e.space e.addr bs
  ({ r.1 with recent := r.1.recent ++ [e] }.nextStamp, r.2)

/-! ## Writes on their way (R125, R131, R142) -/

/-- The first of two writes that touch is ahead of the second at their location: they are of one agent, or of one cycle
(R125).  The writes of two lanes take their places in any other order. -/
def ahead (a b : PWrite) : Bool :=
  touches a.space a.addr a.bytes.length b.space b.addr b.bytes.length && (a.agent == b.agent || a.cycle == b.cycle)

/-- Split the writes into those that must reach their homes when those that pass `p` do, and the rest.
Marks: DEDUCED, safe (assumption 11). -/
def splitWrites (p : PWrite → Bool) (ws : List PWrite) : List PWrite × List PWrite :=
  ws.reverse.foldl (fun (acc : List PWrite × List PWrite) w =>
    if p w || acc.1.any (ahead w) then (w :: acc.1, acc.2) else (acc.1, w :: acc.2)) ([], [])

/-- A write of an engine operation that is discarded fails it with status 9 (R440). -/
def State.failWrite (s : State) (op : Option Nat) : State :=
  { s with ops := s.ops.map fun x =>
      if op == some x.id && (x.status.extractLsb' 0 8 == 0 || x.status.extractLsb' 0 8 == 6) then { x with status := 9 }
      else x }

/-- The new value of a location and the flags (R234), on codes of `n` bits. -/
def atomNew (op : AtomOp) (n m c : Nat) : FRes :=
  let sm := toNum n true m
  let sc := toNum n true c
  match op with
  | .add => ((m + c) % 2 ^ n, 0)
  | .mins => (if sm ≤ sc then m else c, 0)
  | .maxs => (if sm ≤ sc then c else m, 0)
  | .minz => (min m c, 0)
  | .maxz => (max m c, 0)
  | .and => (m &&& c, 0)
  | .or => (m ||| c, 0)
  | .xor => (m ^^^ c, 0)
  | .exch => (c, 0)
  | .fadd =>
    let f := if n = 32 then fmtF32 else fmtF64
    fadd f .rn false (fdecode f m) (fdecode f c)
  | .inc => (if c ≤ m then 0 else m + 1, 0)
  | .dec => (if m = 0 ∨ c < m then c else m - 1, 0)

/-- What an atomic writes, or none where a comparison fails, which leaves a read (R234, R235). -/
def RmwFn.new (f : RmwFn) (n old c : Nat) : Option FRes :=
  match f with
  | .atom op => some (atomNew op n old c)
  | .cas b => if old = b then some (c, 0) else none

/-- A release-write adds one to GEN (R99). -/
def State.releaseGen (s : State) (w : PWrite) : State :=
  match w.release, w.obj with
  | true, some (c, i) => s.bumpGen c i
  | _, _ => s

/-- What an atomic found at its home: the old value and the flags, or an uncorrectable error (R440). -/
structure AtomRes where
  old : Nat := 0
  flags : W32 := 0
  bad : Bool := false

/-- An atomic at its home (R114, R147): it reads the newest value and writes, indivisibly; it is the releases that it was
issued as, and carries on those that it has read (R132). -/
def State.atomicHome (s : State) (w : PWrite) (m : Rmw) (acq : Option Scope) : State × AtomRes :=
  let n := w.bytes.length
  if s.badRead w.space w.addr n then (s, { bad := true })
  else
    let old := leNat (s.readHome 0 w.space w.addr n)
    let seen := { s with stale := [] }
    let es := seen.newest (s.stand w.agent) w.space w.addr n
    let t := { seen.noteFrom w.agent es w.space w.addr n acq with stale := s.stale }
    match m.fn.new (8 * n) old m.c with
    | none => (t, { old := old })
    | some (v, fl) =>
      let t := (t.commit { id := 0, by_ := w.agent, space := w.space, addr := w.addr, old := [], ord := w.ord,
                           rels := if w.ord = .uo then [] else w.rels ++ es.flatMap (·.rels),
                           known := if w.ord = .uo then [] else [w.agent], wide := [], ctx := w.ctx, node := w.node }
                  (bytesOfWord n v)).1
      (t.releaseGen w, { old := old, flags := fl })

/-- The error of data consumed, by its source (R439). -/
def eccFault (src : Nat) : Flt := { code := .machineCheck, s45 := BitVec.ofNat 64 (2 + src * 256) }

/-- The source code of a space (R439). -/
def Space.source : Space → Nat
  | .loft _ => 1
  | .hbm => 2
  | .shared _ => 3

/-- The result of an atomic goes to its windows: those of its lane, or of every lane of the instruction (R29, R235). -/
def State.giveWindows (s : State) (w : PWrite) (m : Rmw) (x : AtomRes) : State :=
  s.modWarp w.gid w.warp fun y =>
    y.modLanes (if m.shared then BitVec.allOnes 64 else oneLane w.lane) fun _ l =>
      { l with windows := l.windows.map fun z =>
          if z.stamp = m.win then
            { z with val := BitVec.ofNat 64 x.old, flags := x.flags,
                     flt := if x.bad then some (eccFault w.space.source) else none }
          else z }

/-- A write that is no atomic reaches its home.  What its agent wrote to a UO location it can pass on only when it has read it
(R149, R150). -/
def State.landPlain (s : State) (w : PWrite) : State :=
  let r := s.commit { id := 0, by_ := w.agent, space := w.space, addr := w.addr, old := [], ord := w.ord,
                      rels := if w.ord = .uo then [] else w.rels,
                      known := if w.ord == .uo && !w.seen then [] else [w.agent], wide := [],
                      ctx := w.ctx, node := w.node } w.bytes
  (if r.2 then r.1.failWrite w.op else r.1).releaseGen w

/-- One write or atomic reaches its home. -/
def State.land1 (s : State) (w : PWrite) : State :=
  match w.rmw with
  | none => s.landPlain w
  | some m =>
    let r := s.atomicHome w m none
    r.1.giveWindows w m r.2

/-- A write of an operation that may still read what it copies reads it now (R126), unless that meets an error.
Marks: DEDUCED, unsafe (assumption 10). -/
def State.reread (s : State) (w : PWrite) : State × PWrite :=
  if w.late.isEmpty || w.late.any fun p => s.badRead p.1 p.2.1 p.2.2 then (s, w)
  else
    (w.late.foldl (fun s p => s.noteFrom w.agent (s.newest (s.stand w.agent) p.1 p.2.1 p.2.2) p.1 p.2.1 p.2.2 none) s,
     { w with bytes := w.late.flatMap fun p => s.readAs w.agent (s.keyOf w.ctx) p.1 p.2.1 p.2.2 })

/-- The writes that pass `p`, with those ahead of them at their locations, reach their homes in order. -/
def State.drain (s : State) (p : PWrite → Bool) : State :=
  let (go, stay) := splitWrites p s.writes
  go.foldl State.land1 { s with writes := stay }

def PWrite.byLane (gid w l : Nat) (x : PWrite) : Bool := x.agent == .lane gid w l

/-- A release takes the write with it: a UO write only when its agent has read it (R149, R150), and an atomic always, since
it is a read too. -/
def PWrite.ordered (x : PWrite) : Bool := x.ord != .uo || x.seen || x.rmw.isSome

/-- The write is an atomic of a lane of a mask. -/
def PWrite.atomicOf (gid w : Nat) (m : W64) (x : PWrite) : Bool :=
  x.rmw.isSome && x.op.isNone && x.gid == gid && x.warp == w && m.getLsbD x.lane

/-- The reads of lanes have returned: their atomics have acted, and their loads have their values. -/
def State.settleReads (s : State) (gid w : Nat) (m : W64) : State :=
  (s.drain (PWrite.atomicOf gid w m)).bindLoads gid w m

/-- An agent's own atomics on some bytes have acted before it reads them (R146). -/
def State.settleOwn (s : State) (a : Agent) (sp : Space) (i n : Nat) : State :=
  s.drain fun x => x.rmw.isSome && x.agent == a && touches x.space x.addr x.bytes.length sp i n

/-- The windows of lanes are about to close: the operations of these have completed (R178, R180). -/
def State.settleWindows (s : State) (gid w : Nat) (m : W64) : State := (s.settleReads gid w m).dropLoads gid w m

/-- The earlier writes of a lane that a release waits for.
Marks: DEDUCED, safe (assumption 11). -/
def State.drainLane (s : State) (gid w l : Nat) : State := s.drain fun x => x.byLane gid w l && x.ordered

/-- The lanes of a mask come to a release event of R133: their earlier writes reach their homes, and their earlier loads
have their values. -/
def State.drainMask (s : State) (gid w : Nat) (m : W64) : State :=
  (s.drain fun x => x.op.isNone && x.gid == gid && x.warp == w && m.getLsbD x.lane && x.ordered).bindLoads gid w m

/-- An SO access waits for the acknowledgement of the lane's earlier SO writes (R142).
Marks: DEDUCED, safe (assumption 11). -/
def State.drainSo (s : State) (gid w l : Nat) : State :=
  s.drain fun x => x.byLane gid w l && x.ord == .so

/-- Lanes of one warp as agents. -/
def laneAgents (gid w : Nat) (m : W64) : List Agent := (lanesIn m).map fun l => .lane gid w l

end Sys2Proof.Machine
end

