-- ==== Sys2Proof/Machine/Ops.lean ====
section
/-! DEFINITION. Named operations over the state: windows, and taking a fault and returning from its handler (R416 to
R428). -/

namespace Sys2Proof.Machine

/-! ## Aborting a grid (R424) -/

/-- Units of 64 KiB that the frame of a group takes (R438). -/
def frameUnits (d : Desc) (held : Nat) : Nat :=
  let warps := ceilDiv d.threads 64
  ceilDiv (16384 + 4096 * warps + warps * d.vregs * 256 + d.shared + warps * (ceilDiv d.stack 256 * 256)
    + 10240 * d.acc + 25600 * held + 4096) 65536

/-- Free the frame of a saved group. -/
def State.freeFrame (s : State) (g : Group) : State :=
  match g.res with
  | .saved _ => s.modCtx g.ctx fun x => { x with used := x.used - frameUnits (s.desc g) g.kept.length }
  | _ => s

/-- Release the record places that a group reserved and did not use (R402). -/
def State.freePlaces (s : State) (g : Group) : State :=
  let d := s.desc g
  if d.emax = 0 then s
  else s.modNode g.ctx d.edst fun n => { n with reserved := n.reserved - (d.emax - g.emitted) }

/-- Free the copy contexts of a group that is off its core, once no operation of them is left (R471). -/
def State.freeCtxs (s : State) (gid : Nat) : State :=
  match s.group gid with
  | none => s
  | some g =>
    if s.ops.any fun x => x.gid == gid && decide (x.ectx < 0x40) then s
    else
      (s.modDie g.die fun d => { d with copyCtx := g.copyCtxs.foldl (fun m k =>
        mapMod m k fun e => { e with holder := none }) d.copyCtx }).modGroup gid fun x => { x with copyCtxs := [] }

/-- A draining group has its copy contexts free when their operations are complete, and is gone with the last operation
of it (R220, R471).
Marks: DEDUCED, safe (assumption 62). -/
def State.drained (s : State) (gid : Nat) : State :=
  match s.group gid with
  | none => s
  | some g =>
    if g.res != .draining then s
    else
      let s := s.freeCtxs gid
      if s.ops.any fun x => x.gid == gid then s else { s with groups := mapErase s.groups gid }

/-- Take a group off its core.  It drains while engine operations of it are under way (R220, R471), and then is
gone.
Marks: DEDUCED, safe (assumption 62). -/
def State.removeGroup (s : State) (gid : Nat) : State :=
  match s.group gid with
  | none => s
  | some g =>
    let s := s.modCore g.die g.core fun c =>
      { c with queue := c.queue.filter fun e => e.gid != gid, waiting := c.waiting.filter fun e => e.gid != gid }
    let s := { s with
      refetches := s.refetches.filter fun r => r.gid != gid
      loads := s.loads.filter fun d => d.gid != gid
      walks := s.walks.filter fun w => match w.who with | .fetch i _ _ => i != gid | _ => true
      streams := s.streams.filter fun t => t.gid != gid
      issue := s.issue.filter fun i => i.gid != gid
      second := s.second.filter fun i => i.iss.gid != gid }
    (s.modGroup gid fun g =>
      { g with res := .draining, warps := [], barriers := [], regroup := none, tiles := [], kept := [] }).drained gid

/-- Discard a group (R424). -/
def State.discard (s : State) (gid : Nat) : State :=
  match s.group gid with
  | none => s
  | some g => ((s.freeFrame g).freePlaces g).removeGroup gid

/-- The groups of a node. -/
def State.groupsOf (s : State) (c n : Nat) : List Nat :=
  (s.groups.filter fun p => p.2.ctx == c && p.2.node == n && p.2.res != .draining).map (·.1)

/-- Abort a node's grid: every group of it is discarded, and the node will complete as failed. -/
def State.abortNode (s : State) (c n : Nat) : State :=
  let s := (s.groupsOf c n).foldl State.discard s
  let s := s.modNode c n fun x => { x with aborted := true, queue := [] }
  { s with cbars := s.cbars.filter fun b => !(b.ctx == c && b.node == n)
           duets := s.duets.filter fun b => !(b.ctx == c && b.node == n) }

/-- Abort the grid of a group with the record of its fault. -/
def State.abortGrid (s : State) (gid w : Nat) (rec : Record) (earlier : Option Record) : State :=
  match s.group gid with
  | none => s
  | some g =>
    let a : Abort := { ctx := g.ctx, node := g.node, lin := g.lin, warp := w, record := rec, earlier := earlier }
    let s := { s with aborts := s.aborts ++ [a] }
    s.abortNode g.ctx g.node

/-! ## Faults (R417 to R424) -/

/-- The code of R419. -/
def FCode.code : FCode → W64
  | .illegalOpcode => 0x01 | .illegalField => 0x02 | .illegalLine => 0x03 | .lineParity => 0x04
  | .badTarget => 0x05 | .tableRange => 0x06 | .bounds => 0x10 | .rights => 0x11 | .object => 0x12
  | .capOverflow => 0x13 | .misaligned => 0x14 | .stackOverflow => 0x15 | .straddleAtomic => 0x16
  | .maskMismatch => 0x20 | .memberGone => 0x21 | .memberBlocked => 0x22 | .barrierMismatch => 0x23
  | .futureFailed => 0x30 | .cueInvalid => 0x31 | .ringMisuse => 0x32 | .scrimRatio => 0x38
  | .scrimBank => 0x39 | .dieAbsent => 0x3A | .duetAbsent => 0x40 | .accRange => 0x41 | .rehearsal => 0x48
  | .trap => 0x50 | .bkpt => 0x51 | .pageInvalid => 0x60 | .machineCheck => 0x70

/-- Insert a window in issue order. -/
def insertWindow (x : Window) : List Window → List Window
  | [] => [x]
  | y :: ys => if x.stamp < y.stamp then x :: y :: ys else y :: insertWindow x ys

/-- The windows of lanes that pass a test, each with its lane, in the order of their issue. -/
def Warp.windowsOf (w : Warp) (ls : List Nat) (p : Nat → Window → Bool) : List (Nat × Window) :=
  sortBy (fun (x : Nat × Window) => x.2.stamp) (ls.flatMap fun l => ((w.lane l).windows.filter (p l)).map fun x => (l, x))

/-- Land results and flags one after another; the faults of those that failed (R181). -/
def landAll : List (Nat × Window) → Warp → Warp × List (W64 × LFlt)
  | [], w => (w, [])
  | (l, x) :: xs, w =>
    match x.flt with
    | none => landAll xs ((w.put l x.dst x.val x.tag).orFlags x.flags)
    | some f =>
      let r := landAll xs w
      (r.1, (x.pc, l, f) :: r.2)

/-- Close the windows of lanes that pass a test: their results land in issue order, and of one cycle in the order of
R29 (R179, R180). -/
def Warp.land (w : Warp) (ls : List Nat) (p : Nat → Window → Bool) : Warp × List (W64 × LFlt) :=
  landAll (w.windowsOf ls p) (w.modLanes (maskOf ls) fun l x => { x with windows := x.windows.filter fun y => !p l y })

/-- Close every window of the lanes (R180). -/
def closeWindows (ls : List Nat) (w : Warp) : Warp × List (W64 × LFlt) := w.land ls fun _ _ => true

/-- The record of R418. -/
def mkRecord (f : Flt) (pc : W64) (set : W64) : Record := { s44 := f.code.code, s45 := f.s45, s46 := pc, s47 := set }

/-- Write a record into s44 to s47, untagged. -/
def Warp.setRecord (w : Warp) (r : Record) : Warp :=
  ((((w.setS 44 r.s44 false).setS 45 r.s45 false).setS 46 r.s46 false).setS 47 r.s47 false).clearErr fun e =>
    decide (64 ≤ e.1) && decide (44 ≤ e.2)

/-- HEN and MCH of the mode word (R429). -/
def Warp.hen (w : Warp) : Bool := w.mode.getLsbD 0
def Warp.mch (w : Warp) : Bool := w.mode.getLsbD 1
def Warp.bken (w : Warp) : Bool := w.mode.getLsbD 2
def Warp.use (w : Warp) : Bool := w.mode.getLsbD 3

/-- May the fault go to the handler (R421)? -/
def delivers (d : Desc) (w : Warp) (f : Flt) : Bool :=
  d.handler != 0 && w.hen && (f.code != .machineCheck || w.mch)

/-- Enter the machine checks among faults of a warp in the error log (R439). -/
def State.logChecks (s : State) (g : Group) (w : Nat) (fs : List LFlt) : State :=
  { s with errLog := s.errLog ++ (fs.filter fun p => p.2.code == .machineCheck).map fun p =>
      .machineCheck g.die g.core ((g.warp w).slot % 4) p.2.s45 }

/-- A lane continues at another place: nothing that it waited for or had read for a pair is left. -/
def Lane.jump (x : Lane) (pc : W64) (entry : Bool) : Lane :=
  { x with pc := pc, entry := entry, wait := .none, before := none }

/-- Deliver a fault to the handler (R421): the windows of the set close, the record is written, and the lanes
continue at the handler PC.  A result that fails as its window closes is a double fault. -/
def State.deliver (s : State) (gid w : Nat) (d : Desc) (f : Flt) (pc set : W64) : State :=
  let rec_ := mkRecord f pc set
  let s := s.settleWindows gid w set
  let (wp, bad) := closeWindows (lanesIn set) (s.warp gid w)
  let wp := wp.setRecord rec_
  let wp := { wp with hset := set, hrec := some rec_ }
  let wp := wp.modLanes set fun _ x => x.jump d.handler true
  let s := s.modWarp gid w fun _ => wp
  match bad, s.group gid with
  | (p, l, f2) :: _, some g =>
    (s.logChecks g w (bad.map (·.2))).abortGrid gid w (mkRecord f2 p (oneLane l)) (some rec_)
  | _, _ => s

/-- Hold faults pending at their instruction (R420, R422). -/
def State.holdFaults (s : State) (gid w : Nat) (pc : W64) (fs : List LFlt) : State :=
  s.modWarp gid w fun wp =>
    let wp := wp.modLanes (maskOf (fs.map (·.1))) fun _ x => { x with wait := .fault }
    { wp with pend := wp.pend ++ fs.map fun p => { lane := p.1, flt := p.2, pc := pc } }

/-- Taking faults that have been entered in the error log: the lanes of one instruction at `pc`, in increasing lane index
(R420 to R424). -/
def State.takeFaults (s : State) (gid w : Nat) (pc : W64) (fs : List LFlt) : State :=
  match fs, s.group gid with
  | [], _ => s
  | _, none => s
  | (_, f) :: _, some g =>
    let d := s.desc g
    let wp := g.warp w
    let s := s.modWarp gid w fun x =>
      { x with arrivals := x.arrivals.filter fun (a : Arrival) => a.ghost || !(fs.any fun p => p.1 == a.lane) }
    let same := fun (f : Flt) (fs : List LFlt) => maskOf ((fs.filter fun p => p.2.code == f.code).map (·.1))
    let inner := fs.filter fun p => wp.hset.getLsbD p.1
    match inner with
    | (_, f2) :: _ => s.abortGrid gid w (mkRecord f2 pc (same f2 inner)) wp.hrec
    | [] =>
      if !delivers d wp f then s.abortGrid gid w (mkRecord f pc (same f fs)) none
      else if wp.hset != 0 then s.holdFaults gid w pc fs
      else (s.deliver gid w d f pc (same f fs)).holdFaults gid w pc (fs.filter fun p => p.2.code != f.code)

/-- Taking a fault: every machine check is entered in the error log as it is raised (R439). -/
def State.raise (s : State) (gid w : Nat) (pc : W64) (fs : List LFlt) : State :=
  match fs, s.group gid with
  | [], _ => s
  | _, none => s
  | fs, some g => (s.logChecks g w fs).takeFaults gid w pc fs

/-- Raise the faults of landed results: those of one instruction together (R420). -/
def State.raiseEach (s : State) (gid w : Nat) (fs : List (W64 × LFlt)) : State :=
  (fs.map (·.1)).eraseDups.foldl (fun s pc =>
    s.raise gid w pc ((fs.filter fun p => p.1 == pc).map (·.2))) s

/-- The pending fault that is delivered first (R422): lowest PC, then lowest lane. -/
def firstPending : List Pending → Option Pending
  | [] => none
  | p :: ps =>
    match firstPending ps with
    | none => some p
    | some q => if p.pc.toNat < q.pc.toNat || (p.pc == q.pc && decide (p.lane ≤ q.lane)) then some p else some q

/-- When the handler set is empty it is released, and the next pending fault is delivered (R422). -/
def State.releaseSet (s : State) (gid w : Nat) : State :=
  let wp := s.warp gid w
  if wp.hset != 0 then s
  else
    let s := s.modWarp gid w fun x => { x with hrec := none }
    match firstPending wp.pend with
    | none => s
    | some p =>
      let same := wp.pend.filter fun q => q.pc == p.pc && q.flt.code == p.flt.code
      let ls := maskOf (same.map (·.lane))
      let s := s.modWarp gid w fun x =>
        { x.modLanes ls (fun _ y => { y with wait := .none }) with
          pend := x.pend.filter fun q => !(q.pc == p.pc && q.flt.code == p.flt.code) }
      s.takeFaults gid w p.pc ((lanesIn ls).map fun l => (l, ((same.find? fun q => q.lane == l).map (·.flt)).getD p.flt))

/-- Return from a handler (R428): the lanes leave the set and resume at `t`. -/
def State.returnFrom (s : State) (gid w : Nat) (ls : W64) (t : W64) : State :=
  let s := s.modWarp gid w fun x =>
    { x.modLanes ls (fun _ y => y.jump t false) with hset := x.hset &&& ~~~ls }
  s.releaseSet gid w

/-- A lane that leaves the warp leaves the handler set (R422) and loses its pending faults. -/
def State.leaveSet (s : State) (gid w : Nat) (ls : W64) : State :=
  if (s.warp gid w).hset &&& ls = 0 then
    s.modWarp gid w fun x => { x with pend := x.pend.filter fun q => !ls.getLsbD q.lane }
  else
    let s := s.modWarp gid w fun x =>
      { x with hset := x.hset &&& ~~~ls, pend := x.pend.filter fun q => !ls.getLsbD q.lane }
    s.releaseSet gid w

/-! ## Windows (R178) -/

/-- The windows of a lane whose landing point has come. -/
def Lane.standing (x : Lane) : List Window := x.windows.filter fun y => y.left == 0

/-- An s-register result waits for one of an instruction of the same cycle at a lower PC, whose landing point has come too
(R29).  When the lower one has the longer window, its landing point is the later, and its value remains.
Marks: DESIGN CHOICE, unsafe (assumption 90). -/
def Window.follows (y z : Window) : Bool :=
  y.dst.shared && z.dst == y.dst && z.cycle == y.cycle && decide (z.stamp < y.stamp)

/-- The lane has a result that waits for one of a lane outside the list.
Marks: DESIGN CHOICE, unsafe (assumption 90). -/
def Warp.heldBack (w : Warp) (ls : List Nat) (l : Nat) : Bool :=
  (w.lane l).standing.any fun y => (List.range 64).any fun k => !ls.contains k && (w.lane k).standing.any y.follows

/-- Those of the lanes that can land together: lanes that wait for others drop out. -/
def Warp.landing (w : Warp) : Nat → List Nat → List Nat
  | 0, ls => ls
  | n + 1, ls => if ls.any (w.heldBack ls) then w.landing n (ls.filter fun l => !w.heldBack ls l) else ls

/-- The lanes whose results land: the landing point of some has come, and every result of the lane that lands with it is there
(R178, R179). -/
def Warp.due (w : Warp) (ls : List Nat) : List Nat :=
  w.landing 64 (ls.filter fun l => !(w.lane l).standing.isEmpty && (w.lane l).standing.all (·.done))

/-- The other run of the cycle has yet to issue (R21): what lands now lands after it, in the order of R29. -/
def State.midCycle (s : State) (gid w : Nat) : Bool :=
  s.second.any fun x => !x.pair && x.iss.gid == gid && x.iss.warp == w

/-- Land the results that are due in the lanes.
Marks: DEDUCED, unsafe (assumption 67). -/
def State.landDue (s : State) (gid w : Nat) (ls : W64) : State :=
  if s.midCycle gid w then s
  else
    let r := (s.warp gid w).land ((s.warp gid w).due (lanesIn ls)) fun _ y => y.left == 0
    (s.modWarp gid w fun _ => r.1).raiseEach gid w r.2

/-- An instruction has issued to the lanes: every window counts one.
Marks: DEDUCED, unsafe (assumption 67). -/
def Lane.count (stamp : Nat) (x : Lane) : Lane :=
  { x with windows := x.windows.map fun y => if y.stamp < stamp then { y with left := y.left - 1 } else y }

/-- Close the windows of the lanes, as the instructions of R180 do before they act. -/
def State.close (s : State) (gid w : Nat) (ls : W64) : State :=
  let s := s.settleWindows gid w ls
  let (wp, bad) := closeWindows (lanesIn ls) (s.warp gid w)
  (s.modWarp gid w fun _ => wp).raiseEach gid w bad

/-- Results that wait only for completion: complete and land them. -/
def State.completeNow (s : State) (gid w : Nat) (ls : W64) : State :=
  ((s.settleReads gid w ls).modWarp gid w fun wp => wp.modLanes ls fun _ x =>
    { x with windows := x.windows.map fun y => if y.left = 0 then { y with done := true } else y }).landDue gid w ls

end Sys2Proof.Machine
end

