-- ==== Sys2Proof/Machine/Mem.lean ====
section
/-! DEFINITION. Capabilities, routes, translation and code (R89 to R121, R371, R373). -/

namespace Sys2Proof.Machine

/-! ## Capabilities (R97) -/

/-- Test 1 of R97: the entry of a capability, of an accepted kind. -/
def State.capEntry (s : State) (c : Nat) (cap : W64) (kinds : List ObjKind) : Option Obj :=
  if capObj cap = 0 then none
  else (s.obj c (capObj cap)).filter fun o => o.owner == c && kinds.contains o.kind

/-- The length that a core's object cache holds for an object, or the entry's own (R97).
Marks: DEDUCED, unsafe (assumption 12). -/
def State.heldLen (s : State) (die core c i : Nat) (o : Obj) : Nat :=
  (((s.core die core).objs.find? fun h => h.ctx == c && h.obj == i).map (·.len)).getD o.len

/-- A core's object cache holds an object that it has used, 256 at most: the oldest goes (R97).
Marks: DESIGN CHOICE, safe (assumption 91). -/
def State.holdObj (s : State) (die core c i : Nat) : State :=
  match s.obj c i with
  | none => s
  | some o => s.modCore die core fun k =>
    if k.objs.any fun h => h.ctx == c && h.obj == i then k
    else { k with objs := ({ ctx := c, obj := i, len := o.len } :: k.objs).take 256 }

/-- Every core invalidates what it holds that passes a test (R98). -/
def State.dropHeld (s : State) (p : HeldObj → Bool) : State :=
  { s with dies := s.dies.map fun d => { d with cores := d.cores.map fun k => { k with objs := k.objs.filter fun h => !p h } } }

/-- Tests 1 to 6 of R97 for `n` bytes at offset `off` of the object: the entry and the offset, or the first
failure.  `atomic` adds test 5, `align` test 6. -/
def State.checkCap (s : State) (c : Nat) (cap : W64) (off : Int) (n : Nat) (need : BitVec 4) (kinds : List ObjKind)
    (atomic align : Bool) : Except FCode (Obj × Nat) :=
  match s.capEntry c cap kinds with
  | none => .error .object
  | some o =>
    if need &&& (capRights cap &&& o.rights) ≠ need then .error .rights
    else if off < 0 || (o.len : Int) < off + n then .error .bounds
    else
      let a := off.toNat
      if o.kind == .loft && o.placed.isNone then .error .dieAbsent
      else if atomic && decide ((o.base + a) / 65536 ≠ (o.base + a + n - 1) / 65536) then .error .straddleAtomic
      else if align && decide (a % n ≠ 0) then .error .misaligned
      else .ok (o, a)

/-- A core tests a capability (R97): its bounds against the length that its object cache holds too. -/
def State.checkHeld (s : State) (g : Group) (cap : W64) (off : Int) (n : Nat) (need : BitVec 4) (kinds : List ObjKind)
    (atomic align : Bool) : Except FCode (Obj × Nat) :=
  match s.checkCap g.ctx cap off n need kinds atomic align with
  | .error e => .error e
  | .ok (o, a) =>
    if s.heldLen g.die g.core g.ctx (capObj cap) o < a + n then .error .bounds else .ok (o, a)

/-- The object cache of the group's core holds the objects that some capabilities name (R97). -/
def State.holdCaps (s : State) (g : Group) (caps : List W64) : State :=
  caps.foldl (fun t cap => t.holdObj g.die g.core g.ctx (capObj cap)) s

/-! ## Routes between dies (R371, R373) -/

/-- The numbers from one to another. -/
def between (a b : Nat) : List Nat := (List.range (max a b - min a b + 1)).map (min a b + ·)

/-- The dies of a path that goes along x first, or along y first; die (x, y) has index x + 4y. -/
def pathDies (xFirst : Bool) (a b : Nat) : List Nat :=
  let row := if xFirst then a / 4 else b / 4
  let col := if xFirst then b % 4 else a % 4
  (between (a % 4) (b % 4)).map (· + 4 * row) ++ (between (a / 4) (b / 4)).map (col + 4 * ·)

/-- The hops of a route; none when both paths meet a lost die. -/
def State.hops (s : State) (a b : Nat) : Option Nat :=
  let ok := fun (xFirst : Bool) => !(pathDies xFirst a b).any fun d => (s.die d).lost
  if ok true || ok false then
    some ((between (a % 4) (b % 4)).length - 1 + ((between (a / 4) (b / 4)).length - 1))
  else none

/-! ## Translation (R100 to R109) -/

/-- The kinds of access that a leaf grants. -/
inductive Acc
  | read | write | exec
  deriving DecidableEq, Repr

/-- How a translation ends without an address: absent, `PAGE_INVALID` with its detail (R106), or a stack on a die that no
route reaches (R373). -/
inductive WalkErr
  | absent
  | invalid (detail : Nat)
  | unreachable (die : Nat)
  deriving DecidableEq, Repr

/-- Who translates: a core for data or for instructions, or a die for what comes from outside (R107, R432). -/
inductive Looker
  | data (die core : Nat)
  | code (die core : Nat)
  | engine (die : Nat)
  deriving DecidableEq, Repr

def Looker.die : Looker → Nat
  | .data d _ | .code d _ | .engine d => d

/-- Are the bits `hi` to `lo` of an entry zero? -/
def bitsZero (e : W64) (hi lo : Nat) : Bool := (e >>> lo).toNat % 2 ^ (hi + 1 - lo) == 0

/-- The fields of a leaf are legal for its level (R103, R104). -/
def leafOk (level : Nat) (e : W64) : Bool :=
  bitsZero e 63 60 && bitsZero e 55 36 && bitsZero e 15 12 && bitsZero e 5 2
  && (e.extractLsb' 9 2 != 3) && !(e.getLsbD 8 && e.getLsbD 7) && !(e.getLsbD 7 && !e.getLsbD 6)
  && (level == 0 || (level == 1 && bitsZero e 25 16) || (level == 2 && bitsZero e 35 16))

/-- Bits of the page that a leaf of a level maps. -/
def pageBits (level : Nat) : Nat := 16 + 10 * level

/-- Walk from a table of level `level` down (R102, R105): the leaf and the bits of its page.  V is tested
before the other bits of an entry.
Marks: DESIGN CHOICE, unsafe (assumption 85). -/
def walkFrom (s : State) (stack va : Nat) : Nat → Nat → Except WalkErr (W64 × Nat)
  | level, table =>
    let idx := va / 2 ^ pageBits level % 1024
    let e := BitVec.ofNat 64 (leNat (s.readHome 0 .hbm (stack * 2 ^ 36 + table + 8 * idx) 8))
    if !e.getLsbD 0 then .error .absent
    else if e.getLsbD 1 then
      if leafOk level e then .ok (e, pageBits level) else .error (.invalid 2)
    else
      match level with
      | 0 => .error (.invalid 2)
      | l + 1 =>
        if bitsZero e 63 36 && bitsZero e 12 2 then walkFrom s stack va l (e.toNat / 2 ^ 13 % 2 ^ 23 * 2 ^ 13)
        else .error (.invalid 2)

/-- The die that a stack belongs to: two to a die (R2).
Marks: DEDUCED, unsafe (assumption 54). -/
def stackDie (k : Nat) : Nat := k / 2

/-- A walk from the L3 copy of a die (R101, R105): the die of the tables must be in reach (R373). -/
def walk (s : State) (die c va : Nat) : Except WalkErr (W64 × Nat) :=
  match s.ctx c with
  | none => .error .absent
  | some x =>
    let e := (mapGet x.l3 (va / 2 ^ 46)).getD 0
    if !e.getLsbD 0 then .error .absent
    else if bitsZero e 63 52 && bitsZero e 47 36 && bitsZero e 12 1 then
      let d := stackDie (e.extractLsb' 48 4).toNat
      if (s.hops die d).isNone then .error (.unreachable d)
      else walkFrom s (e.extractLsb' 48 4).toNat va 2 (e.toNat / 2 ^ 13 % 2 ^ 23 * 2 ^ 13)
    else .error (.invalid 2)

/-- The first-level entries that a translation meets (R107). -/
def State.firstLevel (s : State) : Looker → List Tlb
  | .data d k => (s.core d k).dtlb
  | .code d k => (s.core d k).itlb
  | .engine _ => []

/-- The entry maps the page. -/
def Tlb.hits (t : Tlb) (c va : Nat) : Bool := t.ctx == c && t.page == va / 2 ^ t.bits

/-- The page is declared never arriving (R433), by virtual page of 64 KiB.
Marks: DESIGN CHOICE, unsafe (assumption 48). -/
def State.isNever (s : State) (c va : Nat) : Bool := ((s.ctx c).map (·.never)).getD [] |>.contains (va / 65536)

/-- The leaf of an address: a page declared never arriving ends with detail 1 (R433); else a cached leaf, of the first
level and then of the second (R107), or the walk's.
Marks: DESIGN CHOICE, safe (assumption 60). -/
def leafOf (s : State) (u : Looker) (c va : Nat) : Except WalkErr (W64 × Nat) :=
  if s.isNever c va then .error (.invalid 1)
  else match (s.firstLevel u ++ (s.die u.die).tlb).find? (·.hits c va) with
    | some t => .ok (t.leaf, t.bits)
    | none => walk s u.die c va

/-- Does the leaf grant the access (R106)? -/
def leafGrants (e : W64) : Acc → Bool
  | .read => e.getLsbD 6
  | .write => e.getLsbD 7
  | .exec => e.getLsbD 8

/-- The device physical address that a leaf gives (R103). -/
def leafAddr (e : W64) (b va : Nat) : Nat :=
  (e.extractLsb' 56 4).toNat * 2 ^ 36 + (e.toNat / 2 ^ b * 2 ^ b) % 2 ^ 36 + va % 2 ^ b

/-- ORD of a leaf (R103). -/
def leafOrd (e : W64) : Ord :=
  match (e.extractLsb' 9 2).toNat with
  | 0 => .so
  | 1 => .rc
  | _ => .uo

/-- A device address of the raw alias (R118): the alias of the physical range lies above it.
Marks: DEDUCED, unsafe (assumption 54). -/
def isRaw (addr : Nat) : Bool := decide (2 ^ 40 ≤ addr)

/-- An access through the raw alias to a sector of a compressed page fails with detail 4, a write too (R118).  No field of a
leaf names the alias, so no page leads there.
Marks: DEDUCED, unsafe (assumption 54). -/
def rawFails (e : W64) (pa : Nat) : Bool := isRaw pa && e.getLsbD 11

/-- The device physical address of a virtual address (R103), and the ordering kind of its page (R110).  The stack must be
in reach (R373). -/
def translate (s : State) (u : Looker) (c va : Nat) (acc : Acc) : Except WalkErr (Nat × Ord) :=
  match leafOf s u c va with
  | .error e => .error e
  | .ok (e, b) =>
    let d := stackDie (e.extractLsb' 56 4).toNat
    if !leafGrants e acc then .error (.invalid 3)
    else if (s.hops u.die d).isNone then .error (.unreachable d)
    else if rawFails e (leafAddr e b va) then .error (.invalid 4)
    else .ok (leafAddr e b va, leafOrd e)

/-- A TLB of a size with a leaf added: the oldest goes.
Marks: DESIGN CHOICE, safe (assumption 60). -/
def tlbAdd (size : Nat) (t : Tlb) (l : List Tlb) : List Tlb :=
  if l.any (·.hits t.ctx (t.page * 2 ^ t.bits)) then l else (t :: l).take size

/-- Cache the leaf of an address (R107): 64 entries for instructions and 512 for data in a core, 16,384 in a die.
Marks: DESIGN CHOICE, safe (assumption 60). -/
def State.cacheLeaf (s : State) (u : Looker) (c va : Nat) : State :=
  match leafOf s u c va with
  | .error _ => s
  | .ok (e, b) =>
    let t : Tlb := { ctx := c, page := va / 2 ^ b, bits := b, leaf := e }
    let s := match u with
      | .data d k => s.modCore d k fun x => { x with dtlb := tlbAdd 512 t x.dtlb }
      | .code d k => s.modCore d k fun x => { x with itlb := tlbAdd 64 t x.itlb }
      | .engine _ => s
    s.modDie u.die fun x => { x with tlb := tlbAdd 16384 t x.tlb }

/-- No TLB holds an entry that passes the test. -/
def State.dropTlb (s : State) (p : Tlb → Bool) : State :=
  { s with dies := s.dies.map fun d =>
      { d with tlb := d.tlb.filter fun t => !p t
               cores := d.cores.map fun k =>
                 { k with dtlb := k.dtlb.filter fun t => !p t, itlb := k.itlb.filter fun t => !p t } } }

/-- Split `n` bytes from `va` at 64 KiB boundaries (R111). -/
def splitPages : Nat → Nat → Nat → List (Nat × Nat)
  | 0, _, _ => []
  | fuel + 1, va, n =>
    if n = 0 then []
    else
      let k := min n (65536 - va % 65536)
      (va, k) :: splitPages fuel (va + k) (n - k)

/-- Pages that `n` bytes from `va` touch. -/
def pagesOf (va n : Nat) : List (Nat × Nat) := splitPages (n / 65536 + 2) va n

/-- A part of an access at its home. -/
structure Part where
  space : Space
  addr : Nat
  n : Nat
  ord : Ord
  deriving DecidableEq, Repr

/-- The physical parts of `n` bytes from `va`, or the first failure. -/
def translateAll (s : State) (u : Looker) (c : Nat) (acc : Acc) : List (Nat × Nat) → Except (Nat × WalkErr) (List Part)
  | [] => .ok []
  | (va, k) :: ps =>
    match translate s u c va acc with
    | .error e => .error (va, e)
    | .ok (pa, o) => (translateAll s u c acc ps).map fun r => { space := .hbm, addr := pa, n := k, ord := o } :: r

/-! ## Code (R121) -/

/-- The code object of a node: its entry in the context's table, with EX (R92).
Marks: DEDUCED, unsafe (assumption 64). -/
def State.codeObj (s : State) (c : Nat) (d : Desc) : Except FCode Obj :=
  match s.capEntry c d.code [.mem] with
  | none => .error .object
  | some o => if rightEX &&& (capRights d.code &&& o.rights) = rightEX then .ok o else .error .rights

/-- Length of the code object.
Marks: DEDUCED, unsafe (assumption 69). -/
def State.codeLen (s : State) (c : Nat) (d : Desc) : Nat := ((s.obj c (capObj d.code)).map (·.len)).getD 0

/-- How a read of code ends without bytes. -/
inductive CodeErr
  | absent (va : Nat)
  | flt (f : Flt)
  deriving DecidableEq, Repr

/-- The logical die that names a physical die in a context's map: the lowest.
Marks: DEDUCED, unsafe (assumption 64). -/
def State.logicalOf (s : State) (c d : Nat) : Nat :=
  (((s.ctx c).map (·.map)).getD []).findIdx (· == some d)

/-- Bytes of the code object through the fetch path of a core.
Marks: DEDUCED, unsafe (assumption 64); DEDUCED, safe (assumption 78). -/
def State.readCode (s : State) (c die core : Nat) (d : Desc) (off n : Nat) : Except CodeErr (List Byte) :=
  match s.codeObj c d with
  | .error e => .error (.flt { code := e, s45 := d.code })
  | .ok o =>
    if o.len < off + n then .error (.flt { code := .bounds, s45 := BitVec.ofNat 64 off })
    else
      match translateAll s (.code die core) c .exec (pagesOf (o.base + off) n) with
      | .error (va, .absent) => .error (.absent va)
      | .error (_, .invalid k) => .error (.flt { code := .pageInvalid, s45 := BitVec.ofNat 64 (k * 256) })
      | .error (_, .unreachable k) => .error (.flt { code := .dieAbsent, s45 := BitVec.ofNat 64 (s.logicalOf c k) })
      | .ok ps =>
        if ps.any fun p => s.badRead p.space p.addr p.n then
          .error (.flt (eccFault 7))
        else .ok (ps.flatMap fun p => s.readHome (s.keyOf c) p.space p.addr p.n)

end Sys2Proof.Machine
end

