-- ==== Sys2Proof/Machine/Operands.lean ====
section
/-! DEFINITION. The run that an instruction issues to, and every operand form (R15, R168 to R171, R174). -/

namespace Sys2Proof.Machine

/-- The run of the current instruction: `ls` its lanes but those that have faulted, `act` those with a true guard
("issuing", R171). -/
structure Run where
  gid : Nat
  w : Nat
  g : Group
  d : Desc
  iss : Issue
  o : Ops
  ls : List Nat
  act : List Nat
  deriving DecidableEq, Repr

/-- The guard of a lane (R171). -/
def guardOf (g : Guard) (x : Lane) : Bool := x.getP g.p.toNat != g.neg

/-- The run of the issue under way. -/
def State.runOf (s : State) (o : Ops) : Option Run :=
  match s.issue with
  | none => none
  | some iss =>
    match s.group iss.gid with
    | none => none
    | some g =>
      let ls := lanesIn (iss.lanes &&& ~~~iss.out)
      some { gid := iss.gid, w := iss.warp, g := g, d := s.desc g, iss := iss, o := o, ls := ls,
             act := ls.filter fun l => guardOf o.g (iss.snap.lane l) }

def Run.pc (r : Run) : W64 := r.iss.pc
def Run.snap (r : Run) : Warp := r.iss.snap
def Run.isAct (r : Run) (l : Nat) : Bool := r.act.contains l

/-- The lane whose v-registers a lane's operands come from: with an s-register destination, the lowest-indexed
issuing lane (R29).
Marks: DEDUCED, unsafe (assumption 13). -/
def Run.from (r : Run) (l : Nat) : Nat := if isS r.o.d then r.act.headD l else l

/-- A position register (R15). -/
def Run.pos (r : Run) (l : Nat) (i : BitVec 8) : W32 :=
  match i.toNat - 0xF0 with
  | 1 => BitVec.ofNat 32 l
  | 2 => BitVec.ofNat 32 r.w
  | 3 => 64
  | 4 => BitVec.ofNat 32 r.g.lin
  | 5 => BitVec.ofNat 32 r.g.ldie
  | 6 => BitVec.ofNat 32 r.g.core
  | 7 => r.d.launch.extractLsb' 0 32
  | 8 => BitVec.ofNat 32 (l / 4)
  | 9 => (maskOf r.act).extractLsb' 0 32
  | _ => 0

/-- A 32-bit source as lane `l` reads it, at the start of the cycle (R28, R168, R169). -/
def Run.rd32 (r : Run) (l : Nat) (i : BitVec 8) : W32 :=
  if isV i then (r.snap.lane (r.from l)).getV i.toNat
  else if isS i then (r.snap.getS (sNum i)).extractLsb' 0 32
  else if isImm i then r.o.imm
  else r.pos (r.from l) i

/-- How the immediate becomes 64 bits (R169). -/
inductive Ext
  | zero
  | sign
  | f64
  deriving DecidableEq, Repr

/-- An immediate as a 64-bit operand (R169).
Marks: DEDUCED, unsafe (assumption 68). -/
def extImm (e : Ext) (imm : W32) : W64 :=
  match e with
  | .zero => imm.zeroExtend 64
  | .sign => imm.signExtend 64
  | .f64 =>
    if imm.extractLsb' 23 8 = 255 then imm.extractLsb' 31 1 ++ 0x7FF#11 ++ imm.extractLsb' 0 23 ++ 0#29
    else BitVec.ofNat 64 (fconvert fmtF64 .rn false (fdecode fmtF32 imm.toNat)).1

/-- The extension of a type's immediate. -/
def extOf (t : NumType) : Ext := if t = .f64 then .f64 else if t.isSigned then .sign else .zero

/-- A 64-bit source (R169). -/
def Run.rd64 (r : Run) (e : Ext) (l : Nat) (i : BitVec 8) : W64 :=
  if isV i then (r.snap.lane (r.from l)).getV64 i.toNat
  else if isS i then r.snap.getS (sNum i)
  else if isImm i then extImm e r.o.imm
  else (r.pos (r.from l) i).zeroExtend 64

/-- A predicate of a lane (R170). -/
def Run.rdP (r : Run) (l : Nat) (i : BitVec 8) : Bool := (r.snap.lane (r.from l)).getP i.toNat

/-- The code of a source of type `t`: its low bits, or bits 31:16 of a 16-bit source with `hi` (R196, R270);
the immediate as a 16-bit operand is its bits 15:0 (R169).
Marks: DEDUCED, unsafe (assumption 66). -/
def Run.code (r : Run) (t : NumType) (hi : Bool) (l : Nat) (i : BitVec 8) : Nat :=
  if t.is64 then (r.rd64 (extOf t) l i).toNat
  else
    let x := (r.rd32 l i).toNat
    (if hi && !isImm i then x / 2 ^ 16 else x) % 2 ^ t.bits

/-- Source modifiers on an integer of `n` bits (R174): absolute first, then negation, both wrapping. -/
def modInt (n : Nat) (neg abs : Bool) (x : Nat) : Nat :=
  let y := if abs && decide (2 ^ (n - 1) ≤ x) then (2 ^ n - x) % 2 ^ n else x
  if neg then (2 ^ n - y) % 2 ^ n else y

/-- An integer source. -/
def Run.int (r : Run) (t : NumType) (neg abs : Bool) (l : Nat) (i : BitVec 8) : Int :=
  toNum t.bits t.isSigned (modInt t.bits neg abs (r.code t false l i))

/-- Source modifiers on a code with its sign at bit `sb` (R72, R174). -/
def modSign (sb : Nat) (neg abs : Bool) (x : Nat) : Nat :=
  let y := if abs then x % 2 ^ sb else x
  if neg then (if 2 ^ sb ≤ y then y - 2 ^ sb else y + 2 ^ sb) else y

/-- The code of a floating-point or SLI source, after its modifiers. -/
def Run.fcode (r : Run) (t : NumType) (hi neg abs : Bool) (l : Nat) (i : BitVec 8) : Nat :=
  modSign (t.bits - 1) neg abs (r.code t hi l i)

/-- A floating-point source. -/
def Run.flt (r : Run) (t : NumType) (neg abs : Bool) (l : Nat) (i : BitVec 8) : FV :=
  fdecode (fmtOf t) (r.fcode t false neg abs l i)

/-- An SLI source. -/
def Run.sli (r : Run) (t : NumType) (hi neg abs : Bool) (l : Nat) (i : BitVec 8) : SV :=
  sdecode (sliF t) (r.fcode t hi neg abs l i)

/-- The destination that a field names. -/
def Run.dst (r : Run) (k : FieldKind) : Dst :=
  match k with
  | .pred => .pred r.o.d.toNat
  | .dst64 | .dstV64 => if isV r.o.d then .v64 r.o.d.toNat else if isS r.o.d then .s (sNum r.o.d) else .none
  | .none | .tile | .dstVs _ => .none
  | _ => if isV r.o.d then .v32 r.o.d.toNat else if isS r.o.d then .s (sNum r.o.d) else .none

/-- The s-registers that an instruction reads: those of its fields, the once-tag of `REDST` (R324), and the s46 of `HRET`
(R428). -/
def Run.sReads (r : Run) (i : Instr) (f : Form) : List Nat :=
  let one := fun (k : FieldKind) (i : BitVec 8) => if k.isSrc && isS i then [sNum i] else []
  one f.a r.o.a ++ one f.b r.o.b ++ one f.c r.o.c ++ (if f.d = .dstSTag then [sNum r.o.d + 1] else [])
  ++ (match i with | .hret _ _ => [46] | _ => [])

/-- The words of registers that the source fields of lane `l` name: lane and register, lanes 64 and 65 for the halves of an
s-register. -/
def Run.fieldReads (r : Run) (f : Form) (l : Nat) : List (Nat × Nat) :=
  let one := fun (k : FieldKind) (i : BitVec 8) =>
    if k.isSrc && isS i then [(64, sNum i), (65, sNum i)]
    else if k.isSrc && isV i then (List.range k.span).map fun j => (r.from l, i.toNat + j) else []
  one f.a r.o.a ++ one f.b r.o.b ++ one f.c r.o.c ++ (if f.d = .dstSTag then [(64, sNum r.o.d + 1), (65, sNum r.o.d + 1)] else [])

/-- The words of registers that an instruction reads for lane `l`: those of its source fields, but that `MOVS` reads the
lane that it names (R208), and beside them the payload of `REGROUP` (R267) and the s46 of `HRET` (R428). -/
def Run.reads (r : Run) (i : Instr) (f : Form) (l : Nat) : List (Nat × Nat) :=
  match i with
  | .movs _ _ =>
    let k := (r.rd64 .zero l r.o.b).toNat % 128
    let own := (r.fieldReads f l).filter fun p => decide (64 ≤ p.1)
    if isV r.o.a && decide (k < 64) && r.isAct k then (k, r.o.a.toNat) :: own else own
  | .regroup _ m => r.fieldReads f l ++ (List.range (m.c.toNat + 1)).map fun j => (l, r.o.d.toNat + j)
  | .hret _ _ => r.fieldReads f l ++ [(64, 46), (65, 46)]
  | _ => r.fieldReads f l

end Sys2Proof.Machine
end

