-- ==== Sys2Proof/Machine/Flags.lean ====
section
/-! DEFINITION. What an instruction computes for a lane: the value as a destination receives it, its flags (R77,
R78), and its faults. -/

namespace Sys2Proof.Machine

/-- The result of one lane.  `late` is a failure reported at the landing point (R181). -/
structure Res where
  val : W64
  flags : W32 := 0
  flt : Option Flt := none
  late : Option Flt := none
  deriving DecidableEq, Repr

/-- A value alone. -/
def Res.ofVal (v : W64) : Res := { val := v }

/-- A lane that faults at the instruction. -/
def Res.fault (c : FCode) (s45 : W64) : Res := { val := 0, flt := some { code := c, s45 := s45 } }

/-- A predicate result. -/
def Res.bool (b : Bool) : Res := { val := if b then 1 else 0 }

/-- An integer of `n` bits as its destination receives it, extended by the type's signedness (R169, R196). -/
def extInt (n : Nat) (sg : Bool) (x : Int) : W64 :=
  BitVec.ofInt 64 (toNum n sg (x % 2 ^ n).toNat)

/-- An exact integer reduced or clamped to the type (R55). -/
def Res.int (t : NumType) (sat : Bool) (x : Int) : Res :=
  let r := intFit t.bits t.isSigned sat x
  { val := BitVec.ofInt 64 r.1, flags := r.2 }

/-- A code with its flags (R270: 16-bit results with zeros above). -/
def Res.ofF (p : FRes) : Res := { val := BitVec.ofNat 64 p.1, flags := p.2 }

/-- A word of the width of a type, zero-extended or sign-extended by its signedness (R169). -/
def Res.word (t : NumType) (x : Nat) : Res := { val := extInt t.bits t.isSigned x }

/-- A comparison joined with the predicate of src c (R200, R274). -/
def combine (c : Comb) (t pc : Bool) : Bool :=
  match c with
  | .none => t
  | .and => t && pc
  | .or => t || pc
  | .xor => t != pc

end Sys2Proof.Machine
end

