-- ==== Sys2Proof/Machine/Waits.lean ====
section
/-! DEFINITION. What lanes wait for: engine contexts and futures (R236 to R240), timelines (R242, R471), stage rings
(R244, R245), and when a wait is over (R43). -/

namespace Sys2Proof.Machine

/-! ## Engine contexts -/

def ECtx.empty : ECtx := { alloc := 0, holder := none, counter := 0, next := 1, done := [], statuses := [], gen := none }

/-- The engine context that a CTX field names for a group: a copy context allotted to it, or a scrim context of
its die (R236, R243).
Marks: DEDUCED, unsafe (assumption 18). -/
def State.ectx (s : State) (g : Group) (c : Nat) : Option ECtx :=
  if c < 0x40 then (g.copyCtxs[c]?).map fun k => (mapGet (s.die g.die).copyCtx k).getD ECtx.empty
  else if c < 0x80 then some ((mapGet (s.die g.die).scrimCtx (c - 0x40)).getD ECtx.empty)
  else none

/-- Has the counter reached the value (R237, R243)? -/
def reached (counter v : Nat) : Bool := decide ((counter + 2 ^ 56 - v % 2 ^ 56) % 2 ^ 56 < 2 ^ 55)

/-- done(SEQ) of R237. -/
def ECtx.isDone (e : ECtx) (seq : Nat) : Bool := seq == 0 || reached e.counter seq

/-- Has the operation itself completed (R238)? -/
def ECtx.opDone (e : ECtx) (seq : Nat) : Bool := e.isDone seq || e.done.contains seq

/-- The status word of an operation (R238): one beyond the 256 retained reads as DONE with CODE 0. -/
def ECtx.status (e : ECtx) (seq : Nat) : W32 :=
  if e.opDone seq then (((e.statuses.find? fun p => p.1 == seq).map (·.2)).getD 0) ||| 0x80000000#32 else 0

/-- Codes 0 and 6 are successes (R322). -/
def ECtx.failed (e : ECtx) (seq : Nat) : Bool :=
  let c := (e.status seq).extractLsb' 0 8
  c != 0 && c != 6

/-- The counter passes every number completed without a gap (R237). -/
def ECtx.pass : Nat → ECtx → ECtx
  | 0, e => e
  | n + 1, e =>
    if e.done.contains (e.counter + 1) then
      ECtx.pass n { e with counter := e.counter + 1, done := e.done.filter (· != e.counter + 1) }
    else e

/-- An operation completes with a status (R237, R238). -/
def ECtx.complete (e : ECtx) (seq : Nat) (status : W32) : ECtx :=
  let e := { e with done := e.done ++ [seq], statuses := ((seq, status ||| 0x80000000#32) :: e.statuses).take 256 }
  e.pass e.done.length

def handleCtx (h : W64) : Nat := (h.extractLsb' 56 8).toNat
def handleSeq (h : W64) : Nat := (h.extractLsb' 0 56).toNat
def mkHandle (c seq : Nat) : W64 := BitVec.ofNat 8 c ++ BitVec.ofNat 56 seq

/-- The number of an engine context on its die: the copy contexts by their numbers, then the scrim contexts. -/
def engineNo (g : Group) (c : Nat) : Nat := if c < 0x40 then g.copyCtxs.getD c 0 else 4608 + (c - 0x40)

/-- Agents know what happens-before the completion of those operations of an engine context, in an allotment, whose numbers
pass a test (R133). -/
def State.acquireDone (s : State) (die k alloc : Nat) (p : Nat → Bool) (bs : List Agent) : State :=
  s.teach (fun e => e.known.any fun a => match a with
    | .done d j al q => d == die && j == k && al == alloc && p q
    | _ => false) bs

/-- Lanes observe an engine context: they acquire the completions of the operations numbered up to `seq` (R133, R240, R243). -/
def State.observe (s : State) (g : Group) (c seq gid w : Nat) (ls : List Nat) : State :=
  s.acquireDone g.die (engineNo g c) ((s.ectx g c).map (·.alloc.toNat) |>.getD 0) (reached seq)
    (ls.map fun l => .lane gid w l)

/-! ## Timelines (R242, R471) -/

/-- What a timeline name resolves to. -/
inductive Timeline
  | counter (n : Nat)
  | released
  | fault (f : Flt)
  deriving DecidableEq, Repr

/-- The key of launch queue `q` of a context (R450). -/
def lqKey (c q : Nat) : Nat := c * 256 + q

/-- Resolve a name for a context. -/
def State.timeline (s : State) (c : Nat) (name : W64) : Timeline :=
  let kind := (name.extractLsb' 61 3).toNat
  let ldie := (name.extractLsb' 58 3).toNat
  let idx := (name.extractLsb' 45 13).toNat
  let alloc : W32 := name.extractLsb' 13 32
  let obj := Timeline.fault { code := .object, s45 := name }
  if name.extractLsb' 0 13 ≠ 0 ∨ 2 < kind then obj
  else if kind ≠ 0 ∧ alloc ≠ 0 then obj
  else if (kind = 0 ∧ 4608 ≤ idx) ∨ (kind = 1 ∧ 64 ≤ idx) ∨ (kind = 2 ∧ 256 ≤ idx) then obj
  else match s.phys c ldie with
    | none => .fault { code := .dieAbsent, s45 := BitVec.ofNat 64 ldie }
    | some d =>
      match kind with
      | 0 =>
        let e := (mapGet (s.die d).copyCtx idx).getD ECtx.empty
        match e.holder with
        | some (o, _) => if e.alloc = alloc then (if o = c then .counter e.counter else obj) else .released
        | none => .released
      | 1 =>
        if (((s.ctx c).map fun (x : Ctx) => x.scrim).getD 0).getLsbD idx then
          .counter ((mapGet (s.die d).scrimCtx idx).getD ECtx.empty).counter
        else obj
      | _ => match mapGet s.lqs (lqKey c idx) with
        | none => obj
        | some q => .counter q.counter

/-- Agents know what happens-before the completion of the first `k` nodes of a launch queue (R452). -/
def State.acquirePlaces (s : State) (queue k : Nat) (bs : List Agent) : State :=
  s.teach (fun e => e.known.any fun a => match a with
    | .placed q n => q == queue && decide (n ≤ k)
    | _ => false) bs

/-- A lane observes a timeline: it acquires the completions that the counter covers, or all of a released allotment (R243,
R452, R471). -/
def State.observeTimeline (s : State) (c : Nat) (name : W64) (a : Agent) : State :=
  let kind := (name.extractLsb' 61 3).toNat
  let idx := (name.extractLsb' 45 13).toNat
  let alloc := (name.extractLsb' 13 32).toNat
  match s.phys c (name.extractLsb' 58 3).toNat, s.timeline c name with
  | some d, .counter n =>
    if kind = 2 then s.acquirePlaces (lqKey c idx) n [a]
    else s.acquireDone d (if kind = 0 then idx else 4608 + idx) alloc (reached n) [a]
  | some d, .released => s.acquireDone d idx alloc (fun _ => true) [a]
  | _, _ => s

/-! ## Stage rings (R244, R245, R251) -/

/-- Where a ring's header is: of a group, or of a physical die. -/
inductive RingAt
  | group (gid idx : Nat)
  | loft (die idx : Nat)
  deriving DecidableEq, Repr

/-- A stage ring as it stands between those who fill and those who release (R133). -/
def RingAt.agent : RingAt → Agent
  | .group gid i => .ring false gid i
  | .loft d i => .ring true d i

def ringMisuse (d : Nat) : Flt := { code := .ringMisuse, s45 := BitVec.ofNat 64 d }

/-- The ring that a name names (R244): detail 7 for a reserved bit, an IDX beyond its range or a group ring with a nonzero
LDIE, detail 1 for a ring that is not allotted to the group, or is on a die absent from the map.
Marks: DEDUCED, unsafe (assumption 19); DESIGN CHOICE, unsafe (assumption 92). -/
def State.ringAt (s : State) (gid : Nat) (g : Group) (name : W32) : Except Flt RingAt :=
  let idx := (name.extractLsb' 0 6).toNat
  let ldie := (name.extractLsb' 28 3).toNat
  if name.extractLsb' 6 22 ≠ 0 then .error (ringMisuse 7)
  else if name.getLsbD 31 then
    match s.phys g.ctx ldie with
    | none => .error (ringMisuse 1)
    | some d => .ok (.loft d idx)
  else if ldie ≠ 0 ∨ 32 ≤ idx then .error (ringMisuse 7)
  else if (s.desc g).nring ≤ idx then .error (ringMisuse 1)
  else .ok (.group gid idx)

/-- The header at a place, if it is initialised. -/
def State.ringOf (s : State) (r : RingAt) : Option Ring :=
  match r with
  | .group gid i => (s.group gid).bind fun g => mapGet g.rings i
  | .loft d i => mapGet (s.die d).rings i

def State.setRing (s : State) (r : RingAt) (x : Option Ring) : State :=
  match r with
  | .group gid i => s.modGroup gid fun g =>
    { g with rings := match x with | none => mapErase g.rings i | some x => mapSet g.rings i x }
  | .loft d i => s.modDie d fun y =>
    { y with rings := match x with | none => mapErase y.rings i | some x => mapSet y.rings i x }

/-- The ring that a lane uses: initialised by its context, and on the lane's logical die (R251 details 1 and 6, in this
order).  A ring of another context counts as not initialised.
Marks: DESIGN CHOICE, unsafe (assumption 92). -/
def State.useRing (s : State) (gid : Nat) (g : Group) (name : W32) : Except Flt (RingAt × Ring) :=
  match s.ringAt gid g name with
  | .error f => .error f
  | .ok r => match s.ringOf r with
    | none => .error (ringMisuse 1)
    | some x =>
      if x.owner ≠ g.ctx then .error (ringMisuse 1)
      else if name.getLsbD 31 && (name.extractLsb' 28 3).toNat != g.ldie then .error (ringMisuse 6)
      else .ok (r, x)

/-- Slot count. -/
def Ring.slots (x : Ring) : Nat := 2 ^ x.k

/-- Advance FILLED over every consecutive filled slot (R248). -/
def Ring.passFilled : Nat → Ring → Ring
  | 0, x => x
  | n + 1, x =>
    if x.fillMarks.contains x.filled then
      Ring.passFilled n { x with filled := x.filled + 1, fillMarks := x.fillMarks.filter (· != x.filled) }
    else x

/-- Advance FREED over every consecutive released slot (R250). -/
def Ring.passFreed : Nat → Ring → Ring
  | 0, x => x
  | n + 1, x =>
    if x.freeMarks.contains x.freed then
      Ring.passFreed n { x with freed := x.freed + 1, freeMarks := x.freeMarks.filter (· != x.freed) }
    else x

/-- Mark slot `n` filled (R248). -/
def Ring.fill (x : Ring) (n : Nat) : Ring :=
  let x := { x with fillMarks := insertNat x.fillMarks n }
  x.passFilled x.fillMarks.length

/-- Mark slot `n` released (R250). -/
def Ring.release (x : Ring) (n : Nat) : Ring :=
  let x := { x with freeMarks := insertNat x.freeMarks n }
  x.passFreed x.freeMarks.length

/-! ## The end of a wait (R43) -/

/-- The matrix entries of a core: those in its queue, and those that wait for a place in it (R330). -/
def Core.entries (c : Core) : List MEntry := c.queue ++ c.waiting

/-- Entries of a core on a tile of a group that entered the queue before `upto`. -/
def State.entriesOn (s : State) (gid : Nat) (g : Group) (tile upto : Nat) : Nat :=
  ((s.core g.die g.core).entries.filter fun e =>
    e.gid == gid && e.tile == tile && e.entered.any fun n => decide (n < upto)).length

/-- May a lane that waits so issue again?  The waits that an event ends by moving the lane answer no.  A lane that waits for the
line of its target has issued its transfer: it is not ready, and not blocked.
Marks: DESIGN CHOICE, unsafe (assumption 93). -/
def State.waitOver (s : State) (gid : Nat) (g : Group) (w : Warp) (x : Wait) : Bool :=
  match x with
  | .none => true
  | .future h => match s.ectx g (handleCtx h) with
    | some e => e.isDone (handleSeq h)
    | none => true
  | .timeline name v => match s.timeline g.ctx name with
    | .counter n => reached n v.toNat
    | _ => true
  | .ringw ring n => match s.useRing gid g ring with
    | .ok (_, r) => decide (n.toNat < r.filled)
    | .error _ => true
  | .ringp ring => match s.useRing gid g ring with
    | .ok (_, r) => decide (r.claimed - r.freed < r.slots)
    | .error _ => true
  | .target pc _ => (mapGet w.lines (pcLine pc)).isSome
  | .entry _ _ => true
  | .page _ | .bar _ | .cbar _ | .mask | .regroup | .duet _ | .join _ _ | .accg _ _ | .queue _ | .fault => false

/-- Is the wait a blocking point of R43 (not a stall, nor a pending fault)? -/
def Wait.isBlock : Wait → Bool
  | .none | .target _ _ | .entry _ _ | .queue _ | .fault => false
  | _ => true

/-- Is the wait at an external blocking point (R43)? -/
def Wait.isExternal : Wait → Bool
  | .future _ | .timeline _ _ | .ringw _ _ | .ringp _ | .page _ => true
  | _ => false

/-- Is the wait at a synchronising instruction of R34? -/
def Wait.isSync : Wait → Bool
  | .bar _ | .cbar _ | .mask | .regroup => true
  | _ => false

/-- Is a lane blocked now? -/
def State.isBlocked (s : State) (gid : Nat) (g : Group) (w : Warp) (x : Lane) : Bool :=
  x.wait.isBlock && !s.waitOver gid g w x.wait

/-! ## The duet rendezvous: partners and releases (R358, R362) -/

/-- The partner group of a duet pair. -/
def State.partner (s : State) (g : Group) : Option (Nat × Group) :=
  s.groups.find? fun p => p.2.ctx == g.ctx && p.2.node == g.node && p.2.lin == (g.lin ^^^ 1) && p.2.res != .draining

/-- Is warp `w` of the group parted (R358)?  A group that is gone is. -/
def State.parted (s : State) (gid w : Nat) : Bool :=
  match s.group gid with
  | none => true
  | some g => (g.warp w).lanes.all fun x => !x.isLive || s.isBlocked gid g (g.warp w) x

/-- Set DUET_SPLIT of the pair (R365). -/
def State.setSplit (s : State) (g : Group) (v : Bool) : State :=
  let d : Duet := { ctx := g.ctx, node := g.node, pair := g.lin / 2, split := v }
  { s with duets := d :: s.duets.filter fun x => !(x.ctx == g.ctx && x.node == g.node && x.pair == g.lin / 2) }

def State.split (s : State) (g : Group) : Bool :=
  s.duets.any fun x => x.ctx == g.ctx && x.node == g.node && x.pair == g.lin / 2 && x.split

/-- The lane has issued the instruction at its PC, and continues at another: its windows count it (R178), and what it had
read for that place as the second of a pair is done with (R22). -/
def Lane.goOn (stamp : Nat) (x : Lane) (pc : W64) : Lane :=
  { x.count stamp with pc := pc, entry := false, wait := .none, before := x.before.filter fun b => b.pc != x.pc }

/-- Lanes leave the instruction they wait at, each at its next slot. -/
def State.leave (s : State) (gid w : Nat) (ls : W64) : State :=
  (s.modWarp gid w fun x => x.modLanes ls fun _ y => y.goOn s.stamp (nextSlot y.pc)).landDue gid w ls

/-- Change a matrix entry of a core. -/
def State.modEntry (s : State) (g : Group) (id : Nat) (f : MEntry → MEntry) : State :=
  let one := fun (e : MEntry) => if e.id == id then f e else e
  s.modCore g.die g.core fun c => { c with queue := c.queue.map one, waiting := c.waiting.map one }

/-- The entry is in its core's queue. -/
def State.inQueue (s : State) (g : Group) (id : Nat) : Bool := (s.core g.die g.core).queue.any fun e => e.id == id

/-- Release a held entry, and with it the run that blocks at its `MMAD` (R362), which goes on when the entry is in the
queue (R330). -/
def State.releaseEntry (s : State) (gid : Nat) (g : Group) (e : MEntry) (r : Rdv) : State :=
  let s := s.modEntry g e.id fun x => { x with rdv := r }
  let ls := (s.warp gid e.warp).where fun x => x.wait == .duet e.id
  if s.inQueue g e.id then s.leave gid e.warp ls
  else s.modWarp gid e.warp fun w => w.modLanes ls fun _ x => { x with wait := .queue e.id }

/-- The held entries of a warp. -/
def State.heldBy (s : State) (gid : Nat) (g : Group) (w : Nat) : List MEntry :=
  (s.core g.die g.core).entries.filter fun e =>
    e.gid == gid && e.warp == w && (match e.rdv with | .held _ _ => true | _ => false)

/-- When a warp of a duet launch is parted, the partner warp's held entries are released unpaired (R362). -/
def State.partCheck (s : State) (gid w : Nat) : State :=
  match s.group gid with
  | none => s
  | some g =>
    if !(s.desc g).isDuet || !s.parted gid w then s
    else match s.partner g with
      | none => s
      | some (pid, p) =>
        (s.heldBy pid p w).foldl (fun s e => (s.releaseEntry pid p e .free).setSplit g true) s

end Sys2Proof.Machine
end

