-- ==== Sys2Proof/Machine/Issue.lean ====
section
/-! DEFINITION. What every instruction that issues to a run shares: the checks before it acts (R167, R168, R240,
R440), writing its results and opening its windows (R28 to R30, R78, R178), the shadow check (R37 to R40), and
moving its lanes on. -/

namespace Sys2Proof.Machine

/-! ## Moving lanes -/

/-- The faults that go into one raise with those of the instruction (R420). -/
def State.setPre (s : State) (fs : List LFlt) : State := { s with issue := s.issue.map fun i => { i with pre := fs } }

/-- The faults of the issue that were found before it acted go into one raise with those of the instruction (R420). -/
def State.raiseRun (s : State) (r : Run) (fs : List LFlt) : State :=
  let pre := (s.issue.map (·.pre)).getD []
  if fs.isEmpty || pre.isEmpty then s.raise r.gid r.w r.pc fs
  else (s.setPre []).raise r.gid r.w r.pc (sortBy (fun (p : LFlt) => p.1) (pre ++ fs))

/-- Raise one fault for lanes of the run. -/
def State.raiseAll (s : State) (r : Run) (ls : List Nat) (c : FCode) (s45 : W64) : State :=
  s.raiseRun r (ls.map fun l => (l, Flt.mk c s45))

/-- Every lane of the run raises the fault, and the instruction does nothing else (R167, R185). -/
def State.refuse (s : State) (r : Run) (c : FCode) : State := s.raise r.gid r.w r.pc (r.ls.map fun l => (l, Flt.mk c 0))

/-- The lanes wait at the instruction. -/
def State.hold (s : State) (r : Run) (ls : List Nat) (w : Wait) : State :=
  s.modWarp r.gid r.w fun x => x.modLanes (maskOf ls) fun _ y => { y with wait := w }

/-- The lanes block at the instruction; a partner warp sees this one part (R358). -/
def State.block (s : State) (r : Run) (ls : List Nat) (w : Wait) : State := (s.hold r ls w).partCheck r.gid r.w

/-- The instruction has issued to the lanes, which continue where `dest` says: their windows count it, and what is
due lands (R178). -/
def State.moveTo (s : State) (r : Run) (ls : List Nat) (dest : Nat → W64) : State :=
  (s.modWarp r.gid r.w fun x => x.modLanes (maskOf ls) fun l y => y.goOn s.stamp (dest l)).landDue r.gid r.w (maskOf ls)

/-- The lanes continue at the next slot. -/
def State.advance (s : State) (r : Run) (ls : List Nat) : State := s.moveTo r ls fun _ => nextSlot r.pc

/-! ## Before the instruction acts -/

/-- Lanes that read a register with an uncorrectable error (R440).
Marks: DESIGN CHOICE, unsafe (assumption 6). -/
def Run.badLanes (r : Run) (i : Instr) (f : Form) : List Nat :=
  if r.snap.regErr.isEmpty then []
  else match f.a with
    | .srcVs _ => if (lanesIn r.snap.live).any fun l => (r.reads i f l).any r.snap.regErr.contains then r.act else []
    | _ => r.act.filter fun l => (r.reads i f l).any r.snap.regErr.contains

/-- The first future-tagged register that the form reads (R240). -/
def Run.tag (r : Run) (i : Instr) (f : Form) : Option Nat := (r.sReads i f).find? r.snap.tagged

/-- The run without some lanes. -/
def Run.without (r : Run) (ls : List Nat) : Run :=
  { r with ls := r.ls.filter fun l => !ls.contains l, act := r.act.filter fun l => !ls.contains l }

/-- How an instruction treats future tags (R240): its true-guard lanes wait, or every lane of the run reads and
waits (R176), or the run waits together for its true-guard lanes (R333), or nobody waits. -/
inductive Tags
  | issuing
  | run
  | together
  | never
  deriving DecidableEq, Repr

/-- Test the future-tagged sources one by one (R240): the state, and the lanes that do not go on, for they wait at
the instruction (`waiters`) or have faulted (`readers`).
Marks: DEDUCED, unsafe (assumption 17). -/
def State.tagWait (s : State) (r : Run) (waiters readers : List Nat) : List Nat → State × List Nat
  | [] => (s, [])
  | n :: ns =>
    if !r.snap.tagged n then s.tagWait r waiters readers ns
    else
      let h := r.snap.getS n
      match s.ectx r.g (handleCtx h) with
      | none => ((s.modWarp r.gid r.w (·.untag n)).raiseAll r readers .object h, readers)
      | some e =>
        if !e.isDone (handleSeq h) then (s.block r waiters (.future h), waiters)
        else
          let s := (s.modWarp r.gid r.w (·.untag n)).observe r.g (handleCtx h) (handleSeq h) r.gid r.w readers
          if e.failed (handleSeq h) then
            (s.raiseAll r readers .futureFailed ((e.status (handleSeq h)).zeroExtend 64), readers)
          else s.tagWait r waiters readers ns

/-- A lane that waits so has read its operands, and reads nothing again (R176). -/
def Wait.hasRead : Wait → Bool
  | .target _ _ | .entry _ _ | .timeline _ _ | .ringw _ _ | .ringp _ => true
  | _ => false

/-- The register fields of an instruction, and what they hold (`Instr.ops`, `Instr.form`). -/
def opsOf (i : Instr) : Ops :=
  i.ops.getD { g := { neg := false, p := 15 }, la := 0, d := 0xF0, a := 0xF0, b := 0xF0, c := 0xF0, imm := 0 }

def formOf (i : Instr) : Form := i.form.getD (formNone 0)

/-- The future tags, and then the instruction, for the lanes that have not faulted. -/
def issuedRun (i : Instr) (t : Tags) (body : Run → State → State) (r : Run) (s : State) : State :=
  let readers := match t with
    | .issuing => r.act.filter fun l => !(r.snap.lane l).wait.hasRead
    | .run => r.ls
    | .together => r.act
    | .never => []
  if readers.isEmpty then body r s
  else
    let x := s.tagWait r (if t = .together then r.ls else readers) readers (r.sReads i (formOf i))
    body (r.without x.2) x.1

/-- What was found before the instruction acted is raised, if the instruction itself raised nothing. -/
def State.raisePre (s : State) : State :=
  match s.issue with
  | none => s
  | some i => (s.setPre []).raise i.gid i.warp i.pc i.pre

/-- The shared part of every instruction that issues to a run: step 2 of R167, the registers in error (R440) and
the future tags (R240).  `body` gets the run without the lanes that have faulted.
Marks: DEDUCED, unsafe (assumption 69). -/
def issued (i : Instr) (t : Tags) (body : Run → State → State) (s : State) : Out :=
  .next <| match s.runOf (opsOf i) with
    | none => s
    | some r =>
      if !(i.wf && r.o.inRange (formOf i) r.d.vregs r.d.sregs) then s.refuse r .illegalField
      else
        match r.badLanes i (formOf i) with
        | [] => issuedRun i t body r s
        | bad =>
          let pre := bad.map fun l => (l, Flt.mk .machineCheck (2 + 5 * 256))
          (issuedRun i t body (r.without bad) (s.setPre pre)).raisePre

/-- The instructions of R180 land every open window of the run's lanes before they act, and so before they read
their guards and operands.  A lane whose result fails there has faulted. -/
def State.closeIssue (s : State) : State :=
  match s.issue with
  | none => s
  | some iss =>
    let c := closeWindows (lanesIn iss.lanes) iss.snap
    let bad := maskOf (c.2.map fun p => p.2.1)
    let s := s.close iss.gid iss.warp iss.lanes
    { s with issue := s.issue.map fun i => { i with snap := c.1, out := i.out ||| bad } }

/-- An instruction of R180. -/
def issuedClosing (i : Instr) (t : Tags) (body : Run → State → State) (s : State) : Out :=
  issued i t body s.closeIssue

/-! ## Results -/

/-- The opcode ranges whose instructions a shadow checks (R38) are the families that pass `true`. -/
abbrev Checked := Bool

/-- Count a core's mismatch (R441). -/
def State.countMism (s : State) (g : Group) : State :=
  s.modCore g.die g.core fun c => { c with mism := min 255 (c.mism + 1) }

/-- The shadow of a lane in this cycle, if it has one (R37): live, and issuing nothing with a true guard. -/
def Run.shadow (r : Run) (l : Nat) : Option Nat :=
  let p := l ^^^ 32
  if (r.snap.lane p).isLive && !r.iss.busy.getLsbD p then some p else none

/-- The lanes whose result a shadow contradicts (R39), with their shadows.
Marks: DESIGN CHOICE, unsafe (assumption 6). -/
def Run.mismatched (r : Run) (ls : List Nat) : List (Nat × Nat) :=
  ls.filterMap fun l => if r.snap.soft.getLsbD l then (r.shadow l).map fun p => (l, p) else none

/-- Understudy checking of the lanes that take effect (R37 to R40, R431): the counts, the soft errors met, and the
faults they raise. -/
def State.understudy (s : State) (r : Run) (ls : List Nat) : State × List LFlt :=
  if !r.snap.use then (s, [])
  else
    let bad := r.mismatched ls
    let n := (ls.filter fun l => (r.shadow l).isSome).length
    let s := s.modWarp r.gid r.w fun x =>
      { x with checked := x.checked + BitVec.ofNat 64 ls.length, shadowed := x.shadowed + BitVec.ofNat 64 n,
               soft := x.soft &&& ~~~(maskOf (bad.map (·.1))) }
    let s := bad.foldl (fun s _ => s.countMism r.g) s
    (s, bad.map fun p => (p.1, { code := .machineCheck, s45 := BitVec.ofNat 64 (1 + p.2 * 256) }))

/-- Write the results of a short-latency instruction (R29, R177): each lane its own, an s-register that of the
lowest lane; the flags of every lane join the word (R78).
Marks: DEDUCED, unsafe (assumption 13). -/
def Warp.write (w : Warp) (d : Dst) (res : List (Nat × Res)) : Warp :=
  if d.shared then match res with
    | [] => w
    | (l, x) :: _ => (w.put l d x.val false).orFlags (res.foldl (fun f p => f ||| p.2.flags) 0)
  else res.foldl (fun w p => (w.put p.1 d p.2.val false).orFlags p.2.flags) w

/-- Open the windows of a long-latency instruction (R178); an s-register result belongs to the lowest lane's
window (R30). -/
def Warp.openWindows (w : Warp) (stamp cycle la : Nat) (pc : W64) (d : Dst) (tag : Bool) (res : List (Nat × Res)) : Warp :=
  let low := (res.head?.map (·.1)).getD 64
  res.foldl (fun w p => w.modLane p.1 fun x =>
    let y : Window := { stamp := stamp, cycle := cycle, left := la, pc := pc,
                        dst := if d.shared && p.1 != low then .none else d,
                        val := p.2.val, tag := tag, flags := p.2.flags, done := false, flt := p.2.late }
    { x with windows := insertWindow y x.windows }) w

/-- The end of every instruction with one result a lane: the shadow check, results or windows, the lanes move on,
and the faults are raised. -/
def State.finish (s : State) (r : Run) (long tag : Bool) (chk : Checked) (d : Dst) (res : List (Nat × Res)) : State :=
  let good := res.filter fun p => p.2.flt.isNone
  let (s, mism) := if chk then s.understudy r (good.map (·.1)) else (s, [])
  let good := good.filter fun p => !(mism.any fun q => q.1 == p.1)
  let bad := r.act.filterMap fun l =>
    match mism.find? fun q => q.1 == l with
    | some q => some q
    | none => (res.find? fun p => p.1 == l).bind fun p => p.2.flt.map fun f => (l, f)
  let s := s.modWarp r.gid r.w fun w =>
    if long then w.openWindows s.stamp r.iss.cycle r.o.la.toNat r.pc d tag good
    else w.write d good
  let s := s.advance r (r.ls.filter fun l => !(bad.any fun q => q.1 == l))
  s.nextStamp.raiseRun r bad

/-- The run that computes results: with a shared destination, without the lanes whose check fails, for which the instruction
is as though their guard were false (R29, R39, R417). -/
def Run.computing (r : Run) (chk : Checked) : Run :=
  if chk && r.snap.use && isS r.o.d then r.without ((r.mismatched r.act).map (·.1)) else r

/-- An instruction whose result a lane is a function of its operands. -/
def alu (i : Instr) (chk : Checked) (g : Run → Nat → Res) (s : State) : Out :=
  issued i .issuing (fun r s =>
    s.finish r (formOf i).long false chk (r.dst (formOf i).d) (r.act.map fun l => (l, g (r.computing chk) l))) s

end Sys2Proof.Machine
end

