-- ==== Sys2Proof/Machine/Integer.lean ====
section
/-! DEFINITION. Integer arithmetic (R195 to R201, R55, R56). -/

namespace Sys2Proof.Machine

/-- Sources a and b as integers, with their modifiers. -/
def Run.ia (r : Run) (m : StdMod) (l : Nat) : Int := r.int m.ty m.na m.aa l r.o.a
def Run.ib (r : Run) (m : StdMod) (l : Nat) : Int := r.int m.ty m.nb m.ab l r.o.b
/-- Source c, read without modifier. -/
def Run.ic (r : Run) (m : StdMod) (l : Nat) : Int := r.int m.ty false false l r.o.c

/-- R198 `IADD`. -/
def execIadd (o : Ops) (m : StdMod) (s : State) : Out :=
  alu (.iadd o m) true (fun r l => .int m.ty m.sat (r.ia m l + r.ib m l)) s

/-- R198 `ISUB`. -/
def execIsub (o : Ops) (m : StdMod) (s : State) : Out :=
  alu (.isub o m) true (fun r l => .int m.ty m.sat (r.ia m l - r.ib m l)) s

/-- R198 `IMUL`. -/
def execImul (o : Ops) (m : StdMod) (s : State) : Out :=
  alu (.imul o m) true (fun r l => .int m.ty m.sat (r.ia m l * r.ib m l)) s

/-- R198 `IMULH`: the upper half of the exact product. -/
def execImulh (o : Ops) (m : StdMod) (s : State) : Out :=
  alu (.imulh o m) true (fun r l => .int m.ty false (r.ia m l * r.ib m l / 2 ^ m.ty.bits)) s

/-- R198 `IMAD`. -/
def execImad (o : Ops) (m : StdMod) (s : State) : Out :=
  alu (.imad o m) true (fun r l => .int m.ty m.sat (r.ia m l * r.ib m l + r.ic m l)) s

/-- The 64-bit type of the signedness of a type (R199). -/
def wideOf (t : NumType) : NumType := if t.isSigned then .s64 else .ui64

/-- R199 `IMADW`. -/
def execImadw (o : Ops) (m : StdMod) (s : State) : Out :=
  alu (.imadw o m) true (fun r l =>
    .int (wideOf m.ty) m.sat (r.ia m l * r.ib m l + r.int (wideOf m.ty) false false l r.o.c)) s

/-- R56: the quotient. -/
def divRes (t : NumType) (sat : Bool) (a b : Int) : Res :=
  if b = 0 then { Res.int t false (-1) with flags := fDZ } else .int t sat (Int.tdiv a b)

/-- R56: the remainder. -/
def remRes (t : NumType) (a b : Int) : Res :=
  if b = 0 then { Res.int t false a with flags := fDZ } else .int t false (Int.tmod a b)

/-- R198 `IDIV`. -/
def execIdiv (o : Ops) (m : StdMod) (s : State) : Out :=
  alu (.idiv o m) true (fun r l => divRes m.ty m.sat (r.ia m l) (r.ib m l)) s

/-- R198 `IREM`. -/
def execIrem (o : Ops) (m : StdMod) (s : State) : Out :=
  alu (.irem o m) true (fun r l => remRes m.ty (r.ia m l) (r.ib m l)) s

/-- R198 `IABS`: the signed minimum stays itself, or clamps. -/
def execIabs (o : Ops) (m : StdMod) (s : State) : Out :=
  alu (.iabs o m) true (fun r l => .int m.ty m.sat (r.ia m l).natAbs) s

/-- R198 `INEG`. -/
def execIneg (o : Ops) (m : StdMod) (s : State) : Out :=
  alu (.ineg o m) true (fun r l => .int m.ty m.sat (-r.ia m l)) s

/-- R198 `IMIN`. -/
def execImin (o : Ops) (m : StdMod) (s : State) : Out :=
  alu (.imin o m) true (fun r l => .int m.ty false (min (r.ia m l) (r.ib m l))) s

/-- R198 `IMAX`. -/
def execImax (o : Ops) (m : StdMod) (s : State) : Out :=
  alu (.imax o m) true (fun r l => .int m.ty false (max (r.ia m l) (r.ib m l))) s

/-- The relation of a CMP code on integers (R200). -/
def icmpHolds (c : Cmp) (a b : Int) : Bool :=
  match c with
  | .eq => a == b
  | .ne => a != b
  | .lt => decide (a < b)
  | .le => decide (a ≤ b)
  | .gt => decide (b < a)
  | .ge => decide (b ≤ a)
  | .un => false
  | .ord => true

/-- The predicate of src c, read only when COMB names it. -/
def Run.pc3 (r : Run) (c : Comb) (l : Nat) : Bool := if c = .none then false else r.rdP l r.o.c

/-- R200 `ICMP`. -/
def execIcmp (o : Ops) (m : CmpMod) (s : State) : Out :=
  alu (.icmp o m) true (fun r l =>
    .bool (combine m.comb (icmpHolds m.cmp (r.int m.ty m.na m.aa l r.o.a) (r.int m.ty m.nb m.ab l r.o.b))
      (r.pc3 m.comb l))) s

/-- R198 `ISEL`. -/
def execIsel (o : Ops) (m : StdMod) (s : State) : Out :=
  alu (.isel o m) true (fun r l =>
    .word m.ty (r.code m.ty false l (if r.rdP l r.o.c then r.o.a else r.o.b))) s

/-- Byte `i` of a word, extended by the type's signedness. -/
def byteOf (t : NumType) (x i : Nat) : Int := toNum 8 t.isSigned (x / 256 ^ i % 256)

/-- The sum of the four byte products (R201). -/
def dp4 (t : NumType) (a b : Nat) : Int :=
  byteOf t a 0 * byteOf t b 0 + byteOf t a 1 * byteOf t b 1 + byteOf t a 2 * byteOf t b 2
    + byteOf t a 3 * byteOf t b 3

/-- R201 `IDP4`. -/
def execIdp4 (o : Ops) (m : StdMod) (s : State) : Out :=
  alu (.idp4 o m) true (fun r l =>
    .int .s32 m.sat (dp4 m.ty (r.rd32 l r.o.a).toNat (r.rd32 l r.o.b).toNat
      + toNum 32 true (r.rd32 l r.o.c).toNat)) s

end Sys2Proof.Machine
end

