-- ==== Sys2Proof/Machine/Logic.lean ====
section
/-! DEFINITION. Logic, shifts and bit fields, moves and predicates (R202 to R209). -/

namespace Sys2Proof.Machine

/-- Sources as codes of the instruction's type. -/
def Run.ca (r : Run) (t : NumType) (l : Nat) : Nat := r.code t false l r.o.a
def Run.cb (r : Run) (t : NumType) (l : Nat) : Nat := r.code t false l r.o.b
def Run.cc (r : Run) (t : NumType) (l : Nat) : Nat := r.code t false l r.o.c
/-- A 32-bit count or field operand (R204, R205). -/
def Run.nb (r : Run) (l : Nat) : Nat := (r.rd32 l r.o.b).toNat
def Run.nc (r : Run) (l : Nat) : Nat := (r.rd32 l r.o.c).toNat

/-- R202 `AND`. -/
def execAndB (o : Ops) (m : StdMod) (s : State) : Out :=
  alu (.andB o m) true (fun r l => .word m.ty (r.ca m.ty l &&& r.cb m.ty l)) s

/-- R202 `OR`. -/
def execOrB (o : Ops) (m : StdMod) (s : State) : Out :=
  alu (.orB o m) true (fun r l => .word m.ty (r.ca m.ty l ||| r.cb m.ty l)) s

/-- R202 `XOR`. -/
def execXorB (o : Ops) (m : StdMod) (s : State) : Out :=
  alu (.xorB o m) true (fun r l => .word m.ty (r.ca m.ty l ^^^ r.cb m.ty l)) s

/-- R202 `NOT`. -/
def execNotB (o : Ops) (m : StdMod) (s : State) : Out :=
  alu (.notB o m) true (fun r l => .word m.ty (2 ^ m.ty.bits - 1 - r.ca m.ty l)) s

/-- A bit of a number, as 0 or 1. -/
def bitN (x i : Nat) : Nat := x / 2 ^ i % 2

/-- R203: the table indexed by the bits of a, b and c. -/
def lop3 (n lut a b c : Nat) : Nat :=
  (List.range n).foldl (fun v i => v + bitN lut (4 * bitN a i + 2 * bitN b i + bitN c i) * 2 ^ i) 0

/-- R203 `LOP3`. -/
def execLop3 (o : Ops) (m : StdMod) (s : State) : Out :=
  alu (.lop3 o m) true (fun r l =>
    .word m.ty (lop3 m.ty.bits (o.imm.toNat % 256) (r.ca m.ty l) (r.cb m.ty l) (r.cc m.ty l))) s

/-- R204: shift left, zeros in; `n` or more gives 0. -/
def shlN (n a k : Nat) : Nat := if n ≤ k then 0 else a * 2 ^ k % 2 ^ n
def shrN (n a k : Nat) : Nat := if n ≤ k then 0 else a / 2 ^ k
/-- R204: arithmetic shift right; `n` or more gives copies of the sign. -/
def sarN (n a k : Nat) : Int := toNum n true a / 2 ^ min k n

/-- R204 `SHL`. -/
def execShl (o : Ops) (m : StdMod) (s : State) : Out :=
  alu (.shl o m) true (fun r l => .word m.ty (shlN m.ty.bits (r.ca m.ty l) (r.nb l))) s

/-- R204 `SHR`. -/
def execShr (o : Ops) (m : StdMod) (s : State) : Out :=
  alu (.shr o m) true (fun r l => .word m.ty (shrN m.ty.bits (r.ca m.ty l) (r.nb l))) s

/-- R204 `SAR`. -/
def execSar (o : Ops) (m : StdMod) (s : State) : Out :=
  alu (.sar o m) true (fun r l => .int m.ty false (sarN m.ty.bits (r.ca m.ty l) (r.nb l))) s

/-- R202: rotation left by `k`, taken modulo `n`. -/
def rotl (n a k : Nat) : Nat := a * 2 ^ (k % n) % 2 ^ n + a / 2 ^ (n - k % n)

/-- R202 `ROT`. -/
def execRot (o : Ops) (m : StdMod) (s : State) : Out :=
  alu (.rot o m) true (fun r l =>
    let n := m.ty.bits
    .word m.ty (rotl n (r.ca m.ty l) (if m.w then n - r.nb l % n else r.nb l))) s

/-- R202 `FSHF`. -/
def execFshf (o : Ops) (m : StdMod) (s : State) : Out :=
  alu (.fshf o m) true (fun r l =>
    let n := m.ty.bits
    let x := r.ca m.ty l * 2 ^ n + r.cb m.ty l
    let k := r.nc l % n
    .word m.ty (if m.w then x / 2 ^ k % 2 ^ n else x * 2 ^ k / 2 ^ n % 2 ^ n)) s

/-- Number of set bits. -/
def popN (n a : Nat) : Nat := (List.range n).foldl (fun v i => v + bitN a i) 0

/-- R202 `POPC`. -/
def execPopc (o : Ops) (m : StdMod) (s : State) : Out :=
  alu (.popc o m) true (fun r l => .word m.ty (popN m.ty.bits (r.ca m.ty l))) s

/-- R202 `CLZ`. -/
def execClz (o : Ops) (m : StdMod) (s : State) : Out :=
  alu (.clz o m) true (fun r l => .word m.ty (m.ty.bits - bitLen (r.ca m.ty l))) s

/-- R202 `BREV`. -/
def execBrev (o : Ops) (m : StdMod) (s : State) : Out :=
  alu (.brev o m) true (fun r l =>
    .word m.ty ((List.range m.ty.bits).foldl
      (fun v i => v + bitN (r.ca m.ty l) (m.ty.bits - 1 - i) * 2 ^ i) 0)) s

/-- R205: extract a field, extended from its top extracted bit. -/
def bfeN (n : Nat) (sg : Bool) (a k : Nat) : Int :=
  let pos := k % 256
  let len := k / 256 % 256
  if len = 0 ∨ n ≤ pos then 0
  else
    let w := min len (n - pos)
    toNum w sg (a / 2 ^ pos % 2 ^ w)

/-- R205: insert a field. -/
def bfiN (n a b k : Nat) : Nat :=
  let pos := k % 256
  let len := k / 256 % 256
  if len = 0 ∨ n ≤ pos then a
  else
    let w := min len (n - pos)
    a / 2 ^ (pos + w) * 2 ^ (pos + w) + b % 2 ^ w * 2 ^ pos + a % 2 ^ pos

/-- R205 `BFE`. -/
def execBfe (o : Ops) (m : StdMod) (s : State) : Out :=
  alu (.bfe o m) true (fun r l => .int m.ty false (bfeN m.ty.bits m.ty.isSigned (r.ca m.ty l) (r.nb l))) s

/-- R205 `BFI`. -/
def execBfi (o : Ops) (m : StdMod) (s : State) : Out :=
  alu (.bfi o m) true (fun r l => .word m.ty (bfiN m.ty.bits (r.ca m.ty l) (r.cb m.ty l) (r.nc l))) s

/-- R206: byte `i` of the permutation. -/
def prmtByte (x c i : Nat) : Nat :=
  let sel := c / 16 ^ i % 16
  let b := x / 256 ^ (sel % 8) % 256
  if sel < 8 then b else if 128 ≤ b then 255 else 0

/-- R206 `PRMT`. -/
def execPrmt (o : Ops) (m : StdMod) (s : State) : Out :=
  alu (.prmt o m) true (fun r l =>
    let x := r.ca m.ty l + r.cb m.ty l * 2 ^ 32
    let c := r.cc m.ty l
    .word m.ty (prmtByte x c 0 + prmtByte x c 1 * 2 ^ 8 + prmtByte x c 2 * 2 ^ 16 + prmtByte x c 3 * 2 ^ 24)) s

/-! ## Moves (R207, R208) -/

/-- R207 `MOV`. -/
def execMov (o : Ops) (m : StdMod) (s : State) : Out :=
  alu (.mov o m) true (fun r l => .word m.ty (r.ca m.ty l)) s

/-- The high half of a 64-bit destination: the upper register of a pair, or bits 63:32 of an s-register. -/
def highHalf : Dst → Dst
  | .v64 r => .v32 (r + 1)
  | .s r => .sHi r
  | d => d

/-- R207 `MOVI`: with `.hi`, bits 31:0 of the destination keep their value. -/
def execMovi (o : Ops) (m : StdMod) (s : State) : Out :=
  issued (.movi o m) .issuing (fun r s =>
    let d := r.dst (formOf (.movi o m)).d
    s.finish r false false true (if m.w then highHalf d else d) (r.act.map fun l =>
      (l, .ofVal (if m.ty.isSigned && !m.w then o.imm.signExtend 64 else o.imm.zeroExtend 64)))) s

/-- R208 `MOVS`: the value of one named lane, 0 when that lane is not issuing. -/
def execMovs (o : Ops) (m : StdMod) (s : State) : Out :=
  alu (.movs o m) true (fun r l =>
    let k := (r.rd32 l r.o.b).toNat % 128
    .ofVal (if r.isAct k then
        (if m.ty.is64 then (r.snap.lane k).getV64 r.o.a.toNat
         else ((r.snap.lane k).getV r.o.a.toNat).zeroExtend 64)
      else 0)) s

/-! ## Predicates (R209) -/

/-- R209 `PSET`. -/
def execPset (o : Ops) (m : StdMod) (s : State) : Out :=
  alu (.pset o m) true (fun r l => .bool (r.ca m.ty l != 0)) s

/-- R209 `PLOP`. -/
def execPlop (o : Ops) (s : State) : Out :=
  alu (.plop o) true (fun r l =>
    .bool (o.imm.getLsbD (4 * (r.rdP l r.o.a).toNat + 2 * (r.rdP l r.o.b).toNat + (r.rdP l r.o.c).toNat))) s

/-- The sixteen predicates of a lane, p15 reading 1. -/
def Lane.pWord (x : Lane) : W64 := (1#1 ++ x.p : BitVec 16).zeroExtend 64

/-- R209 `PTOV`. -/
def execPtov (o : Ops) (s : State) : Out :=
  alu (.ptov o) true (fun r l => .ofVal (r.snap.lane (r.from l)).pWord) s

/-- R209 `VTOP`: a predicate for each bit of the mask. -/
def execVtop (o : Ops) (s : State) : Out :=
  issued (.vtop o) .issuing (fun r s =>
    let mask := o.imm.extractLsb' 0 15
    let (s, mism) := s.understudy r r.act
    let s := s.modWarp r.gid r.w fun w => w.modLanes (maskOf (r.act.filter fun l => !(mism.any (·.1 == l)))) fun l x =>
      { x with p := (x.p &&& ~~~mask) ||| ((r.rd32 l r.o.a).extractLsb' 0 15 &&& mask) }
    let s := s.advance r (r.ls.filter fun l => !(mism.any (·.1 == l)))
    s.nextStamp.raiseRun r mism) s

end Sys2Proof.Machine
end

