-- ==== Sys2Proof/Machine/Cap.lean ====
section
/-! DEFINITION. Capability instructions (R210 to R212). -/

namespace Sys2Proof.Machine

/-- A capability with a new offset, or `CAP_OVERFLOW` (R211). -/
def capMove (cap : W64) (o : Int) : Res :=
  if o < 0 ∨ 2 ^ 40 ≤ o then .fault .capOverflow (BitVec.ofInt 64 o) else .ofVal (capWithOff cap o.toNat)

/-- R211 `CAPADD`. -/
def execCapadd (o : Ops) (m : CapMod) (s : State) : Out :=
  alu (.capadd o m) false (fun r l =>
    let cap := r.rd64 .zero l o.a
    capMove cap (capOff cap + (r.rd64 .sign l o.b).toInt)) s

/-- R211 `CAPOFF`. -/
def execCapoff (o : Ops) (m : CapMod) (s : State) : Out :=
  alu (.capoff o m) false (fun r l => capMove (r.rd64 .zero l o.a) (r.rd64 .zero l o.b).toNat) s

/-- R211 `CAPNAR`: bits 43 to 40 without those of MASK. -/
def execCapnar (o : Ops) (m : CapMod) (s : State) : Out :=
  alu (.capnar o m) false (fun r l => .ofVal (r.rd64 .zero l o.a &&& ~~~(m.mask.zeroExtend 64 <<< 40))) s

/-- Every object kind. -/
def anyKind : List ObjKind := [.loft, .mem, .host]

/-- R211 `CAPOBJ`: the length of the object, after test 1 of R97. -/
def execCapobj (o : Ops) (m : CapMod) (s : State) : Out :=
  alu (.capobj o m) false (fun r l =>
    let cap := r.rd64 .zero l o.a
    match s.capEntry r.g.ctx cap anyKind with
    | none => .fault .object cap
    | some e => .ofVal (BitVec.ofNat 64 e.len)) s

/-- R211: does the capability hold the rights of MASK and `n` bytes from its offset? -/
def capHolds (s : State) (c : Nat) (cap : W64) (mask : BitVec 4) (n : Nat) : Bool :=
  match s.capEntry c cap anyKind with
  | none => false
  | some e => (mask &&& ~~~(capRights cap &&& e.rights)) == 0 && decide (capOff cap + n ≤ e.len)

/-- R211 `CAPCHK`. -/
def execCapchk (o : Ops) (m : CapMod) (s : State) : Out :=
  alu (.capchk o m) false (fun r l =>
    .bool (capHolds s r.g.ctx (r.rd64 .zero l o.a) m.mask (r.rd64 .zero l o.b).toNat)) s

end Sys2Proof.Machine
end

