-- ==== Sys2Proof/Machine/Meet.lean ====
section
/-! DEFINITION. Where lanes meet: membership masks (R31 to R35), barriers (R223, R224), `REGROUP` (R267), and what
the exit of a lane does to them (R19, R20, R220). -/

namespace Sys2Proof.Machine

/-! ## Parties -/

/-- Real lanes of a group. -/
def Group.reals (g : Group) : Nat := (g.warps.map fun w => (w.lanes.filter Lane.isReal).length).sum

/-- The groups of a group's cluster that have been dispatched and are not gone (R13, R401). -/
def State.clusterOf (s : State) (g : Group) : List Nat :=
  let k := (s.desc g).cluster
  (s.groups.filter fun p => p.2.ctx == g.ctx && p.2.node == g.node && p.2.res != .draining
    && p.2.lin / k == g.lin / k).map (·.1)

/-- Raise one fault for lanes of a warp, each at its own PC. -/
def State.raiseAt (s : State) (gid w : Nat) (ls : List Nat) (f : Flt) : State :=
  let pcs := (ls.map fun l => ((s.warp gid w).lane l).pc).eraseDups
  pcs.foldl (fun t pc =>
    t.raise gid w pc ((ls.filter fun l => ((s.warp gid w).lane l).pc == pc).map fun l => (l, f))) s

/-- The lanes of the quads that a mask touches (R11). -/
def quadsOf (m : W64) : W64 := maskOf ((List.range 64).filter fun l => (List.range 4).any fun k => m.getLsbD (l / 4 * 4 + k))

/-- Warp indices of a group. -/
def State.warpIxs (s : State) (gid : Nat) : List Nat := List.range (((s.group gid).map (·.warps.length)).getD 0)

/-- The real lanes that wait so leave, and the helpers of their quads that wait so (R19). -/
def State.letGo (s : State) (gid : Nat) (p : Wait → Bool) : State :=
  (s.warpIxs gid).foldl (fun s w =>
    let wp := s.warp gid w
    let real := wp.where fun x => x.isReal && p x.wait
    let help := (wp.where fun x => x.isHelper && p x.wait) &&& quadsOf real
    s.leave gid w (real ||| help)) s

/-- Every real lane that waits so faults. -/
def State.failAll (s : State) (gid : Nat) (p : Wait → Bool) (f : Flt) : State :=
  (s.warpIxs gid).foldl (fun s w => s.raiseAt gid w (lanesIn ((s.warp gid w).where fun x => x.isReal && p x.wait)) f) s

/-- The real lanes that wait so: those that have arrived (R19). -/
def State.waiters (s : State) (gids : List Nat) (p : Wait → Bool) : List Agent :=
  gids.flatMap fun i => (s.warpIxs i).flatMap fun w => laneAgents i w ((s.warp i w).where fun x => x.isReal && p x.wait)

/-- Every lane that has arrived knows, as it leaves, what happens-before the arrival of any (R133, R140, R225). -/
def State.meetUp (s : State) (gids : List Nat) (p : Wait → Bool) : State :=
  let bs := s.waiters gids p
  s.teach (fun e => bs.any (·.knows e)) bs

/-! ## Barriers (R224) -/

def barFault (c : W64) : Flt := { code := .barrierMismatch, s45 := c }

/-- check() of R224 for an instance over some groups. -/
def State.barTest (s : State) (gids : List Nat) (b : Barrier) (p : Wait → Bool) (reset : State → State) : State :=
  let live := (gids.map fun i => ((s.group i).map Group.reals).getD 0).sum
  let expected := if b.count = 0 then live else b.count.toNat
  if live < expected ∨ expected < b.arrived then
    gids.foldl (fun s i => s.failAll i p (barFault b.count)) (reset s)
  else if b.arrived = expected then gids.foldl (fun s i => s.letGo i p) ((reset s).meetUp gids p)
  else s

/-- check() for barrier `i` of a group. -/
def State.barCheck (s : State) (gid i : Nat) : State :=
  match (s.group gid).bind fun g => mapGet g.barriers i with
  | none => s
  | some b => s.barTest [gid] b (· == .bar i) fun s => s.modGroup gid fun g => { g with barriers := mapErase g.barriers i }

def ClusterBar.is (b : ClusterBar) (g : Group) (k i : Nat) : Bool :=
  b.ctx == g.ctx && b.node == g.node && b.cluster == g.lin / k && b.i == i

/-- check() for cluster barrier `i` of a group's cluster. -/
def State.cbarCheck (s : State) (gid i : Nat) : State :=
  match s.group gid with
  | none => s
  | some g =>
    let k := (s.desc g).cluster
    match s.cbars.find? fun b => b.is g k i with
    | none => s
    | some b => s.barTest (s.clusterOf g) b.bar (· == .cbar i) fun s =>
        { s with cbars := s.cbars.filter fun b => !b.is g k i }

/-! ## REGROUP (R267) -/

/-- Write payload registers of a lane. -/
def Lane.setVs (x : Lane) (r : Nat) : List W32 → Lane
  | [] => x
  | v :: vs => (x.setV r v).setVs (r + 1) vs

/-- Payloads into consecutive registers of a lane; writing a register clears its error (R440). -/
def Warp.setVs (w : Warp) (l base : Nat) (vs : List W32) : Warp :=
  (w.modLane l (·.setVs base vs)).clearErr fun e => e.1 == l && decide (base ≤ e.2) && decide (e.2 < base + vs.length)

/-- release() of R267: the records in thread order receive the payloads in key order, and the lanes that arrived meet (R268). -/
def State.regRelease (s : State) (gid : Nat) (recs : List RegRec) : State :=
  let pos := sortBy (fun (x : RegRec) => x.t) recs
  let srt := sortBy (fun (x : RegRec) => x.key.toNat) pos
  let s := (pos.zip srt).foldl (fun s p => s.modWarp gid (p.1.t / 64) (·.setVs (p.1.t % 64) p.1.base p.2.payload)) s
  let s := s.meetUp [gid] (· == .regroup)
  (s.modGroup gid fun g => { g with regroup := none }).letGo gid (· == .regroup)

/-- check() of R267. -/
def State.regCheck (s : State) (gid : Nat) : State :=
  match s.group gid with
  | none => s
  | some g => match g.regroup with
    | none => s
    | some r => if r.arrived = g.reals then s.regRelease gid r.recs else s

/-! ## Membership masks (R34) -/

/-- The fault of the arrivals at one PC, as the lanes stand (R34), in the order of its table.
Marks: DEDUCED, unsafe (assumption 15). -/
def memberFault (w : Warp) (pc named : W64) : Option Flt :=
  let gone := named &&& w.where fun x => x.st == .exited || x.st == .never
  let here := maskOf ((w.arrivals.filter fun a => a.pc == pc).map (·.lane))
  let out := named &&& ~~~here
  if gone ≠ 0 then some { code := .memberGone, s45 := gone }
  else if out ≠ 0 ∧ out &&& ~~~(w.where fun x => x.wait.isSync) = 0 then some { code := .memberBlocked, s45 := out }
  else none

/-- The rendezvous at a PC ends in a fault: it goes to every lane that waits there (R34). -/
def State.failMeet (s : State) (gid w : Nat) (pc : W64) (f : Flt) : State :=
  let ls := ((s.warp gid w).arrivals.filter fun a => a.pc == pc && !a.ghost).map (·.lane)
  (s.modWarp gid w fun x => { x with arrivals := x.arrivals.filter fun a => a.pc != pc }).raise gid w pc
    ((lanesIn (maskOf ls)).map fun l => (l, f))

/-- Test every instruction at which lanes of the warp meet (R34).
Marks: DEDUCED, unsafe (assumption 15). -/
def State.memCheck (s : State) (gid w : Nat) : State :=
  ((s.warp gid w).arrivals.map fun a => (a.pc, a.mask)).eraseDups.foldl (fun s p =>
    match memberFault (s.warp gid w) p.1 p.2 with
    | none => s
    | some f => s.failMeet gid w p.1 f) s

/-! ## Exit (R20, R220) -/

/-- A lane executes `EXIT`: it becomes a helper while another lane of its quad is real, and otherwise it and the
helpers of its quad exit.  The s-register results whose landing point is a helper's land here (R30); what else it would
have received is lost with it.
Marks: DEDUCED, unsafe (assumption 67). -/
def Warp.exitLane (w : Warp) (helpers : Bool) (next : W64) (l : Nat) : Warp :=
  let quad := (List.range 4).map fun k => l / 4 * 4 + k
  if helpers && quad.any fun k => k != l && (w.lane k).isReal then
    w.modLane l fun x => { x.jump next false with st := .helper }
  else
    let help := quad.filter fun k => (w.lane k).isHelper
    ((w.land help fun _ y => y.dst.shared).1).modLanes (maskOf (l :: help)) fun _ x =>
      { x with st := .exited, windows := [], wait := .none, behind := 0, before := none }

/-- What any agent of a group knows, its grid knows when the group is gone (R133). -/
def State.gridLearns (s : State) (gid : Nat) (g : Group) : State :=
  s.teach (fun e => e.known.any fun a => a.gid == some gid) [.grid g.ctx g.node]

/-- A group whose real lanes have all exited has exited (R220). -/
def State.groupExit (s : State) (gid : Nat) : State :=
  match s.group gid with
  | none => s
  | some g =>
    if g.reals ≠ 0 then s
    else
      let s := (s.freePlaces g).modNode g.ctx g.node fun n => { n with exited := n.exited + 1 }
      let s := (s.gridLearns gid g).removeGroup gid
      if (s.clusterOf g).isEmpty then
        { s with cbars := s.cbars.filter fun b =>
            !(b.ctx == g.ctx && b.node == g.node && b.cluster == g.lin / (s.desc g).cluster) }
      else s

/-- The lanes of a warp that wait so at a join: with a true guard. -/
def Warp.joining (w : Warp) (p : Wait → Bool) (act : Bool) : W64 :=
  w.where fun x => p x.wait && (match x.wait with
    | .join _ a | .accg _ a => a.act == act
    | _ => false)

/-- A join ends with a fault for its lanes with a true guard; the others leave it. -/
def State.failJoin (s : State) (gid w : Nat) (p : Wait → Bool) (f : Flt) : State :=
  let act := lanesIn ((s.warp gid w).joining p true)
  (s.leave gid w ((s.warp gid w).joining p false)).raiseAt gid w act f

/-- The partner of a warp without real lanes waits at `ACCG` in vain (R368). -/
def State.accgAbsent (s : State) (gid w : Nat) : State :=
  match s.group gid with
  | none => s
  | some g =>
    if !(s.desc g).isDuet || !((g.warp w).lanes.all fun x => !x.isReal) then s
    else match s.partner g with
      | none => s
      | some (pid, _) => s.failJoin pid w (fun x => match x with | .accg none _ => true | _ => false)
          { code := .duetAbsent, s45 := 0 }

/-- The lanes that `EXIT` issued to have gone: everything that counted them is tested again. -/
def State.settle (s : State) (gid w : Nat) : State :=
  match s.group gid with
  | none => s
  | some g =>
    let cl := s.clusterOf g
    let s := ((s.memCheck gid w).partCheck gid w).accgAbsent gid w
    let s := (List.range 16).foldl (fun s i => s.barCheck gid i) s
    let s := (List.range 4).foldl (fun s i => match cl.head? with | some c => s.cbarCheck c i | none => s) s
    (s.regCheck gid).groupExit gid

end Sys2Proof.Machine
end

