-- ==== Sys2Proof/Machine/Control.lean ====
section
/-! DEFINITION. Control instructions (R161 to R163, R213 to R226) and unassigned opcodes (R185). -/

namespace Sys2Proof.Machine

/-! ## Transfers -/

/-- How a lane of a transfer goes on. -/
inductive Hop
  | go (pc : W64)
  | wait (w : Wait)
  | flt (f : Flt)
  deriving DecidableEq, Repr

/-- The byte offset of the line of a slot index, which may be negative.
Marks: DEDUCED, unsafe (assumption 64). -/
def lineOffset (n : Int) : W64 := BitVec.ofInt 64 (n / 5 * 64)

/-- The TGT bit of a slot of a line (R156). -/
def tgtBit (line : List Byte) (slot : Nat) : Bool := (line.getD 60 0).getLsbD slot

/-- Where a transfer to `pc` goes (R161 to R163, R214): first the bounds, then the line, which must be in the warp's
buffers, then the target bit. -/
def State.hop (s : State) (r : Run) (pc : W64) : Hop :=
  if s.codeLen r.g.ctx r.d ≤ pcLine pc * 64 then .flt { code := .bounds, s45 := BitVec.ofNat 64 (pcLine pc * 64) }
  else if !pcLegal pc then .flt { code := .badTarget, s45 := pc }
  else match mapGet (s.warp r.gid r.w).lines (pcLine pc) with
    | none => .wait (.target pc none)
    | some b => if tgtBit b (pcSlot pc) then .go pc else .flt { code := .badTarget, s45 := pc }

/-- A transfer by linear slot index (R162). -/
def State.hopTo (s : State) (r : Run) (n : Int) : Hop :=
  if n < 0 then .flt { code := .bounds, s45 := lineOffset n } else s.hop r (pcOfIndex n.toNat)

/-- The call whose link a waiting lane may still have to write (R216). -/
def Wait.call : Wait → Option Nat
  | .target _ c | .entry _ c | .page (.target _ c) | .page (.entry _ _ c) => c
  | _ => Option.none

/-- The wait as one of a call. -/
def Wait.ofCall (c : Option Nat) : Wait → Wait
  | .target pc _ => .target pc c
  | .entry i _ => .entry i c
  | .page (.target pc _) => .page (.target pc c)
  | .page (.entry i n _) => .page (.entry i n c)
  | w => w

/-- The links of some calls are written: their lanes that still wait write none. -/
def Warp.linked (w : Warp) (ids : List Nat) : Warp :=
  w.modLanes (w.where fun x => x.wait.call.any ids.contains) fun _ x => { x with wait := x.wait.ofCall none }

/-- A lane that waits for its target line has read its operands (R176). -/
def Run.resume (s : State) (r : Run) (l : Nat) (first : Hop) : Hop :=
  match (r.snap.lane l).wait with
  | .target pc _ => s.hop r pc
  | _ => first

/-- The call that a lane of a transfer belongs to: the one that it waits in, or a new one. -/
def State.callOf (s : State) (r : Run) (link : Bool) (l : Nat) : Option Nat :=
  match (r.snap.lane l).wait with
  | .target _ c | .entry _ c => c
  | _ => if link then some s.stamp else none

/-- The end of a transfer (R214, R216): lanes go, wait for their line, or fault; a call writes its link once, when the
first of its lanes goes. -/
def State.transfer (s : State) (r : Run) (link : Bool) (hops : List (Nat × Hop)) : State :=
  let call := s.callOf r link
  let went := hops.filterMap fun p => match p.2 with | .go pc => some (p.1, pc) | _ => none
  let bad := hops.filterMap fun p => match p.2 with | .flt f => some (p.1, f) | _ => none
  let ids := went.filterMap fun p => call p.1
  let s := if link then s.nextStamp else s
  let s := hops.foldl (fun s p => match p.2 with | .wait w => s.block r [p.1] (w.ofCall (call p.1)) | _ => s) s
  let s := if ids.isEmpty then s
    else s.modWarp r.gid r.w fun w => (w.put 0 (.s 43) (nextSlot r.pc) false).linked ids
  let s := s.moveTo r (went.map (·.1)) fun l => ((went.find? fun p => p.1 == l).map (·.2)).getD r.pc
  (s.advance r (r.ls.filter fun l => !r.isAct l)).raiseRun r bad

/-- R215, R216: `BRA` and `CALL` to the offset of the immediate. -/
def branch (link : Bool) (r : Run) (s : State) : State :=
  let t := s.hopTo r ((pcIndex r.pc : Int) + r.o.imm.toInt)
  s.transfer r link (r.act.map fun l => (l, r.resume s l t))

/-- R215 `BRA`. -/
def execBra (o : Ops) (s : State) : Out := issued (.bra o) .issuing (branch false) s

/-- R216 `CALL`. -/
def execCall (o : Ops) (s : State) : Out := issuedClosing (.call o) .issuing (branch true) s

/-- A fetch that finds its page absent parks; the runtime is told (R106, R432). -/
def State.park (s : State) (gid w line : Nat) (va : Nat) : State :=
  match s.group gid with
  | none => s
  | some g =>
    if s.walks.any fun x => x.who == .fetch gid w line then s
    else { s with walks := s.walks ++ [{ who := .fetch gid w line, ctx := g.ctx, va := va }]
                  notices := s.notices ++ [.pageAbsent g.ctx va] }

/-- The target of a lane through the table (R218): entry `i + 1`, read through the fetch path. -/
def State.tableHop (s : State) (r : Run) (m : TableMod) (i : Nat) : Hop × Option Nat :=
  if m.n.toNat ≤ i then (.flt { code := .tableRange, s45 := BitVec.ofNat 64 i }, none)
  else match s.readCode r.g.ctx r.g.die r.g.core r.d (r.o.imm.toNat + 8 * (i + 1)) 8 with
    | .error (.absent va) => (.wait (.page (.entry i ((r.o.imm.toNat + 8 * (i + 1)) / 64) none)), some va)
    | .error (.flt f) => (.flt f, none)
    | .ok bs => (s.hop r (BitVec.ofNat 64 (leNat bs)), none)

/-- The index of a lane: the one it read before its page was missing, or its operand (R176). -/
def Run.tableIndex (r : Run) (l : Nat) : Nat :=
  match (r.snap.lane l).wait with
  | .entry i _ => i
  | _ => (r.rd32 l r.o.a).toNat

/-- R218: `BRX` and `CALLX`; for a table beyond the code object every issuing lane reports its offset.
Marks: DESIGN CHOICE, unsafe (assumption 87). -/
def tableBranch (m : TableMod) (link : Bool) (r : Run) (s : State) : State :=
  let t := r.o.imm.toNat
  let out := decide (s.codeLen r.g.ctx r.d < t + 8 * (m.n.toNat + 1))
  let hops := r.act.map fun l => (l, match (r.snap.lane l).wait with
    | .target pc _ => (s.hop r pc, none)
    | _ => if out then (Hop.flt { code := .bounds, s45 := BitVec.ofNat 64 t }, none)
      else s.tableHop r m (r.tableIndex l))
  let s := hops.foldl (fun s p => match p.2.2 with
    | some va => s.park r.gid r.w ((t + 8 * (r.tableIndex p.1 + 1)) / 64) va
    | none => s) s
  s.transfer r link (hops.map fun p => (p.1, p.2.1))

/-- R218 `BRX`. -/
def execBrx (o : Ops) (m : TableMod) (s : State) : Out := issued (.brx o m) .issuing (tableBranch m false) s

/-- R218 `CALLX`. -/
def execCallx (o : Ops) (m : TableMod) (s : State) : Out := issuedClosing (.callx o m) .issuing (tableBranch m true) s

/-- R217 `RET`: the link of the s-register, or of the lane's own pair. -/
def execRet (o : Ops) (s : State) : Out :=
  issuedClosing (.ret o) .issuing (fun r s =>
    s.transfer r false (r.act.map fun l => (l, r.resume s l (s.hop r (r.rd64 .zero l o.a))))) s

/-! ## NOP, EXIT, YIELD, ELECT -/

/-- R222 `NOP`. -/
def execNop (o : Ops) (s : State) : Out := issued (.nop o) .issuing (fun r s => s.advance r r.ls) s

/-- R220 `EXIT`. -/
def execExit (o : Ops) (s : State) : Out :=
  issuedClosing (.exit o) .issuing (fun r s =>
    let s := s.advance r (r.ls.filter fun l => !r.isAct l)
    let before := (s.warp r.gid r.w).live
    let s := s.modWarp r.gid r.w fun w => r.act.foldl (fun w l => w.exitLane r.d.hasHelpers (nextSlot r.pc) l) w
    let gone := before &&& ~~~(s.warp r.gid r.w).live
    let s := (s.dropLoads r.gid r.w gone).modWarp r.gid r.w fun w =>
      { w with arrivals := w.arrivals.filter fun a => !gone.getLsbD a.lane }
    (s.leaveSet r.gid r.w gone).settle r.gid r.w) s

/-- May a lane issue: live, its wait over, no window that waits for completion (R16)? -/
def State.laneReady (s : State) (gid : Nat) (g : Group) (w : Warp) (x : Lane) : Bool :=
  x.isLive && s.waitOver gid g w x.wait && !(x.windows.any fun y => y.left == 0)

/-- The ready lanes of a warp; none on a core that issues nothing. -/
def State.ready (s : State) (gid : Nat) (g : Group) (w : Warp) : W64 :=
  if g.res == .resident && !(s.die g.die).stopped && !(s.die g.die).lost then w.where (s.laneReady gid g w) else 0

/-- The oldest other warp of the same issue unit with a ready lane (R26, R408). -/
def State.oldestOther (s : State) (g : Group) (gid w : Nat) : Option (Nat × Nat) :=
  let slot := (g.warp w).slot % 4
  let cand := s.groups.flatMap fun p =>
    if p.2.die == g.die && p.2.core == g.core then
      (p.2.warps.zipIdx.filter fun q => q.1.slot % 4 == slot && !(p.1 == gid && q.2 == w)
        && s.ready p.1 p.2 q.1 != 0).map fun q => (p.1, q.2, q.1.order)
    else []
  (cand.foldl (fun (b : Option (Nat × Nat × Nat)) c => match b with
    | none => some c
    | some d => if c.2.2 < d.2.2 then some c else some d) none).map fun c => (c.1, c.2.1)

/-- R26 `YIELD`: the run goes behind the other ready lanes at its next PC, and the next opportunity goes to another
warp of the issue unit.
Marks: DEDUCED, unsafe (assumption 65). -/
def execYield (o : Ops) (s : State) : Out :=
  issued (.yield o) .issuing (fun r s =>
    let others := match s.group r.gid with
      | none => 0
      | some g =>
        let w := g.warp r.w
        (s.ready r.gid g w &&& w.where fun x => x.pc == nextSlot r.pc) &&& ~~~(maskOf r.act)
    let s := s.advance r r.ls
    if r.act.isEmpty then s
    else
      let s := s.modWarp r.gid r.w fun w => w.modLanes (maskOf r.act) fun _ x => { x with behind := others }
      match s.oldestOther r.g r.gid r.w with
      | none => s
      | some (i, v) => s.modWarp i v fun w => { w with handed := true }) s

/-- The lowest-indexed real lane of the issuing lanes (R18, R226). -/
def Run.lead (r : Run) : Option Nat := r.act.find? fun l => (r.snap.lane l).isReal

/-- R226 `ELECT`. -/
def execElect (o : Ops) (s : State) : Out :=
  alu (.elect o) false (fun r l => .bool (r.lead == some l)) s

/-- R185: an opcode that is not assigned faults for every lane of the run. -/
def execUnassigned (_op : BitVec 10) (s : State) : Out :=
  .next <| match s.runOf (opsOf (.unassignedOpcode 0)) with
    | none => s
    | some r => s.refuse r .illegalOpcode

/-! ## Barriers (R223, R224) -/

/-- The part of a barrier arrival that `BAR` and `CBAR` share: real lanes arrive, helpers wait, lanes with a false
guard pass.  `old` is the instance, `put` writes it, `check` is check().
Marks: DEDUCED, unsafe (assumption 66). -/
def barArrive (r : Run) (s : State) (old : Option Barrier) (w : Wait) (put : State → Barrier → State)
    (check : State → State) : State :=
  let real := r.act.filter fun l => (r.snap.lane l).isReal
  let help := r.act.filter fun l => !(r.snap.lane l).isReal
  let c := r.rd64 .zero (r.act.headD 0) r.o.a
  let s := s.advance r (r.ls.filter fun l => !r.isAct l)
  let clash := match old with | some b => b.count != c | none => false
  let s := s.hold r help w
  if real.isEmpty then (s.memCheck r.gid r.w).partCheck r.gid r.w
  else if clash then
    ((s.raiseAll r real .barrierMismatch ((old.map (·.count)).getD c)).memCheck r.gid r.w).partCheck r.gid r.w
  else
    let s := s.drainMask r.gid r.w (maskOf real)
    let b := old.getD { count := c, arrived := 0 }
    let s := (put s { b with arrived := b.arrived + real.length }).hold r real w
    ((check s).memCheck r.gid r.w).partCheck r.gid r.w

/-- R224 `BAR`. -/
def execBar (o : Ops) (m : BarMod) (s : State) : Out :=
  issuedClosing (.bar o m) .issuing (fun r s =>
    let i := m.i.toNat
    barArrive r s ((s.group r.gid).bind fun g => mapGet g.barriers i) (.bar i)
      (fun s b => s.modGroup r.gid fun g => { g with barriers := mapSet g.barriers i b })
      (fun s => s.barCheck r.gid i)) s

/-- R224 `CBAR`. -/
def execCbar (o : Ops) (m : BarMod) (s : State) : Out :=
  issuedClosing (.cbar o m) .issuing (fun r s =>
    let i := m.i.toNat
    let k := r.d.cluster
    barArrive r s ((s.cbars.find? fun b => b.is r.g k i).map (·.bar)) (.cbar i)
      (fun s b => { s with cbars :=
        { ctx := r.g.ctx, node := r.g.node, cluster := r.g.lin / k, i := i, bar := b }
          :: s.cbars.filter fun x => !x.is r.g k i })
      (fun s => s.cbarCheck r.gid i)) s

end Sys2Proof.Machine
end

