-- ==== Sys2Proof/Machine/Fp.lean ====
section
/-! DEFINITION. Floating-point arithmetic, scalar, packed and F64 (R270 to R277). -/

namespace Sys2Proof.Machine

/-- Sources a and b as values, with their modifiers; c without. -/
def Run.fa (r : Run) (m : StdMod) (l : Nat) : FV := r.flt m.ty m.na m.aa l r.o.a
def Run.fb (r : Run) (m : StdMod) (l : Nat) : FV := r.flt m.ty m.nb m.ab l r.o.b
def Run.fc (r : Run) (m : StdMod) (l : Nat) : FV := r.flt m.ty false false l r.o.c

/-- R272 `FADD`. -/
def execFadd (o : Ops) (m : StdMod) (s : State) : Out :=
  alu (.fadd o m) true (fun r l => .ofF (fadd fmtF32 m.rnd m.sat (r.fa m l) (r.fb m l))) s

/-- R272 `FSUB`. -/
def execFsub (o : Ops) (m : StdMod) (s : State) : Out :=
  alu (.fsub o m) true (fun r l => .ofF (fadd fmtF32 m.rnd m.sat (r.fa m l) (r.fb m l).neg)) s

/-- R272 `FMUL`. -/
def execFmul (o : Ops) (m : StdMod) (s : State) : Out :=
  alu (.fmul o m) true (fun r l => .ofF (fmul fmtF32 m.rnd m.sat (r.fa m l) (r.fb m l))) s

/-- R272 `FFMA`. -/
def execFfma (o : Ops) (m : StdMod) (s : State) : Out :=
  alu (.ffma o m) true (fun r l => .ofF (ffma fmtF32 m.rnd m.sat (r.fa m l) (r.fb m l) (r.fc m l))) s

/-- R273 `FMIN`. -/
def execFmin (o : Ops) (m : StdMod) (s : State) : Out :=
  alu (.fmin o m) true (fun r l =>
    .ofF (fminmax fmtF32 false (r.fcode m.ty false m.na m.aa l o.a) (r.fcode m.ty false m.nb m.ab l o.b))) s

/-- R273 `FMAX`. -/
def execFmax (o : Ops) (m : StdMod) (s : State) : Out :=
  alu (.fmax o m) true (fun r l =>
    .ofF (fminmax fmtF32 true (r.fcode m.ty false m.na m.aa l o.a) (r.fcode m.ty false m.nb m.ab l o.b))) s

/-- R274: the comparison and its flag. -/
def fcmpRes (c : Cmp) (x y : FV) : Bool × W32 :=
  let ordered := c == .lt || c == .le || c == .gt || c == .ge
  (fcmpHolds c x y, if x.isSig || y.isSig || (ordered && (x.isNaN || y.isNaN)) then fIV else 0)

/-- R274 `FCMP`. -/
def execFcmp (o : Ops) (m : CmpMod) (s : State) : Out :=
  alu (.fcmp o m) true (fun r l =>
    let t := fcmpRes m.cmp (r.flt m.ty m.na m.aa l o.a) (r.flt m.ty m.nb m.ab l o.b)
    { Res.bool (combine m.comb t.1 (r.pc3 m.comb l)) with flags := t.2 }) s

/-- R272: rounded to an integral value, the sign of a zero kept, no NX. -/
def frndRes (rnd : Rnd) (x : FV) : FRes :=
  match x with
  | .nan s => fnan fmtF32 s
  | .inf n => (signOf fmtF32 n + fmtF32.infCode, 0)
  | .fin n m e =>
    let k := (roundAt rnd n m e 0 false).1
    if 0 ≤ e then fround fmtF32 .rn false n m e false else fround fmtF32 .rn false n k 0 false

/-- R272 `FRND`. -/
def execFrnd (o : Ops) (m : StdMod) (s : State) : Out :=
  alu (.frnd o m) true (fun r l => .ofF (frndRes m.rnd (r.fa m l))) s

/-- R275: the class word of a code. -/
def fclass (f : Fmt) (code : Nat) : Nat :=
  let n := decide (f.signBit ≤ code % (2 * f.signBit))
  let normal := decide (2 ^ f.mb ≤ code % f.signBit)
  match fdecode f code with
  | .nan s => if s then 2 ^ 8 else 2 ^ 9
  | .inf _ => if n then 2 ^ 0 else 2 ^ 7
  | .fin _ m _ =>
    if m = 0 then (if n then 2 ^ 3 else 2 ^ 4)
    else if normal then (if n then 2 ^ 1 else 2 ^ 6)
    else if n then 2 ^ 2 else 2 ^ 5

/-- R275 `FCLASS`. -/
def execFclass (o : Ops) (m : StdMod) (s : State) : Out :=
  alu (.fclass o m) true (fun r l => .ofVal (BitVec.ofNat 64 (fclass (fmtOf m.ty) (r.code m.ty m.w l o.a)))) s

/-- R272: a * 2^b; beyond 2^4096 either way nothing changes in F32. -/
def fscaleRes (rnd : Rnd) (sat : Bool) (x : FV) (b : Int) : FRes :=
  match x with
  | .fin n m e => fround fmtF32 rnd sat n m (e + max (-4096) (min 4096 b)) false
  | x => froundV fmtF32 rnd sat x

/-- R272 `FSCALE`. -/
def execFscale (o : Ops) (m : StdMod) (s : State) : Out :=
  alu (.fscale o m) true (fun r l =>
    .ofF (fscaleRes m.rnd m.sat (r.fa m l) (toNum 32 true (r.rd32 l o.b).toNat))) s

/-! ## Packed 16-bit arithmetic (R276) -/

/-- One half of a packed source after its modifiers. -/
def Run.half (r : Run) (t : NumType) (hi neg abs : Bool) (l : Nat) (i : BitVec 8) : FV :=
  let x := (r.rd32 l i).toNat
  fdecode (fmtOf t) (modSign 15 neg abs ((if hi then x / 2 ^ 16 else x) % 2 ^ 16))

/-- Both halves in one register, the flags of either. -/
def packed (lo hi : FRes) : Res := { val := BitVec.ofNat 64 (hi.1 * 2 ^ 16 + lo.1), flags := lo.2 ||| hi.2 }

/-- An operation on each half. -/
def Run.packed (r : Run) (m : StdMod) (l : Nat) (op : Fmt → FV → FV → FV → FRes) : Res :=
  let h := fun hi => op (fmtOf m.ty) (r.half m.ty hi m.na m.aa l r.o.a) (r.half m.ty hi m.nb m.ab l r.o.b)
    (r.half m.ty hi false false l r.o.c)
  Machine.packed (h false) (h true)

/-- R276 `HADD2`. -/
def execHadd2 (o : Ops) (m : StdMod) (s : State) : Out :=
  alu (.hadd2 o m) true (fun r l => r.packed m l fun f x y _ => fadd f m.rnd m.sat x y) s

/-- R276 `HMUL2`. -/
def execHmul2 (o : Ops) (m : StdMod) (s : State) : Out :=
  alu (.hmul2 o m) true (fun r l => r.packed m l fun f x y _ => fmul f m.rnd m.sat x y) s

/-- R276 `HFMA2`. -/
def execHfma2 (o : Ops) (m : StdMod) (s : State) : Out :=
  alu (.hfma2 o m) true (fun r l => r.packed m l fun f x y z => ffma f m.rnd m.sat x y z) s

/-! ## F64 (R277) -/

/-- R277 `DADD`. -/
def execDadd (o : Ops) (m : StdMod) (s : State) : Out :=
  alu (.dadd o m) true (fun r l => .ofF (fadd fmtF64 m.rnd m.sat (r.fa m l) (r.fb m l))) s

/-- R277 `DMUL`. -/
def execDmul (o : Ops) (m : StdMod) (s : State) : Out :=
  alu (.dmul o m) true (fun r l => .ofF (fmul fmtF64 m.rnd m.sat (r.fa m l) (r.fb m l))) s

/-- R277 `DFMA`. -/
def execDfma (o : Ops) (m : StdMod) (s : State) : Out :=
  alu (.dfma o m) true (fun r l => .ofF (ffma fmtF64 m.rnd m.sat (r.fa m l) (r.fb m l) (r.fc m l))) s

end Sys2Proof.Machine
end

