-- ==== Sys2Proof/Machine/Cvt.lean ====
section
/-! DEFINITION. Conversions and block scales (R57 to R60, R278 to R282). -/

namespace Sys2Proof.Machine

/-- R279: the code of type `st` converted to `dt`. -/
def convert (dt st : NumType) (rnd : Rnd) (sat : Bool) (code : Nat) : Res :=
  let x := fdecode (fmtOf st) code
  let z := toNum st.bits st.isSigned code
  match st.isFloat, dt.isFloat with
  | true, true =>
    if dt = st then .ofF (if x.isNaN then fnan (fmtOf dt) x.isSig else (code, 0))
    else .ofF (fconvert (fmtOf dt) rnd sat x)
  | true, false =>
    let r := fToInt dt.bits dt.isSigned rnd x
    { val := BitVec.ofInt 64 r.1, flags := r.2 }
  | false, true => .ofF (intToF (fmtOf dt) rnd sat z)
  | false, false => .int dt sat z

/-- R279 `CVT`. -/
def execCvt (o : Ops) (m : CvtMod) (s : State) : Out :=
  alu (.cvt o m) true (fun r l => convert m.dty m.sty m.rnd m.sat (r.code m.sty m.w l o.a)) s

/-- R280: two converted values in one word. -/
def pack2 (a b : Res) : Res :=
  { val := (b.val.extractLsb' 0 16 ++ a.val.extractLsb' 0 16 : W32).zeroExtend 64, flags := a.flags ||| b.flags }

/-- R280 `CVTW`. -/
def execCvtw (o : Ops) (m : CvtMod) (s : State) : Out :=
  alu (.cvtw o m) true (fun r l =>
    pack2 (convert m.dty m.sty m.rnd m.sat (r.code m.sty false l o.a))
      (convert m.dty m.sty m.rnd m.sat (r.code m.sty false l o.b))) s

/-! ## Narrow formats (R281) -/

def NarrowFmt.fmt : NarrowFmt → Fmt
  | .e4m3 => fmtE4M3
  | .e5m2 => fmtE5M2
  | .e2m1 => fmtE2M1
  | .int8 => fmtE4M3

/-- Bits of a field. -/
def NarrowFmt.bits : NarrowFmt → Nat
  | .e2m1 => 4
  | _ => 8

/-- `sat8` of a rounded integer: its byte and flags (R58).
Marks: DEDUCED, unsafe (assumption 68). -/
def sat8Res (z : Int) (exact : Bool) : FRes :=
  let c := max (-128) (min 127 z)
  ((c % 256).toNat, if c ≠ z then fSAT ||| fNX else if exact then 0 else fNX)

/-- R281: a value times 2^(127 - code), rounded once to a narrow format.
Marks: DEDUCED, unsafe (assumption 68). -/
def quantise (f : NarrowFmt) (rnd : Rnd) (code : Nat) (x : FV) : FRes :=
  let int := f == .int8
  if x.isNaN || code == 255 then
    (if int then 0 else (NarrowFmt.fmt f).nanCode, if int || f == .e2m1 || x.isSig then fIV else 0)
  else match x with
    | .nan _ => (0, 0)
    | .inf n =>
      (if int then (if n then 128 else 127) else signOf (NarrowFmt.fmt f) n + (NarrowFmt.fmt f).maxCode, fSAT)
    | .fin n m e =>
      let e := e + 127 - (code : Int)
      if int then
        let r := roundAt rnd n m e 0 false
        sat8Res (signed n r.1) r.2
      else fround (NarrowFmt.fmt f) rnd true n m e false

/-- The value of a narrow code. -/
def narrowVal (f : NarrowFmt) (code : Nat) : FV :=
  if f = .int8 then .fin (decide (128 ≤ code % 256)) (toNum 8 true (code % 256)).natAbs 0
  else fdecode (NarrowFmt.fmt f) code

/-- R281: a narrow code times 2^(code - 127), rounded once to F32; a scale of `0xFF` gives a quiet NaN. -/
def expandN (f : NarrowFmt) (rnd : Rnd) (code field : Nat) : FRes :=
  match narrowVal f field with
  | .nan s => fnan fmtF32 s
  | .inf n => if code = 255 then fnan fmtF32 false else (signOf fmtF32 n + fmtF32.infCode, 0)
  | .fin n m e => if code = 255 then fnan fmtF32 false else fround fmtF32 rnd false n m (e + code - 127) false

/-- R281 `CVTN`. -/
def execCvtn (o : Ops) (m : CvtnMod) (s : State) : Out :=
  alu (.cvtn o m) true (fun r l =>
    let g := NarrowFmt.bits m.fmt
    let at_ := g * m.sel.toNat
    let code := if m.sc then (r.rd32 l o.b).toNat % 256 else 127
    let a := (r.rd32 l o.a).toNat
    if m.expand then .ofF (expandN m.fmt m.rnd code (a / 2 ^ at_ % 2 ^ g))
    else
      let q := quantise m.fmt m.rnd code (fdecode fmtF32 a)
      let c := (r.rd32 l o.c).toNat
      .ofF (c / 2 ^ (at_ + g) * 2 ^ (at_ + g) + q.1 % 2 ^ g * 2 ^ at_ + c % 2 ^ at_, q.2)) s

/-- emax of R60. -/
def emaxOf : NarrowFmt → Int
  | .e4m3 => 8
  | .e5m2 => 15
  | .e2m1 => 2
  | .int8 => 6

/-- R60: the scale code of a block whose largest magnitude is `x`; NaN stands for a block that is all NaN. -/
def blockCode (f : NarrowFmt) (x : FV) : Nat :=
  match x with
  | .nan _ => 0
  | .inf _ => 254
  | .fin _ m e => if m = 0 then 0 else (max (-127) (min 127 (e + bitLen m - 1 - emaxOf f)) + 127).toNat

/-- R282 `QSCALE`. -/
def execQscale (o : Ops) (m : QscaleMod) (s : State) : Out :=
  alu (.qscale o m) true (fun r l =>
    .ofVal (BitVec.ofNat 64 (blockCode m.fmt (fdecode fmtF32 ((r.rd32 l o.a).toNat % 2 ^ 31))))) s

end Sys2Proof.Machine
end

