-- ==== Sys2Proof/Machine/Special.lean ====
section
/-! DEFINITION. Special functions and the flag word (R283 to R287). -/

namespace Sys2Proof.Machine

/-- R283 `RCP`. -/
def execRcp (o : Ops) (m : StdMod) (s : State) : Out :=
  alu (.rcp o m) true (fun r l => .ofF (frcp m.sat (r.fa m l))) s

/-- R283 `RSQ`. -/
def execRsq (o : Ops) (m : StdMod) (s : State) : Out :=
  alu (.rsq o m) true (fun r l => .ofF (frsq m.sat (r.fa m l))) s

/-- R283 `SQRT`. -/
def execSqrt (o : Ops) (m : StdMod) (s : State) : Out :=
  alu (.sqrt o m) true (fun r l => .ofF (fsqrt m.sat (r.fa m l))) s

/-- R283 `EX2`. -/
def execEx2 (o : Ops) (m : StdMod) (s : State) : Out :=
  alu (.ex2 o m) true (fun r l => .ofF (fex2 m.sat (r.fa m l))) s

/-- R283 `LG2`. -/
def execLg2 (o : Ops) (m : StdMod) (s : State) : Out :=
  alu (.lg2 o m) true (fun r l => .ofF (flg2 m.sat (r.fa m l))) s

/-- R283 `SIN`. -/
def execSin (o : Ops) (m : StdMod) (s : State) : Out :=
  alu (.sin o m) true (fun r l => .ofF (ftrig false m.sat (r.fa m l))) s

/-- R283 `COS`. -/
def execCos (o : Ops) (m : StdMod) (s : State) : Out :=
  alu (.cos o m) true (fun r l => .ofF (ftrig true m.sat (r.fa m l))) s

/-- R283 `FDIV`. -/
def execFdiv (o : Ops) (m : StdMod) (s : State) : Out :=
  alu (.fdiv o m) true (fun r l => .ofF (fdiv fmtF32 .rn m.sat (r.fa m l) (r.fb m l))) s

/-- The real and helper lanes of the warp that the run lacks (R287). -/
def Run.missing (r : Run) : W64 := r.snap.live &&& ~~~r.iss.lanes

/-- An instruction that issues only in a run that holds every real and helper lane (R287, R333). -/
def wholeWarp (body : Run → State → State) (r : Run) (s : State) : State :=
  if r.missing = 0 then body r s else s.raiseAll r r.ls .maskMismatch r.missing

/-- R286 `FLAGR`. -/
def execFlagr (o : Ops) (s : State) : Out :=
  issued (.flagr o) .issuing (wholeWarp fun r s =>
    s.finish r false false false (r.dst .dst32) (r.act.map fun l => (l, .ofVal (r.snap.flags.zeroExtend 64)))) s

/-- R286 `FLAGC`. -/
def execFlagc (o : Ops) (s : State) : Out :=
  issued (.flagc o) .issuing (wholeWarp fun r s =>
    let m : W32 := if r.act.isEmpty then 0 else r.rd32 (r.act.headD 0) o.a &&& 0x1FF
    (s.modWarp r.gid r.w fun w => { w with flags := w.flags &&& ~~~m }).advance r r.ls) s

end Sys2Proof.Machine
end

