-- ==== Sys2Proof/Machine/SliOps.lean ====
section
/-! DEFINITION. SLI instructions (R64 to R74, R288 to R294). -/

namespace Sys2Proof.Machine

/-- Sources a and b as SLI values, with their modifiers. -/
def Run.sa (r : Run) (m : StdMod) (l : Nat) : SV := r.sli m.ty false m.na m.aa l r.o.a
def Run.sb (r : Run) (m : StdMod) (l : Nat) : SV := r.sli m.ty false m.nb m.ab l r.o.b

/-- R289 `LIADD`. -/
def execLiadd (o : Ops) (m : StdMod) (s : State) : Out :=
  alu (.liadd o m) true (fun r l => .ofF (sliAdd (sliF m.ty) (r.sa m l) (r.sb m l))) s

/-- R289 `LISUB`. -/
def execLisub (o : Ops) (m : StdMod) (s : State) : Out :=
  alu (.lisub o m) true (fun r l => .ofF (sliAdd (sliF m.ty) (r.sa m l) (r.sb m l).negate)) s

/-- R289 `LIMUL`. -/
def execLimul (o : Ops) (m : StdMod) (s : State) : Out :=
  alu (.limul o m) true (fun r l => .ofF (sliMul (sliF m.ty) (r.sa m l) (r.sb m l))) s

/-- R289 `LIDIV`. -/
def execLidiv (o : Ops) (m : StdMod) (s : State) : Out :=
  alu (.lidiv o m) true (fun r l => .ofF (sliDiv (sliF m.ty) (r.sa m l) (r.sb m l))) s

/-- R289 `LIRCP`. -/
def execLircp (o : Ops) (m : StdMod) (s : State) : Out :=
  alu (.lircp o m) true (fun r l => .ofF (sliRcp (sliF m.ty) (r.sa m l))) s

/-- R289 `LIEXP`. -/
def execLiexp (o : Ops) (m : StdMod) (s : State) : Out :=
  alu (.liexp o m) true (fun r l => .ofF (sliExp (sliF m.ty) (r.sa m l))) s

/-- R289 `LILN`. -/
def execLiln (o : Ops) (m : StdMod) (s : State) : Out :=
  alu (.liln o m) true (fun r l => .ofF (sliLn (sliF m.ty) (r.sa m l))) s

/-- R291 `LICMP`. -/
def execLicmp (o : Ops) (m : CmpMod) (s : State) : Out :=
  alu (.licmp o m) true (fun r l =>
    .bool (combine m.comb
      (sliCmp (sliF m.ty) m.cmp (r.sli m.ty false m.na m.aa l o.a) (r.sli m.ty false m.nb m.ab l o.b))
      (r.pc3 m.comb l))) s

/-- R73: a conversion from or to SLI. -/
def liConvert (dt st : NumType) (sat : Bool) (code : Nat) : FRes :=
  if st.isSli then
    if dt.isSli then sliResize (sliF st) (sliF dt) (sdecode (sliF st) code)
    else sliToF (sliF st) (fmtOf dt) sat (sdecode (sliF st) code)
  else sliOfF (sliF dt) (fdecode (fmtOf st) code)

/-- R293 `LICVT`. -/
def execLicvt (o : Ops) (m : CvtMod) (s : State) : Out :=
  alu (.licvt o m) true (fun r l => .ofF (liConvert m.dty m.sty m.sat (r.code m.sty m.w l o.a))) s

/-- R292 `LILVL`. -/
def execLilvl (o : Ops) (m : StdMod) (s : State) : Out :=
  alu (.lilvl o m) true (fun r l =>
    .ofVal (BitVec.ofNat 64 (sliClass (sliF m.ty) (r.fcode m.ty false m.na m.aa l o.a)))) s

end Sys2Proof.Machine
end

