-- ==== Sys2Proof/Machine/CrossLane.lean ====
section
/-! DEFINITION. The rendezvous on a membership mask and the instructions that use it (R31 to R36, R221, R254 to
R265), `REGROUP` (R266, R267) and `LANEMASK` (R269). -/

namespace Sys2Proof.Machine

/-! ## The rendezvous (R32 to R34, R254, R255) -/

/-- What an instruction of this kind reads for a lane as its run arrives (R255). -/
structure Reads where
  a : W64 := 0
  b : W32 := 0
  pred : Bool := false

/-- The lanes of an arriving run that count as arrived: named, or participating. -/
def Run.arriving (r : Run) (mask : W64) : List Nat := r.ls.filter fun l => mask.getLsbD l || r.isAct l

/-- The arrivals at a PC, in lane order. -/
def Warp.arrivalsAt (w : Warp) (pc : W64) : List Arrival :=
  (List.range 64).filterMap fun l => w.arrivals.find? fun a => a.lane == l && a.pc == pc

/-- The lanes that have arrived at a PC. -/
def Warp.metAt (w : Warp) (pc : W64) : List Nat := (w.arrivalsAt pc).map (·.lane)

/-- The lanes that wait at a PC: those that faulted as they came do not. -/
def Warp.waitAt (w : Warp) (pc : W64) : List Nat := ((w.arrivalsAt pc).filter fun a => !a.ghost).map (·.lane)

/-- The lanes of the run that a register in error made fault here: they count as arrived with a false guard (R32, R417). -/
def State.ghosts (s : State) (mask : W64) : List Nat :=
  (((s.issue.map (·.pre)).getD []).map (·.1)).filter fun l => mask.getLsbD l

/-- R34 as a run with mask `mask` arrives: two masks differ, or a participating lane is not named.
Marks: DEDUCED, unsafe (assumption 15). -/
def Run.clash (r : Run) (w : Warp) (mask : W64) : Bool :=
  (w.arrivalsAt r.pc).any (fun a => a.mask != mask) || r.act.any fun l => !mask.getLsbD l

/-- Every named lane has arrived: the results are written or their windows opened, and the named lanes leave as one
run (R33).
Marks: DEDUCED, unsafe (assumption 16). -/
def State.meet (s : State) (r : Run) (long : Bool) (d : Dst) (mask : W64) (f : List Arrival → Arrival → Res) : State :=
  let ps := ((s.warp r.gid r.w).arrivalsAt r.pc).filter (·.guard)
  let res := ps.map fun x => (x.lane, f ps x)
  let gone := maskOf ((((s.warp r.gid r.w).arrivalsAt r.pc).filter (·.ghost)).map (·.lane))
  let s := s.modWarp r.gid r.w fun w =>
    let w := if long then w.openWindows s.stamp r.iss.cycle r.o.la.toNat r.pc d false res else w.write d res
    { w with arrivals := w.arrivals.filter fun a => a.pc != r.pc }
  (s.leave r.gid r.w (mask &&& ~~~gone)).nextStamp

/-- The rendezvous that a run has come to ends in a fault, for every lane that waits there and for the run (R34). -/
def State.raiseMeet (s : State) (r : Run) (w : Warp) (f : Flt) : State :=
  (s.modWarp r.gid r.w fun x => { x with arrivals := x.arrivals.filter fun a => a.pc != r.pc }).raiseAll r
    (w.waitAt r.pc) f.code f.s45

/-- A run arrives at an instruction with a membership mask (R32 to R34); every lane brings its own operands (R255).
Marks: DEDUCED, unsafe (assumption 15). -/
def rendezvous (long : Bool) (d : FieldKind) (smask : BitVec 8) (rd : Run → Nat → Reads)
    (f : List Arrival → Arrival → Res) (r : Run) (s : State) : State :=
  let mask := r.snap.getS (sNum smask)
  let arr := r.arriving mask
  let s := s.advance r (r.ls.filter fun l => !arr.contains l)
  let own := { r with o := { r.o with d := 0xF0 } }
  let recs := arr.map fun l =>
    let x := rd own l
    ({ lane := l, pc := r.pc, mask := mask, guard := r.isAct l, a := x.a, b := x.b, pred := x.pred, ghost := false } : Arrival)
  let recs := recs ++ (s.ghosts mask).map fun l =>
    ({ lane := l, pc := r.pc, mask := mask, guard := false, a := 0, b := 0, pred := false, ghost := true } : Arrival)
  let s := if recs.isEmpty then s
    else
      let bad := r.clash (s.warp r.gid r.w) mask
      let s := s.modWarp r.gid r.w fun w => { w with
        arrivals := w.arrivals.filter (fun a => !(a.pc == r.pc && recs.any fun x => x.lane == a.lane)) ++ recs }
      let w := s.warp r.gid r.w
      if bad then s.raiseMeet r w { code := .maskMismatch, s45 := 0 }
      else match memberFault w r.pc mask with
        | some x => s.raiseMeet r w x
        | none =>
          if mask &&& ~~~(maskOf (w.metAt r.pc)) = 0 then s.meet r long (r.dst d) mask f
          else s.block r arr .mask
  s.memCheck r.gid r.w

/-- R221 `RECONV`. -/
def execReconv (o : Ops) (s : State) : Out :=
  issuedClosing (.reconv o) .run (rendezvous false .none o.a (fun _ _ => {}) fun _ _ => .ofVal 0) s

/-! ## Shuffles (R258, R259) -/

/-- A value operand (R257). -/
def Run.xread (r : Run) (e : Ext) (b64 : Bool) (l : Nat) (i : BitVec 8) : W64 :=
  if b64 then r.rd64 e l i else (r.rd32 l i).zeroExtend 64

/-- What lane `x` receives from lane `j`: its own value where that lane does not take part (R36). -/
def takeFrom (ps : List Arrival) (x : Arrival) (j : Int) : Res :=
  .ofVal (((ps.find? fun y => (y.lane : Int) == j).getD x).a)

/-- The source lane of `SHFL`. -/
def shflLane (mode : BitVec 2) (l o : Nat) : Int :=
  match mode.toNat with
  | 0 => o
  | 1 => (l : Int) - o
  | 2 => (l : Int) + o
  | _ => ((l ^^^ o : Nat) : Int)

/-- R259 `SHFL`. -/
def execShfl (o : Ops) (m : ShflMod) (s : State) : Out :=
  issued (.shfl o m) .run (rendezvous false (xdst m.b64) o.c
    (fun r l => { a := r.xread .zero m.b64 l o.a,
                  b := if m.wrel then BitVec.ofNat 32 (64 / 2 ^ (o.imm.toNat % 8)) else r.rd32 l o.b })
    fun ps x => takeFrom ps x (shflLane m.mode x.lane x.b.toNat)) s

/-- R259 `QXCH`. -/
def execQxch (o : Ops) (m : ShflMod) (s : State) : Out :=
  issued (.qxch o m) .run (rendezvous false (xdst m.b64) o.c
    (fun r l => { a := r.xread .zero m.b64 l o.a })
    fun ps x => takeFrom ps x ((x.lane ^^^ m.mode.toNat : Nat) : Int)) s

/-- R259 `QBC`. -/
def execQbc (o : Ops) (m : ShflMod) (s : State) : Out :=
  issued (.qbc o m) .run (rendezvous false (xdst m.b64) o.c
    (fun r l => { a := r.xread .zero m.b64 l o.a })
    fun ps x => takeFrom ps x ((x.lane / 4 * 4 + o.imm.toNat % 4 : Nat) : Int)) s

/-! ## Votes and matches (R260) -/

/-- The lanes of a list of arrivals that pass a test. -/
def arrivalMask (ps : List Arrival) (p : Arrival → Bool) : W64 := maskOf ((ps.filter p).map (·.lane))

/-- R260: what `VOTE` gives. -/
def voteRes (mode : BitVec 2) (ps : List Arrival) : Res :=
  match mode.toNat with
  | 0 => .bool (ps.any (·.pred))
  | 1 => .bool (ps.all (·.pred))
  | 2 => .bool (ps.all (·.pred) || !ps.any (·.pred))
  | _ => .ofVal (arrivalMask ps (·.pred))

/-- R260 `VOTE`. -/
def execVote (o : Ops) (m : VoteMod) (s : State) : Out :=
  issued (.vote o m) .run (rendezvous false (if m.mode = 3 then .dst64 else .pred) o.c
    (fun r l => { pred := r.rdP l o.a != m.np })
    fun ps _ => voteRes m.mode ps) s

/-- R260 `MATCH`. -/
def execMatchB (o : Ops) (m : VoteMod) (s : State) : Out :=
  issued (.matchB o m) .run (rendezvous false (if m.mode = 0 then .dstV64 else .pred) o.c
    (fun r l => { a := r.xread .zero m.b64 l o.a })
    fun ps x => if m.mode = 0 then .ofVal (arrivalMask ps (·.a == x.a)) else .bool (ps.all (·.a == x.a))) s

/-! ## Reductions and scans (R261 to R265) -/

/-- The identity of an operation (R262), as a code of the type. -/
def redIdentity (op : RedOp) (t : NumType) : Nat :=
  match op with
  | .add => if t.isInt then 0 else 0x80000000
  | .min => if t.isInt then ((intRange t.bits t.isSigned).2 % 2 ^ t.bits).toNat else 0x7F800000
  | .max => if t.isInt then ((intRange t.bits t.isSigned).1 % 2 ^ t.bits).toNat else 0xFF800000
  | .and => 2 ^ t.bits - 1
  | .or | .xor => 0

/-- One application of the operation (R262, R263). -/
def redStep (op : RedOp) (t : NumType) (x y : Nat) : FRes :=
  let n := t.bits
  if t.isInt then
    let less := decide (toNum n t.isSigned x ≤ toNum n t.isSigned y)
    (match op with
      | .add => (x + y) % 2 ^ n
      | .min => if less then x else y
      | .max => if less then y else x
      | .and => x &&& y
      | .or => x ||| y
      | .xor => x ^^^ y, 0)
  else
    match op with
    | .min => fminmax (fmtOf t) false x y
    | .max => fminmax (fmtOf t) true x y
    | _ => fadd (fmtOf t) .rn false (fdecode (fmtOf t) x) (fdecode (fmtOf t) y)

/-- One step over the lanes: `f l` gives the operands of lane `l`, or its value as it is. -/
def redRound (op : RedOp) (t : NumType) (f : Nat → Option (Nat × Nat)) (x : List Nat × W32) : List Nat × W32 :=
  let ys := x.1.zipIdx.map fun p => match f p.2 with
    | none => (p.1, (0 : W32))
    | some (i, j) => redStep op t (x.1.getD i 0) (x.1.getD j 0)
  (ys.map (·.1), ys.foldl (fun w p => w ||| p.2) x.2)

/-- R264: the butterfly. -/
def redAll (op : RedOp) (t : NumType) (x : List Nat) : List Nat × W32 :=
  [32, 16, 8, 4, 2, 1].foldl (fun x o => redRound op t (fun l => some (l, l ^^^ o)) x) (x, 0)

/-- R265: the prefix. -/
def scanAll (op : RedOp) (t : NumType) (excl : Bool) (x : List Nat) : List Nat × W32 :=
  let y := [1, 2, 4, 8, 16, 32].foldl (fun x o =>
    redRound op t (fun l => if o ≤ l then some (l - o, l) else none) x) (x, 0)
  if excl then ((redIdentity op t :: y.1).take 64, y.2) else y

/-- The lanes' values, with the identity for those outside P. -/
def redInput (op : RedOp) (t : NumType) (ps : List Arrival) : List Nat :=
  (List.range 64).map fun l =>
    ((ps.find? fun x => x.lane == l).map fun x => x.a.toNat % 2 ^ t.bits).getD (redIdentity op t)

/-- The result of one lane. -/
def redRes (y : List Nat × W32) (l : Nat) : Res := { val := BitVec.ofNat 64 (y.1.getD l 0), flags := y.2 }

/-- R264 `RED`.
Marks: DEDUCED, unsafe (assumption 16). -/
def execRed (o : Ops) (m : RedMod) (s : State) : Out :=
  issued (.red o m) .run (rendezvous true (xdst m.ty.is64) o.c
    (fun r l => { a := r.xread (extOf m.ty) m.ty.is64 l o.a })
    fun ps x => redRes (redAll m.op m.ty (redInput m.op m.ty ps)) x.lane) s

/-- R265 `SCAN`.
Marks: DEDUCED, unsafe (assumption 16). -/
def execScan (o : Ops) (m : RedMod) (s : State) : Out :=
  issued (.scan o m) .run (rendezvous true (xdst m.ty.is64) o.c
    (fun r l => { a := r.xread (extOf m.ty) m.ty.is64 l o.a })
    fun ps x => redRes (scanAll m.op m.ty m.excl (redInput m.op m.ty ps)) x.lane) s

/-! ## REGROUP (R266, R267) -/

/-- R267 `REGROUP`: real lanes arrive whatever their guard, helpers wait. -/
def execRegroup (o : Ops) (m : RegroupMod) (s : State) : Out :=
  issued (.regroup o m) .issuing (fun r s =>
    let c := m.c.toNat + 1
    let real := r.ls.filter fun l => (r.snap.lane l).isReal
    let help := r.ls.filter fun l => !(r.snap.lane l).isReal
    let old := (s.group r.gid).bind (·.regroup)
    let s := s.hold r help .regroup
    if real.isEmpty then (s.memCheck r.gid r.w).partCheck r.gid r.w
    else match old.filter fun x => decide (x.arrived ≠ 0) && x.c != c with
      | some x =>
        ((s.raiseAll r real .barrierMismatch (BitVec.ofNat 64 x.c)).memCheck r.gid r.w).partCheck r.gid r.w
      | none =>
        let recs := (real.filter r.isAct).map fun l =>
          ({ t := 64 * r.w + l, key := (r.rd32 l o.a).extractLsb' 0 16, base := o.d.toNat,
             payload := (List.range c).map fun k => (r.snap.lane l).getV (o.d.toNat + k) } : RegRec)
        let inst : RegInst := { c := c, arrived := (old.map (·.arrived)).getD 0 + real.length,
                                recs := (old.map (·.recs)).getD [] ++ recs }
        let s := s.drainMask r.gid r.w (maskOf real)
        let s := s.modGroup r.gid fun g => { g with regroup := some inst }
        let s := s.hold r real .regroup
        ((s.regCheck r.gid).memCheck r.gid r.w).partCheck r.gid r.w) s

/-! ## LANEMASK (R269) -/

/-- The mask of a selection for lane `l`. -/
def laneMask (w : Warp) (act : List Nat) (sel : BitVec 3) (l : Nat) : W64 :=
  match sel.toNat with
  | 0 => maskOf act
  | 1 => maskOf ((List.range 64).filter fun j => decide (j < l))
  | 2 => maskOf ((List.range 64).filter fun j => decide (j ≤ l))
  | 3 => maskOf ((List.range 64).filter fun j => decide (l < j))
  | 4 => maskOf ((List.range 64).filter fun j => decide (l ≤ j))
  | 5 => w.where (·.isReal)
  | _ => w.where (·.isHelper)

/-- R269 `LANEMASK`. -/
def execLanemask (o : Ops) (m : LaneMaskMod) (s : State) : Out :=
  alu (.lanemask o m) false (fun r l => .ofVal (laneMask r.snap r.act m.sel l)) s

end Sys2Proof.Machine
end

