-- ==== Sys2Proof/Machine/LocalMem.lean ====
section
/-! DEFINITION. Loads and stores of shared memory, the loft and the spill stack (R83 to R88, R229 to R232). -/

namespace Sys2Proof.Machine

/-- Where an access acts (R229): the space, the address at its home, the ordering kind (R110), and the object. -/
structure Loc where
  space : Space
  addr : Nat
  ord : Ord
  obj : Option (Nat × Nat)
  deriving DecidableEq, Repr

/-- Why an access does not happen; `late` when the memory port refuses it (R181). -/
structure MemFlt where
  flt : Flt
  late : Bool := false
  deriving DecidableEq, Repr

def memFlt (c : FCode) (v : Int) : MemFlt := { flt := { code := c, s45 := BitVec.ofInt 64 v } }

/-- Bytes of an access. -/
def memBytes (m : MemMod) : Nat := 2 ^ m.size.toNat

/-! ## Locations -/

/-- The displacement of the immediate and, unless the field is another operand, the index in src b. -/
def Run.disp (r : Run) (useB : Bool) (l : Nat) : Int :=
  r.o.imm.toInt + (if useB then (r.rd32 l r.o.b).toNat else 0 : Nat)

/-- A shared offset, under R88: bounds before alignment. -/
def sharedAt (d : Desc) (off : Int) (n : Nat) : Except MemFlt Nat :=
  if off < 0 ∨ (d.shared : Int) < off + n then .error (memFlt .bounds off)
  else if off.toNat % n ≠ 0 then .error (memFlt .misaligned off)
  else .ok off.toNat

/-- The location of a lane in shared memory. -/
def Run.sharedLoc (r : Run) (useB : Bool) (n l : Nat) : Except MemFlt Loc :=
  (sharedAt r.d ((r.rd32 l r.o.a).toNat + r.disp useB l) n).map fun a =>
    { space := .shared r.gid, addr := a, ord := .rc, obj := none }

/-- Does the memory port find this failure (R97)?  The issuing unit tests bounds, and the rights that the capability itself
gives.
Marks: DEDUCED, unsafe (assumption 12). -/
def atPort (cap : W64) (need : BitVec 4) : FCode → Bool
  | .bounds => false
  | .rights => need &&& capRights cap == need
  | _ => true

/-- s45 of a failure of R97 (R419). -/
def capS45 (cap : W64) (ldie : Nat) (off : Int) : FCode → W64
  | .object => cap
  | .dieAbsent => BitVec.ofNat 64 ldie
  | _ => BitVec.ofInt 64 off

/-- The location of a lane in a loft, under R97; a transfer without a route fails (R373).  The cluster window of R13 is
no place of its own: a cluster shares its loft through objects.
Marks: DESIGN CHOICE, unsafe (assumption 83). -/
def State.loftLoc (s : State) (r : Run) (useB : Bool) (n : Nat) (need : BitVec 4) (atomic : Bool) (l : Nat) :
    Except MemFlt Loc :=
  let cap := r.rd64 .zero l r.o.a
  let off : Int := capOff cap + r.disp useB l
  match s.checkHeld r.g cap off n need [.loft] atomic true with
  | .error c => .error { flt := { code := c, s45 := capS45 cap (((s.obj r.g.ctx (capObj cap)).map (·.ldie)).getD 0) off c },
                         late := atPort cap need c }
  | .ok (o, a) =>
    if (s.hops r.g.die (o.placed.getD 0)).isNone then
      .error { flt := { code := .dieAbsent, s45 := BitVec.ofNat 64 o.ldie }, late := true }
    else .ok { space := .loft (o.placed.getD 0), addr := o.base + a, ord := o.ord, obj := some (r.g.ctx, capObj cap) }

/-- The capabilities that the issuing lanes access through. -/
def Run.caps (r : Run) : List W64 := r.act.map fun l => r.rd64 .zero l r.o.a

/-- A word offset of a lane's stack, under R86: bounds before alignment. -/
def stackAt (d : Desc) (o : Int) (n : Nat) : Except MemFlt Nat :=
  if o < 0 ∨ ((ceilDiv d.stack 256 * 256 : Nat) : Int) < (o + (n / 4 : Nat)) * 256 then
    .error (memFlt .stackOverflow o)
  else if n = 8 ∧ o.toNat % 2 ≠ 0 then .error (memFlt .misaligned o)
  else .ok o.toNat

/-- The stack offset of a lane. -/
def Run.stackLoc (r : Run) (n l : Nat) : Except MemFlt Nat :=
  stackAt r.d ((r.rd32 l r.o.a).toNat + r.disp true l) n

/-! ## Loads -/

/-- A failure, as the landing point of a long-latency instruction reports it (R181), or at the instruction.
Marks: DEDUCED, unsafe (assumption 12). -/
def MemFlt.res (f : MemFlt) (long : Bool) : Res :=
  if long && f.late then { val := 0, late := some f.flt } else { val := 0, flt := some f.flt }

/-- An uncorrectable error in data consumed (R439, R440). -/
def eccFlt (src : Nat) : MemFlt :=
  { flt := eccFault src, late := true }

/-- The value of a load as its destination receives it (R231). -/
def loadVal (m : MemMod) (bs : List Byte) : W64 :=
  if m.size = 3 then BitVec.ofNat 64 (leNat bs) else extInt (8 * (memBytes m)) m.sx (leNat bs)

/-- The results of the accesses of the issuing lanes, in increasing lane index; with an s-register destination, that of the
one access, for the lowest (R29, R232, R235).  When that access fails, every issuing lane has the failure.
Marks: DESIGN CHOICE, unsafe (assumption 88). -/
def Run.accesses (r : Run) (f : State → Nat → State × Res) (s : State) : State × List (Nat × Res) :=
  let out := (if isS r.o.d then r.act.take 1 else r.act).foldl (fun (acc : State × List (Nat × Res)) l =>
    let x := f acc.1 l
    (x.1, acc.2 ++ [(l, x.2)])) (s, [])
  (out.1, if isS r.o.d then r.act.map fun l => (l, (out.2.head?.map (·.2)).getD (.ofVal 0)) else out.2)

/-- A lane of the run as an agent. -/
def Run.agent (r : Run) (l : Nat) : Agent := .lane r.gid r.w l

/-- The scope of an acquire at a location: none when the access is not one, or the location is UO (R132). -/
def acquireAt (k : OrdKind) (sc : Scope) (p : Loc) : Option Scope :=
  match k with
  | .acquire | .acqRel => if p.ord = .uo then none else some (scopeAt p.space sc)
  | _ => none

/-- A read may still take a later place (R126): it is no acquire, not of an SO location, and not in a rehearsal launch. -/
def Run.mayWait (r : Run) (k : OrdKind) (p : Loc) : Bool :=
  (k == .plain || k == .release) && p.ord != .so && !r.d.isRehearsal

/-- A long-latency access is a memory request until it completes (R2). -/
def State.request (s : State) (r : Run) (n : Nat) (sx fixed : Bool) (l : Nat) (p : Loc) : State :=
  { s with loads := s.loads ++
      [{ id := s.stamp, gid := r.gid, warp := r.w, lane := l, space := p.space, addr := p.addr, bytes := n, signed := sx,
         fixed := fixed }] }

/-- A load from a location: what its lane knows after it, and the value.  Its lane's own atomics there have acted
(`State.ownFirst`).
Marks: DEDUCED, unsafe (assumption 10). -/
def State.loadAt (s : State) (r : Run) (m : MemMod) (long : Bool) (l : Nat) : Except MemFlt Loc → State × Res
  | .error f => (s, f.res long)
  | .ok p =>
    if s.badRead p.space p.addr (memBytes m) then
      (if long then s.request r (memBytes m) m.sx true l p else s, (eccFlt p.space.source).res long)
    else
      let t := s.noteRead (r.agent l) p.space p.addr (memBytes m) (acquireAt m.kind m.scope p)
      (if long then t.request r (memBytes m) m.sx (!r.mayWait m.kind p) l p else t,
       .ofVal (loadVal m (s.readAs (r.agent l) 0 p.space p.addr (memBytes m))))

/-- The lanes' own atomics on what they access now have acted (R146). -/
def State.ownFirst (s : State) (r : Run) (n : Nat) (loc : Nat → Except MemFlt Loc) : State :=
  r.act.foldl (fun t l => match loc l with
    | .ok p => t.settleOwn (r.agent l) p.space p.addr n
    | .error _ => t) s

/-- An SO access waits for the acknowledgement of the lane's earlier SO writes (R142). -/
def State.soWait (s : State) (r : Run) (l : Nat) (p : Except MemFlt Loc) : State :=
  match p with
  | .ok p => if p.ord = .so then s.drainSo r.gid r.w l else s
  | .error _ => s

/-- R231 `LDS`. -/
def execLds (o : Ops) (m : MemMod) (s : State) : Out :=
  issued (.lds o m) .issuing (fun r s =>
    let loc := r.sharedLoc true (memBytes m)
    let x := r.accesses (fun t l => t.loadAt r m false l (loc l)) (s.ownFirst r (memBytes m) loc)
    x.1.finish r false false false (r.dst (memDst m)) x.2) s

/-- R231 `LDL`. -/
def execLdl (o : Ops) (m : MemMod) (s : State) : Out :=
  issued (.ldl o m) .issuing (fun r s =>
    let loc := fun l => s.loftLoc r true (memBytes m) rightRD false l
    let t := r.act.foldl (fun t l => t.soWait r l (loc l)) s
    let x := r.accesses (fun t l => t.loadAt r m true l (loc l)) (t.ownFirst r (memBytes m) loc)
    (x.1.holdCaps r.g r.caps).finish r true false false (r.dst (memDst m)) x.2) s

/-- The words of a lane's stack at an offset (R86). -/
def stackWords (o l n : Nat) : List Nat := (List.range (n / 4)).map fun i => (o + i) * 64 + l

/-- A load from the stack (R86, R87). -/
def stackLoad (r : Run) (m : MemMod) (w : Warp) (l : Nat) : Res :=
  match r.stackLoc (memBytes m) l with
  | .error f => f.res true
  | .ok o =>
    if (stackWords o l (memBytes m)).any w.stackErr.contains then (eccFlt 4).res true
    else .ofVal (loadVal m ((stackWords o l (memBytes m)).flatMap fun k => readBytes w.stack (4 * k) 4))

/-- R231 `LDK`. -/
def execLdk (o : Ops) (m : MemMod) (s : State) : Out :=
  issued (.ldk o m) .issuing (fun r s =>
    let w := s.warp r.gid r.w
    s.finish r true false false (r.dst (memDstV m)) (r.act.map fun l => (l, stackLoad r m w l))) s

/-! ## Stores -/

/-- The value of src c, as bytes. -/
def Run.storeBytes (r : Run) (m : MemMod) (l : Nat) : List Byte :=
  bytesOfWord (memBytes m) (if m.size = 3 then (r.rd64 .zero l r.o.c).toNat else (r.rd32 l r.o.c).toNat)

/-- A lane accesses bytes: its earlier loads of them have their place in the order (R124). -/
def State.placeLoads (s : State) (a : Agent) (sp : Space) (i n : Nat) : State :=
  s.fixLoads fun d => Agent.lane d.gid d.warp d.lane == a && touches d.space d.addr d.bytes sp i n

/-- A lane comes to a release: its earlier writes reach their homes, and its earlier loads have their values (R131,
R132). -/
def State.releaseAt (s : State) (r : Run) (l : Nat) : State :=
  (s.drainLane r.gid r.w l).bindLoads r.gid r.w (oneLane l)

/-- A store leaves the lane (R124, R131): a release waits for the lane's earlier accesses, an SO store for its earlier
SO writes.  In a rehearsal launch it reaches its home at once (R412).
Marks: DEDUCED, unsafe (assumption 14). -/
def State.storeAt (s : State) (r : Run) (m : MemMod) (l : Nat) (p : Loc) : State :=
  let rel := m.kind == .release
  let s := if rel then s.releaseAt r l else if p.ord = .so then s.drainSo r.gid r.w l else s
  let s := s.placeLoads (r.agent l) p.space p.addr (memBytes m)
  let w : PWrite :=
    { cycle := r.iss.cycle, gid := r.gid, warp := r.w, lane := l, op := none, space := p.space, addr := p.addr,
      bytes := r.storeBytes m l, ord := p.ord, release := rel,
      rels := s.relsOf (r.agent l) p.space (if rel then some m.scope else none), seen := false, obj := p.obj,
      ctx := r.g.ctx, node := r.g.node, rmw := none, late := [] }
  let s := { s with writes := s.writes ++ [w] }
  if r.d.isRehearsal then s.drain (·.byLane r.gid r.w l) else s

/-- A store by every issuing lane, in increasing lane index (R125): helpers store nothing (R18).
Marks: DEDUCED, unsafe (assumption 14). -/
def storeAll (m : MemMod) (loc : State → Run → Nat → Except MemFlt Loc) (r : Run) (s : State) : State :=
  let t := r.act.foldl (fun t l => match loc s r l with
    | .ok p => if (r.snap.lane l).isReal then t.storeAt r m l p else t
    | .error _ => t) s
  t.finish r false false false .none (r.act.map fun l => (l, match loc s r l with
    | .ok _ => .ofVal 0
    | .error f => f.res false))

/-- R231 `STS`. -/
def execSts (o : Ops) (m : MemMod) (s : State) : Out :=
  issued (.sts o m) .never (storeAll m fun _ r l => r.sharedLoc true (memBytes m) l) s

/-- R231 `STL`. -/
def execStl (o : Ops) (m : MemMod) (s : State) : Out :=
  issued (.stl o m) .never (fun r s =>
    storeAll m (fun _ r l => s.loftLoc r true (memBytes m) rightWR false l) r (s.holdCaps r.g r.caps)) s

/-- Write a lane's stack words; writing a whole word clears its error (R440). -/
def Warp.stackStore (w : Warp) (o l : Nat) (bs : List Byte) : Warp :=
  (stackWords o l bs.length).zipIdx.foldl (fun w p =>
    { w with stack := writeBytes w.stack (4 * p.1) ((bs.drop (4 * p.2)).take 4)
             stackErr := w.stackErr.filter (· != p.1) }) w

/-- R231 `STK`: a helper's takes effect (R18). -/
def execStk (o : Ops) (m : MemMod) (s : State) : Out :=
  issued (.stk o m) .issuing (fun r s =>
    let s := s.modWarp r.gid r.w fun w => r.act.foldl (fun w l => match r.stackLoc (memBytes m) l with
      | .ok k => w.stackStore k l (r.storeBytes m l)
      | .error _ => w) w
    s.finish r false false false .none (r.act.map fun l => (l, match r.stackLoc (memBytes m) l with
      | .ok _ => .ofVal 0
      | .error f => f.res false))) s

end Sys2Proof.Machine
end

