-- ==== Sys2Proof/Machine/Atomics.lean ====
section
/-! DEFINITION. Atomics, compare-and-swap and `FENCE` (R130, R131, R233 to R235). -/

namespace Sys2Proof.Machine

/-- An operand of an atomic at the size of SIZE. -/
def Run.opr (r : Run) (m : MemMod) (l : Nat) (i : BitVec 8) : Nat :=
  if m.size = 3 then (r.rd64 .zero l i).toNat else (r.rd32 l i).toNat

/-- Is the ordering kind a release? -/
def isRel : OrdKind → Bool
  | .release | .acqRel => true
  | _ => false

/-- Is the ordering kind an acquire? -/
def isAcq : OrdKind → Bool
  | .acquire | .acqRel => true
  | _ => false

/-- An atomic of a lane as it leaves it (R131, R132): a release waits for the lane's earlier accesses. -/
def State.atomicOut (s : State) (r : Run) (m : MemMod) (l : Nat) (p : Loc) : PWrite :=
  { cycle := r.iss.cycle, gid := r.gid, warp := r.w, lane := l, op := none, space := p.space, addr := p.addr,
    bytes := List.replicate (memBytes m) 0, ord := p.ord, release := isRel m.kind,
    rels := s.relsOf (r.agent l) p.space (if isRel m.kind then some m.scope else none), seen := false, obj := p.obj,
    ctx := r.g.ctx, node := r.g.node, rmw := none, late := [] }

/-- What a lane's atomic waits for: a release for the lane's earlier accesses, one on an SO location for its earlier SO
writes; and its earlier loads of the location have their place (R124, R131, R142). -/
def State.atomicReady (s : State) (r : Run) (m : MemMod) (l : Nat) (p : Loc) : State :=
  let s := if isRel m.kind then s.releaseAt r l else s
  let s := if p.ord = .so then s.drainSo r.gid r.w l else s
  s.placeLoads (r.agent l) p.space p.addr (memBytes m)

/-- What an atomic of a lane does (R234, R235): its function and the operand. -/
structure AtomArgs where
  fn : RmwFn
  c : Nat

/-- One atomic that acts at once: the lane's own earlier writes to the location and those of its cycle are ahead of it (R125).
Marks: DEDUCED, unsafe (assumption 10). -/
def State.atomicAt (s : State) (r : Run) (m : MemMod) (l : Nat) (p : Loc) (f : AtomArgs) : State × Res :=
  let n := memBytes m
  let s := (s.atomicReady r m l p).drain fun x => touches x.space x.addr x.bytes.length p.space p.addr n
    && (x.agent == r.agent l || x.cycle == r.iss.cycle)
  let x := s.atomicHome (s.atomicOut r m l p) { win := 0, fn := f.fn, c := f.c, shared := false } (acquireAt m.kind m.scope p)
  (x.1, if x.2.bad then (eccFlt p.space.source).res true
        else { Res.ofVal (extInt (8 * n) false x.2.old) with flags := x.2.flags })

/-- An atomic sets out for its home, where it acts (R114, R126): its window then has the result.
Marks: DEDUCED, unsafe (assumption 10). -/
def State.atomicSend (s : State) (r : Run) (m : MemMod) (l : Nat) (p : Loc) (f : AtomArgs) : State :=
  let w := s.atomicOut r m l p
  { s with writes := s.writes ++ [{ w with rmw := some { win := s.stamp, fn := f.fn, c := f.c, shared := isS r.o.d } }] }

/-- The lanes whose atomics access memory: with an s-register destination the lowest issuing lane alone (R232, R235). -/
def Run.atomLanes (r : Run) : List Nat :=
  (if isS r.o.d then r.act.take 1 else r.act).filter fun l => (r.snap.lane l).isReal

/-- An atomic by every issuing lane, in increasing lane index (R235): a helper receives 0.  It acts as it reaches its home, or
at once where nothing may come between: an acquire, an SO location, a rehearsal launch.
Marks: DESIGN CHOICE, unsafe (assumption 88). -/
def atomAll (m : MemMod) (k : FieldKind) (loc : State → Run → Nat → Except MemFlt Loc)
    (f : Run → Nat → AtomArgs) (r : Run) (s : State) : State :=
  let ls := r.atomLanes.filterMap fun l => match loc s r l with
    | .ok p => some (l, p)
    | .error _ => none
  let now := !(ls.all fun x => r.mayWait m.kind x.2)
  let s0 := s
  let s := if now then s else ls.foldl (fun t x => t.atomicReady r m x.1 x.2) s
  let x := r.accesses (fun t l =>
    if !(r.snap.lane l).isReal then (t, Res.ofVal 0)
    else match loc s0 r l with
      | .error e => (t, e.res true)
      | .ok p => if now then t.atomicAt r m l p (f r l) else (t, .ofVal 0)) s
  let s := ls.foldl (fun t p => t.request r (memBytes m) false true p.1 p.2) x.1
  let s := if now then s else ls.foldl (fun t p => t.atomicSend r m p.1 p.2 (f r p.1)) s
  s.finish r true false false (r.dst k) x.2

/-- R410: in rehearsal mode the atomics that another group can observe fault. -/
def noRehearsal (body : Run → State → State) (r : Run) (s : State) : State :=
  if r.d.isRehearsal then (s.advance r (r.ls.filter fun l => !r.isAct l)).raiseAll r r.act .rehearsal 0 else body r s

/-- R234: the operation of the instruction on src c. -/
def atomArgs (m : MemMod) (r : Run) (l : Nat) : AtomArgs := { fn := .atom m.op, c := r.opr m l r.o.c }

/-- R235: src c where the old value equals src b. -/
def casArgs (m : MemMod) (r : Run) (l : Nat) : AtomArgs := { fn := .cas (r.opr m l r.o.b), c := r.opr m l r.o.c }

/-- R235 `ATMS`. -/
def execAtms (o : Ops) (m : MemMod) (s : State) : Out :=
  issued (.atms o m) .issuing (atomAll m (memDstV m) (fun _ r l => r.sharedLoc true (memBytes m) l) (atomArgs m)) s

/-- An atomic through capabilities: not in a rehearsal launch (R410). -/
def loftAtom (m : MemMod) (k : FieldKind) (useB : Bool) (f : Run → Nat → AtomArgs) (r : Run) (s : State) : State :=
  noRehearsal (fun r s => atomAll m k
    (fun s r l => s.loftLoc r useB (memBytes m) (rightRD ||| rightWR ||| rightAT) true l) f r (s.holdCaps r.g r.caps)) r s

/-- R235 `ATML`. -/
def execAtml (o : Ops) (m : MemMod) (s : State) : Out :=
  issued (.atml o m) .issuing (loftAtom m (memDstV m) true (atomArgs m)) s

/-- R235 `CASS`. -/
def execCass (o : Ops) (m : MemMod) (s : State) : Out :=
  issued (.cass o m) .issuing (atomAll m (memDst m) (fun _ r l => r.sharedLoc false (memBytes m) l) (casArgs m)) s

/-- R235 `CASL`. -/
def execCasl (o : Ops) (m : MemMod) (s : State) : Out :=
  issued (.casl o m) .issuing (loftAtom m (memDst m) false (casArgs m)) s

/-- The acquire side of a fence (R131, R132): the lane's earlier reads of releases synchronise. -/
def State.fenceAcquire (s : State) (a : Agent) (sc : Scope) : State :=
  s.acquire (s.stand a) sc ((s.met.filter fun p => p.1 == a).map (·.2))

/-- The release side of a fence (R131, R132): the lane's earlier accesses are done, and its later writes are releases. -/
def State.fenceRelease (s : State) (r : Run) (l : Nat) (sc : Scope) : State :=
  let s := s.drain (·.byLane r.gid r.w l)
  { s with fenced := (r.agent l, s.relOf (r.agent l) sc)
      :: s.fenced.filter fun p => !(p.1 == r.agent l && p.2.scope == sc) }

/-- What an `acq_rel` fence adds (R131): the agents of its scope miss none of the lane's earlier writes.
Marks: DEDUCED, safe (assumption 11). -/
def State.widen (s : State) (a : Agent) (sc : Scope) : State :=
  { s with recent := s.recent.map fun (e : Recent) =>
      if e.by_ == a && e.ord != .uo then { e with wide := e.wide ++ [(sc, s.stand a)] } else e }

/-- One lane's fence: the lane's earlier reads have returned. -/
def State.fenceAt (s : State) (r : Run) (m : FenceMod) (l : Nat) : State :=
  let s := s.settleReads r.gid r.w (oneLane l)
  let s := if isAcq m.kind then s.fenceAcquire (r.agent l) m.scope else s
  let s := if isRel m.kind then s.fenceRelease r l m.scope else s
  if m.kind == .acqRel then s.widen (r.agent l) m.scope else s

/-- R131 `FENCE`: at lane scope it has no effect.
Marks: DEDUCED, safe (assumption 11). -/
def execFence (o : Ops) (m : FenceMod) (s : State) : Out :=
  issued (.fence o m) .issuing (fun r s =>
    (if m.scope = .lane then s else r.act.foldl (fun t l => t.fenceAt r m l) s).advance r r.ls) s

end Sys2Proof.Machine
end

