-- ==== Sys2Proof/Machine/Future.lean ====
section
/-! DEFINITION. Futures and timelines (R236 to R243), and the completion of an engine operation (R237, R238). -/

namespace Sys2Proof.Machine

/-! ## Completion -/

/-- Change the engine context that a CTX field names for a group. -/
def State.modEctx (s : State) (g : Group) (c : Nat) (f : ECtx → ECtx) : State :=
  if c < 0x40 then
    match g.copyCtxs[c]? with
    | none => s
    | some k => s.modDie g.die fun d => { d with copyCtx := mapSet d.copyCtx k (f ((mapGet d.copyCtx k).getD ECtx.empty)) }
  else s.modDie g.die fun d =>
    { d with scrimCtx := mapSet d.scrimCtx (c - 0x40) (f ((mapGet d.scrimCtx (c - 0x40)).getD ECtx.empty)) }

def State.op (s : State) (id : Nat) : Option Op := s.ops.find? fun x => x.id == id
def State.modOp (s : State) (id : Nat) (f : Op → Op) : State :=
  { s with ops := s.ops.map fun x => if x.id == id then f x else x }

/-- A status word from a code and a detail (R238). -/
def statusWord (code detail : Nat) : W32 := BitVec.ofNat 32 (code + 256 * detail)

/-- The operation as an agent (R122). -/
def Op.agent (x : Op) : Agent := .op x.id x.gid

/-- An operation completes with a status: its context's counter passes it when it can (R237), and who observes the context
knows what happened before (R133). -/
def State.completeOp (s : State) (x : Op) (status : W32) : State :=
  let s := { s with ops := s.ops.filter fun y => y.id != x.id
                    walks := s.walks.filter fun (w : Walk) => w.who != Walker.op x.id }
  match s.group x.gid with
  | none => s
  | some g =>
    let a := ((s.ectx g x.ectx).map (·.alloc.toNat)).getD 0
    (((s.modEctx g x.ectx (·.complete x.seq status)).learn x.agent
      [.done g.die (engineNo g x.ectx) a x.seq, .grid x.ctx x.node]).unlearn x.agent).drained x.gid

/-- Count a completed crossing or load of a scrim context (R380, R388).
Marks: DEDUCED, unsafe (assumption 37). -/
def State.addStat (s : State) (x : Op) : State :=
  if x.ectx < 0x40 then s
  else s.modDie x.die fun d =>
    let k := x.ectx - 0x40
    let o := (mapGet d.scrimStat k).getD { sent := 0, sat := 0, nan := 0 }
    let n : ScrimStat := { sent := o.sent + 1, sat := o.sat + x.stats.sat, nan := o.nan + x.stats.nan }
    { d with scrimStat := mapSet d.scrimStat k n }

/-- Does an operation carry this handle? -/
def Op.is (x : Op) (gid : Nat) (g : Group) (c seq : Nat) : Bool :=
  x.ectx == c && x.seq == seq && (if c < 0x40 then x.gid == gid else x.die == g.die)

/-! ## FWAIT, FTEST, FCANCEL (R241, R243) -/

/-- The handle of a lane: the one it waits for, or its operand.
Marks: DEDUCED, unsafe (assumption 17). -/
def Run.handle (r : Run) (l : Nat) : W64 :=
  match (r.snap.lane l).wait with
  | .future h => h
  | _ => r.rd64 .zero l r.o.a

/-- What `FWAIT` does for a handle.
Marks: DEDUCED, unsafe (assumption 18). -/
def State.fwait (s : State) (r : Run) (h : W64) : Hop :=
  match s.ectx r.g (handleCtx h) with
  | none => .flt { code := .object, s45 := h }
  | some e =>
    if !e.isDone (handleSeq h) then .wait (.future h)
    else if e.failed (handleSeq h) then
      .flt { code := .futureFailed, s45 := (e.status (handleSeq h)).zeroExtend 64 }
    else .go (nextSlot r.pc)

/-- The end of a read that waited clears the tag of its register (R239). -/
def Run.untagRead (r : Run) (h : W64) (w : Warp) : Warp :=
  if isS r.o.a && w.getS (sNum r.o.a) == h then w.untag (sNum r.o.a) else w

/-- The lane goes on and not to a wait. -/
def Hop.ends : Hop → Bool
  | .wait _ => false
  | _ => true

/-- The lane goes on without a fault. -/
def Hop.goes : Hop → Bool
  | .go _ => true
  | _ => false

/-- R243 `FWAIT`. -/
def execFwait (o : Ops) (s : State) : Out :=
  issued (.fwait o) .never (fun r s =>
    let hops := r.act.map fun l => (l, s.fwait r (r.handle l))
    let t := hops.foldl (fun t p =>
      if p.2.ends then
        let t := t.modWarp r.gid r.w (r.untagRead (r.handle p.1))
        if (s.ectx r.g (handleCtx (r.handle p.1))).isSome then
          t.observe r.g (handleCtx (r.handle p.1)) (handleSeq (r.handle p.1)) r.gid r.w [p.1]
        else t
      else t) s
    t.transfer r false hops) s

/-- A lane sees that an operation has completed: it acquires that completion, and those of the numbers below when the
counter has passed it (R133, R243). -/
def State.observeOne (s : State) (r : Run) (h : W64) (l : Nat) : State :=
  match s.ectx r.g (handleCtx h) with
  | none => s
  | some e =>
    if e.isDone (handleSeq h) then s.observe r.g (handleCtx h) (handleSeq h) r.gid r.w [l]
    else s.acquireDone r.g.die (engineNo r.g (handleCtx h)) e.alloc.toNat (· == handleSeq h) [.lane r.gid r.w l]

/-- R243 `FTEST`: the status, once the operation itself has completed. -/
def execFtest (o : Ops) (m : FlagMod) (s : State) : Out :=
  issued (.ftest o m) .never (fun r s =>
    let done := r.act.filter fun l => (s.ectx r.g (handleCtx (r.rd64 .zero l o.a))).any fun e =>
      e.opDone (handleSeq (r.rd64 .zero l o.a))
    let t := done.foldl (fun t l => t.observeOne r (r.rd64 .zero l o.a) l) s
    t.finish r false false false (r.dst (if m.b then .pred else .dstV)) (r.act.map fun l =>
      let h := r.rd64 .zero l o.a
      (l, match s.ectx r.g (handleCtx h) with
        | none => .fault .object h
        | some e =>
          let st := e.status (handleSeq h)
          if m.b then .bool (st.getLsbD 31) else .ofVal (st.zeroExtend 64)))) s

/-- R243 `FCANCEL`: an operation that has not started completes with code 7; a helper cancels nothing (R18). -/
def execFcancel (o : Ops) (s : State) : Out :=
  issued (.fcancel o) .never (fun r s =>
    let out := r.act.foldl (fun (acc : State × List (Nat × Res)) l =>
      let t := acc.1
      let h := r.rd64 .zero l o.a
      let done := fun (t : State) (x : Res) => (t, acc.2 ++ [(l, x)])
      match t.ectx r.g (handleCtx h) with
      | none => done t (.fault .object h)
      | some _ =>
        match t.ops.find? fun x => x.is r.gid r.g (handleCtx h) (handleSeq h) && !x.started with
        | none => done t (.bool false)
        | some x =>
          if (r.snap.lane l).isReal then done ((t.addStat x).completeOp x (statusWord 7 0)) (.bool true)
          else done t (.bool false)) (s, [])
    out.1.finish r false false false (r.dst .pred) out.2) s

/-! ## Timelines (R242, R243) -/

/-- R243 `TLRD.CNT`. -/
def execTlrdCnt (o : Ops) (s : State) : Out :=
  issued (.tlrdCnt o) .issuing (fun r s =>
    let t := r.act.foldl (fun t l => match s.timeline r.g.ctx (r.rd64 .zero l o.a) with
      | .counter _ => t.observeTimeline r.g.ctx (r.rd64 .zero l o.a) (.lane r.gid r.w l)
      | _ => t) s
    t.finish r false false false (r.dst .dst64) (r.act.map fun l =>
      let name := r.rd64 .zero l o.a
      (l, match s.timeline r.g.ctx name with
        | .counter n => .ofVal (BitVec.ofNat 64 n)
        | .released => .fault .object name
        | .fault f => { val := 0, flt := some f }))) s

/-- The timeline name of a context (R242). -/
def timelineName (kind ldie idx : Nat) (alloc : W32) : W64 :=
  BitVec.ofNat 3 kind ++ BitVec.ofNat 3 ldie ++ BitVec.ofNat 13 idx ++ alloc ++ (0 : BitVec 13)

/-- R243 `TLRD.NAME`. -/
def execTlrdName (o : Ops) (s : State) : Out :=
  issued (.tlrdName o) .issuing (fun r s =>
    s.finish r false false false (r.dst .dst64) (r.act.map fun l =>
      let h := r.rd64 .zero l o.a
      let c := handleCtx h
      (l, match s.ectx r.g c with
        | none => .fault .object h
        | some e =>
          if c < 0x40 then .ofVal (timelineName 0 r.g.ldie (r.g.copyCtxs.getD c 0) e.alloc)
          else .ofVal (timelineName 1 r.g.ldie (c - 0x40) 0)))) s

/-- The name and the value that a lane waits for, or its operands.
Marks: DEDUCED, unsafe (assumption 17). -/
def Run.tlOperands (r : Run) (l : Nat) : W64 × W64 :=
  match (r.snap.lane l).wait with
  | .timeline name v => (name, v)
  | _ => (r.rd64 .zero l r.o.a, r.rd64 .zero l r.o.b)

/-- R243 `TLWAIT`. -/
def execTlwait (o : Ops) (s : State) : Out :=
  issued (.tlwait o) .issuing (fun r s =>
    let hops := r.act.map fun l =>
      let x := r.tlOperands l
      (l, match s.timeline r.g.ctx x.1 with
        | .counter n => if reached n x.2.toNat then .go (nextSlot r.pc) else .wait (.timeline x.1 x.2)
        | .released => .go (nextSlot r.pc)
        | .fault f => Hop.flt f)
    let t := hops.foldl (fun t p =>
      if p.2.goes then t.observeTimeline r.g.ctx (r.tlOperands p.1).1 (.lane r.gid r.w p.1) else t) s
    t.transfer r false hops) s

end Sys2Proof.Machine
end

