-- ==== Sys2Proof/Machine/RingOps.lean ====
section
/-! DEFINITION. Stage ring instructions (R246 to R251). -/

namespace Sys2Proof.Machine

/-! ## RINGI (R246, R247) -/

/-- Does a lane or an engine operation wait on the ring?  A crossing names the loft ring of its destination (R384). -/
def State.ringAwaited (s : State) (x : RingAt) : Bool :=
  let hits := fun (gid : Nat) (g : Group) (name : W32) => match s.ringAt gid g name with
    | .ok y => y == x
    | .error _ => false
  s.groups.any (fun p => p.2.warps.any fun w => w.lanes.any fun l => match l.wait with
    | .ringw n _ => hits p.1 p.2 n
    | .ringp n => hits p.1 p.2 n
    | _ => false)
  || s.ops.any fun o => !o.slots.isEmpty && (match s.group o.gid with
    | some g => hits o.gid g o.ring
    | none => false)

/-- Is the config legal (R246)? -/
def ringCfgOk (cfg : W32) : Bool :=
  let size := (cfg.extractLsb' 8 20).toNat
  cfg.extractLsb' 28 4 == 0 && cfg.extractLsb' 4 4 == 0 && size != 0 && size % 16 == 0
  && decide ((cfg.extractLsb' 0 4).toNat ≤ 8)

/-- The area check of `RINGI` (R247), under R88 or R97. -/
def State.ringArea (s : State) (r : Run) (name : W32) (base : W64) (bytes : Nat) : Option Flt :=
  if name.getLsbD 31 then
    let foreign := match s.capEntry r.g.ctx base [.loft] with
      | some o => o.ldie != (name.extractLsb' 28 3).toNat
      | none => true
    if foreign then some { code := .object, s45 := base }
    else match s.checkHeld r.g base (capOff base) bytes (rightRD ||| rightWR) [.loft] false false with
      | .error c => some { code := c, s45 := capS45 base (name.extractLsb' 28 3).toNat (capOff base) c }
      | .ok _ => none
  else if r.d.shared < base.toNat + bytes then some { code := .bounds, s45 := base }
  else none

/-- `RINGI` for one lane: the fault, or the state.  Config 0 on a ring that is not initialised changes nothing.  It is a release
that no later event acquires: the lane's earlier stores are at their homes, and those who use the ring learn nothing.
Marks: DEDUCED, unsafe (assumption 19); DESIGN CHOICE, unsafe (assumption 94); DESIGN CHOICE, safe (assumption 95). -/
def State.ringInit (s : State) (r : Run) (l : Nat) : Except Flt State :=
  let name := r.rd32 l r.o.a
  let cfg := r.rd32 l r.o.c
  let size := (cfg.extractLsb' 8 20).toNat
  let k := (cfg.extractLsb' 0 4).toNat
  let base := if name.getLsbD 31 then r.rd64 .zero l r.o.b else (r.rd32 l r.o.b).zeroExtend 64
  match s.ringAt r.gid r.g name with
  | .error f =>
    -- a loft ring on an absent die fails the area check (R97 test 4)
    if f = ringMisuse 1 ∧ name.getLsbD 31 ∧ cfg ≠ 0 ∧ ringCfgOk cfg then
      .error ((s.ringArea r name base (size * 2 ^ k)).getD f)
    else .error f
  | .ok x =>
    let busy := match s.ringOf x with
      | some y => y.claimed != y.freed || s.ringAwaited x || y.owner != r.g.ctx
      | none => false
    if busy then .error (ringMisuse 2)
    else if cfg = 0 then .ok ((s.drainMask r.gid r.w (oneLane l)).setRing x none)
    else if !ringCfgOk cfg then .error (ringMisuse 8)
    else
      match s.ringArea r name base (size * 2 ^ k) with
      | some f => .error f
      | none =>
        let y : Ring := { k := k, size := size, base := base, claimed := 0, filled := 0, freed := 0, fillMarks := [],
                          freeMarks := [], owner := r.g.ctx }
        .ok (((s.drainMask r.gid r.w (oneLane l)).setRing x (some y)).holdCaps r.g (if name.getLsbD 31 then [base] else []))

/-- Is src b a legal base for the ring named: an even pair when it is a capability (R169, R246)?  An immediate or a position
register is read with zeros above it.
Marks: DESIGN CHOICE, unsafe (assumption 94). -/
def Run.baseOk (r : Run) (l : Nat) : Bool :=
  !(r.rd32 l r.o.a).getLsbD 31 || isEvenV r.o.b || !isV r.o.b

/-- R247 `RINGI`: once for the run, for its lowest-indexed real lane; a fault goes to every issuing lane.
Marks: DEDUCED, unsafe (assumption 19). -/
def execRingi (o : Ops) (s : State) : Out :=
  issued (.ringi o) .issuing (fun r s =>
    match r.lead with
    | none => s.advance r r.ls
    | some l =>
      if !r.baseOk l then s.raiseAll r r.ls .illegalField 0
      else match s.ringInit r l with
        | .ok t => t.advance r r.ls
        | .error f =>
          (s.advance r (r.ls.filter fun k => !r.isAct k)).raiseAll r r.act f.code f.s45) s

/-! ## Claims, fills, waits, releases (R248 to R250) -/

/-- The ring that a lane claims from: the one it waits for, or its operand. -/
def Run.takeRing (r : Run) (l : Nat) : W32 :=
  match (r.snap.lane l).wait with
  | .ringp n => n
  | _ => r.rd32 l r.o.a

/-- Agents know what happened before the ring came to stand as it does (R133). -/
def State.learnRing (s : State) (r : Run) (name : W32) (bs : List Agent) : State :=
  match s.ringAt r.gid r.g name with
  | .ok x => s.learn x.agent bs
  | .error _ => s

/-- A lane's fill or release is a release event (R133): its earlier writes are at their homes. -/
def State.ringEvent (s : State) (r : Run) (x : RingAt) (l : Nat) : State :=
  (s.drainMask r.gid r.w (oneLane l)).learn (r.agent l) [x.agent]

/-- One claim (R248). -/
def State.ringTake (s : State) (r : Run) (name : W32) : State × Except Flt (Option Nat) :=
  match s.useRing r.gid r.g name with
  | .error f => (s, .error f)
  | .ok (x, y) =>
    if y.claimed - y.freed < y.slots then
      (s.setRing x (some { y with claimed := y.claimed + 1 }), .ok (some y.claimed))
    else (s, .ok none)

/-- A lane of `RINGP.TAKE` claims, waits or faults; a helper receives 0 (R18), where the ring that it names passes
details 1, 6 and 7 of R251.  Who claims a slot knows what its last user knew as it released it (R133).
Marks: DESIGN CHOICE, unsafe (assumption 82). -/
def takeLane (r : Run) (d : Dst) (acc : State × List (Nat × Hop)) (l : Nat) : State × List (Nat × Hop) :=
  let s := acc.1
  let put := fun (s : State) (n : Nat) => (s.modWarp r.gid r.w fun w => w.put l d (BitVec.ofNat 64 n) false).learnRing r
    (r.takeRing l) [r.agent l]
  if !(r.snap.lane l).isReal then
    match s.useRing r.gid r.g (r.takeRing l) with
    | .error f => (s, acc.2 ++ [(l, .flt f)])
    | .ok _ => (put s 0, acc.2 ++ [(l, .go (nextSlot r.pc))])
  else match s.ringTake r (r.takeRing l) with
    | (s, .error f) => (s, acc.2 ++ [(l, .flt f)])
    | (s, .ok none) => (s, acc.2 ++ [(l, .wait (.ringp (r.takeRing l)))])
    | (t, .ok (some n)) => (put t n, acc.2 ++ [(l, .go (nextSlot r.pc))])

/-- R248 `RINGP.TAKE`; into an s-register, one slot for the lowest-indexed issuing lane, and the run leaves together. -/
def execRingpTake (o : Ops) (s : State) : Out :=
  issued (.ringpTake o) .issuing (fun r s =>
    let d := r.dst .dst64
    let out := if isS o.d then
        match r.act with
        | [] => (s, [])
        | l :: _ =>
          let x := takeLane r d (s, []) l
          (x.1, r.act.map fun k => (k, (x.2.head?.map (·.2)).getD (.go (nextSlot r.pc))))
      else r.act.foldl (takeLane r d) (s, [])
    out.1.transfer r false out.2) s

/-- The end of a ring instruction without a result: the lanes in fault stay, the others go on. -/
def State.ringDone (r : Run) (x : State × List LFlt) : State :=
  (x.1.advance r (r.ls.filter fun l => !(x.2.any fun p => p.1 == l))).raiseRun r x.2

/-- R248 `RINGP.FILL`, lane by lane; a helper's is suppressed (R18), where its ring passes details 1, 6 and 7.
Marks: DESIGN CHOICE, unsafe (assumption 82). -/
def execRingpFill (o : Ops) (s : State) : Out :=
  issued (.ringpFill o) .issuing (fun r s =>
    State.ringDone r (r.act.foldl (fun (acc : State × List LFlt) l =>
      match acc.1.useRing r.gid r.g (r.rd32 l o.a) with
      | .error f => (acc.1, acc.2 ++ [(l, f)])
      | .ok (x, y) =>
        let n := (r.rd64 .zero l o.b).toNat
        if !(r.snap.lane l).isReal then acc
        else if y.claimed ≤ n ∨ n < y.filled ∨ n ∈ y.fillMarks then (acc.1, acc.2 ++ [(l, ringMisuse 3)])
        else ((acc.1.ringEvent r x l).setRing x (some (y.fill n)), acc.2)) (s, []))) s

/-- The ring and the slot that a lane waits for, or its operands; whether it has waited.
Marks: DEDUCED, unsafe (assumption 17). -/
def Run.waitSlot (r : Run) (l : Nat) : W32 × Nat × Bool :=
  match (r.snap.lane l).wait with
  | .ringw x n => (x, n.toNat, true)
  | _ => (r.rd32 l r.o.a, (r.rd64 .zero l r.o.b).toNat, false)

/-- R249 `RINGW`. -/
def execRingw (o : Ops) (m : RingwMod) (s : State) : Out :=
  issued (.ringw o m) .issuing (fun r s =>
    let out := r.act.foldl (fun (acc : State × List (Nat × Hop)) l =>
      let x := r.waitSlot l
      let n := x.2.1
      match acc.1.useRing r.gid r.g x.1 with
      | .error f => (acc.1, acc.2 ++ [(l, .flt f)])
      | .ok (_, y) =>
        if n < y.freed ∧ !x.2.2 then (acc.1, acc.2 ++ [(l, .flt (ringMisuse 5))])
        else if n < y.filled then
          ((acc.1.modWarp r.gid r.w fun w =>
            (w.put l (r.dst .dstV) (BitVec.ofNat 64 (n % y.slots)) false).put l (.pred m.k.toNat)
              (if n / y.slots % 2 = 1 then 1 else 0) false).learnRing r x.1 [r.agent l],
           acc.2 ++ [(l, .go (nextSlot r.pc))])
        else (acc.1, acc.2 ++ [(l, .wait (.ringw x.1 (BitVec.ofNat 64 n)))])) (s, [])
    out.1.transfer r false out.2) s

/-- R250 `RINGR`, lane by lane; a helper's is suppressed (R18), where its ring passes details 1, 6 and 7.
Marks: DESIGN CHOICE, unsafe (assumption 82). -/
def execRingr (o : Ops) (s : State) : Out :=
  issued (.ringr o) .issuing (fun r s =>
    State.ringDone r (r.act.foldl (fun (acc : State × List LFlt) l =>
      match acc.1.useRing r.gid r.g (r.rd32 l o.a) with
      | .error f => (acc.1, acc.2 ++ [(l, f)])
      | .ok (x, y) =>
        let n := (r.rd64 .zero l o.b).toNat
        if !(r.snap.lane l).isReal then acc
        else if y.filled ≤ n ∨ n < y.freed ∨ n ∈ y.freeMarks then (acc.1, acc.2 ++ [(l, ringMisuse 4)])
        else ((acc.1.ringEvent r x l).setRing x (some (y.release n)), acc.2)) (s, []))) s

end Sys2Proof.Machine
end

