-- ==== Sys2Proof/Machine/Cue.lean ====
section
/-! DEFINITION. The cue record and its validation (R298 to R304, R318, R327, R470, R472). -/

namespace Sys2Proof.Machine

/-! ## The record (R298) -/

structure Cue where
  ctrl : Nat
  chain : Nat
  fmt : Nat
  arg : Nat
  ext : List Nat
  ss : List Int
  ds : List Int
  auxa : W64
  auxb : W64
  index : W64
  reserve : Nat
  ring : W32
  grid : Nat
  deriving DecidableEq, Repr

/-- Bits `lo` to `lo + n - 1` of a number. -/
def bitsN (x lo n : Nat) : Nat := x / 2 ^ lo % 2 ^ n

/-- Bytes of a record. -/
def recNat (bs : List Byte) (off n : Nat) : Nat := leNat ((bs.drop off).take n)

def cueOf (bs : List Byte) : Cue :=
  { ctrl := recNat bs 0 4, chain := recNat bs 4 4, fmt := recNat bs 8 4, arg := recNat bs 12 4,
    ext := (List.range 4).map fun i => recNat bs (16 + 4 * i) 4,
    ss := (List.range 3).map fun i => toNum 32 true (recNat bs (32 + 4 * i) 4),
    ds := (List.range 3).map fun i => toNum 32 true (recNat bs (44 + 4 * i) 4),
    auxa := BitVec.ofNat 64 (recNat bs 56 8), auxb := BitVec.ofNat 64 (recNat bs 64 8),
    index := BitVec.ofNat 64 (recNat bs 72 8), reserve := recNat bs 80 4, ring := BitVec.ofNat 32 (recNat bs 84 4),
    grid := recNat bs 88 8 }

/-! ## Fields (R299, R300, R327) -/

def Cue.rg (c : Cue) : Bool := bitsN c.ctrl 17 1 == 1
def Cue.gx (c : Cue) : Bool := bitsN c.ctrl 16 1 == 1
def Cue.mode (c : Cue) : Nat := bitsN c.ctrl 14 2
def Cue.dims (c : Cue) : Nat := bitsN c.ctrl 12 2 + 1
def Cue.nstage (c : Cue) : Nat := bitsN c.ctrl 8 4
/-- The codes of the stages. -/
def Cue.stages (c : Cue) : List Nat := (List.range c.nstage).map fun i => if i < 8 then bitsN c.chain (4 * i) 4 else 0
def Cue.has (c : Cue) (k : Nat) : Bool := c.stages.contains k
def Cue.ewsrc (c : Cue) : Bool := bitsN c.fmt 30 1 == 1
def Cue.ewop (c : Cue) : Nat := bitsN c.fmt 28 2
def Cue.pln (c : Cue) : Nat := bitsN c.fmt 24 4
def Cue.qfmt (c : Cue) : Nat := bitsN c.fmt 20 3
def Cue.csat (c : Cue) : Bool := bitsN c.fmt 19 1 == 1
def Cue.crnd (c : Cue) : Nat := bitsN c.fmt 16 3
def Cue.dfmt (c : Cue) : Nat := bitsN c.fmt 8 8
def Cue.sfmt (c : Cue) : Nat := bitsN c.fmt 0 8
/-- The extents of the dimensions in use. -/
def Cue.dimExt (c : Cue) : List Nat := c.ext.take c.dims
def Cue.e0 (c : Cue) : Nat := c.ext.getD 0 0
def Cue.e1 (c : Cue) : Nat := c.ext.getD 1 0
/-- The elements of the shape. -/
def Cue.count (c : Cue) : Nat := c.dimExt.foldl (· * ·) 1
def Cue.loc (c : Cue) : Bool := bitsN c.grid 32 1 == 1
def Cue.repl (c : Cue) : Nat := bitsN c.grid 33 8
def Cue.redop (c : Cue) : Nat := bitsN c.grid 41 3
def Cue.rtype (c : Cue) : Nat := bitsN c.grid 44 4
def Cue.gridX (c : Cue) : Nat := bitsN c.grid 10 10
def Cue.gridY (c : Cue) : Nat := bitsN c.grid 0 10

/-- Bits of an element of a format code (R300). -/
def fmtBits (k : Nat) : Nat :=
  if k = 16 then 4 else if k = 17 then 8 else (NumType.ofCode (BitVec.ofNat 4 k)).bits

/-- Does the chain end in a packing stage (R304)? -/
def Cue.packs (c : Cue) : Bool :=
  match c.stages.getLast? with
  | some 3 | some 5 | some 6 => true
  | _ => false

/-- Does the cue's chain consist of this stage? -/
def Cue.alone (c : Cue) (k : Nat) : Bool := c.stages == [k]

/-- Is there a delivery unit for each step of the outermost dimension (R316)?  SPARSE_EXPAND, a gather and a scatter are one
unit. -/
def Cue.stepped (c : Cue) : Bool := c.rg && decide (1 < c.dims) && c.mode == 0 && !c.alone 7

/-- Elements of a delivery unit (R316). -/
def Cue.unit (c : Cue) : Nat := if c.stepped then (c.dimExt.take (c.dims - 1)).foldl (· * ·) 1 else c.count

/-- Stages that use ARG, and those that use AUXA (R472). -/
def Cue.usesArg (c : Cue) : List Nat := c.stages.filter fun k => k == 5 || k == 9 || (k == 8 && !c.ewsrc)
def Cue.usesAux (c : Cue) : List Nat := c.stages.filter fun k => k == 2 || k == 9 || (k == 8 && c.ewsrc)

/-! ## Validation (R318) -/

/-- Detail 1: MAGIC, reserved bits, and fields that the mode and the stages do not use.
Marks: DEDUCED, unsafe (assumption 20). -/
def Cue.bad1 (c : Cue) : Bool :=
  bitsN c.ctrl 0 8 != 0x5A || bitsN c.ctrl 18 14 != 0 || bitsN c.fmt 31 1 != 0 || bitsN c.fmt 23 1 != 0
  || bitsN c.chain (4 * c.nstage) (32 - 4 * c.nstage) != 0
  || (c.usesArg.isEmpty && c.arg != 0) || (c.has 9 && bitsN c.arg 16 16 != 0)
  || (c.usesAux.isEmpty && c.auxa != 0)
  || (c.mode != 1 && c.mode != 2 && !c.has 9 && c.index != 0)
  || ((!c.packs || c.rg) && c.reserve != 0)
  || (!c.rg && c.ring != 0) || (!c.gx && c.grid != 0)
  || (!c.has 8 && bitsN c.fmt 28 3 != 0) || (!c.has 2 && c.qfmt != 0) || (!c.has 1 && bitsN c.fmt 16 4 != 0)
  || (!c.has 3 && !c.has 4 && !c.has 5 && c.pln != 0)
  || (c.has 4 && bitsN c.fmt 0 16 != 0)
  || ((c.has 4 || c.has 7) && c.ss.any (· != 0)) || (c.packs && c.ds.any (· != 0))
  || (c.ss.drop (c.dims - 1)).any (· != 0) || (c.ds.drop (c.dims - 1)).any (· != 0)

/-- Detail 2: the extents. -/
def Cue.bad2 (c : Cue) : Bool := c.dimExt.any (· == 0) || (c.ext.drop c.dims).any (· != 0)

/-- A format code that R300 refuses. -/
def fmtRefused (k : Nat) : Bool := k == 8 || k == 9 || decide (17 < k)

/-- Detail 3: refused codes.
Marks: DEDUCED, unsafe (assumption 20). -/
def Cue.bad3 (c : Cue) : Bool :=
  fmtRefused c.sfmt || fmtRefused c.dfmt || decide (2 < c.qfmt) || decide (4 < c.crnd) || c.ewop == 3
  || c.stages.any (fun k => decide (9 < k))
  || ((c.has 3 || c.has 4 || c.has 5) && !(decide (2 ≤ c.pln) && decide (c.pln ≤ 8)))

/-- The format that `QUANT` delivers (R304). -/
def quantFmt (q : Nat) : Nat := if q = 0 then 14 else if q = 1 then 16 else 12

/-- The format that the chain delivers from a format, or none where a stage refuses its input (R303, R304). -/
def Cue.flow (c : Cue) : Nat → List Nat → Option Nat
  | f, [] => some f
  | f, k :: ks =>
    if (k == 1 || k == 2 || k == 8) && f == 17 then none
    else if (k == 3 || k == 5) && f != 12 then none
    else if k == 6 && f != 6 then none
    else if k == 7 && f != 6 then none
    else if k == 1 && c.dfmt == 17 then none
    else Cue.flow c (match k with | 1 => c.dfmt | 2 => quantFmt c.qfmt | 8 => 4 | _ => f) ks

/-- What follows the first `QUANT`. -/
def afterQuant (ks : List Nat) : List Nat := (ks.dropWhile (· != 2)).drop 1

/-- Detail 4: a broken chain (R304); NSTAGE above 8 and a stage of code 0 break it too.
Marks: DEDUCED, unsafe (assumption 20); DESIGN CHOICE, unsafe (assumption 100). -/
def Cue.bad4 (c : Cue) : Bool :=
  let ks := c.stages
  decide (8 < c.nstage) || ks.contains 0
  || ((c.has 4 || c.has 7) && ks.length != 1)
  || (ks.drop 1).contains 9
  || (ks.take (ks.length - 1)).any (fun k => k == 3 || k == 5 || k == 6)
  || (c.has 2 && !(afterQuant ks).isEmpty
      && !((afterQuant ks == [3] || afterQuant ks == [5]) && c.qfmt == 2))
  || (!c.has 4 && c.flow c.sfmt ks != some c.dfmt)
  || decide (1 < c.usesArg.length) || decide (1 < c.usesAux.length)
  || ((c.sfmt == 16 || c.dfmt == 16) && c.e0 % 2 != 0)
  || (c.has 2 && c.e0 % 32 != 0) || (c.has 3 && c.count % 2048 != 0)
  || (c.has 5 && decide (65535 < c.unit)) || (c.has 6 && decide (65534 < c.unit))
  || (c.has 7 && decide (65534 < c.count)) || (c.has 9 && c.dims != 2)

/-- Detail 5. -/
def Cue.bad5 (c : Cue) : Bool :=
  ((c.mode == 1 || c.mode == 2) && c.dims != 2) || (c.mode == 3 && (c.nstage != 0 || c.rg || c.gx))

/-- The minimum output of a packing unit (R470). -/
def Cue.minPacked (c : Cue) : Nat :=
  match c.stages.getLast? with
  | some 3 => ceilDiv c.unit 2048 * c.pln * 256
  | some 5 => 16
  | _ => 4 + 4 * ceilDiv c.unit 32

/-- Detail 6: RESERVE. -/
def Cue.bad6 (c : Cue) : Bool :=
  c.packs && !c.rg && (c.reserve % 4 != 0 || decide (c.reserve < c.minPacked))

/-- Is the ring name malformed (R244)? -/
def ringNameBad (n : W32) : Bool :=
  n.extractLsb' 6 22 != 0 || (!n.getLsbD 31 && (n.extractLsb' 28 3 != 0 || decide (32 ≤ (n.extractLsb' 0 6).toNat)))

/-- Detail 8: GRID (R327). -/
def Cue.bad8 (c : Cue) : Bool :=
  c.gx && (bitsN c.grid 48 16 != 0 || bitsN c.grid 20 12 != 0 || decide (3 < c.redop) || c.repl == 0
    || (c.loc && bitsN c.grid 0 20 != 0)
    || (c.redop != 0 && (!([0, 1, 2, 3, 4, 6].contains c.rtype) || c.dfmt != c.rtype)))

/-- R318: the lowest-numbered detail that a record breaks, 0 for none.
Marks: DEDUCED, unsafe (assumption 20). -/
def Cue.check (c : Cue) : Nat :=
  if c.bad1 then 1 else if c.bad2 then 2 else if c.bad3 then 3 else if c.bad4 then 4 else if c.bad5 then 5
  else if c.bad6 then 6 else if c.rg && ringNameBad c.ring then 7 else if c.bad8 then 8 else 0

/-- The lowest free cue handle of a context. -/
def Ctx.freeCue (x : Ctx) : Option Nat := (List.range 256).find? fun i => (mapGet x.cues i).isNone

end Sys2Proof.Machine
end

