-- ==== Sys2Proof/Machine/Stages.lean ====
section
/-! DEFINITION. The transform chain of a copy (R303 to R315): pure functions on streams of element codes. -/

namespace Sys2Proof.Machine

/-! ## Formats (R300) -/

def codeType (k : Nat) : NumType := NumType.ofCode (BitVec.ofNat 4 k)
def codeIsFloat (k : Nat) : Bool := k == 16 || (codeType k).isFloat
def codeFmt (k : Nat) : Fmt := if k = 16 then fmtE2M1 else fmtOf (codeType k)

/-- The value of a code of a format; an integer is a finite value. -/
def codeVal (k code : Nat) : FV :=
  if codeIsFloat k then fdecode (codeFmt k) code
  else
    let z := toNum (codeType k).bits (codeType k).isSigned code
    .fin (decide (z < 0)) z.natAbs 0

/-- A code converted from one format to another under R57 and R58, with its flags.
Marks: DEDUCED, unsafe (assumption 24). -/
def codeConvert (dk sk : Nat) (rnd : Rnd) (sat : Bool) (code : Nat) : FRes :=
  if codeIsFloat dk then
    if codeIsFloat sk then fconvert (codeFmt dk) rnd sat (codeVal sk code)
    else intToF (codeFmt dk) rnd sat (toNum (codeType sk).bits (codeType sk).isSigned code)
  else
    let t := codeType dk
    let r := if codeIsFloat sk then fToInt t.bits t.isSigned rnd (codeVal sk code)
      else intFit t.bits t.isSigned sat (toNum (codeType sk).bits (codeType sk).isSigned code)
    ((r.1 % 2 ^ t.bits).toNat, r.2)

/-- Flags that a report stands for (R307). -/
def reportable (f : W32) : Bool := f &&& (fIV ||| fOF ||| fSAT) != 0

/-- Cut a list into pieces of `n`. -/
def cutOf {α : Type} (n : Nat) : Nat → List α → List (List α)
  | 0, _ => []
  | fuel + 1, xs => if xs.isEmpty then [] else xs.take n :: cutOf n fuel (xs.drop n)

def cut {α : Type} (n : Nat) (xs : List α) : List (List α) := cutOf n xs.length xs

/-- Elements packed in memory (R301). -/
def packCodes (bits : Nat) (vs : List Nat) : List Byte :=
  if bits = 4 then (cut 2 vs).map fun p => BitVec.ofNat 8 (p.getD 0 0 % 16 + p.getD 1 0 % 16 * 16)
  else vs.flatMap (bytesOfWord (bits / 8))

/-- Elements unpacked from memory. -/
def unpackCodes (bits : Nat) (bs : List Byte) : List Nat :=
  if bits = 4 then bs.flatMap fun b => [b.toNat % 16, b.toNat / 16]
  else (cut (bits / 8) bs).map leNat

/-! ## Stages on elements (R305, R306) -/

/-- A stream: its format, its codes, the reports made so far and the scales written, in stream order. -/
structure Flow where
  fmt : Nat
  vals : List Nat
  reps : List Nat := []
  scales : List Nat := []
  deriving DecidableEq, Repr

/-- Apply an operation to every element, reporting as it goes. -/
def Flow.each (x : Flow) (fmt : Nat) (f : Nat → Nat → FRes) : Flow :=
  let out := mapFrom 0 f x.vals
  { x with fmt := fmt, vals := out.map (·.1),
           reps := x.reps ++ (out.zipIdx.filter fun p => reportable p.1.2).map (·.2) }

/-- R305 CONVERT.
Marks: DEDUCED, unsafe (assumption 24). -/
def Cue.convertStage (c : Cue) (x : Flow) : Flow :=
  x.each c.dfmt fun _ v =>
    codeConvert c.dfmt x.fmt ((Rnd.ofCode (BitVec.ofNat 3 c.crnd)).getD .rn) c.csat v

/-- R305 ELEMENTWISE: to F32, then one operation with the scalar or the stream of AUXA. -/
def Cue.elemStage (c : Cue) (aux : List Nat) (x : Flow) : Flow :=
  let ys := if c.ewsrc then aux else List.replicate x.vals.length c.arg
  let out := (x.vals.zip ys).map fun p =>
    let a := codeConvert 4 x.fmt .rn false p.1
    let r := if c.ewop = 0 then fadd fmtF32 .rn false (fdecode fmtF32 a.1) (fdecode fmtF32 p.2)
      else if c.ewop = 1 then fmul fmtF32 .rn false (fdecode fmtF32 a.1) (fdecode fmtF32 p.2)
      else fminmax fmtF32 true a.1 p.2
    (r.1, a.2 ||| r.2)
  { x with fmt := 4, vals := out.map (·.1),
           reps := x.reps ++ (out.zipIdx.filter fun p => reportable p.1.2).map (·.2) }

/-- The target of QUANT. -/
def quantTo (q : Nat) : NarrowFmt := if q = 0 then .e4m3 else if q = 1 then .e2m1 else .int8

/-- The value of largest magnitude that is not NaN, or NaN (R60). -/
def amax (vs : List FV) : FV :=
  vs.foldl (fun a v =>
    let m := match v with | .nan s => FV.nan s | .inf _ => .inf false | .fin _ m e => .fin false m e
    match a, m with
    | .nan _, m => m
    | a, .nan _ => a
    | a, m => if fcompare a m == .lt then m else a) (.nan false)

/-- R306 QUANT, block by block. -/
def Cue.quantStage (c : Cue) (x : Flow) : Flow :=
  let t := quantTo c.qfmt
  let blocks := cut 32 x.vals
  let scales := blocks.map fun b => blockCode t (amax (b.map (codeVal x.fmt)))
  let out := (blocks.zip scales).flatMap fun p => p.1.map fun v => quantise t .rn p.2 (codeVal x.fmt v)
  { fmt := quantFmt c.qfmt, vals := out.map (·.1), scales := scales,
    reps := x.reps ++ (out.zipIdx.filter fun p => reportable p.1.2).map (·.2) }

/-! ## Planes (R63, R308) -/

def bitsByte (bs : List Bool) : Byte :=
  BitVec.ofNat 8 (bs.zipIdx.foldl (fun n p => if p.1 then n + 2 ^ p.2 else n) 0)

/-- Bits packed from bit 0 up. -/
def packBits (bs : List Bool) : List Byte := (cut 8 bs).map bitsByte

/-- Bit `j` of every element. -/
def planeBits (j : Nat) (vs : List Nat) : List Bool := vs.map fun v => v.testBit j

/-- Planes 7 down to 8 - p, in order. -/
def planesDown (p : Nat) : List Nat := (List.range p).map fun i => 7 - i

/-- R308 PLANES: tiles of 2,048 elements.  In a unit that is not a whole number of tiles the last tile ends with
zeros.
Marks: DEDUCED, unsafe (assumption 27). -/
def planesOut (p : Nat) (vs : List Nat) : List Byte :=
  (cut 2048 vs).flatMap fun t =>
    let t := t ++ List.replicate (2048 - t.length) 0
    (planesDown p).flatMap fun j => packBits (planeBits j t)

/-! ## Rice blocks (R309 to R311) -/

/-- One step of CRC-32C. -/
def crcBit (c : Nat) : Nat := if c % 2 = 1 then (c / 2) ^^^ 0x82F63B78 else c / 2

/-- CRC-32C (Castagnoli). -/
def crc32c (bs : List Byte) : Nat :=
  (bs.foldl (fun c b => crcBit (crcBit (crcBit (crcBit (crcBit (crcBit (crcBit (crcBit (c ^^^ b.toNat))))))))) 0xFFFFFFFF)
    ^^^ 0xFFFFFFFF

/-- The Rice parameter of plane `j`. -/
def ricePar (kpar j : Nat) : Nat := bitsN kpar (4 * (7 - j)) 4

/-- The low `k` bits of a number, most significant first. -/
def lowBits (k r : Nat) : List Bool := (List.range k).map fun i => r.testBit (k - 1 - i)

/-- A run length coded. -/
def riceRun (k r : Nat) : List Bool := List.replicate (r / 2 ^ k) true ++ false :: lowBits k r

/-- A plane coded; `r` is the run so far. -/
def ricePlane (k : Nat) : Nat → List Bool → List Bool
  | r, [] => riceRun k r
  | r, true :: bs => riceRun k r ++ ricePlane k 0 bs
  | r, false :: bs => ricePlane k (r + 1) bs

/-- Bits packed most significant first, padded with zeros to a byte. -/
def packMsb (bs : List Bool) : List Byte :=
  (cut 8 bs).map fun b => bitsByte (b ++ List.replicate (8 - b.length) false).reverse

/-- R311: a block of a unit. -/
def riceEncode (p kpar : Nat) (vs : List Nat) : List Byte :=
  let pay := (planesDown p).flatMap fun j => packMsb (ricePlane (ricePar kpar j) 0 (planeBits j vs))
  [0xB7, BitVec.ofNat 8 p] ++ bytesOfWord 2 vs.length ++ bytesOfWord 4 kpar ++ bytesOfWord 3 pay.length ++ [0]
    ++ bytesOfWord 4 (crc32c pay) ++ pay

def unpackMsb (bs : List Byte) : List Bool := bs.flatMap fun b => (List.range 8).map fun i => b.getLsbD (7 - i)

/-- Count one-bits to the next zero-bit, and go past it. -/
def unary : Nat → List Bool → Option (Nat × List Bool)
  | _, [] => none
  | n, true :: bs => unary (n + 1) bs
  | n, false :: bs => some (n, bs)

/-- The number that bits hold, most significant first. -/
def msbNat (bs : List Bool) : Nat := bs.foldl (fun n b => 2 * n + (if b then 1 else 0)) 0

/-- Decode a plane of `K` elements (R309): its bits so far, reversed, and the bits left; none for HEADER. -/
def unricePlane (K k : Nat) : Nat → Nat → List Bool → List Bool → Option (List Bool × List Bool)
  | 0, _, _, _ => none
  | fuel + 1, pos, acc, bs =>
    match unary 0 bs with
    | none => none
    | some (n, bs) =>
      if bs.length < k then none
      else
        let r := n * 2 ^ k + msbNat (bs.take k)
        let bs := bs.drop k
        if K < pos + r then none
        else
          let acc := List.replicate r false ++ acc
          if pos + r = K then
            let pad := bs.take (bs.length % 8)
            if pad.any id then none else some (acc.reverse, bs.drop (bs.length % 8))
          else unricePlane K k fuel (pos + r + 1) (true :: acc) bs

/-- Decode the planes of a payload; none for HEADER. -/
def unricePlanes (K kpar : Nat) : List Nat → List Bool → Option (List Byte)
  | [], bs => if bs.isEmpty then some [] else none
  | j :: js, bs =>
    match unricePlane K (ricePar kpar j) (K + 1) 0 [] bs with
    | none => none
    | some (plane, bs) => (unricePlanes K kpar js bs).map (packBits plane ++ ·)

def riceDecode (p K kpar : Nat) (pay : List Byte) : Option (List Byte) :=
  unricePlanes K kpar (planesDown p) (unpackMsb pay)

/-! ## Sparse records (R312 to R314) -/

/-- Words of a bitmask for `n` elements. -/
def maskBytes (vs : List Nat) : List Byte :=
  packBits (vs.map (· != 0) ++ List.replicate (32 * ceilDiv vs.length 32 - vs.length) false)

/-- R313: a record in a space, and whether it overran. -/
def sparsePack (space : Nat) (vs : List Nat) : List Byte × Bool :=
  let kept := vs.filter (· != 0)
  let vals := kept.flatMap (bytesOfWord 2) ++ (if kept.length % 2 = 1 then [0, 0] else [])
  let mask := maskBytes vs
  if 4 + mask.length + vals.length ≤ space then
    (bytesOfWord 2 kept.length ++ bytesOfWord 2 vs.length ++ mask ++ vals, false)
  else
    (bytesOfWord 2 0xFFFF ++ bytesOfWord 2 vs.length ++ mask ++ vals.take ((space - 4 - mask.length) / 2 * 2), true)

/-- The elements that a bitmask and stored values give. -/
def expandBits : List Bool → List Nat → List Nat
  | [], _ => []
  | false :: bs, vs => 0 :: expandBits bs vs
  | true :: bs, vs => vs.headD 0 :: expandBits bs (vs.drop 1)

/-- Bits of bytes, from bit 0 up. -/
def unpackBits (bs : List Byte) : List Bool := bs.flatMap fun b => (List.range 8).map fun i => b.getLsbD i

/-! ## Sorting (R315) -/

/-- Row numbers kept, in sorted order. -/
def sortRows (nseg : Nat) (keys : List Nat) : List Nat :=
  ((sortBy (fun (p : Nat × Nat) => p.1) (keys.zipIdx.filter fun p => decide (p.1 < nseg)))).map (·.2)

/-- Rows dropped. -/
def dropRows (nseg : Nat) (keys : List Nat) : List Nat :=
  (keys.zipIdx.filter fun p => decide (nseg ≤ p.1)).map (·.2)

/-- The segment table. -/
def segTable (nseg : Nat) (keys : List Nat) : List Nat :=
  (List.range (nseg + 1)).map fun k => (keys.filter fun x => decide (x < nseg) && decide (x < k)).length

/-! ## A delivery unit -/

/-- What the chain makes of a unit: elements of DFMT, or packed bytes; OVERRUN under R311 or R313. -/
structure UnitOut where
  elems : List Nat := []
  bytes : List Byte := []
  packed : Bool := false
  overrun : Bool := false
  reps : List Nat := []
  scales : List Nat := []
  deriving DecidableEq, Repr

/-- Run the stages in order; SORT has been applied before, and RICE decode and SPARSE_EXPAND stand alone. -/
def Cue.chainOn (c : Cue) (aux : List Nat) (space : Nat) : List Nat → Flow → UnitOut
  | [], x => { elems := x.vals, reps := sortBy id x.reps, scales := x.scales }
  | k :: ks, x =>
    if k = 1 then c.chainOn aux space ks (c.convertStage x)
    else if k = 2 then c.chainOn aux space ks (c.quantStage x)
    else if k = 8 then c.chainOn aux space ks (c.elemStage aux x)
    else if k = 3 then
      { bytes := planesOut c.pln x.vals, packed := true, reps := sortBy id x.reps, scales := x.scales }
    else if k = 5 then
      let b := riceEncode c.pln c.arg x.vals
      if space < b.length then { packed := true, overrun := true, reps := sortBy id x.reps, scales := x.scales }
      else { bytes := b, packed := true, reps := sortBy id x.reps, scales := x.scales }
    else if k = 6 then
      let r := sparsePack space x.vals
      { bytes := r.1, packed := true, overrun := r.2, reps := sortBy id x.reps, scales := x.scales }
    else c.chainOn aux space ks x

/-- The chain on a unit of SFMT codes. -/
def Cue.runChain (c : Cue) (aux : List Nat) (space : Nat) (vals : List Nat) : UnitOut :=
  c.chainOn aux space c.stages { fmt := c.sfmt, vals := vals }

end Sys2Proof.Machine
end

