-- ==== Sys2Proof/Machine/Board.lean ====
section
/-! DEFINITION. Predecessor counts and entry into the callboard (R396, R397, R400, R405). -/

namespace Sys2Proof.Machine

/-- The bytes of a cue record that a capability names, read and validated as `CUEB` would (R318); none for a
failure.
Marks: DEDUCED, unsafe (assumption 31). -/
def State.cueAt (s : State) (c : Nat) (cap : W64) : Option (List Byte) :=
  match s.checkCap c cap (capOff cap) 96 rightRD [.loft] false false with
  | .error _ => none
  | .ok (o, a) =>
    let sp := Space.loft (o.placed.getD 0)
    if a % 16 ≠ 0 ∨ s.badRead sp (o.base + a) 96 then none
    else
      let bs := s.readHome 0 sp (o.base + a) 96
      if (cueOf bs).check = 0 then some bs else none

/-- Seal a cue under the lowest free handle of a context (R318, R319). -/
def State.takeCue (s : State) (c : Nat) (bs : List Byte) : Option (State × Nat) :=
  (s.ctx c).bind fun x => x.freeCue.map fun h => (s.modCtx c fun x => { x with cues := mapSet x.cues h bs }, h)

/-- Validate the cue operands of a node that enters the callboard (R400); a failure fails the node. -/
def State.sealOperands (s : State) (c n : Nat) (d : Desc) : State :=
  ((List.range d.nops).filter fun i => d.cueMask.getLsbD i).foldl (fun s i =>
    if ((s.node c n).map (·.failed)).getD true then s
    else match (s.cueAt c (d.ops.getD i 0)).bind (s.takeCue c) with
      | none => s.modNode c n fun x => { x with failed := true }
      | some (s, h) => s.modNode c n fun x => { x with handles := x.handles ++ [(i, h)] }) s

/-- A live node whose count is 0 enters the callboard, or is ready to act (R396, R397, R455).  Its place there is that
of its submission; a queue-fed node or a control node has that of its readiness (R398, R455). -/
def State.enterBoard (s : State) (c n : Nat) : State :=
  match s.node c n with
  | none => s
  | some x =>
    if x.live && x.count == 0 && x.board.isNone && !x.complete then
      let at_ := if x.desc.ctl = 0 ∧ x.desc.qrec = 0 then x.order else s.stamp
      let s := (s.modNode c n fun y => { y with board := some at_ }).nextStamp
      if x.desc.ctl = 0 then s.sealOperands c n x.desc else s
    else s

/-- A decrement of a node's count (R396, R397). -/
def State.decrement (s : State) (c n : Nat) : State :=
  match s.node c n with
  | none => s
  | some x =>
    if x.complete || x.count == 0 then s.modCtx c fun y => { y with late := y.late + 1 }
    else (s.modNode c n fun y => { y with count := y.count - 1 }).enterBoard c n

/-- Chunks of a delivery of `bytes` bytes for one logical die (R405). -/
def chunkCount (bytes : Nat) : Nat := ceilDiv bytes 65536

/-- Chunks delivered into a receiving object by an agent decrement the node bound to it (R405), whose groups know what
happened before (R133). -/
def State.chunksInto (s : State) (c obj bytes : Nat) (a : Agent) : State :=
  match (s.ctx c).bind fun x => mapGet x.binds obj with
  | none => s
  | some n => (List.range (chunkCount bytes)).foldl (fun s _ => s.decrement c n) (s.learn a [.node c n])

end Sys2Proof.Machine
end

