-- ==== Sys2Proof/Machine/Engine.lean ====
section
/-! DEFINITION. The copy engine: what an operation does when it starts (R295 to R297, R301, R302, R307, R310 to R317,
R321 to R328). -/

namespace Sys2Proof.Machine

/-! ## Endpoints (R297, R97) -/

/-- How an access of an engine ends early: its page is absent, or the operation gets a status. -/
inductive Stop
  | park (va : Nat)
  | status (w : W32)
  deriving DecidableEq, Repr

def stop (code : Nat) : Stop := .status (statusWord code 0)

/-- The status of a failure of R97 (R322). -/
def FCode.copyStatus : FCode → Nat
  | .object => 10
  | .rights => 11
  | .bounds => 5
  | .dieAbsent => 12
  | .straddleAtomic => 13
  | _ => 14

/-- Tests 1 and 2 of R97 on an endpoint. -/
def State.endpoint (s : State) (x : Op) (cap : W64) (need : BitVec 4) (kinds : List ObjKind) : Except Stop End :=
  if capObj cap = sharedObj then
    match s.group x.gid with
    | some g =>
      if kinds.contains .loft then .ok { place := .shared x.gid, off := capOff cap, len := (s.desc g).shared }
      else .error (stop 10)
    | none => .error (stop 10)
  else match s.capEntry x.ctx cap kinds with
    | none => .error (stop 10)
    | some o =>
      if need &&& (capRights cap &&& o.rights) ≠ need then .error (stop 11)
      else .ok { place := .obj (capObj cap) o, off := capOff cap, len := o.len }

/-- Tests 3 and 4 on `n` bytes at `lo` from the endpoint's offset. -/
def End.span (e : End) (lo : Int) (n : Nat) : Except Stop Unit :=
  let a := (e.off : Int) + lo
  if a < 0 ∨ (e.len : Int) < a + n then .error (stop 5)
  else match e.place with
    | .obj _ o => if o.kind == .loft && o.placed.isNone then .error (stop 12) else .ok ()
    | .shared _ => .ok ()

/-- The page was declared never arriving after the operation was issued, and made present again since (R434).
Marks: DESIGN CHOICE, unsafe (assumption 48). -/
def State.isLapsed (s : State) (x : Op) (va : Nat) : Bool :=
  (s.ctx x.ctx).any fun y => y.lapsed.any fun p => p.1 == va / 65536 && decide (x.id < p.2)

/-- The physical parts of bytes in main memory, page by page. -/
def State.pageParts (s : State) (x : Op) (acc : Acc) (va n : Nat) : Except Stop (List Part) :=
  let ps := pagesOf va n
  let ok := ps.takeWhile fun p => !s.isLapsed x p.1
  match translateAll s (.data x.die x.core) x.ctx acc ok with
  | .error (va, .absent) => .error (.park va)
  | .error (_, .invalid k) => .error (.status (statusWord 4 k))
  | .error (_, .unreachable _) => .error (stop 12)
  | .ok hs => if ok.length < ps.length then .error (.status (statusWord 4 1)) else .ok hs

/-- The homes of `n` bytes at offset `a` of the endpoint's object, or the page that is missing. -/
def State.homes (s : State) (x : Op) (e : End) (acc : Acc) (a n : Nat) : Except Stop (List Part) :=
  match e.place with
  | .shared gid => .ok [{ space := .shared gid, addr := a, n := n, ord := .rc }]
  | .obj _ o =>
    match o.kind with
    | .loft =>
      let d := o.placed.getD 0
      if (s.hops x.die d).isNone then .error (stop 12)
      else .ok [{ space := .loft d, addr := o.base + a, n := n, ord := o.ord }]
    | _ => s.pageParts x acc (o.base + a) n

/-- The parts of bytes at a place relative to the endpoint's offset. -/
def State.partsOf (s : State) (x : Op) (e : End) (acc : Acc) (lo : Int) (n : Nat) : Except Stop (List Part) :=
  match e.span lo n with
  | .error w => .error w
  | .ok _ => s.homes x e acc ((e.off : Int) + lo).toNat n

/-- An SO access of an operation waits for its earlier SO writes (R142). -/
def State.soOp (s : State) (x : Op) (hs : List Part) : State :=
  if hs.any fun h => h.ord == .so then s.drain fun w => w.agent == x.agent && w.ord == .so else s

/-- What the operation still reads of some parts, to copy it, it has read (R137). -/
def State.fixParts (s : State) (x : Op) (hs : List Part) : State :=
  s.fixLate fun w => w.agent == x.agent && hs.any fun h => w.late.any fun p => touches p.1 p.2.1 p.2.2 h.space h.addr h.n

/-- Bytes at a place relative to the endpoint's offset, as the operation reads them, and the state after the read; an
uncorrectable error gives status 9 (R440). -/
def State.readEnd (s : State) (x : Op) (e : End) (lo : Int) (n : Nat) : Except Stop (List Byte × State) :=
  match s.partsOf x e .read lo n with
  | .error w => .error w
  | .ok hs =>
    if hs.any fun h => s.badRead h.space h.addr h.n then .error (stop 9)
    else
      let s := (s.soOp x hs).fixParts x hs
      .ok (hs.flatMap fun h => s.readAs x.agent (s.keyOf x.ctx) h.space h.addr h.n,
           hs.foldl (fun s h => s.noteRead x.agent h.space h.addr h.n none) s)

/-- The host owns the range (R453). -/
def End.hostOwned (e : End) : Bool :=
  match e.place with
  | .obj _ o => o.kind == .host && o.hostOwned
  | .shared _ => false

/-- The parts of a write to a place, unless the host owns it. -/
def State.targets (s : State) (x : Op) (e : End) (lo : Int) (n : Nat) : Except Stop (List Part) :=
  match e.span lo n with
  | .error w => .error w
  | .ok _ => if e.hostOwned then .error (.status (statusWord 11 5)) else s.homes x e .write ((e.off : Int) + lo).toNat n

/-- Parts with the bytes that go to each. -/
def dealOut : List Part → List Byte → List (Part × List Byte)
  | [], _ => []
  | p :: ps, bs => (p, bs.take p.n) :: dealOut ps (bs.drop p.n)

/-- The object of an endpoint, with the context that names it. -/
def End.object (e : End) (c : Nat) : Option (Nat × Nat) :=
  match e.place with
  | .obj i _ => some (c, i)
  | .shared _ => none

/-- A write of an operation leaves it, and reaches its home in any order with others before the operation completes
(R133, R151). -/
def Op.write (x : Op) (e : End) (p : Part × List Byte) : PWrite :=
  { cycle := x.id, gid := x.gid, warp := 0, lane := 0, op := some x.id, space := p.1.space, addr := p.1.addr, bytes := p.2,
    ord := p.1.ord, release := false, rels := [], seen := false, obj := e.object x.ctx, ctx := x.ctx, node := x.node,
    rmw := none, late := [] }

/-- Writes of an operation set out for their homes. -/
def State.sendParts (s : State) (x : Op) (hs : List Part) (ws : List PWrite) : State :=
  let s := (s.soOp x hs).fixParts x hs
  { s with writes := s.writes ++ ws }

/-- Bytes written at a place. -/
def State.writeEnd (s : State) (x : Op) (e : End) (lo : Int) (bs : List Byte) : Except Stop State :=
  (s.targets x e lo bs.length).map fun hs => s.sendParts x hs ((dealOut hs bs).map (x.write e))

/-- The sources of bytes `k` to `k + n - 1` of some parts. -/
def subParts : List Part → Nat → Nat → List (Space × Nat × Nat)
  | [], _, _ => []
  | p :: ps, k, n =>
    if p.n ≤ k then subParts ps (k - p.n) n
    else
      let m := min n (p.n - k)
      if m = 0 then [] else (p.space, p.addr + k, m) :: subParts ps 0 (n - m)

/-- Writes with the sources that each copies. -/
def withSources (hs : List Part) : Nat → List PWrite → List PWrite
  | _, [] => []
  | k, w :: ws => { w with late := subParts hs k w.bytes.length } :: withSources hs (k + w.bytes.length) ws

/-- Bytes that are copied as they are: where no SO location and no rehearsal launch has a part in it, the operation may still
read them as they arrive (R126).
Marks: DEDUCED, unsafe (assumption 10). -/
def State.copyEnd (s : State) (x : Op) (src : End) (so : Int) (dst : End) (lo : Int) (bs : List Byte) : Except Stop State :=
  (s.targets x dst lo bs.length).map fun hs =>
    let ws := (dealOut hs bs).map (x.write dst)
    match s.partsOf x src .read so bs.length with
    | .error _ => s.sendParts x hs ws
    | .ok ps =>
      let wait := !((hs ++ ps).any fun h => h.ord == .so) && !((s.node x.ctx x.node).any fun n => n.desc.isRehearsal)
      s.sendParts x hs (if wait then withSources ps 0 ws else ws)

/-- The operation's writes on their way reach their homes. -/
def State.drainOp (s : State) (x : Op) : State := s.drain fun w => w.agent == x.agent

/-- A write of an operation at its home at once; the second answer says whether a part was discarded (R440). -/
def State.writeNow (s : State) (x : Op) (p : Part × List Byte) : State × Bool :=
  s.commit { id := 0, by_ := x.agent, space := p.1.space, addr := p.1.addr, old := [], ord := p.1.ord, rels := [],
             known := if p.1.ord = .uo then [] else [x.agent], wide := [], ctx := x.ctx, node := x.node } p.2

/-- One element applied at its home, indivisibly (R114, R152, R325): the state, and whether the write was kept. -/
def State.reduceEnd (s : State) (x : Op) (e : End) (lo : Int) (n : Nat) (f : Nat → Nat) : Except Stop (State × Bool) :=
  match s.partsOf x e .read lo n, s.targets x e lo n with
  | .error w, _ | .ok _, .error w => .error w
  | .ok hs, .ok _ =>
    if hs.any fun h => s.badRead h.space h.addr h.n then .error (stop 9)
    else
      let s := s.drainOp x
      let old := hs.flatMap fun h => s.readHome (s.keyOf x.ctx) h.space h.addr h.n
      let t := hs.foldl (fun t h => t.noteRead x.agent h.space h.addr h.n none) { s with stale := [] }
      let out := (dealOut hs (bytesOfWord n (f (leNat old)))).foldl (fun (acc : State × Bool) p =>
        let r := acc.1.writeNow x p
        (r.1, acc.2 && !r.2)) ({ t with stale := s.stale }, true)
      .ok out

/-! ## Running an operation -/

/-- An operation under way: the state, the operation, the reports, the bytes delivered to each destination, the output for
another device, the status that ended it, 0 while it goes on; what an earlier run that parked had done and this one has
not come to, and what has been done (R433). -/
structure Job where
  s : State
  x : Op
  ends : Option Ends := none
  reps : List Nat := []
  sent : Nat := 0
  out : List Byte := []
  st : W32 := 0
  todo : List Did := []
  log : List Did := []
  /-- The accesses that it still makes before it pauses. -/
  fuel : Option Nat := none
  deriving DecidableEq, Repr

/-- The page that is missing, or none when the operation pauses, and what has been done; or where the operation stands. -/
abbrev Ran := Except (Option Nat × Job) Job

/-- Go on, unless the operation has ended. -/
def Ran.next (r : Ran) (f : Job → Ran) : Ran :=
  match r with
  | .error va => .error va
  | .ok j => if j.st = 0 then f j else .ok j

/-- The operation stops here with a status.
Marks: DEDUCED, unsafe (assumption 23). -/
def Job.fail (j : Job) (w : W32) : Ran := .ok { j with st := w }

def Job.try {α : Type} (j : Job) (r : Except Stop α) (f : α → Ran) : Ran :=
  match r with
  | .error (.park va) => .error (some va, j)
  | .error (.status w) => j.fail w
  | .ok a => f a

/-- In turn, as long as the operation goes on. -/
def Job.each {α : Type} (f : α → Job → Ran) : List α → Job → Ran
  | [], j => .ok j
  | a :: as, j => (f a j).next (Job.each f as)

/-- One access more, or the operation pauses (R126, R151).
Marks: DEDUCED, unsafe (assumption 21). -/
def Job.tick (j : Job) (f : Job → Ran) : Ran :=
  match j.fuel with
  | some 0 => .error (none, j)
  | _ => f { j with fuel := j.fuel.map (· - 1) }

/-- Something is looked up once: what a run that parked has found stands (R433). -/
def Job.look (j : Job) (r : Except Stop (List Byte × State)) (f : List Byte → Job → Ran) : Ran :=
  match j.todo with
  | .read bs :: ds => f bs { j with todo := ds, log := j.log ++ [.read bs] }
  | _ => j.tick fun j => j.try r fun p => f p.1 { j with s := p.2, log := j.log ++ [.read p.1] }

/-- Something is done once: what a run that parked has done is not done again (R433). -/
def Job.act (j : Job) (r : Except Stop (State × Op × Bool)) (f : Bool → Job → Ran) : Ran :=
  match j.todo with
  | .act ok :: ds => f ok { j with todo := ds, log := j.log ++ [.act ok] }
  | _ => j.tick fun j => j.try r fun p => f p.2.2 { j with s := p.1, x := p.2.1, log := j.log ++ [.act p.2.2] }

/-- Bytes of an endpoint. -/
def Job.read (j : Job) (e : End) (lo : Int) (n : Nat) (f : List Byte → Job → Ran) : Ran :=
  j.look (j.s.readEnd j.x e lo n) f

/-- The operation wrote bytes of the endpoint's object (R99). -/
def Op.note (x : Op) (e : End) : Op :=
  { x with wrote := x.wrote ++ (e.object x.ctx).toList.filter fun p => !x.wrote.contains p }

/-- Write bytes of an endpoint.
Marks: DEDUCED, unsafe (assumption 23). -/
def Job.write (j : Job) (e : End) (lo : Int) (bs : List Byte) : Ran :=
  if bs.isEmpty then .ok j
  else j.act ((j.s.writeEnd j.x e lo bs).map fun s => (s, j.x.note e, true)) fun _ j => .ok j

/-! ## Shapes (R301, R302) -/

/-- Byte offsets of the rows of a shape, in stream order: extents and strides of the dimensions above 0. -/
def rowOffs : List Nat → List Int → List Int
  | [], _ => [0]
  | e :: es, ss => (rowOffs es (ss.drop 1)).flatMap fun (o : Int) =>
    (List.range e).map fun (i : Nat) => o + (i : Int) * ss.headD 0

/-- The lowest offset and the length of the bytes between the lowest and the highest of a shape. -/
def shapeSpan (es : List Nat) (ss : List Int) (rowBytes : Nat) : Int × Nat :=
  let ds := (es.zip ss).map fun p => ((p.1 : Int) - 1) * p.2
  let lo := (ds.map (min 0)).sum
  let hi := (ds.map (max 0)).sum
  (lo, (hi - lo + rowBytes).toNat)

/-- Bytes of a row. -/
def Cue.rowBytes (c : Cue) (fmt : Nat) : Nat := c.e0 * fmtBits fmt / 8

/-- The extents above dimension 0. -/
def Cue.outer (c : Cue) : List Nat := c.dimExt.drop 1

/-- Output bytes of a RICE decode block (R470). -/
def Cue.riceBytes (c : Cue) : Nat := c.pln * ceilDiv c.e0 8

/-- Blocks of a RICE decode (R310): e1 of them, one in a cue of one dimension; further dimensions change nothing.
Marks: DESIGN CHOICE, unsafe (assumption 99). -/
def Cue.blocks (c : Cue) : Nat := if 1 < c.dims then c.e1 else 1

/-- The extents above dimension 0 of one delivery unit. -/
def Cue.unitOuter (c : Cue) : List Nat :=
  if c.stepped then c.outer.take (c.dims - 2) else c.outer

/-- The minimum output of a delivery unit (R470); an element-form unit reaches as far as its last element. -/
def Cue.minUnit (c : Cue) : Nat :=
  if c.alone 4 then c.riceBytes
  else if c.packs then c.minPacked
  else
    let sp := shapeSpan c.unitOuter c.ds (c.rowBytes c.dfmt)
    (sp.1 + sp.2).toNat

/-- The output space of a unit (R470). -/
def Cue.space (c : Cue) (slot : Nat) : Nat := if c.rg then slot - 8 else c.reserve

/-! ## Delivery (R316, R328) -/

/-- One element applied at its home (R325); an element discarded ends the operation with status 9 (R440). -/
def Job.reduce (j : Job) (e : End) (op : RedOp) (t : NumType) (lo : Int) (v : Nat) : Ran :=
  j.act ((j.s.reduceEnd j.x e lo (t.bits / 8) fun old => (redStep op t old v).1).map fun p => (p.1, j.x.note e, p.2))
    fun ok j => if ok then .ok j else j.fail (statusWord 9 0)

/-- The reduction of a device-grid extension (R327). -/
def Cue.gridOp (c : Cue) : Option (RedOp × NumType) :=
  if c.gx then match c.redop with
    | 1 => some (.add, codeType c.rtype)
    | 2 => some (.min, codeType c.rtype)
    | 3 => some (.max, codeType c.rtype)
    | _ => none
  else none

/-- One piece of output at a destination. -/
def Job.put (c : Cue) (e : End) (p : Int × List Byte) (j : Job) : Ran :=
  match c.gridOp with
  | none => j.write e p.1 p.2
  | some (op, t) =>
    Job.each (fun (q : Nat × Nat) j => j.reduce e op t (p.1 + (q.2 * (t.bits / 8) : Nat)) q.1)
      (unpackCodes t.bits p.2).zipIdx j

/-- The flits of a chunk of 240 payload bytes each (R457), numbered from `n`, for a device and a context of it. -/
def flitsOf (n gx gy pctx : Nat) (bs : List Byte) : List Flit :=
  let ps := cut 240 bs
  mapFrom 1 (fun k p => { n := n + (k - 1), payload := p, resends := 0, gx := gx, gy := gy, pctx := pctx,
                          endsChunk := decide (k = ps.length) }) ps

/-- A chunk goes out over a link (R457, R458). -/
def State.sendChunk (s : State) (l gx gy pctx : Nat) (bs : List Byte) : State :=
  let fs := flitsOf (s.links.getD l Link.reset).next gx gy pctx bs
  { s with links := listMod s.links l fun x => { x with retry := x.retry ++ fs, next := x.next + fs.length }
           linkOut := s.linkOut ++ fs.map fun f => LinkMsg.flit l f.n f.payload }

/-- The chunks of a delivery: full ones, and the remainder when everything has been delivered (R405). -/
def chunksOf (st : W32) (bs : List Byte) : List (List Byte) :=
  let cs := cut 65536 bs
  if st.toNat % 256 = 0 ∨ st.toNat % 256 = 6 then cs else cs.filter fun c => c.length == 65536

/-- A delivery unit's output goes out; `count` is the byte count that a slot reports.
Marks: DEDUCED, unsafe (assumption 30). -/
def Job.deliver (c : Cue) (dest : Sink) (status : W32) (count : Nat) (ps : List (Int × List Byte)) (j : Job) : Ran :=
  match dest with
  | .ring =>
    let slot : Slot := { pieces := ps.map fun p => (p.1.toNat, p.2), count := count, status := status }
    j.act (.ok (j.s, { j.x with slots := j.x.slots ++ [slot] }, true)) fun _ j => .ok { j with st := status }
  | .ends es => (Job.each (fun (e : Nat × End) j => Job.each (Job.put c e.2) ps j) es j).next fun j =>
    .ok { j with sent := j.sent + count, st := status }
  | .device _ => .ok { j with out := j.out ++ ps.flatMap (·.2), st := status }

/-! ## Endpoints of a copy -/

/-- Kinds that a copy accepts. -/
def copyKinds : List ObjKind := [.loft, .mem, .host]

/-- The index list or key list (R315, R317): word 0, and the words that follow.
Marks: DEDUCED, unsafe (assumption 25). -/
def State.readIndex (s : State) (x : Op) (c : Cue) : Except Stop (Nat × List Nat) :=
  match s.endpoint x c.index rightRD copyKinds with
  | .error w => .error w
  | .ok e =>
    match s.readEnd x e 0 4 with
    | .error w => .error w
    | .ok (bs, _) =>
      let m := leNat bs
      if !c.has 9 && decide (c.e1 < m) then .error (stop 5)
      else if c.has 9 && m != c.e1 then .error (stop 8)
      else match s.readEnd x e 4 (4 * m) with
        | .error w => .error w
        | .ok (bs, _) => .ok (m, (cut 4 bs).map leNat)

/-- The rows of a gather or a scatter, or of a shape. -/
def Cue.rows (c : Cue) (list : Option (List Nat)) (ss : List Int) : List Int :=
  match list with
  | some is => is.map fun (i : Nat) => (i : Int) * ss.headD 0
  | none => rowOffs c.outer ss

/-- Every row of an endpoint lies in its object. -/
def End.rowsOk (e : End) (n : Nat) (rs : List Int) : Except Stop Unit :=
  rs.foldl (fun (r : Except Stop Unit) o => match r with | .ok _ => e.span o n | x => x) (.ok ())

/-- The links that carry a grid copy to another device (R468, R459): link, device and peer context for each logical die. -/
def State.routes (s : State) (x : Op) (c : Cue) : Except Stop (List (Nat × Nat × Nat × Nat)) :=
  match (s.ctx x.ctx).bind fun y => y.peers.find? fun p => p.gx == c.gridX && p.gy == c.gridY with
  | none => .error (stop 10)
  | some p =>
    ((List.range 8).filter fun d => c.repl.testBit d).foldr (fun d r =>
      match s.phys x.ctx d with
      | none => .error (stop 12)
      | some ph =>
        let l := 2 * ph + (p.lsel.getD d 0).toNat
        if (s.links.getD l Link.reset).down then .error (stop 16)
        else match r with
          | .error w => .error w
          | .ok ls => .ok ((l, p.gx, p.gy, p.pctx) :: ls)) (.ok [])

/-- The capability of the object `d` after the one named (R328). -/
def capPlus (cap : W64) (d : Nat) : W64 := BitVec.ofNat 20 (capObj cap + d) ++ cap.extractLsb' 0 44

/-- The destinations of a copy: tests 1 and 2 on each.
Marks: DEDUCED, unsafe (assumption 30). -/
def State.dests (s : State) (x : Op) (c : Cue) (cap : W64) : Except Stop Sink :=
  if c.rg then .ok .ring
  else if c.gx && !c.loc then (s.routes x c).map .device
  else
    let caps := if c.gx then ((List.range 8).filter fun d => c.repl.testBit d).map (capPlus cap) else [cap]
    (caps.foldr (fun k (r : Except Stop (List (Nat × End))) =>
      match s.endpoint x k rightWR copyKinds with
      | .error w => .error w
      | .ok e => r.map ((capObj k, e) :: ·)) (.ok [])).map .ends

/-- Tests 3 and 4 on every destination; a row in a ring's slot lies in the bytes before the trailer (R301, R470). -/
def Sink.rowsOk (t : Sink) (slot n : Nat) (rs : List Int) : Except Stop Unit :=
  match t with
  | .ring => if rs.any fun o => decide (o < 0) || decide ((slot : Int) - 8 < o + n) then .error (stop 5) else .ok ()
  | .ends es => es.foldl (fun (r : Except Stop Unit) e => match r with | .ok _ => e.2.rowsOk n rs | x => x) (.ok ())
  | _ => .ok ()

def optEnd (b : Bool) (r : Except Stop End) : Except Stop (Option End) := if b then r.map some else .ok none

/-- The size of the slots of an operation's ring. -/
def State.slotSize (s : State) (x : Op) : Nat :=
  match s.group x.gid with
  | none => 0
  | some g => match s.ringAt x.gid g x.ring with
    | .ok r => ((s.ringOf r).map (·.size)).getD 0
    | .error _ => 0

/-- The endpoints of AUXA and AUXB: tests 1 and 2. -/
def State.auxEnds (s : State) (x : Op) (c : Cue) : Except Stop (Option End × Option End) := do
  let auxa ← optEnd (c.has 2 || c.has 9 || (c.has 8 && c.ewsrc))
    (s.endpoint x c.auxa (if c.has 8 && c.ewsrc then rightRD else rightWR) copyKinds)
  let auxb ← optEnd (capObj c.auxb != 0) (s.endpoint x c.auxb rightWR copyKinds)
  .ok (auxa, auxb)

/-- R321: every endpoint, element range and index that is known before data moves, in the order source, destination,
AUXA, AUXB, INDEX; the rows that an index list gives follow it. -/
def State.copyEnds (s : State) (x : Op) (c : Cue) (dcap scap : W64) : Except Stop Ends := do
  let stream := c.alone 4 || c.alone 7
  let indexed := c.mode == 1 || c.mode == 2
  let sb := c.rowBytes c.sfmt
  let src ← s.endpoint x scap rightRD copyKinds
  if stream then src.span 0 0
  else if c.mode == 1 then .ok ()
  else src.rowsOk sb (rowOffs c.outer c.ss)
  let dst ← s.dests x c dcap
  let slot := s.slotSize x
  if c.rg && c.mode != 2 then (if (rowOffs c.unitOuter c.ds).any (· < 0) then .error (stop 5) else .ok ())
  else if c.alone 4 then dst.rowsOk slot c.riceBytes ((List.range c.blocks).map fun (b : Nat) => (b : Int) * c.ds.headD 0)
  else if c.packs then (if c.rg then .ok () else dst.rowsOk slot c.reserve [0])
  else if c.mode == 2 then .ok ()
  else dst.rowsOk slot (c.rowBytes c.dfmt) (rowOffs c.outer c.ds)
  let (auxa, auxb) ← s.auxEnds x c
  match auxa with
  | none => .ok ()
  | some e => e.span 0 (if c.has 9 then 4 * (bitsN c.arg 0 16 + 2) else if c.has 2 then c.count / 32 else 4 * c.count)
  match auxb with
  | none => .ok ()
  | some e => e.span 0 4
  if indexed || c.has 9 then
    let (_, is) ← s.readIndex x c
    let list := if indexed then some is else none
    let srows := c.rows (if c.mode == 1 then list else none) c.ss
    let drows := c.rows (if c.mode == 2 then list else none) c.ds
    if c.mode == 1 then src.rowsOk sb srows else .ok ()
    if c.mode == 2 && !c.packs then dst.rowsOk slot (c.rowBytes c.dfmt) drows else .ok ()
    let n := if indexed then is.length else srows.length
    .ok { src := src, dst := dst, auxa := auxa, auxb := auxb, srows := srows.take n, drows := drows.take n,
          keys := if c.has 9 then is.map (· % 2 ^ 16) else [], slot := slot }
  else
    .ok { src := src, dst := dst, auxa := auxa, auxb := auxb, srows := c.rows none c.ss, drows := c.rows none c.ds,
          keys := [], slot := slot }

/-- The endpoints of a copy that goes on, under the object table as it stands now (R98, R453).
Marks: DEDUCED, unsafe (assumption 22). -/
def State.renewCopy (s : State) (x : Op) (c : Cue) (dcap scap : W64) (e : Ends) : Except Stop Ends := do
  let src ← s.endpoint x scap rightRD copyKinds
  let dst ← s.dests x c dcap
  let (auxa, auxb) ← s.auxEnds x c
  .ok { e with src := src, dst := dst, auxa := auxa, auxb := auxb }

/-! ## Delivery units of elements (R303 to R308, R315 to R317) -/

/-- Read rows of the source, after the elements `vs`. -/
def Job.readRows (c : Cue) (e : End) (f : List Nat → Job → Ran) : List Int → List Nat → Job → Ran
  | [], vs, j => f vs j
  | o :: os, vs, j => j.read e o (c.rowBytes c.sfmt) fun bs j =>
    Job.readRows c e f os (vs ++ unpackCodes (fmtBits c.sfmt) bs) j

/-- The second operand of an element-wise stage, when it comes from memory. -/
def Job.readAux (c : Cue) (ends : Ends) (first n : Nat) (f : List Nat → Job → Ran) (j : Job) : Ran :=
  match ends.auxa with
  | some e =>
    if c.has 8 && c.ewsrc then j.read e (4 * first : Nat) (4 * n) fun bs j => f ((cut 4 bs).map leNat) j else f [] j
  | none => f [] j

/-- The rows of the output. -/
def rowPieces (c : Cue) (rows : List Int) (elems : List Nat) : List (Int × List Byte) :=
  rows.zip ((cut (max 1 (c.rowBytes c.dfmt)) (packCodes (fmtBits c.dfmt) elems)))

/-- A copy that only moves bytes: no stage, no ring, no other device. -/
def Cue.plainCopy (c : Cue) : Bool := c.stages.isEmpty && !c.rg && !c.gx

/-- Rows copied as they are, each from its place to its place. -/
def Job.copyRows (src dst : End) : List (Int × Int × List Byte) → Job → Ran
  | [], j => .ok j
  | (o, d, bs) :: rs, j =>
    if bs.isEmpty then Job.copyRows src dst rs j
    else j.act ((j.s.copyEnd j.x src o dst d bs).map fun s => (s, j.x.note dst, true)) fun _ j =>
      Job.copyRows src dst rs j

/-- One delivery unit: stream index of its first element, rows of the source and places of the output. -/
def Job.unit (c : Cue) (ends : Ends) (late : Bool) (u : Nat × List Int × List Int) (j : Job) : Ran :=
  let slot := ends.slot
  Job.readRows c ends.src (fun vals j => j.readAux c ends u.1 vals.length fun aux j =>
    let out := c.runChain aux (c.space slot) vals
    let j := { j with reps := j.reps ++ out.reps.map (· + u.1) }
    let scales : Ran := match ends.auxa with
      | some e => if c.has 2 then j.write e (u.1 / 32 : Nat) (out.scales.map (BitVec.ofNat 8 ·)) else .ok j
      | none => .ok j
    scales.next fun j =>
    let ps := if out.packed then [((0 : Int), out.bytes)] else rowPieces c u.2.2 out.elems
    let zero := out.overrun && out.bytes.isEmpty
    if zero && !c.rg then j.fail (statusWord 2 0)
    else
      let status := if out.overrun then statusWord 2 0 else 0
      match late && c.plainCopy, ends.dst with
      | true, .ends [(_, dst)] =>
        Job.copyRows ends.src dst (u.2.1.zip ps) { j with sent := j.sent + (ps.map fun p => p.2.length).sum }
      | _, _ =>
      if zero then Job.deliver c ends.dst status 0 [((0 : Int), List.replicate (slot - 8) (0 : Byte))] j
      else Job.deliver c ends.dst status ((ps.map fun p => p.2.length).sum) ps j) u.2.1 [] j

/-- The delivery units of a copy (R316): with RG and two or more dimensions, one for each step of the outermost. -/
def unitsOf (c : Cue) (srows drows : List Int) : List (Nat × List Int × List Int) :=
  if c.stepped then
    let n := (c.outer.take (c.dims - 2)).foldl (· * ·) 1
    let base := rowOffs (c.outer.take (c.dims - 2)) c.ds
    mapFrom 0 (fun u rs => (u * n * c.e0, rs, base)) (cut n srows)
  else [(0, srows, drows)]

/-- R315: the kept rows in order, the dropped ones reported, the segment table written.
Marks: DEDUCED, unsafe (assumption 25). -/
def Job.sorted (c : Cue) (ends : Ends) (j : Job) (f : Ends → Job → Ran) : Ran :=
  if !c.has 9 then f ends j
  else
    let nseg := bitsN c.arg 0 16 + 1
    let rows := (sortRows nseg ends.keys).map fun i => ends.srows.getD i 0
    let j := { j with reps := j.reps ++ dropRows nseg ends.keys }
    match ends.auxa with
    | none => f ends j
    | some e => (j.write e 0 ((segTable nseg ends.keys).flatMap (bytesOfWord 4))).next
        (f { ends with srows := rows, drows := ends.drows.take rows.length })

/-! ## RICE decode and SPARSE_EXPAND (R310, R314) -/

/-- Bytes of an endpoint's object from its offset on. -/
def End.room (e : End) : Nat := e.len - e.off

/-- Block `b` at `pos` from the source offset, and those after it.
Marks: DEDUCED, unsafe (assumption 26). -/
def Job.rice (c : Cue) (ends : Ends) : Nat → Nat → Nat → Job → Ran
  | 0, _, _, j => .ok j
  | n + 1, b, pos, j =>
    j.read ends.src pos 16 fun h j =>
    if recNat h 0 1 ≠ 0xB7 ∨ recNat h 11 1 ≠ 0 ∨ recNat h 1 1 ≠ c.pln ∨ recNat h 2 2 ≠ c.e0 then j.fail (statusWord 8 0)
    else
      let plen := recNat h 8 3
      j.read ends.src (pos + 16 : Nat) plen fun pay j =>
      if crc32c pay ≠ recNat h 12 4 then j.fail (statusWord 1 0)
      else match riceDecode c.pln c.e0 (recNat h 4 4) pay with
        | none => j.fail (statusWord 8 0)
        | some out =>
          let place : Int := if c.rg then 0 else (b : Int) * c.ds.headD 0
          (Job.deliver c ends.dst 0 out.length [(place, out)] j).next
            (Job.rice c ends n (b + 1) (ceilDiv (ends.src.off + pos + 16 + plen) 16 * 16 - ends.src.off))

/-- R314.
Marks: DEDUCED, unsafe (assumption 26). -/
def Job.expand (c : Cue) (ends : Ends) (j : Job) : Ran :=
  j.read ends.src 0 4 fun h j =>
  let n := recNat h 0 2
  let mask := 4 * ceilDiv c.count 32
  if n = 0xFFFF then j.fail (statusWord 2 0)
  else if recNat h 2 2 ≠ c.count then j.fail (statusWord 8 0)
  else j.read ends.src 4 mask fun m j =>
    let bits := unpackBits m
    if (bits.drop c.count).any id ∨ (bits.take c.count).countP id ≠ n then j.fail (statusWord 8 0)
    else j.read ends.src (4 + mask : Nat) (2 * n) fun vs j =>
      let ps := rowPieces c ends.drows (expandBits (bits.take c.count) ((cut 2 vs).map leNat))
      Job.deliver c ends.dst 0 ((ps.map fun p => p.2.length).sum) ps j

/-! ## The exception list (R307) -/

/-- Word 0 and the stored indices, at the end of the operation; LIST_FULL when not every report is stored.
Marks: DEDUCED, unsafe (assumption 25). -/
def Job.exceptions (e : Option End) (j : Job) : Ran :=
  let st := j.st
  let total := j.reps.length
  match e with
  | none => .ok { j with st := if st = 0 ∧ total ≠ 0 then statusWord 6 0 else st }
  | some e =>
    let room := (e.room - 4) / 4
    let words := bytesOfWord 4 total ++ (j.reps.take room).flatMap (bytesOfWord 4)
    (Job.write { j with st := 0 } e 0 words).map fun k =>
      { k with st := if st ≠ 0 then st else if k.st ≠ 0 then k.st else if room < total then statusWord 6 0 else 0 }

/-! ## Versions (R323) -/

/-- `.same` and `.rec`: the status, or the operation's context after it.
Marks: DEDUCED, unsafe (assumption 22). -/
def State.versions (s : State) (x : Op) (e : End) (recGen sameGen : Bool) : Except Stop State :=
  if !recGen && !sameGen then .ok s
  else match e.place, s.group x.gid with
    | .obj i _, some g =>
      let gen := ((s.obj x.ctx i).map (·.gen)).getD 0
      if sameGen && ((s.ectx g x.ectx).bind (·.gen)) != some gen then .error (stop 3)
      else .ok (if recGen then s.modEctx g x.ectx fun y => { y with gen := some gen } else s)
    | _, _ => .error (stop 10)

/-! ## REDST (R324 to R326) -/

/-- The understage of a place of an endpoint, and the bits of its page.
Marks: DEDUCED, unsafe (assumption 29). -/
def State.stackOf (s : State) (x : Op) (e : End) (lo : Int) : Except Stop (Nat × Nat) :=
  match e.place with
  | .shared _ => .error (stop 10)
  | .obj _ o =>
    if s.isLapsed x (o.base + ((e.off : Int) + lo).toNat) then .error (.status (statusWord 4 1))
    else match leafOf s (.data x.die x.core) x.ctx (o.base + ((e.off : Int) + lo).toNat) with
    | .error .absent => .error (.park (o.base + ((e.off : Int) + lo).toNat))
    | .error (.invalid k) => .error (.status (statusWord 4 k))
    | .error (.unreachable _) => .error (stop 12)
    | .ok (leaf, b) => .ok ((leaf.extractLsb' 56 4).toNat, b)

/-- R113: an element that straddles two pages, then one that is not aligned.
Marks: DEDUCED, unsafe (assumption 29). -/
def State.elemOk (s : State) (x : Op) (e : End) (n : Nat) (lo : Int) : Except Stop Unit :=
  match e.place with
  | .shared _ => .error (stop 10)
  | .obj _ o =>
    let a := ((e.off : Int) + lo).toNat
    match s.stackOf x e lo with
    | .error w => .error w
    | .ok (_, b) =>
      if (o.base + a) / 2 ^ b ≠ (o.base + a + n - 1) / 2 ^ b then .error (stop 13)
      else if a % n ≠ 0 then .error (stop 14)
      else .ok ()

/-- Does the operation's tag go through at an understage (R326)?  The 4,096 most recent tags of an object are kept.
Marks: DEDUCED, unsafe (assumption 28). -/
def State.onceTag (s : State) (c stack obj : Nat) (tag : W64) : State × Bool :=
  match s.ctx c with
  | none => (s, true)
  | some y =>
    let t : OnceTag := { stack := stack, obj := obj, tag := tag }
    let mine := y.tags.filter fun u => u.stack == stack && u.obj == obj && u.tag != tag
    let others := y.tags.filter fun u => !(u.stack == stack && u.obj == obj)
    let held := y.tags.contains t
    (s.modCtx c fun y =>
      { y with tags := others ++ mine.drop (mine.length - 4095) ++ [t]
               dropped := if held then mapSet y.dropped stack ((mapGet y.dropped stack).getD 0 + 1) else y.dropped },
     !held)

/-- The verdict of an understage is taken once an operation. -/
structure Seen where
  stack : Nat
  pass : Bool
  deriving DecidableEq, Repr

/-- Does the operation go through at the understage of an element?  The verdict of each is taken once. -/
def Job.verdict (tag : W64) (e : End) (stack : Nat) (f : Bool → Job → Ran) (j : Job) : Ran :=
  if tag = 0 then f true j
  else
    let obj := match e.place with | .obj i _ => i | .shared _ => 0
    let r := j.s.onceTag j.x.ctx stack obj tag
    j.act (.ok (r.1, j.x, r.2)) f

/-- Apply the elements in stream order. -/
def Job.redst (op : RedOp) (t : NumType) (tag : W64) (e : End) : List (Int × Nat) → List Seen → Job → Ran
  | [], _, j => .ok j
  | (lo, v) :: vs, seen, j =>
    j.look ((j.s.stackOf j.x e lo).map fun sb => ([BitVec.ofNat 8 sb.1], j.s)) fun sb j =>
    let stack := leNat sb
    match seen.find? fun y => y.stack == stack with
    | some y =>
      if y.pass then (j.reduce e op t lo v).next (Job.redst op t tag e vs seen)
      else Job.redst op t tag e vs seen j
    | none => Job.verdict tag e stack (fun pass j =>
      let seen := { stack := stack, pass := pass } :: seen
      if pass then (j.reduce e op t lo v).next (Job.redst op t tag e vs seen)
      else Job.redst op t tag e vs seen j) j

/-- The endpoints of a `REDST` and its elements' places. -/
def State.redstEnds (s : State) (x : Op) (c : Cue) (t : NumType) (dcap scap : W64) :
    Except Stop Ends := do
  let n := t.bits / 8
  let src ← s.endpoint x scap rightRD copyKinds
  src.rowsOk (c.e0 * n) (rowOffs c.outer c.ss)
  let dst ← s.endpoint x dcap (rightWR ||| rightAT) [.mem, .host]
  let places := (rowOffs c.outer c.ds).flatMap fun (o : Int) => (List.range c.e0).map fun (i : Nat) => o + (i * n : Nat)
  dst.rowsOk (c.e0 * n) (rowOffs c.outer c.ds)
  let auxb ← optEnd (capObj c.auxb != 0) (s.endpoint x c.auxb rightWR copyKinds)
  match auxb with
  | none => .ok ()
  | some e => e.span 0 4
  places.foldl (fun (r : Except Stop Unit) o => match r with | .ok _ => s.elemOk x dst n o | y => y) (.ok ())
  .ok { src := src, dst := .ends [(0, dst)], auxa := none, auxb := auxb, srows := rowOffs c.outer c.ss, drows := places,
        keys := [], slot := 0 }

/-- The endpoints of a `REDST` that goes on, under the object table as it stands now (R98, R453).
Marks: DEDUCED, unsafe (assumption 22). -/
def State.renewRedst (s : State) (x : Op) (c : Cue) (dcap scap : W64) (e : Ends) : Except Stop Ends := do
  let src ← s.endpoint x scap rightRD copyKinds
  let dst ← s.endpoint x dcap (rightWR ||| rightAT) [.mem, .host]
  let auxb ← optEnd (capObj c.auxb != 0) (s.endpoint x c.auxb rightWR copyKinds)
  .ok { e with src := src, dst := .ends [(0, dst)], auxb := auxb }

/-! ## One operation -/

/-- The checks before data moves, and the comparison and record of versions (R321, R323). -/
def State.beginCopy (s : State) (x : Op) (c : Cue) (dcap scap : W64) (recGen sameGen : Bool) :
    Except Stop (Ends × State) := do
  let ends ← s.copyEnds x c dcap scap
  if c.alone 4 ∧ ends.src.off % 16 ≠ 0 then .error (stop 14) else .ok ()
  let t ← s.versions x ends.src recGen sameGen
  .ok (ends, t)

/-- The output for another device goes out in chunks, to every link (R405, R457). -/
def Job.sendAll (t : Sink) (j : Job) : Job :=
  match t with
  | .device ls => { j with s := ls.foldl (fun s l => (chunksOf j.st j.out).foldl (fun (s : State) bs =>
      s.sendChunk l.1 l.2.1 l.2.2.1 l.2.2.2 bs) s) j.s }
  | _ => j

/-- A copy whose endpoints have passed their checks; `late` says that it may read as late as its writes arrive. -/
def Cue.run (c : Cue) (late : Bool) (ends : Ends) (j : Job) : Ran :=
  let j := { j with ends := some ends }
  let body : Ran :=
    if c.alone 4 then Job.rice c ends c.blocks 0 0 j
    else if c.alone 7 then Job.expand c ends j
    else Job.sorted c ends j fun ends j => Job.each (Job.unit c ends late) (unitsOf c ends.srows ends.drows) j
  match body with
  | .error va => .error va
  | .ok j => (Job.exceptions ends.auxb j).map (Job.sendAll ends.dst)

/-- Run a copy from its start (R321), or from where it stopped (R433), for so many accesses. -/
def State.runCopy (s : State) (x : Op) (fuel : Option Nat) (c : Cue) (dcap scap : W64) (recGen sameGen : Bool) : Ran :=
  let j : Job := { s := s, x := x, fuel := fuel }
  let late := !recGen && !sameGen
  match x.prog with
  | some p => j.try (s.renewCopy x c dcap scap p.ends) fun e => c.run late e { j with todo := p.log }
  | none => j.try (s.beginCopy x c dcap scap recGen sameGen) fun r => c.run late r.1 { j with s := r.2 }

/-- A `REDST` whose endpoints have passed their checks: it reads its source and applies its elements. -/
def Cue.runRedst (c : Cue) (op : RedOp) (t : NumType) (tag : W64) (ends : Ends) (j : Job) : Ran :=
  let dst := match ends.dst with | .ends ((_, e) :: _) => e | _ => ends.src
  let n := c.e0 * (t.bits / 8)
  let rows := ends.srows.foldr (fun o (f : List Nat → Job → Ran) => fun vs j =>
    j.read ends.src o n fun bs j => f (vs ++ unpackCodes t.bits bs) j)
    (fun vs j => Job.redst op t tag dst (ends.drows.zip vs) [] j)
  match rows [] { j with ends := some ends } with
  | .error va => .error va
  | .ok j => Job.exceptions ends.auxb j

/-- Run a `REDST` from its start, or from where it stopped (R433), for so many accesses. -/
def State.runRedst (s : State) (x : Op) (fuel : Option Nat) (c : Cue) (op : RedOp) (t : NumType) (tag dcap scap : W64) :
    Ran :=
  let j : Job := { s := s, x := x, fuel := fuel }
  match x.prog with
  | some p => j.try (s.renewRedst x c dcap scap p.ends) fun e => c.runRedst op t tag e { j with todo := p.log }
  | none => j.try (s.redstEnds x c t dcap scap) fun ends => c.runRedst op t tag ends j

/-- The objects that a grid copy on this device delivers into. -/
def Cue.receivers (c : Cue) (dcap : W64) : List Nat :=
  if c.gx && c.loc && !c.rg then ((List.range 8).filter fun d => c.repl.testBit d).map fun d => capObj dcap + d else []

/-- Bytes of the chunks delivered: the final remainder is a chunk when the copy has delivered everything (R405). -/
def Job.chunked (j : Job) : Nat :=
  if j.st.toNat % 256 = 0 ∨ j.st.toNat % 256 = 6 then j.sent else j.sent / 65536 * 65536

/-! ## Starting -/

/-- Is the kind a copy-engine operation? -/
def OpKind.isCopy : OpKind → Bool
  | .copy .. | .redst .. => true
  | _ => false

/-- Operations that occupy an engine (R295, R432). -/
def State.running (s : State) (x : Op) : Nat :=
  (s.ops.filter fun y => y.kind.isCopy && y.started && !y.parked && y.id != x.id && y.die == x.die && y.core == x.core).length

/-- May the operation start, or go on after its page has arrived (R296, R433)? -/
def State.canStart (s : State) (x : Op) : Bool :=
  x.kind.isCopy && !x.moved && !x.parked && decide (s.running x < 16)
  && (x.started || !(s.ops.any fun y => y.gid == x.gid && y.ectx == x.ectx && decide (y.seq < x.seq) && !y.started))

/-- The cue of a copy. -/
def OpKind.cue : OpKind → List Byte
  | .copy _ _ _ q _ _ => q
  | .redst _ _ _ _ _ q => q
  | _ => []

/-- Is the operation a grid copy to another device? -/
def Op.remote (x : Op) : Bool := let c := cueOf x.kind.cue; c.gx && !c.loc && !c.rg

/-- What a run did stands in the state, whether it ended or parked. -/
def Job.keep (j : Job) (f : Op → Op) : State :=
  j.s.modOp j.x.id fun y => f { y with started := true, slots := j.x.slots, wrote := j.x.wrote }

/-- The operation parks on an absent page, and the runtime is told (R432). -/
def State.parkOp (s : State) (x : Op) (va : Nat) : State :=
  let w : Walk := { who := .op x.id, ctx := x.ctx, va := va }
  { s with walks := s.walks ++ [w], notices := s.notices ++ [.pageAbsent x.ctx va] }

/-- R321 `COPY_START`: the operation runs, pauses after so many accesses, or parks on an absent page; when it goes on, what
it has done is not done again (R433).  The chunks that a grid copy delivers on this device are at their homes when they count (R405).
Marks: DEDUCED, unsafe (assumptions 21, 22). -/
def State.startCopy (s : State) (x : Op) (fuel : Option Nat) : State :=
  let ran : Ran := match x.kind with
    | .copy _ dst src q rg sg => s.runCopy x fuel (cueOf q) dst src rg sg
    | .redst op t tag dst src q => s.runRedst x fuel (cueOf q) op t tag dst src
    | _ => .ok { s := s, x := x }
  match ran with
  | .error (page, j) =>
    let t := j.keep fun y => { y with parked := page.isSome, prog := j.ends.map fun e => { ends := e, log := j.log } }
    match page with
    | some va => t.parkOp x va
    | none => t
  | .ok j =>
    let t := j.keep fun y => { y with moved := true, status := if y.status = 0 then j.st else y.status, prog := none }
    match x.kind with
    | .copy _ dst _ q _ _ =>
      let os := (cueOf q).receivers dst
      if os.isEmpty then t else os.foldl (fun s o => s.chunksInto x.ctx o j.chunked x.agent) (t.drainOp x)
    | _ => t

/-- `COPY_START`: an operation that may start runs (R296, R321).
Marks: DEDUCED, unsafe (assumption 21). -/
def execCopyStart (y : CopyRun) (s : State) : Out :=
  .next <| match s.op y.id with
    | none => s
    | some x => if s.canStart x then s.startCopy x y.upto else s

/-! ## Ring slots (R252, R296, R316) -/

/-- The ring that an operation fills. -/
def State.ringFor (s : State) (x : Op) : Option RingAt :=
  (s.group x.gid).bind fun g => (s.ringAt x.gid g x.ring).toOption

/-- May the operation claim: its first claim waits for the last claim of every earlier operation of its context on
the same ring. -/
def State.claimTurn (s : State) (x : Op) : Bool :=
  !(s.ops.any fun y => y.gid == x.gid && y.ectx == x.ectx && decide (y.seq < x.seq) && y.kind.isCopy
    && (cueOf y.kind.cue).rg && s.ringFor y == s.ringFor x && !(y.moved && y.slots.isEmpty))

/-- Where bytes of a slot lie: in shared memory, or in the loft object of the ring's base, under R97 and R373; or the
status that the failure gives (R322). -/
def State.slotPart (s : State) (x : Op) (r : RingAt) (h : Ring) (n off len : Nat) : Except Nat Part :=
  let a := n % h.slots * h.size + off
  match r with
  | .group gid _ => .ok { space := .shared gid, addr := h.base.toNat + a, n := len, ord := .rc }
  | .loft _ _ =>
    match s.checkCap x.ctx h.base (capOff h.base + a : Nat) len rightWR [.loft] false false with
    | .error c => .error c.copyStatus
    | .ok (o, b) =>
      if (s.hops x.die (o.placed.getD 0)).isNone then .error 12
      else .ok { space := .loft (o.placed.getD 0), addr := o.base + b, n := len, ord := o.ord }

/-- Write bytes into a slot of a ring (R245): the state, and the status of a write that failed.
Marks: DEDUCED, unsafe (assumption 26). -/
def State.writeSlot (s : State) (x : Op) (r : RingAt) (h : Ring) (n off : Nat) (bs : List Byte) : State × Nat :=
  if bs.isEmpty then (s, 0)
  else match s.slotPart x r h n off bs.length with
    | .error k => (s, k)
    | .ok p =>
      let w := s.writeNow x (p, bs)
      (w.1, if w.2 then 9 else 0)

/-- The trailer of R316. -/
def trailer (status : W32) (count : Nat) : List Byte :=
  bytesOfWord 4 (status ||| 0x80000000#32).toNat ++ bytesOfWord 4 count

/-- What a slot is filled with: the state and the status of the first piece that failed, with whether a byte was written. -/
structure Fill where
  s : State
  status : Nat
  wrote : Bool

/-- One piece of a slot: it must lie before the trailer, or it gets the status `code` (R301, R322). -/
def Fill.piece (x : Op) (r : RingAt) (h : Ring) (n code : Nat) (acc : Fill) (p : Nat × List Byte) : Fill :=
  if p.2.isEmpty then acc
  else
    let z := if h.size < p.1 + p.2.length + 8 then (acc.s, code) else acc.s.writeSlot x r h n p.1 p.2
    { s := z.1, status := if acc.status = 0 then z.2 else acc.status, wrote := acc.wrote || z.2 == 0 }

/-- The trailer of a slot, which bears the status (R316). -/
def Fill.close (x : Op) (r : RingAt) (h : Ring) (n : Nat) (status : W32) (count : Nat) (acc : Fill) : Fill :=
  let z := acc.s.writeSlot x r h n (h.size - 8) (trailer status count)
  { acc with s := z.1, wrote := acc.wrote || z.2 == 0 }

/-- The status of output that is larger than its slot: decoded output overruns it (R322). -/
def Op.overCode (x : Op) : Nat :=
  if x.kind.isCopy && ((cueOf x.kind.cue).alone 4 || (cueOf x.kind.cue).alone 7) then 2 else 5

/-- Claim, write and fill one slot; a write that fails fails the operation, and the slot is filled with zero bytes, a count
of 0 and the failing status.  The operation knows what happened before the slot was free, and who waits for it will know
what happened before it is filled (R133).
Marks: DEDUCED, unsafe (assumption 26). -/
def State.fillSlot (s : State) (x : Op) (r : RingAt) (h : Ring) (y : Slot) : State × W32 × Bool :=
  let n := h.claimed
  let s := (s.setRing r (some { h with claimed := n + 1 })).learn r.agent [x.agent]
  let w := y.pieces.foldl (Fill.piece x r h n x.overCode) { s := s, status := 0, wrote := false }
  let f := if w.status = 0 then w.close x r h n y.status y.count
    else
      let zeros := { w with status := 0 }
      (zeros.piece x r h n 5 (0, List.replicate (h.size - 8) 0)).close x r h n (statusWord w.status 0) 0
  let s := (match f.s.ringOf r with
    | some h => f.s.setRing r (some (h.fill n))
    | none => f.s).learn x.agent [r.agent]
  (s, if w.status = 0 then 0 else statusWord w.status 0, f.wrote)

/-- The object of a loft ring's slots (R99). -/
def Ring.object (h : Ring) (r : RingAt) (c : Nat) : List (Nat × Nat) :=
  match r with
  | .loft _ _ => [(c, capObj h.base)]
  | .group _ _ => []

/-- R252 `ENGINE_RING_CLAIM` for a copy: its next slot, when the ring has room.  A ring that is gone ends the
operation with status 15; one that was initialised anew is used as it is.
Marks: DESIGN CHOICE, unsafe (assumption 98). -/
def State.copyClaim (s : State) (x : Op) (y : Slot) : State :=
  match s.group x.gid with
  | none => s
  | some _ =>
    match (s.ringFor x).bind fun r => (s.ringOf r).map fun h => (r, h) with
    | none => s.modOp x.id fun z => { z with slots := [], status := if z.status = 0 then statusWord 15 0 else z.status }
    | some (r, h) =>
      if !s.claimTurn x ∨ h.slots ≤ h.claimed - h.freed then s
      else
        let w := s.fillSlot x r h y
        w.1.modOp x.id fun z => { z with
          slots := if w.2.1 = 0 then z.slots.drop 1 else []
          status := if w.2.1 = 0 then z.status else w.2.1
          wrote := z.wrote ++ if w.2.2 then (h.object r x.ctx).filter fun p => !z.wrote.contains p else [] }

/-! ## Completion (R237, R328) -/

/-- Every write of an operation is at its home, the objects that it wrote are release-written (R99), and it completes. -/
def State.finishOp (s : State) (x : Op) : State :=
  let t := s.drainOp x
  let old := (s.op x.id).map (·.status)
  let new := (t.op x.id).map (·.status)
  (x.wrote.foldl (fun s p => s.bumpGen p.1 p.2) t).completeOp x (if new = old then x.status else new.getD x.status)

/-- R237 `COPY_COMPLETE`. -/
def execCopyComplete (id : Nat) (s : State) : Out :=
  .next <| match s.op id with
    | none => s
    | some x => if x.kind.isCopy && x.moved && x.slots.isEmpty && !x.remote then s.finishOp x else s

/-- R328 `GRID_COPY_LOCAL_COMPLETE`: the last flit is in the retry buffer. -/
def execGridCopyLocalComplete (id : Nat) (s : State) : Out :=
  .next <| match s.op id with
    | none => s
    | some x => if x.kind.isCopy && x.moved && x.remote then s.finishOp x else s

end Sys2Proof.Machine
end

