-- ==== Sys2Proof/Machine/CopyOps.lean ====
section
/-! DEFINITION. The instructions of the copy engine: `CUEB`, `CUEF`, `CPY`, `CPYG`, `CPYX`, `REDST` (R318 to R321,
R324). -/

namespace Sys2Proof.Machine

/-- The run as its real lanes stand in it: the operands of an instruction that acts once are those of the
lowest-indexed real lane (R18). -/
def Run.reals (r : Run) : Run := { r with act := r.act.filter fun l => (r.snap.lane l).isReal }

/-- A fault for every issuing lane; the others pass (R417). -/
def State.failRun (s : State) (r : Run) (f : Flt) : State :=
  (s.advance r (r.ls.filter fun l => !r.isAct l)).raiseAll r r.act f.code f.s45

def cueInvalid (d : Nat) : Flt := { code := .cueInvalid, s45 := BitVec.ofNat 64 d }

/-! ## CUEB and CUEF (R318, R319) -/

/-- Where the record lies: inside its space, in reach (R373), then 16-byte aligned.
Marks: DEDUCED, unsafe (assumption 31). -/
def State.cueLoc (s : State) (r : Run) (loft : Bool) (l : Nat) : Except MemFlt Loc :=
  let loc := if loft then
      let cap := r.rd64 .zero l r.o.a
      let off : Int := capOff cap + r.o.imm.toInt
      match s.checkHeld r.g cap off 96 rightRD [.loft] false false with
      | .error c => .error { flt := { code := c, s45 := capS45 cap (((s.obj r.g.ctx (capObj cap)).map (·.ldie)).getD 0) off c },
                             late := atPort cap rightRD c }
      | .ok (o, a) =>
        if (s.hops r.g.die (o.placed.getD 0)).isNone then
          .error { flt := { code := .dieAbsent, s45 := BitVec.ofNat 64 o.ldie }, late := true }
        else .ok (a, { space := .loft (o.placed.getD 0), addr := o.base + a, ord := o.ord, obj := none : Loc })
    else
      let off : Int := (r.rd32 l r.o.a).toNat + r.o.imm.toInt
      (sharedAt r.d off 1).bind fun a =>
        if r.d.shared < a + 96 then .error (memFlt .bounds off)
        else .ok (a, { space := .shared r.gid, addr := a, ord := .rc, obj := none : Loc })
  loc.bind fun p => if p.1 % 16 = 0 then .ok p.2
    else .error { flt := { code := .misaligned, s45 := BitVec.ofNat 64 p.1 }, late := loft }

/-- The result of `CUEB` for the lane that acts, and the state with the cue sealed; it reads as a plain load (R318). -/
def State.makeCue (s : State) (r : Run) (loft : Bool) (l : Nat) : State × Res :=
  match s.cueLoc r loft l with
  | .error f => (s, f.res true)
  | .ok p =>
    let s := (s.soWait r l (.ok p)).settleOwn (r.agent l) p.space p.addr 96
    let s := s.request r 96 false true l p
    if s.badRead p.space p.addr 96 then (s, (eccFlt p.space.source).res true)
    else
      let bs := s.readAs (r.agent l) 0 p.space p.addr 96
      let s := s.noteRead (r.agent l) p.space p.addr 96 none
      let d := (cueOf bs).check
      let bad := fun (d : Nat) => ({ val := 0, late := some (cueInvalid d) } : Res)
      if d ≠ 0 then (s, bad d)
      else match s.takeCue r.g.ctx bs with
        | none => (s, bad 9)
        | some (s, h) => (s, .ofVal (BitVec.ofNat 64 h))

/-- R318 `CUEB`. -/
def execCueb (o : Ops) (m : FlagMod) (s : State) : Out :=
  issued (.cueb o m) .issuing (fun r s =>
    match r.lead with
    | none => s.advance r r.ls
    | some l =>
      let x := s.makeCue r.reals m.b l
      (if m.b then x.1.holdCaps r.g [r.reals.rd64 .zero l o.a] else x.1).finish r true false false (r.dst .dstS) (r.act.map fun k => (k, x.2))) s

/-- R319 `CUEF`. -/
def execCuef (o : Ops) (s : State) : Out :=
  issued (.cuef o) .issuing (fun r s =>
    match r.lead with
    | none => s.advance r r.ls
    | some l =>
      let h := (r.rd64 .zero l o.a).toNat
      match (s.ctx r.g.ctx).bind fun x => mapGet x.cues h with
      | none => s.failRun r (cueInvalid 10)
      | some _ => (s.modCtx r.g.ctx fun x => { x with cues := mapErase x.cues h }).advance r r.ls) s

/-! ## Issuing an engine operation (R237, R321) -/

/-- A lane issues something that acts for it (R133): its earlier accesses are done, and what happened before them is
known to the agents; of these writes none is missed, whatever its kind (R137). -/
def State.issueEdge (s : State) (r : Run) (l : Nat) (bs : List Agent) : State :=
  let s := (s.drain (·.byLane r.gid r.w l)).bindLoads r.gid r.w (oneLane l)
  s.teach (fun e => e.by_ == r.agent l || (r.agent l).knows e) bs

/-- The operation takes the next number of its context: the state and the handle.  The issue is a release of the
lane's earlier accesses (R133). -/
def State.issueOp (s : State) (r : Run) (l c : Nat) (kind : OpKind) (ring : W32) (banks : List (Nat × Nat)) :
    State × W64 :=
  let s := (s.drain (·.byLane r.gid r.w l)).nextStamp
  let s := s.issueEdge r l [.op s.stamp r.gid]
  let seq := ((s.ectx r.g c).map (·.next)).getD 1
  let x : Op := { id := s.stamp, gid := r.gid, ctx := r.g.ctx, node := r.g.node, die := r.g.die, ldie := r.g.ldie,
                  core := r.g.core, ectx := c, seq := seq, kind := kind, started := false, parked := false,
                  moved := false, slots := [], ring := ring, status := 0,
                  stats := { sent := 0, sat := 0, nan := 0 }, wrote := [], banks := banks, prog := none, record := [] }
  let s := (s.modEctx r.g c fun e => { e with next := e.next + 1 }).nextStamp
  ({ s with ops := s.ops ++ [x] }, mkHandle c seq)

/-- The end of an engine-issuing instruction: the handle lands, future-tagged (R239); in a run of helpers, an
untagged 0 (R18). -/
def State.landHandle (s : State) (r : Run) (h : Option W64) : State :=
  s.finish r true h.isSome false (r.dst .dstS) (r.act.map fun l => (l, .ofVal (h.getD 0)))

/-- The ring faults of a copy at issue (R251), and the slot that is too small.
Marks: DEDUCED, unsafe (assumption 30). -/
def State.ringTarget (s : State) (r : Run) (c : Cue) : Option Flt :=
  match s.ringAt r.gid r.g c.ring with
  | .error f => some f
  | .ok x => match s.ringOf x with
    | none => some (ringMisuse 1)
    | some h =>
      if h.owner ≠ r.g.ctx then some (ringMisuse 2)
      else if h.size - 8 < c.minUnit then some (cueInvalid 13)
      else none

/-- The faults of R321, and the cue. -/
def State.copyCue (s : State) (r : Run) (l c : Nat) (modeOk : Cue → Bool) : Except Flt (List Byte) :=
  let q := (s.ctx r.g.ctx).bind fun x => mapGet x.cues (r.rd64 .zero l r.o.c).toNat
  let clash := match q with
    | some bs => (cueOf bs).rg != (r.o.a == 0xF0)
    | none => false
  if clash then .error { code := .illegalField, s45 := 0 }
  else if (s.ectx r.g c).isNone then .error { code := .object, s45 := BitVec.ofNat 64 c }
  else match q with
    | none => .error (cueInvalid 11)
    | some bs =>
      if !modeOk (cueOf bs) then .error (cueInvalid 12)
      else match (if (cueOf bs).rg then s.ringTarget r (cueOf bs) else none) with
        | some f => .error f
        | none => .ok bs

/-- A copy instruction, once for the run. -/
def copyIssue (c : Nat) (modeOk : Cue → Bool) (kind : Run → Nat → List Byte → OpKind) (r : Run) (s : State) : State :=
  match r.lead with
  | none => s.landHandle r none
  | some l =>
    match s.copyCue r.reals l c modeOk with
    | .error f => s.failRun r f
    | .ok bs =>
      let q := cueOf bs
      let x := s.issueOp r l c (kind r.reals l bs) (if q.rg then q.ring else 0) []
      x.1.landHandle r (some x.2)

/-- What a copy carries from its operands. -/
def copyKind (m : CopyMod) (mode : Nat) (r : Run) (l : Nat) (bs : List Byte) : OpKind :=
  .copy mode (r.rd64 .zero l r.o.a) (r.rd64 .zero l r.o.b) bs m.recGen m.sameGen

/-- R320, R321 `CPY`. -/
def execCpy (o : Ops) (m : CopyMod) (s : State) : Out :=
  issued (.cpy o m) .issuing (copyIssue m.ctx.toNat (fun c => c.mode == 0) (copyKind m 0)) s

/-- R317, R321 `CPYG`. -/
def execCpyg (o : Ops) (m : CopyMod) (s : State) : Out :=
  issued (.cpyg o m) .issuing (copyIssue m.ctx.toNat (fun c => c.mode == 1) (copyKind m 1)) s

/-- R317, R321 `CPYX`. -/
def execCpyx (o : Ops) (m : CopyMod) (s : State) : Out :=
  issued (.cpyx o m) .issuing (copyIssue m.ctx.toNat (fun c => c.mode == 2) (copyKind m 2)) s

/-- The type code of a type (R173). -/
def typeCode (t : NumType) : Nat := ((List.range 16).find? fun k => codeType k == t).getD 0

/-- R324 `REDST`: the once-tag is read at issue from the s-register after dst. -/
def execRedst (o : Ops) (m : RedstMod) (s : State) : Out :=
  issued (.redst o m) .issuing (noRehearsal (copyIssue m.ctx.toNat
    (fun c => c.mode == 3 && c.sfmt == typeCode m.ty && c.dfmt == typeCode m.ty)
    (fun r l bs => .redst m.op m.ty (if m.tag then r.snap.getS (sNum o.d + 1) else 0)
      (r.rd64 .zero l o.a) (r.rd64 .zero l o.b) bs))) s

end Sys2Proof.Machine
end

