-- ==== Sys2Proof/Machine/MatrixNum.lean ====
section
/-! DEFINITION. The matrix engine's parameter block, operand images and terms (R61, R62, R79 to R82, R337 to R343):
pure functions. -/

namespace Sys2Proof.Machine

/-! ## The parameter block (R337) -/

/-- Word `i` of a block. -/
def blk (ws : List W32) (i : Nat) : Nat := (ws.getD i 0).toNat

def blockOf (bs : List Byte) : List W32 := (List.range 16).map fun i => BitVec.ofNat 32 (recNat bs (4 * i) 4)

def bMode (ws : List W32) : Nat := bitsN (blk ws 0) 0 4
def bA (ws : List W32) : Nat := bitsN (blk ws 0) 4 4
def bB (ws : List W32) : Nat := bitsN (blk ws 0) 8 4
def bPlanes (ws : List W32) : Nat := bitsN (blk ws 0) 12 3 + 1
def bScl (ws : List W32) : Bool := (blk ws 0).testBit 15
def bAsel (ws : List W32) : Nat := bitsN (blk ws 0) 16 2
def bBsel (ws : List W32) : Nat := bitsN (blk ws 0) 18 2
def bAloft (ws : List W32) : Bool := (blk ws 0).testBit 20
def bBloft (ws : List W32) : Bool := (blk ws 0).testBit 21
def bTA (ws : List W32) : Bool := (blk ws 0).testBit 22
def bTB (ws : List W32) : Bool := (blk ws 0).testBit 23
def bSbase (ws : List W32) : Nat := bitsN (blk ws 0) 24 8
/-- Batched shape: MODE 1 and 3. -/
def bBatched (ws : List W32) : Bool := bMode ws % 2 == 1

/-- K of a legal pair (R339). -/
def pairK (a b : Nat) : Option Nat :=
  if a = 12 ∧ b = 10 then some 64
  else if (a = 14 ∨ a = 15) ∧ (b = 14 ∨ b = 15) then some 64
  else if (a = 14 ∨ a = 15) ∧ b = 1 then some 128
  else if a = 6 ∧ b = 6 then some 32
  else none

def bK (ws : List W32) : Nat := (pairK (bA ws) (bB ws)).getD 0

/-- M and N of a product, and the products. -/
def bMN (ws : List W32) : Nat := if bBatched ws then 8 else 32
def bProducts (ws : List W32) : Nat := if bBatched ws then 16 else 1

/-- Bits of an element of an operand type (R338). -/
def operandBits (t : Nat) : Nat := if t = 1 then 4 else if t = 6 then 16 else 8

/-- Bytes of one product of an operand. -/
def productBytes (ws : List W32) (isB : Bool) : Nat :=
  let t := if isB then bB ws else bA ws
  if t = 10 then bPlanes ws * bK ws * bMN ws / 8 else bMN ws * bK ws * operandBits t / 8

def operandBytes (ws : List W32) (isB : Bool) : Nat := productBytes ws isB * bProducts ws

/-- Stored rows of a product (R342). -/
def storedRows (ws : List W32) (isB : Bool) : Nat :=
  if isB then (if bB ws = 10 then bPlanes ws else if bTB ws then bMN ws else bK ws)
  else if bTA ws then bK ws else bMN ws

def rowLength (ws : List W32) (isB : Bool) : Nat := productBytes ws isB / storedRows ws isB

/-- Registers of an operand (R341). -/
def operandRegs (ws : List W32) (isB : Bool) : Nat := ceilDiv (operandBytes ws isB) 256

/-- Registers of the scales (R61). -/
def scaleRegs (ws : List W32) : Nat := if bBatched ws then 4 else 1

/-- The index word of an operand. -/
def operandIndex (ws : List W32) (isB : Bool) : Nat := bitsN (blk ws (if isB then 2 else 1)) 0 8

def operandLoft (ws : List W32) (isB : Bool) : Bool := if isB then bBloft ws else bAloft ws

/-! ## Loft operands (R342, R343) -/

def pitchOf (p : W64) : Nat := (p.extractLsb' 0 20).toNat
def tpitchOf (p : W64) : Nat := (p.extractLsb' 20 24).toNat
def rotOf (p : W64) : Nat := (p.extractLsb' 44 4).toNat

/-- R343: the object offset of byte `c` of stored row `r` of product `b`. -/
def loftByte (off : Nat) (p : W64) (b r c : Nat) : Nat :=
  (off + b * tpitchOf p + r * pitchOf p + c) ^^^ (r * rotOf p % 64 * 64)

/-- The offsets of an operand's bytes, in image order. -/
def loftBytes (ws : List W32) (isB : Bool) (off : Nat) (p : W64) : List Nat :=
  (List.range (bProducts ws)).flatMap fun b => (List.range (storedRows ws isB)).flatMap fun r =>
    (List.range (rowLength ws isB)).map fun c => loftByte off p b r c

/-- Detail 7 of R348 for a loft operand: the pair's index, and what it holds. -/
def pairBad (ws : List W32) (isB : Bool) (sregs : Nat) (sreg : Nat → W64) : Bool :=
  let i := operandIndex ws isB
  if i < 0xC0 ∨ 0xEE < i then true
  else
    let n := i - 0xC0
    let sOk := fun k : Nat => decide (k < sregs) || decide (43 ≤ k)
    let p := sreg (n + 1)
    !(sOk n && sOk (n + 1)) || p.extractLsb' 48 16 != 0 || decide (pitchOf p < rowLength ws isB)
    || pitchOf p % 16 != 0 || tpitchOf p % 16 != 0 || capOff (sreg n) % 16 != 0
    || (!bBatched ws && tpitchOf p != 0)

/-- R348: the lowest detail under which a block is refused, 0 for none. -/
def blockDetail (ws : List W32) (modes : List Nat) (vregs sregs : Nat) (sreg : Nat → W64) : Nat :=
  let nb := bK ws / 32
  let regBad := fun isB => !operandLoft ws isB &&
    decide (vregs < operandIndex ws isB + operandRegs ws isB)
  if !modes.contains (bMode ws) then 1
  else if (pairK (bA ws) (bB ws)).isNone then 2
  else if (bB ws == 10) != (bPlanes ws != 1) then 3
  else if bScl ws && (bA ws == 6 || decide (min 192 vregs < bSbase ws + scaleRegs ws) || decide (4 < bAsel ws + nb)
      || decide (4 < bBsel ws + nb)) then 4
  else if !bScl ws && (bSbase ws != 0 || bAsel ws != 0 || bBsel ws != 0) then 4
  else if bTB ws && bB ws == 10 then 5
  else if regBad false || regBad true then 6
  else if (bAloft ws && pairBad ws false sregs sreg) || (bBloft ws && pairBad ws true sregs sreg) then 7
  else if blk ws 1 / 256 ≠ 0 ∨ blk ws 2 / 256 ≠ 0 ∨ (ws.drop 3).any (· != 0) then 8
  else 0

/-! ## Images (R340, R62, R63) -/

/-- Columns of a list of rows of length `n`. -/
def columns {α : Type} (n : Nat) (rows : List (List α)) : List (List α) :=
  rows.foldr (fun r acc => List.zipWith (· :: ·) r acc) (List.replicate n [])

/-- The value of an element of an operand type. -/
def operandVal (t code : Nat) : FV :=
  if t = 12 then codeVal 12 code
  else fdecode (if t = 1 then fmtE2M1 else if t = 6 then fmtBF16 else if t = 14 then fmtE4M3 else fmtE5M2) code

/-- The elements of a product of `K` by `N` planes, read to depth p (R62), row `k` by row. -/
def planeVals (p N : Nat) (img : List Byte) : List (List Int) :=
  let ps := (cut (img.length / p) img).map unpackBits
  let vals := (ps.zipIdx).foldl (fun (acc : List Int) q =>
    let w : Int := if q.2 = 0 then -128 else 2 ^ (7 - q.2)
    List.zipWith (fun a (b : Bool) => if b then a + w else a) acc q.1) (List.replicate (8 * (img.length / p)) 0)
  cut N vals

def intVal (z : Int) : FV := .fin (decide (z < 0)) z.natAbs 0

/-- The vectors along k of a product: rows of A, columns of B. -/
def operandRows (ws : List W32) (isB : Bool) (img : List Byte) : List (List FV) :=
  let t := if isB then bB ws else bA ws
  if t = 10 then (columns (bMN ws) (planeVals (bPlanes ws) (bMN ws) img)).map (·.map intVal)
  else
    let vs := (unpackCodes (operandBits t) img).map (operandVal t)
    let along := if isB then bTB ws else !bTA ws
    if along then cut (bK ws) vs else columns (bMN ws) (cut (bMN ws) vs)

/-! ## Terms (R80) -/

/-- The exact sum of two exact values, and whether it is invalid; two zeros give -0 when both are, and a cancellation +0.
Marks: DESIGN CHOICE, unsafe (assumption 84). -/
def xadd (x y : FV) : FV × Bool :=
  match x, y with
  | .nan a, .nan b => (.nan (a || b), false)
  | .nan a, _ => (.nan a, false)
  | _, .nan b => (.nan b, false)
  | .inf a, .inf b => if a = b then (.inf a, false) else (.nan false, true)
  | .inf a, _ => (.inf a, false)
  | _, .inf b => (.inf b, false)
  | .fin n1 m1 e1, .fin n2 m2 e2 =>
    let (z, e) := addExact n1 m1 e1 n2 m2 e2
    if z = 0 then (.fin (n1 && n2) 0 e, false) else (.fin (decide (z < 0)) z.natAbs e, false)

/-- The exact sum of products, and whether it is invalid: taken from the last product to the first, so that of a quiet NaN and
two infinities of unlike signs the order decides whether the sum is invalid.
Marks: DESIGN CHOICE, unsafe (assumption 96). -/
def dotExact : List (FV × FV) → Option FV × Bool
  | [] => (none, false)
  | (x, y) :: ps =>
    let r := dotExact ps
    let sig := x.isSig || y.isSig
    match fmulExact x y with
    | none => (some (.nan false), true)
    | some p =>
      match r.1 with
      | none => (some p, sig || r.2)
      | some q =>
        let s := xadd p q
        (some s.1, sig || s.2 || r.2)

/-- RN to F32 of an exact sum of products times a power of two. -/
def termOf (int : Bool) (sh : Int) (ps : List (FV × FV)) : FRes :=
  match dotExact ps with
  | (some (.fin n m e), iv) =>
    if iv then fnan fmtF32 true
    else if m = 0 ∧ int then (0, 0)
    else fround fmtF32 .rn false n m (e + sh) false
  | (some (.inf n), iv) => if iv then fnan fmtF32 true else (signOf fmtF32 n + fmtF32.infCode, 0)
  | (_, iv) => fnan fmtF32 iv

/-- The scale bytes of a slot, from `sel` on (R61). -/
def scaleAt (scales : List Byte) (slot sel kb : Nat) : Nat := (scales.getD (4 * slot + sel + kb) 0).toNat

/-- The terms of an output element, in increasing k. -/
def termsOf (ws : List W32) (scales : List Byte) (sa sb : Nat) (ps : List (FV × FV)) : List FRes :=
  let int := bB ws == 10
  if bScl ws then
    mapFrom 0 (fun kb q =>
      let ca := scaleAt scales sa (bAsel ws) kb
      let cb := scaleAt scales sb (bBsel ws) kb
      if ca = 255 ∨ cb = 255 then fnan fmtF32 true
      else termOf int ((ca : Int) + cb - 254) q) (cut 32 ps)
  else if int then [termOf true 0 ps]
  else ps.map fun p => fmul fmtF32 .rn false p.1 p.2

/-! ## Chains (R79, R81) -/

/-- The chains and count of an element. -/
structure Chain where
  e : Nat
  o : Nat
  n : Nat
  deriving DecidableEq, Repr

def Chain.add (c : Chain) (t : Nat) : Chain × W32 :=
  if c.n % 2 = 0 then
    let r := fadd fmtF32 .rn false (fdecode fmtF32 c.e) (fdecode fmtF32 t)
    ({ c with e := r.1, n := c.n + 1 }, r.2)
  else
    let r := fadd fmtF32 .rn false (fdecode fmtF32 c.o) (fdecode fmtF32 t)
    ({ c with o := r.1, n := c.n + 1 }, r.2)

/-- Terms added in order, with the flags of every term and addition. -/
def Chain.addAll (c : Chain) (ts : List FRes) : Chain × W32 :=
  ts.foldl (fun acc t =>
    let r := acc.1.add t.1
    (r.1, acc.2 ||| t.2 ||| r.2)) (c, 0)

def Tile.empty : Tile := { e := [], o := [], n := [], flags := 0, latch := false, bad := false }

def Tile.chain (t : Tile) (e : Nat) : Chain :=
  { e := (zget t.e e).toNat, o := (zget t.o e).toNat, n := (mapGet t.n e).getD 0 }

/-- The elements' chains as a tile; words of zero and counts of 0 are not listed. -/
def Tile.ofChains (t : Tile) (cs : List Chain) : Tile :=
  { t with
    e := (cs.zipIdx.filter fun p => p.1.e % 2 ^ 32 != 0).map fun p => (p.2, BitVec.ofNat 32 p.1.e)
    o := (cs.zipIdx.filter fun p => p.1.o % 2 ^ 32 != 0).map fun p => (p.2, BitVec.ofNat 32 p.1.o)
    n := (cs.zipIdx.filter fun p => p.1.n != 0).map fun p => (p.2, p.1.n) }

def Tile.chains (t : Tile) : List Chain := (List.range 1024).map t.chain

/-- The terms of every element of a tile, in element order (R334): one list for each element. -/
def allTerms (ws : List W32) (scales a b : List Byte) : List (List FRes) :=
  let prods := (cut (productBytes ws false) a).zip (cut (productBytes ws true) b)
  (prods.zipIdx).flatMap fun p =>
    let rows := operandRows ws false p.1.1
    let cols := operandRows ws true p.1.2
    (rows.zipIdx).flatMap fun i => (cols.zipIdx).map fun j =>
      let sa := if bBatched ws then 8 * p.2 + i.2 else i.2
      let sb := if bBatched ws then 128 + 8 * p.2 + j.2 else 32 + j.2
      termsOf ws scales sa sb (i.1.zip j.1)

/-- R349: an entry's terms added into a tile; the flags are pending (R335). -/
def Tile.mac (t : Tile) (ws : List W32) (scales a b : List Byte) : Tile :=
  let out := (t.chains.zip (allTerms ws scales a b)).map fun p => p.1.addAll p.2
  { t.ofChains (out.map (·.1)) with flags := out.foldl (fun f p => f ||| p.2) t.flags }

/-- R350. -/
def Tile.zero (t : Tile) : Tile := { t with e := [], o := [], n := [], latch := false, bad := false }

/-- R351: E from an image of F32 words. -/
def Tile.load (t : Tile) (words : List W32) : Tile :=
  { t.ofChains (words.map fun w => { e := w.toNat, o := 0, n := 0 }) with latch := false, bad := false }

/-! ## Images of a tile (R351, R353, R369) -/

/-- RN(E + O) to a type. -/
def Chain.out (c : Chain) (f : Fmt) (sat : Bool) : FRes :=
  fadd f .rn sat (fdecode fmtF32 c.e) (fdecode fmtF32 c.o)

/-- An image from the codes of its elements. -/
def imageWords (bf : Bool) (codes : List Nat) : List W32 :=
  if bf then (cut 2 codes).map fun p => BitVec.ofNat 32 (p.getD 0 0 % 65536 + p.getD 1 0 % 65536 * 65536)
  else codes.map (BitVec.ofNat 32 ·)

/-- Codes with the OR of their flags. -/
def gather (rs : List FRes) : List Nat × W32 := (rs.map (·.1), rs.foldl (fun f r => f ||| r.2) 0)

def joinFmt (bf : Bool) : Fmt := if bf then fmtBF16 else fmtF32

/-- The image of a tile and its flags. -/
def Tile.image (t : Tile) (bf sat : Bool) : List W32 × W32 :=
  let r := gather (t.chains.map fun c => c.out (joinFmt bf) sat)
  (imageWords bf r.1, r.2)

/-- E + O, exact, and whether it is invalid. -/
def Chain.exact (c : Chain) : FV × Bool :=
  let x := fdecode fmtF32 c.e
  let y := fdecode fmtF32 c.o
  let r := xadd x y
  (r.1, r.2 || x.isSig || y.isSig)

/-- R369: u + w * (c - u), exact, rounded once. -/
def guided (f : Fmt) (sat : Bool) (w : W32) (c u : Chain) : FRes :=
  let wv := fdecode fmtF32 w.toNat
  let cx := c.exact
  let ux := u.exact
  let d := xadd cx.1 ux.1.neg
  let iv := cx.2 || ux.2 || d.2 || wv.isSig
  match fmulExact wv d.1 with
  | none => fnan f true
  | some p =>
    let g := xadd ux.1 p
    if iv || g.2 then fnan f true else froundV f .rn sat g.1

/-- The guided image and its flags. -/
def guidedImage (bf sat : Bool) (w : W32) (c u : Tile) : List W32 × W32 :=
  let r := gather ((c.chains.zip u.chains).map fun p => guided (joinFmt bf) sat w p.1 p.2)
  (imageWords bf r.1, r.2)

end Sys2Proof.Machine
end

