-- ==== Sys2Proof/Machine/Matrix.lean ====
section
/-! DEFINITION. The matrix engine (R330 to R356) and duet execution (R357 to R370). -/

namespace Sys2Proof.Machine

/-! ## Operands at issue -/

/-- A word of a register image (R341): exited and never-launched lanes read as zero (R333). -/
def Run.imageWord (r : Run) (base k : Nat) : W32 :=
  let x := r.snap.lane (k % 64)
  if x.isLive then x.getV (base + k / 64) else 0

def Run.image (r : Run) (base words : Nat) : List W32 := (List.range words).map (r.imageWord base)

def wordsBytes (ws : List W32) : List Byte := ws.flatMap fun w => bytesOfWord 4 w.toNat

/-- The bytes of a register operand. -/
def Run.regBytes (r : Run) (base n : Nat) : List Byte := wordsBytes (r.image base (ceilDiv n 4))

/-- Write an image into the registers of the warp (R333, R351). -/
def Warp.putImage (w : Warp) (base : Nat) (ws : List W32) : Warp :=
  ws.zipIdx.foldl (fun x p =>
    if (x.lane (p.2 % 64)).isLive then x.put (p.2 % 64) (.v32 (base + p.2 / 64)) (p.1.zeroExtend 64) false else x) w

/-- The s-register of an index word, and the one after it. -/
def Run.pair (r : Run) (ws : List W32) (isB : Bool) : W64 × W64 :=
  let n := operandIndex ws isB - 0xC0
  (r.snap.getS n, r.snap.getS (n + 1))

/-- The s-registers of the loft pairs whose index is legal (R342).
Marks: DEDUCED, unsafe (assumption 32). -/
def pairRegs (ws : List W32) : List Nat :=
  [false, true].flatMap fun isB =>
    let i := operandIndex ws isB
    if operandLoft ws isB ∧ 0xC0 ≤ i ∧ i ≤ 0xEE then [i - 0xC0, i - 0xC0 + 1] else []

/-- R344: the first test of R97 that an operand fails, at its first byte that fails it.
Marks: DEDUCED, unsafe (assumption 32). -/
def State.operandFault (s : State) (r : Run) (ws : List W32) (isB : Bool) : Option Flt :=
  if !operandLoft ws isB then none
  else
    let (cap, p) := r.pair ws isB
    let offs := loftBytes ws isB (capOff cap) p
    let len := ((s.obj r.g.ctx (capObj cap)).map (·.len)).getD 0
    let first := offs.headD 0
    let far := (offs.find? fun a => decide (len < a + 1)).getD first
    match s.checkHeld r.g cap far 1 rightRD [.loft] false false with
    | .ok (o, _) =>
      if (s.hops r.g.die (o.placed.getD 0)).isNone then
        some { code := .dieAbsent, s45 := BitVec.ofNat 64 o.ldie } else none
    | .error c =>
      let ldie := ((s.obj r.g.ctx (capObj cap)).map (·.ldie)).getD 0
      some { code := c, s45 := capS45 cap ldie (if c = .rights then first else far) c }

/-- Registers of an operand with an uncorrectable error in any lane of the warp (R440). -/
def Run.badRegs (r : Run) (base n : Nat) : Bool :=
  r.snap.regErr.any fun e => decide (base ≤ e.2) && decide (e.2 < base + n) && (r.snap.lane e.1).isLive

/-- The block's register operands and scales with an error.
Marks: DEDUCED, unsafe (assumption 35). -/
def Run.badOperands (r : Run) (ws : List W32) : Bool :=
  ([false, true].any fun isB => !operandLoft ws isB && r.badRegs (operandIndex ws isB) (operandRegs ws isB))
  || (bScl ws && r.badRegs (bSbase ws) (scaleRegs ws))
  || (pairRegs ws).any fun n => r.snap.regErr.contains (64, n) || r.snap.regErr.contains (65, n)

/-! ## Appending (R330, R331) -/

/-- The lanes that wait for a matrix entry. -/
def State.atEntry (s : State) (e : MEntry) (w : Wait) : W64 := (s.warp e.gid e.warp).where fun x => x.wait == w

/-- The entries that wait enter the queue while it holds less than 8, first come first served; the lanes that stall for
an entry that has its place leave its instruction (R330, R362).
Marks: DESIGN CHOICE, unsafe (assumption 36). -/
def State.fillQueue (die core : Nat) : Nat → State → State
  | 0, s => s
  | n + 1, s =>
    let c := s.core die core
    match c.waiting with
    | [] => s
    | e :: rest =>
      if 8 ≤ c.queue.length then s
      else
        let e := { e with entered := e.entered <|> some s.stamp }
        let s := (s.modCore die core fun c => { c with queue := c.queue ++ [e], waiting := rest }).nextStamp
        State.fillQueue die core n (s.leave e.gid e.warp (s.atEntry e (.queue e.id)))

/-- Fill the queue of a core. -/
def State.fill (s : State) (die core : Nat) : State :=
  State.fillQueue die core (s.core die core).waiting.length s

/-- Does a new entry have a place in the queue of the group's core (R330)? -/
def State.hasPlace (s : State) (g : Group) : Bool :=
  let c := s.core g.die g.core
  c.waiting.isEmpty && decide (c.queue.length < 8)

/-- An entry enters the queue of the core, or waits for a place in it behind those that wait (R330, R331). -/
def State.append (s : State) (r : Run) (tile : Nat) (op : MOp) (numbered : Bool) (rdv : Rdv) : State :=
  let e : MEntry := { id := s.stamp, entered := none, cycles := 0, numbered := numbered, gid := r.gid, warp := r.w,
                      tile := tile, op := op, rdv := rdv }
  (s.modCore r.g.die r.g.core fun c =>
    if s.hasPlace r.g then { c with queue := c.queue ++ [{ e with entered := some s.stamp }] }
    else { c with waiting := c.waiting ++ [e] }).nextStamp

/-- The run leaves an instruction whose entry has a place in the queue, and stalls at one whose entry waits for it. -/
def State.pass (s : State) (r : Run) (place : Bool) (id : Nat) : State :=
  if place then s.advance r r.ls else s.hold r r.ls (.queue id)

/-- Append an entry that is not held, for the run that issues. -/
def State.enter (s : State) (r : Run) (tile : Nat) (op : MOp) : State :=
  (s.append r tile op false .free).pass r (s.hasPlace r.g) s.stamp

def accRange (t : Nat) : Flt := { code := .accRange, s45 := BitVec.ofNat 64 t }

/-- The tile of a destination field. -/
def Run.tile (r : Run) : Nat := r.o.d.toNat

/-! ## MMA, MMAB (R346 to R349) -/

/-- Where the parameter block lies. -/
def Run.blockOff (r : Run) (l : Nat) : Int := (r.rd32 l r.o.a).toNat + r.o.imm.toInt

/-- The faults of R347 before the block is read. -/
def Run.blockFault (r : Run) (l : Nat) : Option Flt :=
  let off := r.blockOff l
  let at45 : W64 := BitVec.ofInt 64 off
  if r.d.acc ≤ r.tile then some (accRange r.tile)
  else if off < 0 ∨ (r.d.shared : Int) < off + 64 then some { code := .bounds, s45 := at45 }
  else if off.toNat % 16 ≠ 0 then some { code := .misaligned, s45 := at45 }
  else none

/-- The lane's own atomics on the block have acted before it reads it (R146). -/
def State.blockSettled (s : State) (r : Run) (l : Nat) : State :=
  s.settleOwn (r.agent l) (.shared r.gid) (r.blockOff l).toNat 64

/-- The block holds an uncorrectable error (R440). -/
def State.blockBad (s : State) (r : Run) (l : Nat) : Bool := s.badRead (.shared r.gid) (r.blockOff l).toNat 64

/-- The words of the block, as the lane reads them. -/
def State.blockWords (s : State) (r : Run) (l : Nat) : List W32 :=
  blockOf (s.readAs (r.agent l) 0 (.shared r.gid) (r.blockOff l).toNat 64)

/-- The detail of the block (R348), 0 for a legal one. -/
def Run.blockDetail (r : Run) (ws : List W32) (modes : List Nat) : Nat :=
  Sys2Proof.Machine.blockDetail ws modes r.d.vregs r.d.sregs r.snap.getS

/-- The parameter block, or the fault of R347; `none` while the run waits for a future-tagged register of a loft pair. -/
def State.matrixRead (s : State) (r : Run) (l : Nat) (modes : List Nat) : State × Except Flt (Option (List W32)) :=
  match r.blockFault l with
  | some f => (s, .error f)
  | none =>
    let t := s.blockSettled r l
    let ws := t.blockWords r l
    let s := t.noteRead (r.agent l) (.shared r.gid) (r.blockOff l).toNat 64 none
    let detail := r.blockDetail ws modes
    let bad : Flt := { code := .illegalField, s45 := BitVec.ofNat 64 detail }
    if t.blockBad r l then (t, .error (eccFlt 3).flt)
    else if detail ≠ 0 ∧ detail < 7 then (s, .error bad)
    else
      let (s, held) := s.tagWait r r.ls r.act (pairRegs ws)
      if !held.isEmpty then (s, .ok none)
      else if detail ≠ 0 then (s, .error bad)
      else if (!bAloft ws || !bBloft ws || bScl ws) && r.missing != 0 then
        (s, .error { code := .maskMismatch, s45 := r.missing })
      else if r.badOperands ws then (s, .error (eccFlt 5).flt)
      else match s.operandFault r ws false with
        | some f => (s, .error f)
        | none => match s.operandFault r ws true with
          | some f => (s, .error f)
          | none => (s, .ok (some ws))

/-- Does the instruction read a future-tagged register of a loft pair (R409)? -/
def State.pairTagged (s : State) (r : Run) (modes : List Nat) : Bool :=
  r.lead.any fun l => (r.blockFault l).isNone && !(s.blockSettled r l).blockBad r l
    && (let ws := (s.blockSettled r l).blockWords r l
        let d := r.blockDetail ws modes
        (d == 0 || decide (7 ≤ d)) && (pairRegs ws).any r.snap.tagged)

/-- What an entry carries: the operands as they stand at issue. -/
def Run.macOp (r : Run) (ws : List W32) : MOp :=
  let bytes := fun (isB : Bool) =>
    if operandLoft ws isB then [] else r.regBytes (operandIndex ws isB) (operandBytes ws isB)
  let a := r.pair ws false
  let b := r.pair ws true
  .mac ws (bytes false) (bytes true) (if bScl ws then r.regBytes (bSbase ws) (256 * scaleRegs ws) else [])
    (if bAloft ws then a.1 else 0) (if bBloft ws then b.1 else 0) (if bAloft ws then a.2 else 0)
    (if bBloft ws then b.2 else 0)

/-- The shape of `MMA`, `MMAB` and `MMAD`: the entry that passes R347 is given to `enter`.  The entry is an engine
operation, and its issue a release of the lane (R133, R355).
Marks: DEDUCED, unsafe (assumption 32). -/
def matrixIssue (modes : List Nat) (enter : Run → List W32 → State → State) (r : Run) (s : State) : State :=
  match r.lead with
  | none => s.advance r r.ls
  | some l =>
    match s.matrixRead r l modes with
    | (s, .error f) => s.failRun r f
    | (s, .ok none) => s
    | (s, .ok (some ws)) =>
      let s := s.drain (·.byLane r.gid r.w l)
      let caps := [false, true].filterMap fun isB => if operandLoft ws isB then some (r.pair ws isB).1 else none
      enter r ws ((s.issueEdge r l [.op s.stamp r.gid]).holdCaps r.g caps)

/-- R349 `MMA`. -/
def execMma (o : Ops) (s : State) : Out :=
  issued (.mma o) .together (matrixIssue [0] fun r ws s => s.enter r r.tile (r.macOp ws)) s

/-- R349 `MMAB`. -/
def execMmab (o : Ops) (s : State) : Out :=
  issued (.mmab o) .together (matrixIssue [1] fun r ws s => s.enter r r.tile (r.macOp ws)) s

/-! ## The rendezvous of MMAD (R360 to R366) -/

/-- The scale bytes of B, in slot order (R61). -/
def bScales (ws : List W32) (scales : List Byte) : List Nat :=
  let slots := if bBatched ws then (List.range 128).map (128 + ·) else (List.range 32).map (32 + ·)
  slots.flatMap fun s => (List.range (bK ws / 32)).map fun kb => scaleAt scales s (bBsel ws) kb

/-- R361: word 0 without ASRC, TA, ASEL and SBASE, the source of B, and its scales. -/
def descriptor (ws : List W32) : MOp → List W64
  | .mac _ _ b scales _ bcap _ bpitch =>
    let w0 := BitVec.ofNat 64 (blk ws 0) &&& 0x00AC_FFFF#64
    let src := if bBloft ws then [bcap, bpitch.extractLsb' 0 48 |>.zeroExtend 64]
      else b.map fun x => x.zeroExtend 64
    w0 :: src ++ (if bScl ws then (bScales ws scales).map (BitVec.ofNat 64 ·) else [])
  | _ => []

/-- Release an entry of the partner, and mark the pair split (R362, R365). -/
def State.freeHeld (s : State) (pid : Nat) (p : Group) (e : MEntry) : State :=
  (s.releaseEntry pid p e .free).setSplit p true

/-- R362, for the run that issues: the rendezvous acts before the wait for a place in the queue.
Marks: DESIGN CHOICE, unsafe (assumption 36). -/
def rendezvousMmad (r : Run) (ws : List W32) (s : State) : State :=
  let op := r.macOp ws
  if !r.d.isDuet then s.enter r r.tile op
  else
    let q := (s.warp r.gid r.w).pairing + 1
    let seq := q.toNat
    let desc := descriptor ws op
    let mine := s.stamp
    let s := s.modWarp r.gid r.w fun w => { w with pairing := q }
    let place := s.hasPlace r.g
    let alone := fun (s : State) => ((s.append r r.tile op true .free).setSplit r.g true).pass r place mine
    match s.partner r.g with
    | none => alone s
    | some (pid, p) =>
      let mate := (s.heldBy pid p r.w).find? fun e => match e.rdv with | .held n _ => n == seq | _ => false
      match mate with
      | some e =>
        if e.rdv == .held seq desc then
          let s := (s.append r r.tile op true (.paired e.id)).pass r place mine
          s.releaseEntry pid p e (.paired mine)
        else (alone s).freeHeld pid p e
      | none =>
        if seq ≤ (p.warp r.w).pairing.toNat ∨ s.parted pid r.w then alone s
        else (s.append r r.tile op true (.held seq desc)).block r r.ls (.duet mine)

/-- R366 `MMAD`. -/
def execMmad (o : Ops) (s : State) : Out :=
  issued (.mmad o) .together (matrixIssue [2, 3] rendezvousMmad) s

/-! ## ACCZ and ACCI (R350, R351) -/

/-- R350 `ACCZ`. -/
def execAccz (o : Ops) (s : State) : Out :=
  issued (.accz o) .together (fun r s =>
    match r.lead with
    | none => s.advance r r.ls
    | some _ => if r.d.acc ≤ r.tile then s.failRun r (accRange r.tile) else s.enter r r.tile .zero) s

/-- The words of an image, BF16 widened (R351). -/
def widen (bf : Bool) (ws : List W32) : List W32 :=
  if bf then ws.flatMap fun (w : W32) => [w <<< 16, w &&& 0xFFFF0000#32] else ws

/-- R351 `ACCI`.
Marks: DEDUCED, unsafe (assumption 33). -/
def execAcci (o : Ops) (m : StdMod) (s : State) : Out :=
  issued (.acci o m) .together (fun r s =>
    let bf := m.ty == .bf16
    match r.lead with
    | none => s.advance r r.ls
    | some _ =>
      if r.d.acc ≤ r.tile then s.failRun r (accRange r.tile)
      else if r.missing ≠ 0 then s.failRun r { code := .maskMismatch, s45 := r.missing }
      else s.enter r r.tile (.init (widen bf (r.image r.o.a.toNat (if bf then 512 else 1024))))) s

/-! ## Joins (R353, R369) -/

def Group.tile (g : Group) (t : Nat) : Tile := (mapGet g.tiles t).getD Tile.empty

def State.modTile (s : State) (gid t : Nat) (f : Tile → Tile) : State :=
  s.modGroup gid fun g => { g with tiles := mapSet g.tiles t (f (g.tile t)) }

/-- What a join of the tile finds in error (R336, R439): accumulator memory, or the loft data of an entry.
Marks: DEDUCED, unsafe (assumption 35). -/
def Tile.fault (t : Tile) : Option Flt :=
  if t.bad then some (eccFlt 6).flt else if t.latch then some (eccFlt 1).flt else none

/-- An error of accumulator memory is remembered for the repair at reset (R442).
Marks: DEDUCED, unsafe (assumption 35). -/
def State.noteAcc (s : State) (g : Group) (f : Flt) : State :=
  if f = (eccFlt 6).flt then s.modCore g.die g.core fun c => { c with accErr := true } else s

/-- The tile that a join includes (R145): as the entries before it left it. -/
def JoinArgs.of (a : JoinArgs) (g : Group) : Tile := a.snap.getD (g.tile a.tile)

/-- The issue order of a join of the tile that leaves out what enters at `n`, and still reads the tile itself. -/
def Wait.leavesOut (tile n : Nat) : Wait → Option Nat
  | .join u a | .accg (some u) a => if u ≤ n ∧ a.tile = tile ∧ a.snap.isNone then some u else Option.none
  | _ => Option.none

/-- The join keeps the tile that it includes. -/
def Wait.keepTile (t : Tile) : Wait → Wait
  | .join u a => .join u { a with snap := some t }
  | .accg u a => .accg u { a with snap := some t }
  | x => x

/-- Before an entry that entered at `n` changes a tile, the joins that leave it out keep the tile as it is, the first of
them with its pending flags (R145, R369).
Marks: DEDUCED, unsafe (assumption 34). -/
def State.capture (s : State) (gid tile n : Nat) : State :=
  match s.group gid with
  | none => s
  | some g =>
    match listMin (g.warps.flatMap fun w => w.lanes.filterMap fun x => x.wait.leavesOut tile n) with
    | none => s
    | some first =>
      let t := g.tile tile
      let one := fun (x : Lane) => match x.wait.leavesOut tile n with
        | none => x
        | some u => { x with wait := x.wait.keepTile (if u = first then t else { t with flags := 0 }) }
      s.modGroup gid fun g =>
        { g with warps := g.warps.map fun w => { w with lanes := w.lanes.map one }
                 tiles := mapSet g.tiles tile { t with flags := 0 } }

/-- The image written and the flags taken by one warp; its lanes leave. -/
def State.endJoin (s : State) (gid w : Nat) (a : JoinArgs) (p : Wait → Bool) (images : List (Nat × List W32))
    (flags : W32) : State :=
  let pending := ((s.group gid).map fun g => (a.of g).flags).getD 0
  let s := s.modWarp gid w fun x =>
    (images.foldl (fun (y : Warp) i => y.putImage i.1 i.2) x).orFlags (flags ||| pending)
  let s := if a.snap.isSome then s else s.modTile gid a.tile fun t => { t with flags := 0 }
  s.leave gid w ((s.warp gid w).where fun x => p x.wait)

/-- A join that faults leaves the tile its pending flags (R336). -/
def State.giveBack (s : State) (gid : Nat) (a : JoinArgs) : State :=
  match a.snap with
  | none => s
  | some t => s.modTile gid a.tile fun x => { x with flags := x.flags ||| t.flags }

/-- Does a lane wait at an `ACCO` of this issue order? -/
def Wait.isJoin (upto : Nat) : Wait → Bool
  | .join u _ => u == upto
  | _ => false

/-- Does a lane wait at an `ACCG` whose pair is complete? -/
def Wait.isAccg (upto : Nat) : Wait → Bool
  | .accg (some u) _ => u == upto
  | _ => false

/-- R353: the entries before the join have executed. -/
def State.doneAcco (s : State) (gid w upto : Nat) (a : JoinArgs) : State :=
  match s.group gid with
  | none => s
  | some g =>
    match (a.of g).fault with
    | some f => ((s.noteAcc g f).giveBack gid a).failJoin gid w (Wait.isJoin upto) f
    | none =>
      let (img, fl) := (a.of g).image a.bf a.sat
      s.endJoin gid w a (Wait.isJoin upto) [(a.base, img)] fl

/-- What a warp waits with. -/
def Warp.joinArgs (w : Warp) (p : Wait → Bool) : Option JoinArgs :=
  (w.lanes.find? fun x => p x.wait).bind fun x => match x.wait with
    | .join _ a | .accg _ a => some a
    | _ => none

/-- R369: both partners have issued and every entry before the later issue has executed. -/
def State.doneAccg (s : State) (cid uid : Nat) (cg ug : Group) (w upto : Nat) (ca ua : JoinArgs) : State :=
  let p := Wait.isAccg upto
  let ct := ca.of cg
  let ut := ua.of ug
  match (ct.fault <|> ut.fault) with
  | some f =>
    let s := (if ct.fault.isSome then s.noteAcc cg f else s.noteAcc ug f)
    let s := (s.giveBack cid ca).giveBack uid ua
    (s.failJoin cid w p f).failJoin uid w p f
  | none =>
    let n := imageRegs (if ca.bf then .bf16 else .f32)
    let (g, gf) := guidedImage ca.bf ca.sat ca.weight ct ut
    let (c, cf) := ct.image ca.bf ca.sat
    let (u, uf) := ut.image ca.bf ca.sat
    let s := s.endJoin cid w ca p ((ca.base, g) :: (if ca.both then [(ca.base + n, c)] else []))
      (if ca.both then gf ||| cf else gf)
    s.endJoin uid w ua p (if ca.both then [(ua.base, u)] else []) (if ca.both then uf else 0)

/-- A join that waits in a warp: its issue order, and whether it is `ACCG`. -/
def Warp.join? (w : Warp) : Option (Nat × Bool) :=
  w.lanes.findSome? fun x => match x.wait with
    | .join u _ => some (u, false)
    | .accg (some u) _ => some (u, true)
    | _ => none

/-- A group on its core, going on. -/
def State.onCore (s : State) (gid : Nat) : Option Group := (s.group gid).filter fun g => g.res == .resident

/-- End one join, if every entry that it waits for has executed; a join of a group that is not going on waits (R354).
Marks: DEDUCED, unsafe (assumption 34). -/
def State.tryJoin (s : State) (upto gid w : Nat) (isG : Bool) : State :=
  match s.onCore gid with
  | none => s
  | some g =>
    let p := if isG then Wait.isAccg upto else Wait.isJoin upto
    match (g.warp w).joinArgs p with
    | none => s
    | some a =>
      if s.entriesOn gid g a.tile upto ≠ 0 then s
      else if !isG then s.doneAcco gid w upto a
      else match s.partner g with
        | none => s
        | some (pid, pg) => match ((s.onCore pid).bind fun _ => (pg.warp w).joinArgs p) with
          | none => s
          | some b =>
            if s.entriesOn pid pg a.tile upto ≠ 0 then s
            else if g.lin % 2 = 0 then s.doneAccg gid pid g pg w upto a b
            else s.doneAccg pid gid pg g w upto b a

/-- End every join on a core that can end, in issue order.
Marks: DEDUCED, unsafe (assumption 34). -/
def State.joins (s : State) (die core : Nat) : State :=
  let all := s.groups.flatMap fun p =>
    if p.2.die == die && p.2.core == core then
      (p.2.warps.zipIdx).filterMap fun q => q.1.join?.map fun j => (j.1, p.1, q.2, j.2)
    else []
  (sortBy (fun (x : Nat × Nat × Nat × Bool) => x.1) all).foldl (fun s x => s.tryJoin x.1 x.2.1 x.2.2.1 x.2.2.2) s

/-- The run waits at the join, each lane with what it issued with; a join that can end does so at once. -/
def State.awaitJoin (s : State) (r : Run) (wait : JoinArgs → Wait) (a : JoinArgs) : State :=
  let s := s.modWarp r.gid r.w fun w => w.modLanes (maskOf r.ls) fun l x =>
    { x with wait := wait { a with act := r.isAct l } }
  (s.nextStamp.joins r.g.die r.g.core).partCheck r.gid r.w

/-- The operands of a join. -/
def Run.joinArgs (r : Run) (m : StdMod) (weight : W32) : JoinArgs :=
  { base := r.o.d.toNat, tile := r.o.imm.toNat % 32, bf := m.ty == .bf16, sat := m.sat, both := m.w, weight := weight,
    act := true, snap := none }

/-- R353 `ACCO`.
Marks: DEDUCED, unsafe (assumption 33). -/
def execAcco (o : Ops) (m : StdMod) (s : State) : Out :=
  issued (.acco o m) .together (fun r s =>
    let a := r.joinArgs m 0
    match r.lead with
    | none => s.advance r r.ls
    | some _ =>
      if r.d.acc ≤ a.tile then s.failRun r (accRange a.tile)
      else if r.missing ≠ 0 then s.failRun r { code := .maskMismatch, s45 := r.missing }
      else if r.d.vregs < a.base + imageRegs m.ty then s.failRun r { code := .illegalField, s45 := 0 }
      else s.awaitJoin r (.join s.stamp) a) s

/-- The modifier and the tile of an `ACCG` as s45 of R368 reports them. -/
def JoinArgs.word (a : JoinArgs) : W64 :=
  BitVec.ofNat 64 ((((if a.bf then 6 else 4) * 512 + (if a.sat then 2 else 0) + (if a.both then 1 else 0)) * 256)
    + a.tile)

/-- Do two partners agree (R368)? -/
def JoinArgs.agrees (a b : JoinArgs) : Bool := a.word == b.word

def barMismatch (a : JoinArgs) : Flt := { code := .barrierMismatch, s45 := a.word }

/-- Does a lane wait at `ACCG` for the partner's issue? -/
def Wait.isFirst : Wait → Bool
  | .accg Option.none _ => true
  | _ => false

/-- R368: the meeting of the partners. -/
def State.meetAccg (s : State) (r : Run) (a : JoinArgs) : State :=
  match s.partner r.g with
  | none => s.failRun r { code := .duetAbsent, s45 := 0 }
  | some (pid, pg) =>
    if !r.d.isDuet || (pg.warp r.w).real == 0 then s.failRun r { code := .duetAbsent, s45 := 0 }
    else match (pg.warp r.w).joinArgs Wait.isFirst with
      | none => s.awaitJoin r (Wait.accg Option.none) a
      | some b =>
        if !a.agrees b then
          (s.failRun r (barMismatch b)).failJoin pid r.w Wait.isFirst (barMismatch a)
        else
          let upto := s.stamp
          let s := s.modWarp pid r.w fun w => w.modLanes (w.where fun x => x.wait.isFirst) fun _ x =>
            match x.wait with
            | .accg _ c => { x with wait := .accg (some upto) c }
            | _ => x
          s.awaitJoin r (Wait.accg (some upto)) a

/-- R367, R368 `ACCG`.
Marks: DEDUCED, unsafe (assumption 33). -/
def execAccg (o : Ops) (m : StdMod) (s : State) : Out :=
  issued (.accg o m) .together (fun r s =>
    match r.lead with
    | none => s.advance r r.ls
    | some l =>
      let a := r.joinArgs m (r.rd32 l r.o.a)
      if r.d.acc ≤ a.tile then s.failRun r (accRange a.tile)
      else if r.missing ≠ 0 then s.failRun r { code := .maskMismatch, s45 := r.missing }
      else s.meetAccg r a) s

/-! ## MATRIX_ENTRY_EXECUTE (R349, R363, R364) -/

def Rdv.isHeld : Rdv → Bool
  | .held _ _ => true
  | _ => false

/-- Does the entry wait, with these ahead of it in the queue (R363, R364): held, or the later of a pair whose earlier entry
is still there? -/
def MEntry.blocked (e : MEntry) (before : List MEntry) : Bool :=
  match e.rdv with
  | .held _ _ => true
  | .paired other => before.any fun x => x.id == other
  | .free => false

/-- The entries of a queue that wait. -/
def blockedIn (q : List MEntry) : List (MEntry × Nat) := q.zipIdx.filter fun p => p.1.blocked (q.take p.2)

/-- R363, R364: the entry that the engine executes next: the first that does not wait, with none that waits ahead of it
on its tile. -/
def nextEntry (q : List MEntry) : Option MEntry :=
  let bs := blockedIn q
  (q.zipIdx.find? fun p => !(bs.any fun b =>
    b.2 == p.2 || (decide (b.2 < p.2) && b.1.gid == p.1.gid && b.1.tile == p.1.tile))).map (·.1)

/-- The engine operation of an entry. -/
def MEntry.agent (e : MEntry) : Agent := .op e.id e.gid

/-- Bytes of an operand as the entry reads them at their homes (R343, R355), or none on an uncorrectable error (R336). -/
def State.operandImage (s : State) (by_ : Agent) (c : Nat) (ws : List W32) (isB : Bool) (cap pitch : W64)
    (reg : List Byte) : Option (List Byte) :=
  if !operandLoft ws isB then some reg
  else match s.obj c (capObj cap) with
    | none => none
    | some o =>
      let sp := Space.loft (o.placed.getD 0)
      let offs := (loftBytes ws isB (capOff cap) pitch).map (o.base + ·)
      if (s.errUnits sp) != [] && offs.any fun a => s.badRead sp a 1 then none
      else some (offs.flatMap fun a => s.readAs by_ 0 sp a 1)

/-- Block word 0 with B in registers. -/
def asRegisters (ws : List W32) : List W32 := (ws.headD 0 &&& ~~~0x0020_0000#32) :: ws.drop 1

/-- What a read of B that a pair shares may not miss: what happens-before either entry (R364). -/
def State.mateEdge (s : State) (e : MEntry) : State :=
  match e.rdv with
  | .paired other => s.teach (fun x => x.known.any fun a => match a with | .op id _ => id == other | _ => false) [e.agent]
  | _ => s

/-- The effect of an entry on its tile, and what its mate's B becomes: unchanged, an image, or an error. -/
def State.runEntry (s : State) (c : Nat) (e : MEntry) : State × Option (Option (List Byte)) :=
  let s := s.capture e.gid e.tile (e.entered.getD 0)
  match e.op with
  | .zero => (s.modTile e.gid e.tile Tile.zero, none)
  | .init img => (s.modTile e.gid e.tile fun t => t.load img, none)
  | .failed => (s.modTile e.gid e.tile fun t => { t with latch := true }, none)
  | .mac ws a b scales acap bcap apitch bpitch =>
    let ia := s.operandImage e.agent c ws false acap apitch a
    let ib := (s.mateEdge e).operandImage e.agent c ws true bcap bpitch b
    let bad := (s.group e.gid).any fun g => (g.tile e.tile).bad
    let s := s.modTile e.gid e.tile fun t =>
      match ia, ib with
      | some x, some y => if bad then { t with latch := true } else t.mac ws scales x y
      | _, _ => { t with latch := true }
    (s, if bBloft ws then some ib else none)

/-- The mate of a paired entry takes the B bytes that were read once.
Marks: DESIGN CHOICE, unsafe (assumption 36). -/
def MEntry.takeB (e : MEntry) (b : Option (Option (List Byte))) : MEntry :=
  { e with
    rdv := .free
    op := match b, e.op with
      | some (some y), .mac ws a _ scales acap _ apitch _ => .mac (asRegisters ws) a y scales acap 0 apitch 0
      | some none, .mac .. => .failed
      | _, op => op }

/-- An entry leaves its queue and runs; those that wait for its place follow. -/
def State.execEntry (s : State) (die core : Nat) (e : MEntry) : State × Option (Option (List Byte)) :=
  let c := ((s.group e.gid).map (·.ctx)).getD 0
  let s := s.modCore die core fun k => { k with queue := k.queue.filter fun x => x.id != e.id }
  let r := s.runEntry c e
  ((r.1.unlearn e.agent).fill die core, r.2)

/-- The mate of an entry that has run runs with it, or in its own turn where an entry of its tile is ahead of it or where it
has no place in the queue yet (R364).
Marks: DESIGN CHOICE, unsafe (assumption 36). -/
def State.runMate (s : State) (die core other : Nat) (b : Option (Option (List Byte))) : State :=
  let one := fun (x : MEntry) => if x.id == other then x.takeB b else x
  let s := s.modCore die core fun k => { k with queue := k.queue.map one, waiting := k.waiting.map one }
  let q := (s.core die core).queue
  match q.find? fun x => x.id == other with
  | none => s
  | some m =>
    let before := q.takeWhile fun x => x.id != other
    if before.any fun x => x.gid == m.gid && x.tile == m.tile then s else (s.execEntry die core m).1

/-- The engine of a core executes an entry, and with it its pair (R349, R364). -/
def State.matrixRun (s : State) (die core : Nat) (e : MEntry) : State :=
  let r := s.execEntry die core e
  match e.rdv with
  | .paired other => r.1.runMate die core other r.2
  | _ => r.1

/-- The engine executes an entry, and the joins that waited for it end. -/
def State.matrixStep (s : State) (die core : Nat) (e : MEntry) : State := (s.matrixRun die core e).joins die core

/-- `MATRIX_ENTRY_EXECUTE`. -/
def execMatrixEntryExecute (die core : Nat) (s : State) : Out :=
  let s := s.fill die core
  .next <| match nextEntry (s.core die core).queue with
    | none => s
    | some e => s.matrixStep die core e

/-- A group whose warps are on a core, whether it goes on or is halted (R47). -/
def State.seated (s : State) (gid : Nat) : Option Group :=
  (s.group gid).filter fun g => g.res == .resident || g.res == .halted

/-- A core has gone on for one more cycle in which its held entries wait, and the entries that have waited for 4,096 are
released unpaired (R362).
Marks: DESIGN CHOICE, unsafe (assumption 36). -/
def State.holdCycle (s : State) (die core : Nat) : State :=
  if !((s.core die core).entries.any fun e => e.rdv.isHeld) then s
  else
    let one := fun (e : MEntry) => if e.rdv.isHeld then { e with cycles := e.cycles + 1 } else e
    let s := s.modCore die core fun c => { c with queue := c.queue.map one, waiting := c.waiting.map one }
    ((s.core die core).entries.filter fun e => e.rdv.isHeld && decide (4096 ≤ e.cycles)).foldl (fun s e =>
      match s.seated e.gid with
      | none => s
      | some g => s.freeHeld e.gid g e) s

/-- R362 `DUET_BOUND_EXPIRY`: the earliest held entry of the warp is released unpaired. -/
def execDuetBoundExpiry (gid warp : Nat) (s : State) : Out :=
  .next <| match s.seated gid with
    | none => s
    | some g => match s.heldBy gid g warp with
        | [] => s
        | e :: _ => (s.modEntry g e.id fun x => { x with cycles := 4096 }).freeHeld gid g e

end Sys2Proof.Machine
end

