-- ==== Sys2Proof/Machine/Scrim.lean ====
section
/-! DEFINITION. Crossing between dies (R371 to R392, R469): banks, the arithmetic of a crossing, `CROSS`, `CROSSB`,
`XBANK`, `XSTAT`, and their events. -/

namespace Sys2Proof.Machine

/-! ## Bank records (R377) -/

def brByte (bs : List Byte) (i : Nat) : Nat := (bs.getD i 0).toNat
def brRole (bs : List Byte) : Nat := brByte bs 1 % 2
def brBf (bs : List Byte) : Bool := (brByte bs 1).testBit 1
def brK (bs : List Byte) : Nat := brByte bs 2
def brM (bs : List Byte) : Nat := brByte bs 3
def brSh (bs : List Byte) : Nat := brByte bs 4

/-- The header of a record is legal. -/
def brOk (bs : List Byte) : Bool :=
  brByte bs 0 == 0xC5 && decide (brByte bs 1 < 4) && decide (1 ≤ brK bs ∧ brK bs ≤ 64)
  && decide (1 ≤ brM bs ∧ brM bs ≤ 32) && decide (brSh bs ≤ if brBf bs then 0 else 31)
  && ((bs.drop 5).take 11).all (· == 0)

/-- Rows and columns of the weights: an encoder has m rows of k, a decoder k rows of m. -/
def brRows (bs : List Byte) : Nat := if brRole bs = 0 then brM bs else brK bs
def brCols (bs : List Byte) : Nat := if brRole bs = 0 then brK bs else brM bs

/-- Where the biases start. -/
def brBias (bs : List Byte) : Nat :=
  if brBf bs then 16 + 2 * (brRows bs * brCols bs) else ceilDiv (16 + brRows bs * brCols bs) 4 * 4

def brSize (bs : List Byte) : Nat := brBias bs + brRows bs * (if brBf bs then 2 else 4)

/-- The weights, row by row: INT8 values. -/
def brInts (bs : List Byte) : List (List Int) :=
  cut (brCols bs) (((bs.drop 16).take (brRows bs * brCols bs)).map fun b => b.toInt)

/-- The weights of a BF16 record: BF16 codes. -/
def brCodes (bs : List Byte) : List (List Nat) :=
  cut (brCols bs) ((cut 2 ((bs.drop 16).take (2 * (brRows bs * brCols bs)))).map leNat)

/-- One bias a row: S32 values, or BF16 codes. -/
def brBiasInts (bs : List Byte) : List Int :=
  (cut 4 ((bs.drop (brBias bs)).take (4 * brRows bs))).map fun b => toNum 32 true (leNat b)
def brBiasCodes (bs : List Byte) : List Nat := (cut 2 ((bs.drop (brBias bs)).take (2 * brRows bs))).map leNat

/-! ## Arithmetic (R378 to R380, R386) -/

/-- What one vector gives: the outputs, y, and the elements counted as SAT and NAN. -/
structure Crossed where
  out : List Nat
  y : List Nat
  sat : Nat
  nan : Nat
  deriving DecidableEq, Repr

/-- R378 `rshift_round`. -/
def rshiftRound (v : Int) (s : Nat) : Int := if s = 0 then v else (v + 2 ^ (s - 1)) / 2 ^ s

def sat8 (v : Int) : Int := max (-128) (min 127 v)

/-- One side of the integer path: its outputs, and how many `sat8` changed. -/
def intSide (bs : List Byte) (x : List Int) : List Int × Nat :=
  let r := ((brInts bs).zip (brBiasInts bs)).map fun p =>
    rshiftRound ((List.zipWith (· * ·) p.1 x).sum + p.2) (brSh bs)
  (r.map sat8, (r.filter fun v => sat8 v != v).length)

def byteNat (v : Int) : Nat := (v % 256).toNat

/-- R378 for one vector. -/
def crossInt (enc dec : List Byte) (x : List Int) : Crossed :=
  let y := intSide enc x
  let o := intSide dec y.1
  { out := o.1.map byteNat, y := y.1.map byteNat, sat := y.2 + o.2, nan := 0 }

/-- An F32 code of a BF16 code. -/
def wide (c : Nat) : Nat := c * 65536

def f32 (c : Nat) : FV := fdecode fmtF32 c

/-- RN(a + RN(w * x)) in F32. -/
def macF32 (a w x : Nat) : Nat := (fadd fmtF32 .rn false (f32 a) (f32 (fmul fmtF32 .rn false (f32 w) (f32 x)).1)).1

/-- RN(a + w * x), the product exact. -/
def fmaF32 (a w x : Nat) : Nat := (ffma fmtF32 .rn false (f32 w) (f32 x) (f32 a)).1

def toBF16 (c : Nat) : Nat := (fconvert fmtBF16 .rn false (f32 c)).1

def nans (f : Fmt) (cs : List Nat) : Nat := (cs.filter fun c => (fdecode f c).isNaN).length

/-- R379 for one vector. -/
def crossBf (enc dec : List Byte) (x : List Nat) : Crossed :=
  let s := ((brCodes enc).zip (brBiasCodes enc)).map fun p =>
    (p.1.zip x).foldl (fun a q => fmaF32 a (wide q.1) (wide q.2)) (wide p.2)
  let code := blockCode .e4m3 (amax (s.map f32))
  let q := s.map fun v => quantise .e4m3 .rn code (f32 v)
  let yv := q.map fun v => (expandN .e4m3 .rn code v.1).1
  let out := ((brCodes dec).zip (brBiasCodes dec)).map fun p =>
    toBF16 ((p.1.zip yv).foldl (fun a v => macF32 a (wide v.1) v.2) (wide p.2))
  { out := out, y := q.map (·.1) ++ [code], sat := (q.filter fun v => v.2 &&& fSAT != 0).length,
    nan := nans fmtE4M3 (q.map (·.1)) + nans fmtBF16 out }

/-- The weights as F32 codes; an INT8 weight is w * 2^(-SH). -/
def brF32 (bs : List Byte) : List (List Nat) :=
  if brBf bs then (brCodes bs).map (·.map wide)
  else (brInts bs).map (·.map fun w => (fround fmtF32 .rn false (decide (w < 0)) w.natAbs (-(brSh bs : Int)) false).1)

/-- Column sums of R386: for each column, a := RN(a + RN(W * v)) down the rows. -/
def backSide (bs : List Byte) (v : List Nat) : List Nat :=
  (columns (brCols bs) (brF32 bs)).map fun col => toBF16 ((col.zip v).foldl (fun a q => macF32 a q.1 (wide q.2)) 0)

/-- R386 for one vector: the decoder of the issuing die, then the encoder of the destination. -/
def crossBack (dec enc : List Byte) (g : List Nat) : Crossed :=
  let h := backSide dec g
  let out := backSide enc h
  { out := out, y := [], sat := 0, nan := nans fmtBF16 h + nans fmtBF16 out }

/-! ## Banks (R375, R376) -/

def Bank.empty : Bank := { holder := none, recs := [] }

def State.bank (s : State) (die b : Nat) : Bank := (mapGet (s.die die).banks b).getD Bank.empty

def State.modBank (s : State) (die b : Nat) (f : Bank → Bank) : State :=
  s.modDie die fun d => { d with banks := mapSet d.banks b (f ((mapGet d.banks b).getD Bank.empty)) }

/-- A context's own record of a bank, resident or saved. -/
def State.bankRec (s : State) (c die b : Nat) : Option (List Byte) :=
  ((s.bank die b).recs.find? fun r => r.ctx == c).map (·.bytes)

/-- Units of 64 KiB in a context's frame pool (R449). -/
def Ctx.poolUnits (x : Ctx) : Nat := (x.pool.map (·.2)).sum

/-- The saved banks in a unit of a context's bank save area (R376). -/
def State.inUnit (s : State) (c u : Nat) : Nat :=
  (s.dies.map fun d => (d.banks.map fun p => (p.2.recs.filter fun r => r.ctx == c && r.saved == some u).length).sum).sum

/-- The unit that takes the next saved bank (R376): one with room, or else a new one.
Marks: DEDUCED, unsafe (assumption 38). -/
def State.openUnit (s : State) (c : Nat) : Nat :=
  let us := List.range 2049
  ((us.find? fun u => decide (0 < s.inUnit c u ∧ s.inUnit c u < 8)).orElse fun _ =>
    us.find? fun u => s.inUnit c u == 0).getD 0

/-- A context's own record of a bank is in a unit of its save area, or in none. -/
def State.markSaved (s : State) (c die b : Nat) (u : Option Nat) : State :=
  s.modBank die b fun k => { k with recs := k.recs.map fun r => if r.ctx == c then { r with saved := u } else r }

/-- Save a context's record; none when that takes a unit and its pool is full (R376). -/
def State.saveRec (s : State) (c die b : Nat) : Option State :=
  let u := s.openUnit c
  let fresh := s.inUnit c u == 0
  if fresh && ((s.ctx c).map fun x => decide (x.poolUnits ≤ x.used)).getD false then none
  else some ((s.markSaved c die b (some u)).modCtx c fun x => { x with used := x.used + if fresh then 1 else 0 })

/-- A context's record leaves its save area; the last of a unit frees it (R376). -/
def State.restoreRec (s : State) (c die b : Nat) : State :=
  match ((s.bank die b).recs.find? fun r => r.ctx == c).bind (·.saved) with
  | none => s
  | some u =>
    let t := s.markSaved c die b none
    t.modCtx c fun x => { x with used := x.used - if t.inUnit c u = 0 then 1 else 0 }

/-- Save the contents of another holder before context `c` takes the bank; none when its pool is full. -/
def State.evict (s : State) (c die b : Nat) : Option State :=
  match (s.bank die b).holder with
  | none => some s
  | some h => if h = c then some s else s.saveRec h die b

/-- The bank holds the contents of context `c` when it is used (R375): the new state, or a status. -/
def State.useBank (s : State) (c die b : Nat) : Except W32 State :=
  if (s.bank die b).holder = some c then .ok s
  else match s.evict c die b with
    | none => .error (statusWord 17 0)
    | some s => .ok ((s.restoreRec c die b).modBank die b fun k => { k with holder := some c })

/-- Write a record into a bank (R375, R387). -/
def State.putBank (s : State) (c die b : Nat) (bytes : List Byte) : State :=
  (s.restoreRec c die b).modBank die b fun k =>
    { holder := some c, recs := { ctx := c, bytes := bytes, saved := none } :: k.recs.filter fun r => r.ctx != c }

/-! ## The crossing descriptor (R383) -/

def dLbank (d : W64) : Nat := (d.extractLsb' 56 8).toNat
def dRbank (d : W64) : Nat := (d.extractLsb' 48 8).toNat
def dDie (d : W64) : Nat := (d.extractLsb' 44 3).toNat
def dRidx (d : W64) : Nat := (d.extractLsb' 38 6).toNat
def dNvec (d : W64) : Nat := (d.extractLsb' 16 16).toNat
def dVpitch (d : W64) : Nat := (d.extractLsb' 0 16).toNat

/-- Reserved bits, and the range of NVEC.
Marks: DEDUCED, unsafe (assumption 38). -/
def dOk (d : W64) : Bool :=
  !d.getLsbD 47 && d.extractLsb' 32 6 == 0 && decide (1 ≤ dNvec d ∧ dNvec d ≤ 256)

/-- Bytes of a source element. -/
def srcSize (back : Bool) (bs : List Byte) : Nat := if back || brBf bs then 2 else 1

/-- The bank checks of R384: the detail, 0 for none. -/
def bankDetail (back : Bool) (l r : Option (List Byte)) : Nat :=
  let role := if back then 1 else 0
  match l with
  | none => 1
  | some a =>
    if brRole a ≠ role then 2
    else match r with
      | none => 3
      | some b =>
        if brRole b = role then 4
        else if brBf a ≠ brBf b ∨ brK a ≠ brK b ∨ brM a ≠ brM b then 5 else 0

/-- R381. -/
def ratioOk (bs : List Byte) : Bool :=
  if brBf bs then decide (brM bs + 1 ≤ brK bs) else decide (2 * brM bs ≤ brK bs)

/-- A scrim context is allotted to the context (R469). -/
def State.scrimOwned (s : State) (c n : Nat) : Bool := decide (n < 64) && (((s.ctx c).map fun (x : Ctx) => x.scrim).getD 0).getLsbD n

/-- The faults of R384, in order. -/
def State.crossFault (s : State) (r : Run) (m : CrossMod) (back : Bool) (src d : W64) : Option Flt :=
  let c := r.g.ctx
  let bad : Flt := { code := .illegalField, s45 := 0 }
  if !dOk d then some bad
  else if !s.scrimOwned c m.ctx.toNat then some { code := .object, s45 := 0x40 + m.ctx.zeroExtend 64 }
  else if m.loft && (s.capEntry c src [.loft]).isNone then some { code := .object, s45 := src }
  else match s.phys c (dDie d) with
    | none => some { code := .dieAbsent, s45 := BitVec.ofNat 64 (dDie d) }
    | some dd =>
      let l := s.bankRec c r.g.die (dLbank d)
      let detail := bankDetail back l (s.bankRec c dd (dRbank d))
      let bs := l.getD []
      if detail ≠ 0 then some { code := .scrimBank, s45 := BitVec.ofNat 64 detail }
      else if dVpitch d < brK bs * srcSize back bs then some bad
      else if !back && !ratioOk bs then some { code := .scrimRatio, s45 := 0 }
      else none

/-- The name of a loft ring (R244). -/
def loftRing (ldie idx : Nat) : W32 := BitVec.ofNat 32 (2 ^ 31 + ldie * 2 ^ 28 + idx)

/-- The shape of `CROSS` and `CROSSB` (R382 to R384). -/
def crossIssue (m : CrossMod) (back : Bool) (r : Run) (s : State) : State :=
  match r.lead with
  | none => s.landHandle r none
  | some l =>
    let q := r.reals
    let src := if m.loft then q.rd64 .zero l r.o.a else (q.rd32 l r.o.a).zeroExtend 64
    let d := q.rd64 .zero l r.o.b
    match s.crossFault r m back src d with
    | some f => s.failRun r f
    | none =>
      let dd := (s.phys r.g.ctx (dDie d)).getD 0
      let x := s.issueOp r l (0x40 + m.ctx.toNat) (.cross back m.loft m.keepy src d) (loftRing (dDie d) (dRidx d))
        [(r.g.die, dLbank d), (dd, dRbank d)]
      x.1.landHandle r (some x.2)

/-- R384 `CROSS`. -/
def execCross (o : Ops) (m : CrossMod) (s : State) : Out := issued (.cross o m) .issuing (crossIssue m false) s

/-- R386 `CROSSB`. -/
def execCrossb (o : Ops) (m : CrossMod) (s : State) : Out := issued (.crossb o m) .issuing (crossIssue m true) s

/-! ## CROSSING_START and CROSSING_DELIVERY (R384, R385) -/

/-- The source of a crossing. -/
def State.crossSource (s : State) (x : Op) (loft : Bool) (src : W64) : Except Stop End :=
  if loft then s.endpoint x src rightRD [.loft]
  else match s.group x.gid with
    | none => .error (stop 10)
    | some g => .ok { place := .shared x.gid, off := src.toNat, len := (s.desc g).shared }

/-- One vector. -/
def crossOne (back : Bool) (l r : List Byte) (bs : List Byte) : Crossed :=
  let codes := (cut 2 bs).map leNat
  if back then crossBack l r codes
  else if brBf l then crossBf l r codes
  else crossInt l r (bs.map fun b => b.toInt)

/-- The content of the slot (R385), and what it counts. -/
def crossSlot (back keepy : Bool) (l : List Byte) (vs : List Crossed) : List Byte × ScrimStat :=
  let es := srcSize back l
  let out := vs.flatMap fun v => v.out.flatMap (bytesOfWord es)
  let y := if keepy then vs.flatMap fun v => v.y.flatMap (bytesOfWord 1) else []
  (out ++ y, { sent := 0, sat := (vs.map (·.sat)).sum, nan := (vs.map (·.nan)).sum })

/-- The banks that a crossing uses. -/
def Op.lbank (x : Op) : Nat × Nat := x.banks.headD (0, 0)
def Op.rbank (x : Op) : Nat × Nat := x.banks.getD 1 (0, 0)

/-- Read every vector and compute it, or end with a status.
Marks: DEDUCED, unsafe (assumption 37). -/
def State.crossRun (s : State) (x : Op) (back loft keepy : Bool) (src d : W64) :
    Except W32 (State × List Byte × ScrimStat) :=
  match s.useBank x.ctx x.lbank.1 x.lbank.2 with
  | .error w => .error w
  | .ok s => match s.useBank x.ctx x.rbank.1 x.rbank.2 with
    | .error w => .error w
    | .ok s =>
      let l := (s.bankRec x.ctx x.lbank.1 x.lbank.2).getD []
      let r := (s.bankRec x.ctx x.rbank.1 x.rbank.2).getD []
      if (s.hops x.die x.rbank.1).isNone then .error (statusWord 12 0)
      else match s.crossSource x loft src with
        | .error (.status w) => .error w
        | .error (.park _) => .error (statusWord 10 0)
        | .ok e =>
          let vs := (List.range (dNvec d)).foldl (fun (acc : Except Stop (State × List Crossed)) v =>
            acc.bind fun p => (p.1.readEnd x e ((v * dVpitch d : Nat) : Int) (brK l * srcSize back l)).map fun q =>
              (q.2, p.2 ++ [crossOne back l r q.1])) (.ok (s, []))
          match vs with
          | .error (.status w) => .error w
          | .error (.park _) => .error (statusWord 10 0)
          | .ok p => .ok (p.1, crossSlot back keepy l p.2)

/-- A crossing of the same context with a lower number that has not done so much. -/
def State.earlierCross (s : State) (x : Op) (p : Op → Bool) : Bool :=
  s.ops.any fun y => y.die == x.die && y.ectx == x.ectx && decide (y.seq < x.seq) && !p y
    && (match y.kind with | .cross .. => true | _ => false)

/-- R384 `CROSSING_START`: the banks are restored, the source is read and every vector is computed.
Marks: DEDUCED, unsafe (assumption 37). -/
def execCrossingStart (id : Nat) (s : State) : Out :=
  .next <| match s.op id with
    | none => s
    | some x => match x.kind with
      | .cross back loft keepy src d =>
        if x.started || s.earlierCross x (·.started) then s
        else match s.crossRun x back loft keepy src d with
          | .error w => s.modOp id fun y => { y with started := true, moved := true, status := w }
          | .ok (t, bytes, st) => t.modOp id fun y =>
            { y with started := true, moved := true, stats := st,
                     slots := [{ pieces := [(0, bytes)], count := bytes.length, status := 0 }] }
      | _ => s

/-- The ring of a crossing on the physical destination die. -/
def Op.crossRing (x : Op) : RingAt :=
  match x.kind with
  | .cross _ _ _ _ d => .loft x.rbank.1 (dRidx d)
  | _ => .loft 0 0

/-- R252, R385: the receiving edge claims, writes and fills the slot; a ring or a slot that does not fit fails the
crossing.
Marks: DEDUCED, unsafe (assumption 37). -/
def State.crossClaim (s : State) (x : Op) (y : Slot) : State :=
  let fail := fun (c : Nat) => s.modOp x.id fun z => { z with slots := [], status := statusWord c 0 }
  if s.earlierCross x fun z => (z.moved && z.slots.isEmpty) || z.crossRing != x.crossRing then s
  else match s.ringOf x.crossRing with
    | none => fail 15
    | some h =>
      if h.owner ≠ x.ctx then fail 15
      else if h.size < y.count + 8 then fail 2
      else if h.slots ≤ h.claimed - h.freed then s
      else
        let w := s.fillSlot x x.crossRing h y
        w.1.modOp x.id fun z => { z with slots := [], status := w.2.1,
                                            wrote := if w.2.2 then h.object x.crossRing x.ctx else [] }

/-- R252 `ENGINE_RING_CLAIM`. -/
def execEngineRingClaim (id : Nat) (s : State) : Out :=
  .next <| match s.op id with
    | none => s
    | some x => match x.slots with
      | [] => s
      | y :: _ => if x.kind.isCopy then s.copyClaim x y else s.crossClaim x y

/-- R385 `CROSSING_DELIVERY`: the slot is claimed and filled, if it is not yet, and the crossing completes. -/
def execCrossingDelivery (id : Nat) (s : State) : Out :=
  .next <| match s.op id with
    | none => s
    | some x => match x.kind with
      | .cross .. =>
        if !x.moved then s
        else
          let s := match x.slots with
            | [] => s
            | y :: _ => s.crossClaim x y
          match s.op id with
          | none => s
          | some x => if x.slots.isEmpty then (s.addStat x).finishOp x else s
      | _ => s

/-! ## XBANK (R387) -/

/-- The faults of `XBANK` at issue. -/
def State.xbankFault (s : State) (r : Run) (m : XbankMod) (cap : W64) (b : Nat) : Option Flt :=
  if 2 ^ 11 ≤ b then some { code := .illegalField, s45 := 0 }
  else if !s.scrimOwned r.g.ctx m.ctx.toNat then some { code := .object, s45 := 0x40 + m.ctx.zeroExtend 64 }
  else if (s.phys r.g.ctx (b / 256)).isNone then some { code := .dieAbsent, s45 := BitVec.ofNat 64 (b / 256) }
  else if (s.capEntry r.g.ctx cap [.loft]).isNone then some { code := .object, s45 := cap }
  else none

/-- R387 `XBANK`. -/
def execXbank (o : Ops) (m : XbankMod) (s : State) : Out :=
  issued (.xbank o m) .issuing (fun r s =>
    match r.lead with
    | none => s.landHandle r none
    | some l =>
      let cap := r.reals.rd64 .zero l r.o.a
      let b := (r.reals.rd32 l r.o.b).toNat
      match s.xbankFault r m cap b with
      | some f => s.failRun r f
      | none =>
        let x := s.issueOp r l (0x40 + m.ctx.toNat) (.xbank cap (b % 256) ((s.phys r.g.ctx (b / 256)).getD 0)) 0 []
        x.1.landHandle r (some x.2)) s

/-- The record that a bank load reads, or its status. -/
def State.loadRec (s : State) (x : Op) (src : W64) : Except Stop (State × List Byte) := do
  let e ← s.endpoint x src rightRD [.loft]
  if e.off % 16 ≠ 0 then .error (stop 14) else .ok ()
  let head ← s.readEnd x e 0 16
  if brOk head.1 then .ok () else .error (stop 8)
  let bs ← head.2.readEnd x e 0 (brSize head.1)
  .ok (bs.2, bs.1)

/-- A crossing admitted before the load names the bank and has not used it yet.
Marks: DEDUCED, unsafe (assumption 38). -/
def State.bankInUse (s : State) (x : Op) (die b : Nat) : Bool :=
  s.ops.any fun y => decide (y.id < x.id) && !y.moved && y.banks.contains (die, b)

/-- A bank load ends with a status. -/
def State.endLoad (s : State) (x : Op) (w : W32) : State :=
  let y := { x with status := w }
  (s.addStat y).finishOp y

/-- The load starts: it reads its record and checks it. -/
def State.startLoad (s : State) (x : Op) (src : W64) (die : Nat) : State :=
  if (s.hops x.die die).isNone then s.endLoad x (statusWord 12 0)
  else match s.loadRec x src with
    | .error (.status w) => s.endLoad x w
    | .error (.park _) => s.endLoad x (statusWord 10 0)
    | .ok p => p.1.modOp x.id fun y => { y with started := true, record := p.2 }

/-- The load takes effect once the crossings admitted before it have used the bank. -/
def State.endBank (s : State) (x : Op) (b die : Nat) : State :=
  if s.bankInUse x die b then s
  else match s.evict x.ctx die b with
    | none => s.endLoad x (statusWord 17 0)
    | some t => (t.putBank x.ctx die b x.record).endLoad x 0

/-- R387 `XBANK_LOAD_COMPLETE`.
Marks: DEDUCED, unsafe (assumption 38). -/
def execXbankLoadComplete (id : Nat) (s : State) : Out :=
  .next <| match s.op id with
    | none => s
    | some x => match x.kind with
      | .xbank src b die =>
        let s := if x.started then s else s.startLoad x src die
        match s.op id with
        | none => s
        | some x => s.endBank x b die
      | _ => s

/-! ## XSTAT (R388) -/

/-- A logical die from an operand. -/
def State.statDie (s : State) (r : Run) (d : Nat) (f : Nat → Res) : Res :=
  match s.phys r.g.ctx d with
  | none => .fault .dieAbsent (BitVec.ofNat 64 d)
  | some p => f p

/-- The byte of `XSTAT.DIEMAP` for a logical die. -/
def State.mapByte (s : State) (c d : Nat) : Nat := (s.phys c d).getD 0xFF

/-- The bank word of `XSTAT.BANK`. -/
def bankWord (bs : List Byte) : W64 :=
  BitVec.ofNat 64 (brSh bs * 2 ^ 32 + brM bs * 2 ^ 24 + brK bs * 2 ^ 16 + 4 + (if brBf bs then 2 else 0) + brRole bs)

/-- The value of `XSTAT`.
Marks: DEDUCED, unsafe (assumption 38). -/
def State.xstatVal (s : State) (r : Run) (sel a : Nat) : Res :=
  let c := r.g.ctx
  let stat := (mapGet (s.die r.g.die).scrimStat a).getD { sent := 0, sat := 0, nan := 0 }
  match sel with
  | 0 => .bool (r.d.isDuet && s.split r.g)
  | 4 => .ofVal (BitVec.ofNat 64 (leNat ((List.range 8).map fun d => BitVec.ofNat 8 (s.mapByte c d))))
  | 5 =>
    if 8 ≤ a then .fault .illegalField 0
    else s.statDie r a fun p => .ofVal (match s.hops r.g.die p with
      | some n => BitVec.ofNat 64 n
      | none => BitVec.allOnes 64)
  | 6 =>
    if 2048 ≤ a then .fault .illegalField 0
    else s.statDie r (a / 256) fun p => .ofVal (((s.bankRec c p (a % 256)).map bankWord).getD 0)
  | _ =>
    if s.scrimOwned c a then .ofVal (BitVec.ofNat 64 (if sel = 1 then stat.sent else if sel = 2 then stat.sat else stat.nan))
    else .fault .object (BitVec.ofNat 64 a)

/-- CLR: the value returned is cleared. -/
def State.xstatClear (s : State) (r : Run) (sel a : Nat) : State :=
  if sel = 0 then (if r.d.isDuet then s.setSplit r.g false else s)
  else s.modDie r.g.die fun d =>
    let o := (mapGet d.scrimStat a).getD { sent := 0, sat := 0, nan := 0 }
    let n : ScrimStat :=
      if sel = 1 then { o with sent := 0 } else if sel = 2 then { o with sat := 0 } else { o with nan := 0 }
    { d with scrimStat := mapSet d.scrimStat a n }

/-- R388 `XSTAT`. -/
def execXstat (o : Ops) (m : XstatMod) (s : State) : Out :=
  issued (.xstat o m) .issuing (fun r s =>
    if r.act.isEmpty then s.advance r r.ls
    else
      let a := (r.rd64 .zero (r.act.headD 0) r.o.a).toNat
      let v := s.xstatVal r m.sel.toNat a
      let s := if m.clr && v.flt.isNone then s.xstatClear r m.sel.toNat a else s
      s.finish r false false false (r.dst .dst64) (r.act.map fun l => (l, v))) s

end Sys2Proof.Machine
end

