-- ==== Sys2Proof/Machine/Frames.lean ====
section
/-! DEFINITION. Placing groups on cores, swap-out, pre-emption and restore (R44 to R48, R399, R435 to R438). -/

namespace Sys2Proof.Machine

/-! ## Room on a core (R399) -/

/-- CLASS of the capability vector (R441). -/
def Core.cls (c : Core) : Nat :=
  let n := ((List.range 4).filter fun i => c.qmask.getLsbD i).length
  if n < 2 then 3 else n - 2

/-- The groups whose warps are on a core. -/
def State.groupsOn (s : State) (die core : Nat) : List (Nat × Group) :=
  s.groups.filter fun p => p.2.die == die && p.2.core == core && (p.2.res == .resident || p.2.res == .halted)

def Desc.warps (d : Desc) : Nat := ceilDiv d.threads 64

/-- What a group needs of each resource of a core. -/
def Desc.needs (d : Desc) : List Nat :=
  [d.warps, d.warps * d.vregs * 256, d.shared, d.warps * (ceilDiv d.stack 256 * 256), d.acc, d.nring]

/-- What a core has of each. -/
def coreTotals : List Nat := [32, 524288, 262144, 131072, 32, 32]

/-- The copy contexts of a core that are free, by their die-wide numbers (R471). -/
def State.freeCopy (s : State) (die core : Nat) : List Nat :=
  ((List.range 64).map (64 * core + ·)).filter fun k =>
    ((mapGet (s.die die).copyCtx k).bind (·.holder)).isNone

/-- What is free on a core. -/
def State.free (s : State) (die core : Nat) : List Nat :=
  ((s.groupsOn die core).map fun p => (s.desc p.2).needs).foldl (fun acc n => List.zipWith (· - ·) acc n) coreTotals

/-- How many times a need goes into what is free; none for no limit. -/
def timesIn : List Nat → List Nat → Option Nat
  | n :: ns, f :: fs =>
    let r := timesIn ns fs
    if n = 0 then r else some (match r with | none => f / n | some k => min k (f / n))
  | _, _ => none

/-- How many groups of a node a core can take; `nctx` copy contexts each. -/
def State.takes (s : State) (die core : Nat) (d : Desc) (nctx : Nat) : Nat :=
  let c := s.core die core
  if c.state ≠ 0 ∨ c.cls = 3 ∨ c.cls < d.floor then 0
  else (timesIn (nctx :: d.needs) ((s.freeCopy die core).length :: s.free die core)).getD 0

/-- The free warp slots of a core, in increasing order. -/
def State.freeSlots (s : State) (die core : Nat) : List Nat :=
  let used := (s.groupsOn die core).flatMap fun p => p.2.warps.map (·.slot)
  (List.range 32).filter fun i => !used.contains i

/-- Give the warps of a group their slots and their place in the order of dispatch or restore (R399, R408). -/
def Group.seat (g : Group) (slots : List Nat) (order : Nat) : Group :=
  { g with warps := g.warps.zipIdx.map fun p => { p.1 with slot := slots.getD p.2 0, order := order } }

/-! ## Units (R44, R435) -/

/-- The unit of a group: its cluster, which holds its duet pair. -/
def State.unit (s : State) (gid : Nat) : List Nat :=
  match s.group gid with
  | none => []
  | some g => s.clusterOf g

/-- Do all groups of a unit stand so? -/
def State.allRes (s : State) (gids : List Nat) (p : Residence → Bool) : Bool :=
  gids.all fun i => ((s.group i).map fun g => p g.res).getD false

/-! ## Saving (R45, R437, R438) -/

/-- Let the entries of some groups that can execute on a core do so, in their order; no join ends by it (R354). -/
def State.runQueue (gids : List Nat) (die core : Nat) : Nat → State → State
  | 0, s => s
  | n + 1, s => match nextEntry ((s.core die core).queue.filter fun e => gids.contains e.gid) with
    | none => s
    | some e => State.runQueue gids die core n (s.matrixRun die core e)

/-- The cores that groups are on. -/
def State.coresOf (s : State) (gids : List Nat) : List (Nat × Nat) :=
  (gids.filterMap fun i => (s.group i).map fun (g : Group) => (g.die, g.core)).eraseDups

/-- Before the groups of a unit are saved, their queued entries execute, except those held (R354, R437).
Marks: DEDUCED, unsafe (assumption 42). -/
def State.settleQueue (s : State) (gids : List Nat) : State :=
  (s.coresOf gids).foldl (fun s p => State.runQueue gids p.1 p.2 (s.core p.1 p.2).entries.length s) s

/-- The joins on the cores of some groups that can end do so. -/
def State.joinsOf (s : State) (gids : List Nat) : State := (s.coresOf gids).foldl (fun s p => s.joins p.1 p.2) s

/-- The entries of a group that stay. -/
def State.entriesOf (s : State) (gid : Nat) (g : Group) : List MEntry :=
  (s.core g.die g.core).entries.filter fun e => e.gid == gid

/-- The units of 64 KiB that the frames of some groups take. -/
def State.framesOf (s : State) (gids : List Nat) : Nat :=
  (gids.map fun i => match s.group i with
    | none => 0
    | some g => frameUnits (s.desc g) (s.entriesOf i g).length).sum

/-- What a frame does not hold is gone (R438).
Marks: DEDUCED, unsafe (assumption 42). -/
def Warp.unseat (w : Warp) : Warp :=
  { w with lines := [], handed := false, waited := 0, lanes := w.lanes.map fun x => { x with starve := 0, behind := 0 } }

/-- Save one group.
Marks: DEDUCED, unsafe (assumption 42). -/
def State.saveGroup (s : State) (gid : Nat) (why : Saved) : State :=
  match s.group gid with
  | none => s
  | some g =>
    let kept := s.entriesOf gid g
    let units := frameUnits (s.desc g) kept.length
    let s := s.modCore g.die g.core fun c =>
      { c with queue := c.queue.filter fun e => e.gid != gid, waiting := c.waiting.filter fun e => e.gid != gid }
    let s := s.modCtx g.ctx fun x => { x with used := x.used + units }
    let s := s.modGroup gid fun g => { g with res := .saved why, kept := kept, warps := g.warps.map Warp.unseat }
    let s := s.fill g.die g.core
    { s with refetches := s.refetches.filter fun r => r.gid != gid
             streams := s.streams.filter fun t => t.gid != gid
             second := s.second.filter fun i => i.iss.gid != gid }

/-- Save a unit, if its context's pool holds the frames (R47). -/
def State.saveUnit (s : State) (gids : List Nat) (why : Saved) : State × Bool :=
  let s := s.settleQueue gids
  match (gids.head?.bind s.group).bind fun g => s.ctx g.ctx with
  | none => (s, false)
  | some x =>
    if x.used + s.framesOf gids ≤ x.poolUnits then (gids.foldl (fun s i => s.saveGroup i why) s, true) else (s, false)

/-- R44: every live lane is blocked, and one of them at an external point. -/
def State.eligible (s : State) (gid : Nat) : Bool :=
  match s.group gid with
  | none => false
  | some g =>
    let live := g.warps.flatMap fun w => (w.lanes.filter Lane.isLive).map fun x => (w, x)
    live.all (fun p => s.isBlocked gid g p.1 p.2) && live.any fun p => p.2.wait.isExternal

/-- `SWAP_OUT` (R45): without a frame the unit stays as it is (R47). -/
def execSwapOut (gid : Nat) (s : State) : Out :=
  .next (
    let u := s.unit gid
    if !u.isEmpty && s.allRes u (· == .resident) && u.all s.eligible then
      let r := s.saveUnit u .swapped
      if r.2 then r.1 else r.1.joinsOf u
    else s)

/-! ## Pre-emption (R435 to R437) -/

/-- Where a pre-empted group stands before it is saved. -/
def Residence.halt : Residence → Residence
  | .resident => .halted
  | .saved _ => .saved .preempted
  | r => r

/-- An instruction that stalls for a place in the queue has not issued, and is not issued (R436); an `MMAD` that has its
sequence number keeps its entry (R360, R370).
Marks: DEDUCED, unsafe (assumption 42). -/
def State.dropStalled (s : State) (gids : List Nat) : State :=
  (s.coresOf gids).foldl (fun s p =>
    let out := (s.core p.1 p.2).waiting.filter fun e => gids.contains e.gid && !e.numbered
    let s := s.modCore p.1 p.2 fun c => { c with waiting := c.waiting.filter fun e => !out.contains e }
    out.foldl (fun s e => s.modWarp e.gid e.warp fun w =>
      w.modLanes (w.where fun x => x.wait == .queue e.id) fun _ x => { x with wait := .none }) s) s

/-- The groups of a unit that are on cores issue nothing more. -/
def State.haltUnit (s : State) (gids : List Nat) : State :=
  let here := gids.filter fun i => (s.onCore i).isSome
  gids.foldl (fun s i => s.modGroup i fun g => { g with res := g.res.halt }) (s.dropStalled here)

/-- Halt a unit and save it if its pool holds the frames; the second answer says that it stays resident.
Marks: DEDUCED, unsafe (assumption 44). -/
def State.preemptUnit (s : State) (gids : List Nat) : State × Bool :=
  let s := s.haltUnit gids
  if s.allRes gids (· == .halted) then
    let r := s.saveUnit gids .preempted
    (r.1, !r.2)
  else (s, false)

/-- The units of some groups, each once. -/
def State.unitsOfGroups (s : State) (gids : List Nat) : List (List Nat) := (gids.map s.unit).eraseDups

/-- The groups that a command names (R435). -/
def State.named (s : State) (c : Nat) (t : Target) : List Nat :=
  (s.groups.filter fun p => p.2.ctx == c && p.2.res != .draining && (match t with
    | .ctx => true
    | .node n => p.2.node == n
    | .cores d cs => p.2.die == d && cs.contains p.2.core
    | .group n lin => p.2.node == n && p.2.lin == lin)).map (·.1)

/-- Results that are due land in a group that is back (R182). -/
def State.landGroup (s : State) (gid : Nat) : State :=
  (s.warpIxs gid).foldl (fun s w => s.landDue gid w (BitVec.allOnes 64)) s

/-- `RESUME` of one unit: a halted one goes on in place, a saved one is ready for restore (R46, R47). -/
def State.resumeUnit (s : State) (gids : List Nat) : State :=
  let s := gids.foldl (fun s i => match (s.group i).map fun (g : Group) => g.res with
    | some .halted => (s.modGroup i fun g => { g with res := .resident }).landGroup i
    | some (.saved .preempted) => s.modGroup i fun g => { g with res := Residence.saved .resumed }
    | _ => s) s
  s.joinsOf (gids.filter fun i => (s.onCore i).isSome)

/-- The host clears BKEN in the frames of saved groups (R427). -/
def State.clearBken (s : State) (gids : List Nat) : State :=
  gids.foldl (fun s i => s.modGroup i fun g => match g.res with
    | .saved _ => { g with warps := g.warps.map fun w => { w with mode := w.mode &&& ~~~4 } }
    | _ => g) s

/-! ## RESTORE (R46) -/

/-- Ready for restore: a pre-empted unit when it is resumed, a swapped-out one when an external block has ended. -/
def State.restoreReady (s : State) (gid : Nat) : Bool :=
  match s.group gid with
  | none => false
  | some g => match g.res with
    | .saved .resumed => true
    | .saved .swapped => g.warps.any fun w => w.lanes.any fun x => x.isLive && !s.isBlocked gid g w x
    | _ => false

/-- Put one saved group on a core; none when it does not fit. -/
def State.seatGroup (s : State) (gid core : Nat) : Option State :=
  match s.group gid with
  | none => none
  | some g =>
    let d := s.desc g
    if s.takes g.die core d 0 = 0 then none
    else
      let slots := s.freeSlots g.die core
      let s := (s.freeFrame g).modGroup gid fun g =>
        { (g.seat slots s.stamp) with core := core, res := .resident, kept := [] }
      let s := s.modCore g.die core fun c => { c with waiting := c.waiting ++ g.kept }
      some (s.nextStamp)

/-- Do the partners of every pair go to one core (R357)?  The groups are named by their linear indices. -/
def pairedCores (duet : Bool) (lins cores : List Nat) : Bool :=
  let at_ := lins.zip cores
  !duet || at_.all fun p => at_.all fun q => p.1 / 2 != q.1 / 2 || p.2 == q.2

/-- The groups of a unit by linear index. -/
def State.byLin (s : State) (gids : List Nat) : List Nat :=
  sortBy (fun i => ((s.group i).map (·.lin)).getD 0) gids

/-- The linear indices of groups. -/
def State.linsOf (s : State) (gids : List Nat) : List Nat := gids.map fun i => ((s.group i).map (·.lin)).getD 0

/-- A frame with an uncorrectable error: the grid aborts with kind 2 (R440), which enters the error log (R439).
Marks: DEDUCED, unsafe (assumption 43). -/
def State.badFrame (s : State) (gid : Nat) : State :=
  match s.group gid with
  | none => s
  | some g => (s.logChecks g 0 [(0, (eccFlt 2).flt)]).abortGrid gid 0 (mkRecord (eccFlt 2).flt 0 0) none

/-- The stores that lanes of some groups made before the save reach their homes, and their loads have their values, before
the restore (R135). -/
def State.drainGroups (s : State) (gids : List Nat) : State :=
  let s := s.drain fun w => w.op.isNone && gids.contains w.gid
  { s with loads := s.loads.filter fun d => !gids.contains d.gid }

/-- The groups on their cores. -/
def State.seatAll (s : State) (u cores : List Nat) : Option State :=
  (u.zip cores).foldl (fun (acc : Option State) p => acc.bind fun t => t.seatGroup p.1 p.2) (some s)

/-- `RESTORE`: the unit goes to the cores named, all at once; its entries re-enter the matrix queue, what is due lands, and
the joins that can end do so (R46, R354, R437).
Marks: DEDUCED, unsafe (assumption 43). -/
def execRestore (gid : Nat) (cores : List Nat) (s : State) : Out :=
  .next (
    let u := s.byLin (s.unit gid)
    let duet := ((s.group gid).map fun g => (s.desc g).isDuet).getD false
    let saved := s.allRes u fun r => match r with | .saved .swapped | .saved .resumed => true | _ => false
    if u.isEmpty || !saved || !(u.any s.restoreReady) || cores.length != u.length
      || !pairedCores duet (s.linsOf u) cores then s
    else match u.find? fun i => ((s.group i).map (·.frameErr)).getD false with
      | some i => s.badFrame i
      | none =>
        match (s.drainGroups u).seatAll u cores with
        | none => s
        | some t =>
          let t := (t.coresOf u).foldl (fun t p => t.fill p.1 p.2) t
          (u.foldl State.landGroup t).joinsOf u)

end Sys2Proof.Machine
end

