-- ==== Sys2Proof/Machine/FaultOps.lean ====
section
/-! DEFINITION. `TRAP`, `BKPT`, `HRET`, `MODE` and `COVER` (R425 to R431). -/

namespace Sys2Proof.Machine

/-- The number of `TRAP` and `BKPT`. -/
def Run.trapNo (r : Run) : W64 := r.o.imm.zeroExtend 64

/-- R426 `TRAP`. -/
def execTrap (o : Ops) (s : State) : Out :=
  issued (.trap o) .issuing (fun r s =>
    (s.advance r (r.ls.filter fun l => !r.isAct l)).raiseAll r r.act .trap r.trapNo) s

/-- The context is marked for debugging (R427). -/
def State.debugged (s : State) (c : Nat) : Bool := ((s.ctx c).map (·.debug)).getD false

/-- R427: the unit is pre-empted with the lanes standing at the `BKPT`, and the host receives the record.
Marks: DEDUCED, unsafe (assumption 40). -/
def State.breakUnit (s : State) (r : Run) : State :=
  let rec_ := mkRecord { code := .bkpt, s45 := r.trapNo } r.pc (maskOf r.act)
  let s := { s with notices := s.notices ++ [Notice.breakpoint r.g.ctx r.g.node r.g.lin rec_] }
  (s.preemptUnit (s.unit r.gid)).1

/-- R427 `BKPT`.
Marks: DEDUCED, unsafe (assumption 40). -/
def execBkpt (o : Ops) (s : State) : Out :=
  issued (.bkpt o) .issuing (fun r s =>
    if !r.snap.bken then s.advance r r.ls
    else
      let s := s.advance r (r.ls.filter fun l => !r.isAct l)
      let noHandler := r.d.handler == 0 || !r.snap.hen
      if r.act.isEmpty then s
      else if noHandler && s.debugged r.g.ctx then s.breakUnit r
      else s.raiseAll r r.act .bkpt r.trapNo) s

/-- T of R428.
Marks: DEDUCED, unsafe (assumption 39). -/
def hretTarget (next : Bool) (s46 : W64) : W64 := if next && pcLegal s46 then nextSlot s46 else s46

/-- R428 `HRET`.
Marks: DEDUCED, unsafe (assumption 39). -/
def execHret (o : Ops) (m : FlagMod) (s : State) : Out :=
  issuedClosing (.hret o m) .issuing (fun r s =>
    let s := s.advance r (r.ls.filter fun l => !r.isAct l)
    let t := hretTarget m.b (r.snap.getS 46)
    let set := (s.warp r.gid r.w).hset
    if !pcLegal t then s.raiseAll r r.act .badTarget t
    else
      let s := s.raiseAll r (r.act.filter fun l => !set.getLsbD l) .illegalOpcode 0
      let back := set &&& maskOf r.act
      if back = 0 then s else s.returnFrom r.gid r.w back t) s

/-- The limits of R429 on a mode word. -/
def modeLimit (d : Desc) (x : W32) : W32 :=
  let x := x &&& 0xF
  let x := if d.handler = 0 then x &&& ~~~1 else x
  if d.isUnderstudy then x else x &&& ~~~8

/-- R430 `MODE`.
Marks: DEDUCED, unsafe (assumption 41). -/
def execMode (o : Ops) (s : State) : Out :=
  issued (.mode o) .issuing (wholeWarp fun r s =>
    if r.act.isEmpty then s.advance r r.ls
    else
      let old := r.snap.mode
      let m := r.o.imm &&& 0xF
      let a := r.rd32 (r.act.headD 0) r.o.a
      let new := modeLimit r.d ((old &&& ~~~m) ||| (a &&& m))
      (s.modWarp r.gid r.w fun w => { w with mode := new }).finish r false false false (r.dst .dst32)
        (r.act.map fun l => (l, .ofVal (old.zeroExtend 64)))) s

/-- R431 `COVER`.
Marks: DEDUCED, unsafe (assumption 41). -/
def execCover (o : Ops) (m : CoverMod) (s : State) : Out :=
  issued (.cover o m) .issuing (fun r s =>
    let w := s.warp r.gid r.w
    let v := if m.all then w.checked else w.shadowed
    let s := if m.clr && !r.act.isEmpty then s.modWarp r.gid r.w fun w =>
        if m.all then { w with checked := 0 } else { w with shadowed := 0 }
      else s
    s.finish r false false false (r.dst .dst64) (r.act.map fun l => (l, .ofVal v))) s

end Sys2Proof.Machine
end

