-- ==== Sys2Proof/Machine/Sched.lean ====
section
/-! DEFINITION. From launch to issue slot: `EMIT`, `SIGNAL`, `CLOCK`, `RAND`, the callboard, and the completion of
nodes (R393 to R416, R455). -/

namespace Sys2Proof.Machine

/-! ## EMIT and SIGNAL (R403, R404) -/

/-- The record of an `EMIT`, with the header in its first bytes. -/
def withHeader (c : Option W64) (bs : List Byte) : List Byte :=
  match c with
  | none => bs
  | some x => bytesOfWord 8 x.toNat ++ bs.drop 8

/-- The fault of an `EMIT` of `n` records of `r` bytes at `a`. -/
def emitFault (d : Desc) (emitted a n r : Nat) : Option Flt :=
  if n = 0 ∨ 256 < n then some { code := .illegalField, s45 := 0 }
  else if d.shared < a + n * r then some { code := .bounds, s45 := BitVec.ofNat 64 a }
  else if d.emax < emitted + n then some { code := .bounds, s45 := BitVec.ofNat 64 d.emax }
  else none

/-- `EMIT` and `SIGNAL` are releases of the lane that acts, which the groups of the node acquire (R133, R403, R404). -/
def State.sendTo (s : State) (r : Run) (l n : Nat) : State :=
  (s.drainMask r.gid r.w (oneLane l)).learn (r.agent l) [.node r.g.ctx n]

/-- R403 `EMIT`. -/
def execEmit (o : Ops) (s : State) : Out :=
  issued (.emit o) .never (fun r s =>
    let dst := r.dst .dstS
    match r.lead with
    | none => s.finish r false false false dst (r.act.map fun l => (l, .ofVal 0))
    | some l =>
      let q := r.reals
      let a := (q.rd32 l r.o.a).toNat
      let n := (q.rd32 l r.o.b).toNat
      let size := ((s.node r.g.ctx r.d.edst).map (·.desc.qrec)).getD 0
      let done := ((s.group r.gid).map (·.emitted)).getD 0
      match emitFault r.d done a n size with
      | some f => s.failRun r f
      | none =>
        let s := s.settleOwn (r.agent l) (.shared r.gid) a (n * size)
        if s.badRead (.shared r.gid) a (n * size) then s.failRun r (eccFlt 3).flt
        else
          let c := if r.o.c = 0xF0 then none else some (q.rd64 .zero l r.o.c)
          let recs := (List.range n).map fun i =>
            { node := r.g.node, producer := r.g.lin, ordinal := done + i
              bytes := withHeader c (s.readAs (r.agent l) 0 (.shared r.gid) (a + i * size) size) : QRecord }
          let s := (s.noteRead (r.agent l) (.shared r.gid) a (n * size) none).sendTo r l r.d.edst
          let e : Emit := { ctx := r.g.ctx, node := r.g.node, edst := r.d.edst, records := recs }
          let s := { s with emits := s.emits ++ [e] }
          let s := s.modGroup r.gid fun g => { g with emitted := done + n }
          s.finish r false false false dst (r.act.map fun k => (k, .ofVal (BitVec.ofNat 64 done)))) s

/-- R404 `SIGNAL`. -/
def execSignal (o : Ops) (s : State) : Out :=
  issued (.signal o) .issuing (fun r s =>
    match r.lead with
    | none => s.advance r r.ls
    | some l =>
      let n := (r.reals.rd32 l r.o.a).toNat
      match s.node r.g.ctx n with
      | none => s.failRun r { code := .object, s45 := BitVec.ofNat 64 n }
      | some _ =>
        let s := s.sendTo r l n
        let x : Sig := { ctx := r.g.ctx, node := r.g.node, target := n }
        ({ s with signals := s.signals ++ [x] }).advance r r.ls) s

/-- `SIGNAL_APPLY` (R396). -/
def execSignalApply (k : Nat) (s : State) : Out :=
  .next <| match s.signals[k]? with
    | none => s
    | some x => ({ s with signals := s.signals.eraseIdx k }).decrement x.ctx x.target

/-! ## CLOCK and RAND (R413, R414) -/

/-- R413 `CLOCK`: the cycles since the counter was last read are a free value.
Marks: DESIGN CHOICE, safe (assumption 9). -/
def execClock (o : Ops) (s : State) : Out :=
  issued (.clock o) .issuing (fun r s =>
    let s := s.modCore r.g.die r.g.core fun c => { c with clock := c.clock + BitVec.ofNat 64 (Config.clockTick s.fresh) }
    let v := (s.core r.g.die r.g.core).clock
    s.nextFresh.finish r false false false (r.dst .dst64) (r.act.map fun l => (l, .ofVal v))) s

/-- One round of R414. -/
def randRound (b x : W64) : W64 := ((x ^^^ (x >>> 31)) * 0xC2B2AE3D27D4EB4F#64) ^^^ b.rotateLeft 23

/-- The draw of R414: launch, position and count. -/
def randDraw (launch b d : W64) : W32 :=
  let x := launch ^^^ (b * 0xD1B54A32D192ED03#64)
  let x := x ^^^ ((d + 1) * 0xAEF17502108EF2D9#64)
  let x := randRound b (randRound b (randRound b (randRound b x)))
  x.extractLsb' 32 32

/-- The position of a lane. -/
def Run.position (r : Run) (l : Nat) : W64 := BitVec.ofNat 64 (r.g.lin * 2 ^ 32 + (r.w * 64 + l))

/-- R414 `RAND`. -/
def execRand (o : Ops) (s : State) : Out :=
  issued (.rand o) .issuing (fun r s =>
    let res := r.act.map fun l =>
      (l, Res.ofVal ((randDraw r.d.launch (r.position l) (BitVec.ofNat 64 (r.snap.lane l).draw)).zeroExtend 64))
    let s := s.modWarp r.gid r.w fun w => w.modLanes (maskOf r.act) fun _ x => { x with draw := x.draw + 1 }
    s.finish r false false false (r.dst .dstV) res) s

/-! ## Ready nodes (R396 to R401) -/

/-- Every node that names this one as EDST has completed. -/
def Ctx.producersDone (x : Ctx) (n : Nat) : Bool :=
  x.nodes.all fun p => p.2.desc.emax == 0 || p.2.desc.edst != n || p.2.complete

/-- Batches that an input queue can form now (R401). -/
def Ctx.batches (x : Ctx) (n : Nat) (y : Node) : Nat :=
  let done := x.producersDone n
  let b := y.desc.qbatch
  if y.desc.isRehearsal && !done then 0
  else if done then ceilDiv y.queue.length b else y.queue.length / b

/-- The groups that the node dispatches next, 0 when it has none to dispatch: a cluster (R13, R401). -/
def Ctx.nextGroups (x : Ctx) (n : Nat) (y : Node) : Nat :=
  let c := y.desc.cluster
  if y.desc.qrec = 0 then (if y.dispatched < y.desc.groups then c else 0)
  else
    let b := x.batches n y
    if c ≤ b then c else if x.producersDone n then b else 0

/-- A queue-fed node in the callboard that has become able to form a batch takes its place in the order by that (R398).
Marks: DEDUCED, safe (assumption 45). -/
def State.placeQueue (s : State) (c n : Nat) (before : State) : State :=
  let can := fun (s : State) => match s.ctx c, s.node c n with
    | some x, some y => y.desc.qrec != 0 && y.board.isSome && decide (0 < x.nextGroups n y)
    | _, _ => false
  if can s && !can before then (s.modNode c n fun y => { y with board := some s.stamp }).nextStamp else s

/-- `EMIT_RECORDS_ARRIVE` (R401): the records leave their reserved places and are held. -/
def execEmitRecordsArrive (k : Nat) (s : State) : Out :=
  .next <| match s.emits[k]? with
    | none => s
    | some e =>
      let t := ({ s with emits := s.emits.eraseIdx k }).modNode e.ctx e.edst fun n =>
        { n with queue := n.queue ++ e.records, reserved := n.reserved - e.records.length }
      t.placeQueue e.ctx e.edst s

/-- The records of an input queue as batches take them (R401): in rehearsal mode by producer and ordinal, and those of two
producer nodes that agree in both by the number of the node (R412).
Marks: DEDUCED, safe (assumption 45). -/
def Node.inOrder (y : Node) : List QRecord :=
  if y.desc.isRehearsal then sortBy (fun (r : QRecord) => (r.producer * 2 ^ 64 + r.ordinal) * 2 ^ 16 + r.node) y.queue
  else y.queue

/-- The dies of a node: AFF, or every die of the map (R396). -/
def Ctx.nodeDies (x : Ctx) (d : Desc) : List Nat :=
  if d.anyDie then (x.map.filterMap id).eraseDups else ((x.phys d.aff).map fun p => [p]).getD []

/-- A kernel node in the callboard. -/
def Node.ready (y : Node) : Bool :=
  y.live && !y.complete && y.desc.ctl == 0 && y.board.isSome && !y.held && !y.failed && !y.aborted

/-- The reservation for `k` groups can be made in the queue of EDST (R402).
Marks: DEDUCED, safe (assumption 45). -/
def Ctx.canReserve (x : Ctx) (d : Desc) (k : Nat) : Bool :=
  d.emax == 0 || ((mapGet x.nodes d.edst).map fun e =>
    decide (e.queue.length + e.reserved + d.emax * k ≤ e.desc.qcap)).getD false

/-- A die has room for `k` groups of the node at once; a duet pair shares a core. -/
def State.dieTakes (s : State) (die : Nat) (d : Desc) (k : Nat) : Bool :=
  let per := (List.range 72).map fun c =>
    let n := s.takes die c d d.nctx
    if d.isDuet then n / 2 * 2 else n
  decide (k ≤ per.sum)

/-- The node can place its next cluster on the die. -/
def State.canPlace (s : State) (die : Nat) (x : Ctx) (n : Nat) (y : Node) : Bool :=
  let k := x.nextGroups n y
  y.ready && decide (0 < k) && (x.nodeDies y.desc).contains die && x.canReserve y.desc k && s.dieTakes die y.desc k

/-- The place of a node in a callboard: priority, then order (R398). -/
def Node.rank (y : Node) : Nat := (7 - y.desc.prio) * 2 ^ 64 + y.board.getD 0

/-- The node whose groups a die dispatches next: context and index.
Marks: DEDUCED, safe (assumption 45). -/
def State.nextNode (s : State) (die : Nat) : Option (Nat × Nat) :=
  let cand := s.ctxs.flatMap fun p => (p.2.nodes.filter fun q => s.canPlace die p.2 q.1 q.2).map fun q =>
    (p.1, q.1, q.2.rank)
  ((sortBy (fun (c : Nat × Nat × Nat) => c.2.2) cand).head?).map fun c => (c.1, c.2.1)

/-! ## Dispatch (R400) -/

/-- A lane at dispatch (R16, R17). -/
def newLane (d : Desc) (w l : Nat) : Lane :=
  let t := 64 * w + l
  let st : LaneSt :=
    if t < d.threads then .real else if d.hasHelpers && decide (t / 4 * 4 < d.threads) then .helper else .never
  { Lane.empty with st := st, pc := d.entry, entry := true }

/-- The s-registers at dispatch: operands, cue handles, and the records delivered. -/
def startRegs (d : Desc) (handles : List (Nat × Nat)) (records : Nat) : ZMap 64 :=
  let ops := (List.range d.nops).map fun i =>
    match handles.find? fun h => h.1 == i with
    | some h => BitVec.ofNat 64 h.2
    | none => d.ops.getD i 0
  let all := if d.qrec = 0 then ops else ops ++ [BitVec.ofNat 64 records]
  all.zipIdx.foldl (fun m p => zset m p.2 p.1) []

/-- The mode word at launch (R429). -/
def startMode (d : Desc) : W32 := modeLimit d 0xD

def newWarp (d : Desc) (handles : List (Nat × Nat)) (records w : Nat) : Warp :=
  { Warp.empty with
    lanes := (List.range 64).map (newLane d w)
    s := startRegs d handles records
    mode := startMode d }

/-- Allot a copy context to a group (R471). -/
def State.allot (s : State) (die ctx gid k : Nat) : State :=
  s.modDie die fun d =>
    let old := (mapGet d.copyCtx k).getD ECtx.empty
    let e : ECtx := { ECtx.empty with alloc := old.alloc + 1, holder := some (ctx, gid) }
    { d with copyCtx := mapSet d.copyCtx k e }

/-- The shared memory of a group: its batch, record by record (R401). -/
def batchBytes (qrec : Nat) (records : List QRecord) : Memory :=
  records.zipIdx.foldl (fun m p => writeBytes m (p.2 * qrec) p.1.bytes) []

/-- The logical die of a group (R15): AFF, or the lowest logical die that the map sends to the die. -/
def Ctx.groupDie (x : Ctx) (d : Desc) (die : Nat) : Nat :=
  if d.anyDie then ((List.range 8).find? fun l => x.phys l == some die).getD 0 else d.aff

/-- Dispatch one group to a core; none when it does not fit. -/
def State.newGroup (s : State) (c n die core : Nat) (records : List QRecord) : Option State :=
  match s.ctx c, s.node c n with
  | some x, some y =>
    let d := y.desc
    if s.takes die core d d.nctx = 0 then none
    else
      let gid := s.nextGid
      let copies := (s.freeCopy die core).take d.nctx
      let g : Group :=
        { ctx := c, node := n, lin := y.dispatched, ldie := x.groupDie d die, die := die, core := core,
          res := .resident, shared := batchBytes d.qrec records, sharedErr := [], barriers := [], regroup := none,
          tiles := [], copyCtxs := copies, rings := [], emitted := 0, kept := [], frameErr := false,
          warps := (List.range d.warps).map (newWarp d y.handles records.length) }
      let g := g.seat (s.freeSlots die core) s.stamp
      let s := copies.foldl (fun s k => s.allot die c gid k) s
      let s := { s with groups := mapSet s.groups gid g, nextGid := gid + 1 }
      let s := s.modNode c n fun y => { y with dispatched := y.dispatched + 1 }
      let s := if d.emax = 0 then s else s.modNode c d.edst fun e => { e with reserved := e.reserved + d.emax }
      some (s.learn (.node c n) [.group gid]).nextStamp
  | _, _ => none

/-- Dispatch the groups of a cluster to the cores named, all or none. -/
def State.dispatchAll (s : State) (c n die : Nat) (cores : List Nat) : Option State :=
  match s.node c n with
  | none => none
  | some y =>
    let b := y.desc.qbatch
    let all := y.inOrder
    let out := cores.zipIdx.foldl (fun (acc : Option State) p => acc.bind fun t =>
      t.newGroup c n die p.1 ((all.drop (p.2 * b)).take b)) (some s)
    out.map fun t => t.modNode c n fun y => { y with queue := all.drop (cores.length * b) }

/-- `CALLBOARD_DISPATCH` (R398, R399): the first node that can place its next group, cluster or pair does so, on the
cores that the policy chose.
Marks: DEDUCED, safe (assumption 45). -/
def execCallboardDispatch (die : Nat) (cores : List Nat) (s : State) : Out :=
  .next (
    if (s.die die).lost || (s.die die).stopped then s
    else match s.nextNode die with
      | none => s
      | some (c, n) => match s.ctx c, s.node c n with
        | some x, some y =>
          if cores.length = x.nextGroups n y ∧ pairedCores y.desc.isDuet ((List.range cores.length).map (y.dispatched + ·)) cores then
            (s.dispatchAll c n die cores).getD s
          else s
        | _, _ => s)

/-! ## Completion (R406, R407, R455) -/

/-- Every counter of the grid is zero: stores, engine operations, records and signals. -/
def State.quiet (s : State) (c n : Nat) : Bool :=
  !(s.writes.any fun w => w.ctx == c && w.node == n) && !(s.ops.any fun x => x.ctx == c && x.node == n)
  && !(s.emits.any fun e => e.ctx == c && e.node == n) && !(s.signals.any fun x => x.ctx == c && x.node == n)
  && !(s.groups.any fun p => p.2.ctx == c && p.2.node == n)

/-- Has every group of the node been dispatched? -/
def Ctx.allOut (x : Ctx) (n : Nat) (y : Node) : Bool :=
  if y.desc.qrec = 0 then y.dispatched == y.desc.groups
  else y.count == 0 && x.producersDone n && y.queue.isEmpty

/-- May the kernel node complete? -/
def State.canComplete (s : State) (c n : Nat) (x : Ctx) (y : Node) : Bool :=
  y.live && !y.complete && y.desc.ctl == 0
  && (y.failed || y.aborted || (y.board.isSome && x.allOut n y)) && s.quiet c n

/-- The counter of a launch queue passes the nodes that have completed without a gap (R407). -/
def LQueue.pass : Nat → LQueue → LQueue
  | 0, q => q
  | n + 1, q =>
    if q.done.contains (q.counter + 1) then
      LQueue.pass n { q with counter := q.counter + 1, done := q.done.filter (· != q.counter + 1) }
    else q

/-- The node at a place of a queue has completed: the counter, and the completion word (R451). -/
def State.advanceLq (s : State) (q place : Nat) : State :=
  match mapGet s.lqs q with
  | none => s
  | some x =>
    let y : LQueue := { x with done := x.done ++ [place] }
    let y := y.pass y.done.length
    let s := { s with lqs := mapSet s.lqs q y }
    if y.counter = x.counter then s
    else
      let w : HostWrite := { addr := x.completion, bytes := bytesOfWord 8 y.counter }
      { s with hostOut := s.hostOut ++ [w] }

/-- The host learns a node's status (R407, R450). -/
def State.reportNode (s : State) (c n : Nat) (tag : W64) (ok : Bool) : State :=
  let st : NodeStat := { ctx := c, node := n, tag := tag, ok := ok }
  { s with nodeStatus := s.nodeStatus ++ [st]
           notices := if ok then s.notices else s.notices ++ [Notice.nodeFailed c n tag] }

/-- What happens-before the end of a node: its own writes, all at their homes by now, and what its groups or those who made it
ready knew (R133, R455). -/
def endKnows (c n : Nat) (e : Recent) : Bool :=
  (e.ctx == c && e.node == n && e.by_ != .host && e.ord != .uo) || (Agent.grid c n).knows e || (Agent.node c n).knows e

/-- A node is complete: its UO writes are visible to every agent of the device (R150), and what happens-before its end is known
to the nodes that it decrements (R133), and at its place in its launch queue (R452). -/
def State.gridEnds (s : State) (c n : Nat) (succ : List Nat) (queue place : Nat) : State :=
  let s := s.show .device fun e => e.ctx == c && e.node == n && e.by_ != .host && e.ord == .uo
  ((s.teach (endKnows c n) (.placed queue place :: succ.map fun m => .node c m)).unlearn (.grid c n)).unlearn (.node c n)

/-- A node completes (R406): its cues, the launch queue, then its successors. -/
def State.completeNode (s : State) (c n : Nat) (y : Node) (ok : Bool) : State :=
  let before := s
  let s := s.modCtx c fun x => { x with cues := y.handles.foldl (fun m h => mapErase m h.2) x.cues }
  let s := s.modNode c n fun y => { y with complete := true, live := false, handles := [], board := none }
  let s := { s with cbars := s.cbars.filter fun b => !(b.ctx == c && b.node == n)
                    duets := s.duets.filter fun b => !(b.ctx == c && b.node == n) }
  let t := (s.reportNode c n y.tag ok).advanceLq (lqKey c y.desc.lq) y.place
  let succ := if ok then y.desc.succ.filter (· != 0xFFFF) else []
  let t := succ.foldl (fun t m => t.decrement c m) (t.gridEnds c n succ (lqKey c y.desc.lq) y.place)
  if y.desc.emax = 0 then t else t.placeQueue c y.desc.edst before

/-- `NODE_COMPLETE` (R406, R407). -/
def execNodeComplete (ctx node : Nat) (s : State) : Out :=
  .next <| match s.ctx ctx, s.node ctx node with
    | some x, some y =>
      if s.canComplete ctx node x y then s.completeNode ctx node y (!y.failed && !y.aborted) else s
    | _, _ => s

/-- A control node that is ready and the first of those that are (R455). -/
def State.ctlReady (s : State) (c n ctl : Nat) : Option Node :=
  (s.node c n).filter fun y => y.live && !y.complete && y.desc.ctl == ctl && y.board.isSome
    && !(s.ctxs.any fun p => p.2.nodes.any fun q => q.2.live && !q.2.complete && q.2.desc.ctl != 0
      && (match q.2.board, y.board with | some a, some b => decide (a < b) | _, _ => false))

/-- Hand a HOST range over (R453, R455): the object of operand 0.  The device's writes on their way are at their homes before
the host has it (R133).  What the host wrote to it before the doorbell of the `TODEVICE`, the node knows already, and passes on
as it completes (R456). -/
def State.handOver (s : State) (c : Nat) (y : Node) (host : Bool) : State :=
  let i := capObj (y.desc.ops.getD 0 0)
  if !((s.obj c i).any fun o => o.hostOwned != host) then s
  else
    let s := if host then s.drain fun w => w.op.isSome && w.ctx == c else s
    s.modObj c i fun o => { o with hostOwned := host, gen := if host then o.gen else o.gen + 1 }

/-- The shape of the events of control nodes: act, then complete. -/
def ctlAct (ctx node ctl : Nat) (f : State → Node → State) (s : State) : Out :=
  .next <| match s.ctlReady ctx node ctl with
    | none => s
    | some y => (f s y).completeNode ctx node y true

/-- `TOHOST` (R455). -/
def execToHost (ctx node : Nat) (s : State) : Out := ctlAct ctx node 1 (fun s y => s.handOver ctx y true) s

/-- `TODEVICE` (R455). -/
def execToDevice (ctx node : Nat) (s : State) : Out := ctlAct ctx node 2 (fun s y => s.handOver ctx y false) s

/-- `JOIN` (R455). -/
def execJoinNode (ctx node : Nat) (s : State) : Out := ctlAct ctx node 3 (fun s _ => s) s

end Sys2Proof.Machine
end

