-- ==== Sys2Proof/Machine/Pages.lean ====
section
/-! DEFINITION. Lines and pages that are waited for (R105, R106, R159, R432 to R434). -/

namespace Sys2Proof.Machine

/-! ## Lines -/

/-- The lane stands before an instruction of the line, or is at a branch into it. -/
def State.wantsLine (s : State) (gid : Nat) (g : Group) (w : Warp) (line : Nat) (x : Lane) : Bool :=
  x.isLive && (match x.wait with
    | .target pc _ => pcLine pc == line || pcLine x.pc == line
    | y => s.waitOver gid g w y && pcLine x.pc == line)

/-- The line that a lane waits to have fetched.  A branch that waits for its target's line issues again, and so needs its own
line too, if that has been dropped since (R162). -/
def State.lineOf (s : State) (gid : Nat) (g : Group) (w : Warp) (x : Lane) : Option Nat :=
  let need := match x.wait with
    | .target pc _ => [pcLine pc, pcLine x.pc]
    | y => if s.waitOver gid g w y then [pcLine x.pc] else []
  if x.isLive then need.find? fun n => (mapGet w.lines n).isNone else none

/-- A failure of a line goes to the lanes that stand before it, or at a branch into it (R159).
Marks: DEDUCED, unsafe (assumption 59). -/
def State.failLine (s : State) (gid w line : Nat) (f : Flt) : State :=
  match s.group gid with
  | none => s
  | some g =>
    let ls := (s.warp gid w).where (s.wantsLine gid g (s.warp gid w) line)
    let s := s.modWarp gid w fun x => x.modLanes ls fun _ y => { y with wait := .none }
    s.raiseAt gid w (lanesIn ls) f

/-! ## Parked fetches (R432) -/

/-- What a lane that parks on a line keeps (R176). -/
def Wait.park (line : Nat) : Wait → Kept
  | .target pc c => .target pc c
  | .entry i c => .entry i line c
  | .future h => .future h
  | .timeline name v => .timeline name v
  | .ringw ring n => .ringw ring n
  | .ringp ring => .ringp ring
  | _ => .none

/-- What it goes on with. -/
def Kept.unpark : Kept → Wait
  | .none => .none
  | .target pc c => .target pc c
  | .entry i _ c => .entry i c
  | .future h => .future h
  | .timeline name v => .timeline name v
  | .ringw ring n => .ringw ring n
  | .ringp ring => .ringp ring

/-- A fetch that parks blocks the lanes that need its line (R432).
Marks: DEDUCED, unsafe (assumption 59). -/
def State.parkLine (s : State) (gid w line va : Nat) : State :=
  match s.group gid with
  | none => s
  | some g =>
    let ls := (s.warp gid w).where (s.wantsLine gid g (s.warp gid w) line)
    let s := s.modWarp gid w fun x => x.modLanes ls fun _ y => { y with wait := .page (y.wait.park line) }
    (s.park gid w line va).partCheck gid w

/-- The lane is parked on the line. -/
def Lane.parkedOn (line : Nat) (x : Lane) : Bool :=
  match x.wait with
  | .page (.target pc _) => pcLine pc == line || pcLine x.pc == line
  | .page (.entry _ n _) => n == line
  | .page _ => pcLine x.pc == line
  | _ => false

/-- The lanes that are parked on a line go on. -/
def State.unparkLine (s : State) (gid w line : Nat) : State :=
  s.modWarp gid w fun wp => wp.modLanes (wp.where (·.parkedOn line)) fun _ y => match y.wait with
    | .page k => { y with wait := k.unpark }
    | _ => y

/-! ## Walks (R433, R434) -/

/-- Who looks up the page. -/
def State.walkerOf (s : State) (w : Walker) : Looker :=
  match w with
  | .fetch gid _ _ => match s.group gid with
    | some g => .code g.die g.core
    | none => .engine 0
  | .op id => match s.op id with
    | some x => .data x.die x.core
    | none => .engine 0

/-- Who waited goes on: the lanes that the fetch of a line blocks, or the operation.
Marks: DEDUCED, unsafe (assumption 59). -/
def State.wake (s : State) (x : Walk) : State :=
  match x.who with
  | .op id => s.modOp id fun y => { y with parked := false }
  | .fetch gid w line => s.unparkLine gid w line

/-- The page of a walk will never arrive: an operation ends, and the lanes that wait for the line fault (R433, R434).
Marks: DESIGN CHOICE, unsafe (assumption 48). -/
def State.endNever (s : State) (x : Walk) : State :=
  match x.who with
  | .op id => match ((s.wake x).op id) with
    | none => s
    | some y => (s.wake x).startCopy y none
  | .fetch gid w line =>
    let ls := (s.warp gid w).where (·.parkedOn line)
    let s := s.modWarp gid w fun wp => wp.modLanes ls fun _ y => { y with wait := .none }
    s.raiseAt gid w (lanesIn ls) { code := .pageInvalid, s45 := 256 }

/-- The homes of a chunk: none when they cannot be reached. -/
inductive ChunkAt
  | at (parts : List Part)
  | absent (va : Nat)
  | nowhere
  deriving DecidableEq, Repr

/-- Where a received chunk goes (R97, R373, R453): the die of its link looks the page up, and the homes are in its reach.
Marks: DEDUCED, unsafe (assumption 56). -/
def State.chunkAt (s : State) (x : ChunkIn) : ChunkAt :=
  let c := x.args
  match s.obj c.ctx c.obj with
  | none => .nowhere
  | some o =>
    if o.len < c.off + c.data.length ∨ o.hostOwned then .nowhere
    else match o.kind with
      | .loft => match o.placed with
        | none => .nowhere
        | some d => if (s.hops (x.link / 2) d).isNone then .nowhere else .at [{ space := .loft d, addr := o.base + c.off, n := c.data.length, ord := o.ord }]
      | _ => match translateAll s (.engine (x.link / 2)) c.ctx .write (pagesOf (o.base + c.off) c.data.length) with
        | .error (va, .absent) => .absent va
        | .error _ => .nowhere
        | .ok ps => .at ps

/-- A page is present: one that was declared never arriving serves only what is issued from now on (R434). -/
def State.declarePresent (s : State) (ctx va : Nat) : State :=
  let page := va / 65536
  (s.modCtx ctx fun x =>
    if x.never.contains page then
      { x with never := x.never.filter (· != page)
               lapsed := (page, s.stamp) :: x.lapsed.filter fun p => p.1 != page }
    else x).nextStamp

/-- The runtime declares that a page will never arrive: what is parked on it ends at once (R433, R434).
Marks: DESIGN CHOICE, unsafe (assumption 48). -/
def State.declareNever (s : State) (ctx va : Nat) : State :=
  let page := va / 65536
  let mine := s.walks.filter fun x => x.ctx == ctx && x.va / 65536 == page
  let waits := s.chunks.filter fun x => x.args.ctx == ctx && (match s.chunkAt x with
    | .absent a => a / 65536 == page
    | _ => false)
  let s := s.modCtx ctx fun x => { x with never := if x.never.contains page then x.never else page :: x.never }
  let s := { s with walks := s.walks.filter fun x => !mine.contains x
                    chunks := s.chunks.filter fun x => !waits.contains x }
  mine.foldl State.endNever s

end Sys2Proof.Machine
end

