-- ==== Sys2Proof/Machine/Mailbox.lean ====
section
/-! DEFINITION. The management mailbox: its commands (R447 to R450, R393 to R395, R435, R462, R464, R466, R468). -/

namespace Sys2Proof

/-! ## The commands of the ring (R447, R448) -/

/-- The OP of a command (R448). -/
def Cmd.op : Cmd → Byte
  | .ctxCreate _ => 0x01
  | .ctxDestroy _ => 0x02
  | .objInstall _ => 0x03
  | .objRemove _ _ => 0x04
  | .load _ => 0x05
  | .l3Write _ _ _ => 0x06
  | .pteWrite _ _ => 0x07
  | .pageState _ _ _ => 0x08
  | .dieMap _ _ => 0x09
  | .framePool _ _ => 0x0A
  | .nodeWrite _ _ _ => 0x0B
  | .lqCreate _ => 0x0C
  | .bind _ _ _ => 0x0D
  | .peer _ => 0x0E
  | .preempt _ _ => 0x0F
  | .resume _ _ => 0x10
  | .stat _ _ => 0x11
  | .attest _ _ _ => 0x12
  | .debug _ => 0x13
  | .power _ => 0x14
  | .unlisted op _ => op

/-- The command for the context of bytes 2-3. -/
def Cmd.withCtx (n : Nat) : Cmd → Cmd
  | .ctxCreate c => .ctxCreate { c with ctx := n }
  | .ctxDestroy _ => .ctxDestroy n
  | .objInstall c => .objInstall { c with ctx := n }
  | .objRemove _ i => .objRemove n i
  | .load c => .load { c with ctx := n }
  | .l3Write _ i e => .l3Write n i e
  | .pteWrite _ es => .pteWrite n es
  | .pageState _ va p => .pageState n va p
  | .dieMap _ m => .dieMap n m
  | .framePool _ rs => .framePool n rs
  | .nodeWrite _ i d => .nodeWrite n i d
  | .lqCreate c => .lqCreate { c with ctx := n }
  | .bind _ o x => .bind n o x
  | .peer c => .peer { c with ctx := n }
  | .preempt _ t => .preempt n t
  | .resume _ t => .resume n t
  | .stat _ w => .stat n w
  | .attest x o a => .attest x o a
  | .debug _ => .debug n
  | .power m => .power m
  | .unlisted op _ => .unlisted op n

/-- The command that the 64 bytes of a slot give: by its OP, for the context of its bytes 2-3 (R447).
Marks: DESIGN CHOICE, unsafe (assumption 79). -/
def CmdSlot.cmd (x : CmdSlot) : Cmd :=
  if x.args.op = x.op then x.args.withCtx x.ctx.toNat else .unlisted x.op x.ctx.toNat

end Sys2Proof

namespace Sys2Proof.Machine

/-! ## Answers (R447, R448) -/

def stOk : Nat := 0
def stRefused : Nat := 1
def stNoSpace : Nat := 2
def stNotFound : Nat := 3
def stBusy : Nat := 4

/-- The 16 bytes of a response. -/
def Response.bytes (r : Response) : List Byte := bytesOfWord 4 r.status ++ bytesOfWord 4 0 ++ bytesOfWord 8 r.value.toNat

/-- A command has completed: the response is written, and when it came through the ring, MBHEAD advances. -/
def State.answerWith (s : State) (c : Cmd) (r : Response) : State :=
  let m := s.mailbox
  match m.cmds with
  | x :: xs =>
    if x.cmd = c then
      let w : HostWrite := { addr := m.resp + 16 * m.head, bytes := r.bytes }
      let h := if m.size = 0 then m.head + 1 else (m.head + 1) % m.size
      { s with mailbox := { m with cmds := xs, head := h, responses := m.responses ++ [r] }
               hostOut := s.hostOut ++ [w] }
    else { s with mailbox := { m with responses := m.responses ++ [r] } }
  | [] => { s with mailbox := { m with responses := m.responses ++ [r] } }

/-- A response whose value the manual names. -/
def State.answerVal (s : State) (c : Cmd) (status : Nat) (v : W64) : State :=
  s.answerWith c { status := status, value := v, report := .none }

/-- A response without a value of its own: the value field is a free value.
Marks: DESIGN CHOICE, safe (assumption 49). -/
def State.answer (s : State) (c : Cmd) (status : Nat) : State :=
  (s.answerVal c status (Config.responseValue s.fresh)).nextFresh

/-- For a command of a context that exists. -/
def State.withCtx (s : State) (c : Cmd) (ctx : Nat) (f : Ctx → State) : State :=
  match s.ctx ctx with
  | none => s.answer c stNotFound
  | some x => f x

/-! ## Contexts (R448, R469, R120) -/

def Ctx.fresh (key : Nat) (scrim : W64) : Ctx :=
  { key := key, scrim := scrim, map := List.replicate 8 none, objs := [], l3 := [], never := [], lapsed := [], pool := [], used := 0,
    cues := [], nodes := [], late := 0, dropped := [], tags := [], binds := [], peers := [], debug := false }

/-- The scrim contexts of a mask start afresh on every die (R469). -/
def State.freshScrim (s : State) (mask : W64) : State :=
  { s with dies := s.dies.map fun d =>
      { d with scrimCtx := d.scrimCtx.filter fun p => !mask.getLsbD p.1
               scrimStat := d.scrimStat.filter fun p => !mask.getLsbD p.1 } }

/-- `CTXCREATE`.
Marks: DEDUCED, unsafe (assumption 46). -/
def execCtxCreate (c : CtxCreateArgs) (s : State) : Out :=
  .next (
    if c.ctx = 0 ∨ 4095 < c.ctx ∨ (s.ctx c.ctx).isSome then s.answer (.ctxCreate c) stRefused
    else if s.ctxs.any fun p => p.2.scrim &&& c.scrim != 0 then s.answer (.ctxCreate c) stNoSpace
    else
      let key := s.nextKey + 1
      let s := { s with ctxs := mapSet s.ctxs c.ctx (Ctx.fresh key c.scrim), nextKey := key }
      (s.freshScrim c.scrim).answer (.ctxCreate c) stOk)

/-- Abort every grid of a context (R424, R448). -/
def State.abortCtx (s : State) (c : Nat) : State :=
  match s.ctx c with
  | none => s
  | some x => (x.nodes.filter fun p => p.2.live).foldl (fun s p => s.abortNode c p.1) s

/-- A context has a grid that is not yet aborted. -/
def Ctx.running (x : Ctx) : Bool := x.nodes.any fun p => p.2.live && !p.2.aborted

/-- Nothing of a context is on its way. -/
def State.drainedCtx (s : State) (c : Nat) : Bool :=
  !(s.ops.any fun x => x.ctx == c) && !(s.writes.any fun w => w.ctx == c) && !(s.groups.any fun p => p.2.ctx == c)

/-- Everything that the device keeps for a context is erased. -/
def State.eraseCtx (s : State) (c : Nat) : State :=
  { s with
    ctxs := mapErase s.ctxs c
    groups := s.groups.filter fun p => p.2.ctx != c
    cbars := s.cbars.filter fun b => b.ctx != c
    duets := s.duets.filter fun b => b.ctx != c
    streams := s.streams.filter fun b => b.ctx != c
    ops := s.ops.filter fun x => x.ctx != c
    writes := s.writes.filter fun w => w.ctx != c
    recent := s.recent.filter fun e => e.ctx != c
    loads := s.loads.filter fun d => !((s.group d.gid).any fun g => g.ctx == c)
    walks := s.walks.filter fun w => w.ctx != c
    chunks := s.chunks.filter fun x => x.args.ctx != c
    emits := s.emits.filter fun e => e.ctx != c
    signals := s.signals.filter fun x => x.ctx != c
    lqs := s.lqs.filter fun p => p.2.ctx != c
    dies := s.dies.map fun d =>
      { d with
        tlb := d.tlb.filter fun t => t.ctx != c
        cores := d.cores.map fun k => { k with dtlb := k.dtlb.filter fun t => t.ctx != c, itlb := k.itlb.filter fun t => t.ctx != c,
                                               objs := k.objs.filter fun h => h.ctx != c,
                                               queue := k.queue.filter fun e => !((s.group e.gid).any fun g => g.ctx == c),
                                               waiting := k.waiting.filter fun e => !((s.group e.gid).any fun g => g.ctx == c) }
        copyCtx := d.copyCtx.map fun p => (p.1, { p.2 with holder := p.2.holder.filter fun h => h.1 != c })
        banks := d.banks.map fun p => (p.1, { holder := p.2.holder.filter (· != c),
                                              recs := p.2.recs.filter fun r => r.ctx != c })
        rings := d.rings.filter fun p => p.2.owner != c } }

/-- `CTXDESTROY`: the grids abort, the operations drain, then everything is erased.
Marks: DEDUCED, unsafe (assumption 47). -/
def execCtxDestroy (ctx : Nat) (s : State) : Out :=
  .next (s.withCtx (.ctxDestroy ctx) ctx fun x =>
    let s := if x.running then s.abortCtx ctx else s
    if s.drainedCtx ctx then (s.eraseCtx ctx).answer (.ctxDestroy ctx) stOk else s)

/-! ## Objects (R94 to R98, R466) -/

/-- The entry that four words and byte 40 describe, if R94 and R95 accept them.
Marks: DEDUCED, unsafe (assumption 46). -/
def objOf (a : ObjInstallArgs) : Option Obj :=
  let base := (a.w0.extractLsb' 0 56).toNat
  let len := (a.w1.extractLsb' 0 40).toNat
  let owner := (a.w2.extractLsb' 20 12).toNat
  let ldie := (a.w2.extractLsb' 17 3).toNat
  let ord := (a.w2.extractLsb' 14 2).toNat
  let kind := (a.w2.extractLsb' 12 2).toNat
  let host := kind == 3
  let loft := kind == 1
  let bad := a.w0.extractLsb' 56 8 != 0 || a.w1.extractLsb' 40 24 != 0 || a.w2.extractLsb' 0 8 != 0 || a.w3 != 0
    || len == 0 || owner == 0 || !a.w2.getLsbD 16 || kind == 0
    || (if loft then ord == 3 || decide (2 ^ 27 < base + len) || base % 64 != 0 || len % 64 != 0
        else ord != 0 || ldie != 0 || decide (2 ^ 56 < base + len))
    || (host && decide (1 < a.first.toNat))
  if bad then none
  else some
    { base := base, len := len, gen := a.w2.extractLsb' 32 32, owner := owner, ldie := ldie,
      ord := if loft then (if ord = 0 then .so else if ord = 1 then .rc else .uo) else .rc,
      kind := if loft then .loft else if host then .host else .mem, rights := a.w2.extractLsb' 8 4, placed := none,
      hostOwned := host && a.first == 0 }

/-- Installed LOFT extents on a die, but for one entry: context, index and entry. -/
def State.extents (s : State) (die : Nat) : List (Nat × Nat × Obj) :=
  s.ctxs.flatMap fun p => (p.2.objs.filter fun q => q.2.kind == .loft && q.2.placed == some die).map fun q =>
    (p.1, q.1, q.2)

/-- Two extents overlap. -/
def Obj.meets (a b : Obj) : Bool := decide (a.base < b.base + b.len) && decide (b.base < a.base + a.len)

/-- R95: the extent overlaps no other on the die. -/
def State.loftFree (s : State) (die c i : Nat) (o : Obj) : Bool :=
  (s.extents die).all fun e => (e.1 == c && e.2.1 == i) || !o.meets e.2.2

/-- R96: the units of the extent that were last installed for another owner become zero.
Marks: DEDUCED, unsafe (assumption 51). -/
def State.claimLoft (s : State) (die : Nat) (o : Obj) (key : Nat) : State :=
  ((List.range (o.len / 64)).map fun k => o.base / 64 + k).foldl (fun s u =>
    let k := die * 2 ^ 21 + u
    let s := match mapGet s.loftOwner k with
      | some old => if old = key then s else (s.writeHome 0 (.loft die) (u * 64) (List.replicate 64 0)).1
      | none => s
    { s with loftOwner := mapSet s.loftOwner k key }) s

/-- An object is placed where the map sends its logical die (R466); none when its extent is taken.
Marks: DEDUCED, unsafe (assumption 51). -/
def State.place (s : State) (c i : Nat) (x : Ctx) (o : Obj) : Option State :=
  if o.kind ≠ .loft then some (s.modCtx c fun x => { x with objs := mapSet x.objs i o })
  else match x.phys o.ldie with
    | none => some (s.modCtx c fun x => { x with objs := mapSet x.objs i { o with placed := none } })
    | some d =>
      if s.loftFree d c i o then
        some ((s.claimLoft d o x.key).modCtx c fun x => { x with objs := mapSet x.objs i { o with placed := some d } })
      else none

/-- The queued matrix entries that have admitted an operand in an object (R344). -/
def MEntry.usesObj (e : MEntry) (i : Nat) : Bool :=
  match e.op with
  | .mac ws _ _ _ acap bcap _ _ => (bAloft ws && capObj acap == i) || (bBloft ws && capObj bcap == i)
  | _ => false

/-- Every access admitted under an entry is at its home (R98, R344).
Marks: DEDUCED, unsafe (assumption 47). -/
def State.objQuiet (s : State) (c i : Nat) : Bool :=
  let uses := fun (gid : Nat) (e : MEntry) => ((s.group gid).any fun g => g.ctx == c) && e.usesObj i
  !(s.writes.any fun w => w.obj == some (c, i))
  && !(s.dies.any fun d => d.cores.any fun k => k.entries.any fun e => uses e.gid e)
  && !(s.groups.any fun p => p.2.kept.any fun e => uses p.1 e)

/-- The change of entries of a context's object table is complete (R98): nothing reads under an old entry any more, and no core
holds one. -/
def State.objChanged (s : State) (c : Nat) (p : Nat → Bool) : State :=
  (s.fixCtx c).dropHeld fun h => h.ctx == c && p h.obj

/-- `OBJINSTALL`: it waits until every access admitted under the old entry is at its home (R98).
Marks: DEDUCED, unsafe (assumption 46). -/
def execObjInstall (c : ObjInstallArgs) (s : State) : Out :=
  .next (s.withCtx (.objInstall c) c.ctx fun x =>
    if c.idx = 0 ∨ sharedObj ≤ c.idx then s.answer (.objInstall c) stRefused
    else if !s.objQuiet c.ctx c.idx then s
    else match (objOf c).bind ((s.objChanged c.ctx (· == c.idx)).place c.ctx c.idx x) with
      | none => s.answer (.objInstall c) stRefused
      | some s => s.answer (.objInstall c) stOk)

/-- `OBJREMOVE`: it waits as `OBJINSTALL` does.
Marks: DEDUCED, unsafe (assumption 47). -/
def execObjRemove (ctx idx : Nat) (s : State) : Out :=
  .next (s.withCtx (.objRemove ctx idx) ctx fun x =>
    if (mapGet x.objs idx).isNone then s.answer (.objRemove ctx idx) stNotFound
    else if !s.objQuiet ctx idx then s
    else ((s.objChanged ctx (· == idx)).modCtx ctx fun x => { x with objs := mapErase x.objs idx }).answer (.objRemove ctx idx) stOk)

/-- The bytes of `LOAD` at their homes: a status. -/
def State.loadBytes (s : State) (c : Nat) (o : Obj) (off : Nat) (bs : List Byte) : State × Nat :=
  match o.kind with
  | .loft => match o.placed with
    | none => (s, stRefused)
    | some d => ((s.writeHome 0 (.loft d) (o.base + off) bs).1, stOk)
  | _ =>
    let parts := (pagesOf (o.base + off) bs.length).map fun p => (leafOf s (.engine 0) c p.1, p)
    if parts.any fun p => match p.1 with | .error .absent => true | _ => false then (s, stNotFound)
    else if parts.any fun p => match p.1 with | .error _ => true | _ => false then (s, stRefused)
    else
      let out := parts.foldl (fun (acc : State × List Byte) p => match p.1 with
        | .ok (e, b) => ((acc.1.writeHome (s.keyOf c) .hbm (leafAddr e b p.2.1) (acc.2.take p.2.2)).1, acc.2.drop p.2.2)
        | .error _ => acc) (s, bs)
      (out.1, stOk)

/-- `LOAD`.
Marks: DESIGN CHOICE, unsafe (assumption 48). -/
def execLoad (c : LoadArgs) (s : State) : Out :=
  .next (s.withCtx (.load c) c.ctx fun x =>
    match mapGet x.objs c.idx with
    | none => s.answer (.load c) stNotFound
    | some o =>
      if o.len < c.off + c.data.length then s.answer (.load c) stRefused
      else
        let r := s.loadBytes c.ctx o c.off c.data
        r.1.answer (.load c) r.2)

/-! ## Page tables (R101, R108, R433) -/

/-- The device address of the entry of level `want` for an address, found from a table of level `level`. -/
def entryFrom (s : State) (stack va want : Nat) : Nat → Nat → Option Nat
  | level, table =>
    let a := stack * 2 ^ 36 + table + 8 * (va / 2 ^ pageBits level % 1024)
    if level = want then some a
    else
      let e := BitVec.ofNat 64 (leNat (s.readHome 0 .hbm a 8))
      match level with
      | 0 => none
      | l + 1 => if e.getLsbD 0 && !e.getLsbD 1 then entryFrom s stack va want l (e.toNat / 2 ^ 13 % 2 ^ 23 * 2 ^ 13)
        else none

/-- The address of a page-table entry of a context (R102). -/
def entryAddr (s : State) (x : Ctx) (level va : Nat) : Option Nat :=
  let e := (mapGet x.l3 (va / 2 ^ 46)).getD 0
  if e.getLsbD 0 then entryFrom s (e.extractLsb' 48 4).toNat va level 2 (e.toNat / 2 ^ 13 % 2 ^ 23 * 2 ^ 13) else none

/-- Do an address and the range of an entry share a page? -/
def pteCovers (p : PteArgs) (va bits : Nat) : Bool :=
  let b := max bits (pageBits p.level)
  va / 2 ^ b == p.va / 2 ^ b

/-- The code address of a line of a group. -/
def State.lineVa (s : State) (g : Group) (line : Nat) : Nat :=
  ((s.obj g.ctx (capObj (s.desc g).code)).map (·.base)).getD 0 + 64 * line

/-- The shootdown of the range of an entry: cached leaves and lines are dropped (R108).
Marks: DESIGN CHOICE, safe (assumption 60). -/
def State.shootdown (s : State) (ctx : Nat) (p : PteArgs) : State :=
  { s.dropTlb (fun t => t.ctx == ctx && pteCovers p (t.page * 2 ^ t.bits) t.bits) with
    groups := s.groups.map fun q =>
      if q.2.ctx = ctx then (q.1, { q.2 with warps := q.2.warps.map fun w =>
        { w with lines := w.lines.filter fun l => !pteCovers p (s.lineVa q.2 l.1) 0 } })
      else q }

/-- The accesses of a context that were translated under an old entry have reached their homes (R108). -/
def State.oldHome (s : State) (ctx : Nat) : State := (s.drain fun w => w.ctx == ctx && w.space == .hbm).fixCtx ctx

/-- `L3WRITE`: with the shootdown of the range of the entry (R101, R108). -/
def execL3Write (ctx index : Nat) (entry : W64) (s : State) : Out :=
  .next (s.withCtx (.l3Write ctx index entry) ctx fun _ =>
    if 1024 ≤ index ∨ !(bitsZero entry 63 52 && bitsZero entry 47 36 && bitsZero entry 12 1) then
      s.answer (.l3Write ctx index entry) stRefused
    else
      let t := (s.oldHome ctx).modCtx ctx fun x => { x with l3 := mapSet x.l3 index entry }
      (t.shootdown ctx { level := 3, va := index * 2 ^ 46, entry := entry }).answer (.l3Write ctx index entry) stOk)

/-- Write page-table entries in turn; the first that names no table ends the command.
Marks: DESIGN CHOICE, unsafe (assumption 48). -/
def State.writePtes (s : State) (ctx : Nat) : List PteArgs → State × Nat
  | [] => (s, stOk)
  | p :: ps =>
    if 2 < p.level ∨ 2 ^ 56 ≤ p.va then (s, stRefused)
    else match (s.ctx ctx).bind fun x => entryAddr s x p.level p.va with
      | none => (s, stNotFound)
      | some a =>
        ((s.writeHome 0 .hbm a (bytesOfWord 8 p.entry.toNat)).1.shootdown ctx p).writePtes ctx ps

/-- `PTEWRITE`. -/
def execPteWrite (ctx : Nat) (entries : List PteArgs) (s : State) : Out :=
  .next (s.withCtx (.pteWrite ctx entries) ctx fun _ =>
    let r := (s.oldHome ctx).writePtes ctx entries
    r.1.answer (.pteWrite ctx entries) r.2)

/-- `PAGESTATE`: a page is present, so that what waits for it tries again, or will never arrive, so that it ends (R434).
Marks: DESIGN CHOICE, unsafe (assumption 48). -/
def execPageState (ctx va : Nat) (present : Bool) (s : State) : Out :=
  .next (s.withCtx (.pageState ctx va present) ctx fun _ =>
    if 2 ^ 56 ≤ va then s.answer (.pageState ctx va present) stRefused
    else
      let t := if present then s.declarePresent ctx va else s.declareNever ctx va
      t.answer (.pageState ctx va present) stOk)

/-! ## DIEMAP, FRAMEPOOL (R372, R449, R466) -/

/-- Place the LOFT objects of a context under a new map; none when one is refused. -/
def State.replace (s : State) (c : Nat) (x : Ctx) : List (Nat × Obj) → Option State
  | [] => some s
  | (i, o) :: os =>
    if o.kind = .loft ∧ o.placed ≠ x.phys o.ldie then (s.place c i x o).bind fun s => s.replace c x os
    else s.replace c x os

/-- `DIEMAP`: objects move at once, and stores under way land where they were sent.
Marks: DESIGN CHOICE, unsafe (assumption 86). -/
def execDieMap (ctx : Nat) (map : List (Option Nat)) (s : State) : Out :=
  .next (s.withCtx (.dieMap ctx map) ctx fun x =>
    let onCore := s.groups.any fun p => p.2.ctx == ctx && (p.2.res == .resident || p.2.res == .halted)
    if map.length ≠ 8 ∨ map.any fun m => decide (8 ≤ m.getD 0) then s.answer (.dieMap ctx map) stRefused
    else if onCore then s.answer (.dieMap ctx map) stBusy
    else
      let y := { x with map := map }
      -- objects that move leave their old places first
      let t := (s.objChanged ctx fun _ => true).modCtx ctx fun z => { z with map := map, objs := z.objs.map fun p =>
        (p.1, if p.2.kind = .loft ∧ p.2.placed ≠ y.phys p.2.ldie then { p.2 with placed := none } else p.2) }
      match t.replace ctx y (((t.ctx ctx).map (·.objs)).getD []) with
      | none => s.answer (.dieMap ctx map) stRefused
      | some t => t.answer (.dieMap ctx map) stOk)

/-- `FRAMEPOOL`: ranges in 64 KiB units. -/
def execFramePool (ctx : Nat) (ranges : List (Nat × Nat)) (s : State) : Out :=
  .next (s.withCtx (.framePool ctx ranges) ctx fun _ =>
    if ranges.any fun r => r.1 % 65536 != 0 || decide (2 ^ 40 < r.1 + 65536 * r.2) then
      s.answer (.framePool ctx ranges) stRefused
    else (s.modCtx ctx fun x => { x with pool := x.pool ++ ranges }).answer (.framePool ctx ranges) stOk)

/-! ## Node descriptors (R393 to R395, R397, R454) -/

/-- Bits of the resource word. -/
def resBits (bs : List Byte) (lo n : Nat) : Nat := bitsN (recNat bs 32 8) lo n

/-- The descriptor in 256 bytes (R393, R394). -/
def descOf (bs : List Byte) : Desc :=
  let f := recNat bs
  let w := fun (off : Nat) => BitVec.ofNat 64 (f off 8)
  { code := w 0, entry := w 8, handler := w 16, groups := f 24 4, threads := f 28 2, cluster := f 30 1,
    flags := BitVec.ofNat 8 (f 31 1), vregs := resBits bs 56 8, sregs := resBits bs 50 6, acc := resBits bs 44 6,
    bars := resBits bs 39 5, floor := resBits bs 37 2, shared := resBits bs 18 19, stack := resBits bs 0 18,
    pred := f 40 2, prio := f 42 1, aff := f 43 1, nops := f 44 1, ctl := f 45 1, cueMask := BitVec.ofNat 16 (f 46 2),
    qrec := f 48 2, qbatch := f 50 2, qcap := f 52 2, emax := f 54 2, edst := f 56 2, lq := f 58 2, nctx := f 60 1,
    nring := f 61 1, succ := (List.range 4).map fun i => f (64 + 2 * i) 2, launch := w 72,
    ops := (List.range 16).map fun i => w (128 + 8 * i) }

/-- Reserved bytes are zero, and the fields that every node has are in range. -/
def descCommon (bs : List Byte) (d : Desc) : Bool :=
  bs.length == 256 && recNat bs 62 2 == 0 && ((bs.drop 80).take 48).all (· == 0) && d.flags.extractLsb' 5 3 == 0
  && decide (d.prio < 8) && decide (d.lq < 256) && decide (d.nops ≤ 16)

/-- R454: a control node.
Marks: DEDUCED, unsafe (assumption 50). -/
def State.ctlOk (s : State) (c : Nat) (bs : List Byte) (d : Desc) : Bool :=
  decide (d.ctl < 4) && [d.groups, d.threads, d.cluster, d.flags.toNat, recNat bs 32 8, d.qrec, d.qbatch, d.qcap, d.emax,
    d.nctx, d.nring, d.cueMask.toNat].all (· == 0)
  && d.edst == 0xFFFF
  && (if d.ctl = 3 then d.nops == 0
      else d.nops == 1 && ((s.obj c (capObj (d.ops.getD 0 0))).any fun o => o.kind == .host))

/-- Fields of a kernel node in their ranges (R393, R394, R357).
Marks: DEDUCED, unsafe (assumption 50). -/
def Desc.rangesOk (d : Desc) : Bool :=
  let fed := d.qrec != 0
  d.code.getLsbD 41 && (d.anyDie || decide (d.aff < 8)) && decide (1 ≤ d.threads ∧ d.threads ≤ 2048) && decide (1 ≤ d.cluster ∧ d.cluster ≤ 16)
  && (if fed then d.groups == 0 else decide (1 ≤ d.groups ∧ d.groups ≤ 2 ^ 24) && d.groups % d.cluster == 0)
  && decide (1 ≤ d.vregs ∧ d.vregs ≤ 192) && decide (d.sregs ≤ 43) && decide (d.acc ≤ 32) && decide (d.bars ≤ 16)
  && decide (d.floor < 3) && decide (d.shared ≤ 262144) && decide (d.stack ≤ 131072)
  && (if fed then d.qrec % 16 == 0 && decide (16 ≤ d.qrec ∧ d.qrec ≤ 256) && decide (1 ≤ d.qbatch ∧ d.qbatch ≤ d.threads)
        && decide (d.qbatch ≤ d.qcap)
      else d.qbatch == 0 && d.qcap == 0)
  && decide (d.emax ≤ 4096) && (d.emax != 0 || d.edst == 0xFFFF) && decide (d.nctx ≤ 64) && decide (d.nring ≤ 32)
  && (!d.isDuet || (d.groups % 2 == 0 && d.cluster % 2 == 0 && !fed))

/-- The refusals of R395 beside ranges: one group must fit a core. -/
def State.nodeFits (s : State) (x : Ctx) (d : Desc) : Bool :=
  let dies := x.map.filterMap id
  decide (d.nops + (if d.qrec = 0 then 0 else 1) ≤ d.sregs)
  && decide (d.qbatch * d.qrec ≤ d.shared)
  && (d.emax == 0 || (mapGet x.nodes d.edst).any fun e => e.desc.qrec != 0 && decide (d.emax ≤ e.desc.qcap))
  && (d.anyDie || (x.phys d.aff).isSome)
  && ((d.nctx :: d.needs).zip (64 :: coreTotals)).all (fun p => decide (p.1 ≤ p.2))
  && dies.any fun k => decide (d.cluster * d.warps ≤ 32 * ((s.die k).cores.filter fun c => c.state == 0).length)

/-- May the descriptor be written (R395, R454)?
Marks: DEDUCED, unsafe (assumption 50). -/
def State.nodeOk (s : State) (c : Nat) (x : Ctx) (bs : List Byte) (d : Desc) : Bool :=
  descCommon bs d && (if d.ctl = 0 then d.rangesOk && s.nodeFits x d else s.ctlOk c bs d)

def Node.ofDesc (d : Desc) : Node :=
  { desc := d, count := d.pred, live := false, complete := false, failed := false, aborted := false, tag := 0, place := 0,
    order := 0, board := none, dispatched := 0, exited := 0, queue := [], reserved := 0, handles := [], held := false }

/-- `NODEWRITE`. -/
def execNodeWrite (ctx idx : Nat) (desc : List Byte) (s : State) : Out :=
  .next (s.withCtx (.nodeWrite ctx idx desc) ctx fun x =>
    let d := descOf desc
    if 0xFFFF ≤ idx then s.answer (.nodeWrite ctx idx desc) stRefused
    else if (mapGet x.nodes idx).any (·.live) then s.answer (.nodeWrite ctx idx desc) stBusy
    else if !s.nodeOk ctx x desc d then s.answer (.nodeWrite ctx idx desc) stRefused
    else (s.modCtx ctx fun x => { x with nodes := mapSet x.nodes idx (Node.ofDesc d) }).answer (.nodeWrite ctx idx desc) stOk)

/-! ## LQCREATE, BIND, PEER (R450, R405, R468) -/

def isPow2 (n : Nat) : Bool := n != 0 && 2 ^ Nat.log2 n == n

/-- `LQCREATE`.
Marks: DEDUCED, unsafe (assumption 46). -/
def execLqCreate (c : LqCreateArgs) (s : State) : Out :=
  .next (s.withCtx (.lqCreate c) c.ctx fun _ =>
    if 255 < c.q ∨ !isPow2 c.entries ∨ c.entries < 64 ∨ 65536 < c.entries ∨ 1023 < c.doorbell
        ∨ (mapGet s.lqs (lqKey c.ctx c.q)).isSome ∨ s.lqs.any fun p => p.2.doorbell == c.doorbell then
      s.answer (.lqCreate c) stRefused
    else
      let q : LQueue := { ctx := c.ctx, ring := c.ring, entries := c.entries, completion := c.completion, doorbell := c.doorbell,
                          tail := 0, waiting := [], submitted := 0, done := [], counter := 0 }
      ({ s with lqs := mapSet s.lqs (lqKey c.ctx c.q) q }).answer (.lqCreate c) stOk)

/-- `BIND`. -/
def execBind (ctx obj node : Nat) (s : State) : Out :=
  .next (s.withCtx (.bind ctx obj node) ctx fun x =>
    if (mapGet x.objs obj).isNone ∨ (mapGet x.nodes node).isNone then s.answer (.bind ctx obj node) stNotFound
    else (s.modCtx ctx fun x => { x with binds := mapSet x.binds obj node }).answer (.bind ctx obj node) stOk)

/-- The arguments of R468 are legal. -/
def peerOk (c : PeerArgs) : Bool :=
  c.gx.extractLsb' 10 6 == 0 && c.gy.extractLsb' 10 6 == 0 && decide (1 ≤ c.pctx.toNat ∧ c.pctx.toNat ≤ 4095)
  && c.zero == 0 && c.lsel.length == 8 && c.lsel.all (fun b => decide (b.toNat < 2)) && c.rest.all (· == 0)

/-- `PEER`. -/
def execPeer (c : PeerArgs) (s : State) : Out :=
  .next (s.withCtx (.peer c) c.ctx fun _ =>
    if !peerOk c then s.answer (.peer c) stRefused
    else
      let p : Peer := { gx := c.gx.toNat, gy := c.gy.toNat, pctx := c.pctx.toNat, lsel := c.lsel }
      (s.modCtx c.ctx fun x => { x with peers := p :: x.peers.filter fun q => !(q.gx == p.gx && q.gy == p.gy) }).answer
        (.peer c) stOk)

/-! ## PREEMPT and RESUME (R435, R436) -/

/-- The nodes that a command names: their undispatched groups wait for `RESUME`.
Marks: DEDUCED, unsafe (assumption 44). -/
def State.holdNodes (s : State) (c : Nat) (t : Target) (v : Bool) : State :=
  s.modCtx c fun x => { x with nodes := x.nodes.map fun p => (p.1, match t with
    | .ctx => { p.2 with held := v }
    | .node n => if p.1 = n then { p.2 with held := v } else p.2
    | .cores _ _ | .group _ _ => p.2) }

/-- One group is named: only `RESUME` does so (R435). -/
def namesGroup : Target → Bool
  | .group _ _ => true
  | _ => false

/-- `PREEMPT` of a context, a node or a set of cores (R435): the response value counts the units that stay resident.
Marks: DEDUCED, unsafe (assumption 44). -/
def execPreempt (ctx : Nat) (t : Target) (s : State) : Out :=
  .next (s.withCtx (.preempt ctx t) ctx fun _ =>
    if namesGroup t then s.answer (.preempt ctx t) stRefused
    else
      let us := s.unitsOfGroups (s.named ctx t)
      let r := us.foldl (fun (acc : State × Nat) u =>
        let x := acc.1.preemptUnit u
        (x.1, if x.2 then acc.2 + 1 else acc.2)) (s.holdNodes ctx t true, 0)
      r.1.answerVal (.preempt ctx t) (if r.2 = 0 then stOk else stNoSpace) (BitVec.ofNat 64 r.2))

/-- `RESUME` (R435), with the frames in which the host has cleared BKEN (R427).
Marks: DEDUCED, unsafe (assumption 44). -/
def execResume (ctx : Nat) (x : ResumeArgs) (s : State) : Out :=
  .next (s.withCtx (.resume ctx x) ctx fun _ =>
    let us := s.unitsOfGroups (s.named ctx x.target)
    let s := if x.clear then s.clearBken (s.named ctx x.target) else s
    (us.foldl State.resumeUnit (s.holdNodes ctx x.target false)).answer (.resume ctx x) stOk)

/-! ## STAT, ATTEST, DEBUG, POWER (R441, R448, R462, R427, R464) -/

/-- The capability vector of a core (R441): what the last reset published. -/
def Core.vector (c : Core) (k : Nat) : W64 :=
  BitVec.ofNat 64 (min 255 c.shown * 2 ^ 16 + c.qmask.toNat * 2 ^ 12 + c.cls * 2 ^ 10 + c.state * 2 ^ 8 + k)

/-- A report of `STAT`, if there is one. -/
def State.answerReport (s : State) (c : Cmd) (r : Option Report) : State :=
  match r with
  | none => s.answer c stNotFound
  | some r => (s.answerWith c { status := stOk, value := Config.responseValue s.fresh, report := r }).nextFresh

/-- `STAT`. -/
def execStat (ctx : Nat) (what : StatSel) (s : State) : Out :=
  let c := Cmd.stat ctx what
  .next (match what with
    | .lateSignals => s.withCtx c ctx fun x => s.answerVal c stOk (BitVec.ofNat 64 x.late)
    | .droppedRedst d => s.withCtx c ctx fun x => s.answerVal c stOk (BitVec.ofNat 64 ((mapGet x.dropped d).getD 0))
    | .capability d k =>
      if d < 8 ∧ k < 72 then s.answerVal c stOk ((s.core d k).vector k) else s.answer c stRefused
    | .errorLog k => s.answerReport c (s.errLog[k]?.map .log)
    | .nodeStatus k => s.answerReport c (s.nodeStatus[k]?.map .node)
    | .abort k => s.answerReport c (s.aborts[k]?.map .abort))

/-- The report of R462, without its signature.
Marks: DESIGN CHOICE, safe (assumption 71). -/
def Trust.report (t : Trust) (nonce : List Byte) : List Byte :=
  bytesOfWord 4 0x4B520001 ++ bytesOfWord 4 t.log.length ++ nonce ++ t.chain ++ t.log.flatMap Measure.bytes
  ++ (List.range 1952).map Config.publicKey

/-- `ATTEST`: a signed report, or the certificate.
Marks: DESIGN CHOICE, safe (assumption 71). -/
def execAttest (nonce : List Byte) (opt : Nat) (addr : W64) (s : State) : Out :=
  let c := Cmd.attest nonce opt addr
  .next (
    if 1 < opt ∨ nonce.length ≠ 32 then s.answer c stRefused
    else
      let body := s.trust.report nonce
      let bytes := if opt = 0 then body ++ (List.range 3309).map (Config.signature body)
        else (List.range Config.certificateLength).map Config.certificate
      let w : HostWrite := { addr := addr, bytes := bytes }
      ({ s with hostOut := s.hostOut ++ [w] }).answer c stOk)

/-- `DEBUG`. -/
def execDebug (ctx : Nat) (s : State) : Out :=
  .next (s.withCtx (.debug ctx) ctx fun _ => (s.modCtx ctx fun x => { x with debug := true }).answer (.debug ctx) stOk)

/-- `POWER`: 1.5 to 4.4 kW. -/
def execPower (mw : Nat) (s : State) : Out :=
  .next (
    if mw < 1500000 ∨ 4400000 < mw then s.answer (.power mw) stRefused
    else ({ s with limit := mw }).answer (.power mw) stOk)

/-- May the command complete, or go on, in this state (R98, R448)?
Marks: DEDUCED, unsafe (assumption 47). -/
def State.cmdReady (s : State) : Cmd → Bool
  | .ctxDestroy c => (s.ctx c).all fun x => x.running || s.drainedCtx c
  | .objInstall a => s.objQuiet a.ctx a.idx
  | .objRemove c i => s.objQuiet c i
  | _ => true

end Sys2Proof.Machine
end

