-- ==== Sys2Proof/Machine/HostEvents.lean ====
section
/-! DEFINITION. What the host and the peer devices do: registers, launch queues, CXL.mem, device links, and the events
of the whole part (R391, R405, R442, R445 to R451, R453, R457 to R459, R463 to R465). -/

namespace Sys2Proof.Machine

/-! ## BAR0 (R447, R451) -/

/-- The address of slot `i` of a ring of 64-byte slots in host memory. -/
def slotAddr (base : W64) (size i : Nat) : Nat := (base + BitVec.ofNat 64 (64 * (i % size))).toNat

/-- The slots that a ring's new tail makes visible: those from the old tail up to the slot before the new one.
Marks: DESIGN CHOICE, unsafe (assumption 102). -/
def newSlots (size : Nat) (old new : W64) : List Nat :=
  if new = old then []
  else
    let n := (new - old).toNat % size
    (List.range (if n = 0 then size else n)).map (old.toNat + ·)

/-- The host places slots of a ring in its memory, from slot `i` on. -/
def State.placeSlots (s : State) (base : W64) (size : Nat) : Nat → List HostSlot → State
  | _, [] => s
  | i, x :: xs => State.placeSlots { s with hostMem := mapSet s.hostMem (slotAddr base size i) x } base size (i + 1) xs

/-- The command in host memory at an address; nothing there reads as zeros.
Marks: DESIGN CHOICE, unsafe (assumption 102). -/
def State.hostCmd (s : State) (a : Nat) : CmdSlot :=
  match mapGet s.hostMem a with
  | some (.cmd c) => c
  | _ => { op := 0, ctx := 0, pad := 0, args := .unlisted 0 0 }

/-- The entry of a launch queue in host memory at an address.
Marks: DESIGN CHOICE, unsafe (assumption 102). -/
def State.hostEntry (s : State) (a : Nat) : LqEntry :=
  match mapGet s.hostMem a with
  | some (.entry e) => e
  | _ => { op := 0, node := 0, tag := 0, zeros := true }

/-- The size of the command ring is legal (R447). -/
def Mailbox.ready (m : Mailbox) : Bool := isPow2 m.size.toNat && decide (16 ≤ m.size.toNat ∧ m.size.toNat ≤ 4096)

/-- MBTAIL takes a value: the device reads the commands up to it by DMA, once the ring has a size.
Marks: DESIGN CHOICE, unsafe (assumption 102). -/
def State.takeTail (s : State) (tail : W64) : State :=
  let m := s.mailbox
  let new := if m.ready then (newSlots m.size.toNat m.tail tail).map fun i => s.hostCmd (slotAddr m.base m.size.toNat i) else []
  { s with mailbox := { m with tail := tail, cmds := m.cmds ++ new } }

/-- `MBTAIL_WRITE`: the host has placed commands from the old tail on.
Marks: DESIGN CHOICE, unsafe (assumption 79). -/
def execMbTailWrite (tail : W64) (cmds : List CmdSlot) (s : State) : Out :=
  let m := s.mailbox
  .next ((s.placeSlots m.base m.size.toNat m.tail.toNat (cmds.map .cmd)).takeTail tail)

/-- A HOST object has a page that maps a 64 KiB frame.
Marks: DEDUCED, unsafe (assumption 53). -/
def State.mapsFrame (s : State) (c : Nat) (o : Obj) (frame : Nat) : Bool :=
  (pagesOf o.base o.len).any fun p => match walk s 0 c p.1 with
    | .error _ => false
    | .ok (e, b) => leafAddr e b p.1 / 65536 == frame

/-- A `TODEVICE` node becomes visible: the host releases the range, and with it what it has written there so far (R456). -/
def State.hostRelease (s : State) (c : Nat) (e : LqEntry) : State :=
  match (s.node c e.node).filter fun y => e.op == 1 && y.desc.ctl == 2 with
  | none => s
  | some y => match s.obj c (capObj (y.desc.ops.getD 0 0)) with
    | none => s
    | some o => s.teach (fun x => x.by_ == .host && x.ctx == c && s.mapsFrame c o (x.addr / 65536)) [.node c e.node]

/-- A doorbell's new tail makes the entries up to it visible, which the device reads by DMA in order (R451); a doorbell that no
queue has is logged.
Marks: DEDUCED, safe (assumption 52); DESIGN CHOICE, unsafe (assumption 102). -/
def State.ring (s : State) (d : Nat) (tail : W64) : State :=
  match s.lqs.find? fun p => p.2.doorbell == d with
  | none => { s with errLog := s.errLog ++ [.doorbell (0x1000 + 8 * d) tail.toNat] }
  | some (q, x) =>
    let new := (newSlots x.entries x.tail tail).map fun i => s.hostEntry (slotAddr x.ring x.entries i)
    new.foldl (fun s e => s.hostRelease x.ctx e)
      { s with lqs := mapSet s.lqs q { x with tail := tail, waiting := x.waiting ++ new } }

/-- The host has placed entries of the queue of a doorbell from its old tail on. -/
def State.placeEntries (s : State) (d : Nat) (entries : List LqEntry) : State :=
  match s.lqs.find? fun p => p.2.doorbell == d with
  | none => s
  | some (_, x) => s.placeSlots x.ring x.entries x.tail.toNat (entries.map .entry)

/-- `DOORBELL_WRITE`.
Marks: DESIGN CHOICE, unsafe (assumption 79). -/
def execDoorbellWrite (d : Nat) (tail : W64) (entries : List LqEntry) (s : State) : Out :=
  if d < 1024 then .next ((s.placeEntries d entries).ring d tail) else .next s

/-- `REGISTER_WRITE`: MBBASE, MBSIZE, MBTAIL and MBRESP take the value, MBHEAD is read only, and an offset of the
doorbells is a doorbell write.
Marks: DEDUCED, safe (assumption 52). -/
def execRegisterWrite (off v : W64) (s : State) : Out :=
  let m := s.mailbox
  .next (match off.toNat with
    | 0x00 => { s with mailbox := { m with base := v } }
    | 0x08 => { s with mailbox := { m with size := v } }
    | 0x10 => s.takeTail v
    | 0x20 => { s with mailbox := { m with resp := v } }
    | n => if 0x1000 ≤ n ∧ n < 0x3000 ∧ n % 8 = 0 then s.ring ((n - 0x1000) / 8) v else s)

/-! ## Launch queues (R451) -/

/-- May the entry make its node live? -/
def lqEntryOk (x : Option Node) (q : Nat) (e : LqEntry) : Bool :=
  e.op == 1 && e.zeros && x.any fun y => !y.live && !y.complete && y.desc.lq == q

/-- `SUBMIT`: the next entry of a queue makes its node live, or completes as failed. -/
def State.submitEntry (s : State) (q : Nat) (x : LQueue) (e : LqEntry) (rest : List LqEntry) : State :=
  let place := x.submitted + 1
  let y : LQueue := { x with waiting := rest, submitted := place }
  let s := { s with lqs := mapSet s.lqs (lqKey x.ctx q) y }
  if lqEntryOk (s.node x.ctx e.node) q e then
    ((s.modNode x.ctx e.node fun n => { n with live := true, tag := e.tag, place := place, order := s.stamp }).nextStamp).enterBoard
      x.ctx e.node
  else (s.reportNode x.ctx e.node e.tag false).advanceLq (lqKey x.ctx q) place

/-- `SUBMIT` (R451): the next entry of a launch queue of a context. -/
def execSubmit (q : LqName) (s : State) : Out :=
  if 256 ≤ q.q then .next s
  else .next <| match mapGet s.lqs (lqKey q.ctx q.q) with
    | none => s
    | some x => match x.waiting with
      | [] => s
      | e :: es => s.submitEntry q.q x e es

/-! ## CXL.mem (R445, R446, R453) -/

/-- A HOST object that has a page mapping the 64 KiB frame: its context and entry.
Marks: DEDUCED, unsafe (assumption 53). -/
def State.hostFrame (s : State) (frame : Nat) : Option (Nat × Obj) :=
  (s.ctxs.flatMap fun p => (p.2.objs.filter fun q => q.2.kind == .host).map fun q => (p.1, q.2)).find? fun x =>
    s.mapsFrame x.1 x.2 frame

/-- An error response, entered in the error log with the window offset. -/
def State.cxlError (s : State) (addr : Nat) (write : Bool) : State :=
  let r : CxlResp := { addr := addr, write := write, poison := true, data := if write then [] else List.replicate 64 0xFF }
  { s with cxlOut := s.cxlOut ++ [r], errLog := s.errLog ++ [.cxl addr write] }

/-- `CXL_MEM_READ`: an access through the raw alias fails (R118).
Marks: DEDUCED, unsafe (assumption 53). -/
def execCxlMemRead (addr : Nat) (s : State) : Out :=
  if 2 ^ 41 ≤ addr ∨ addr % 64 ≠ 0 then .next s
  else if isRaw addr then .next (s.cxlError addr false)
  else .next <| match s.hostFrame (addr / 65536) with
    | none => s.cxlError addr false
    | some (c, _) =>
      if s.badRead .hbm addr 64 then s.cxlError addr false
      else
        let r : CxlResp := { addr := addr, write := false, poison := false, data := s.readHome (s.keyOf c) .hbm addr 64 }
        { s with cxlOut := s.cxlOut ++ [r] }

/-- A write of the host joins the order of its location (R446); the device need not see it before it acquires the range
(R133). -/
def State.hostWrite (s : State) (c addr : Nat) (data : List Byte) : State × Bool :=
  s.commit { id := 0, by_ := .host, space := .hbm, addr := addr, old := [], ord := .rc, rels := [], known := [], wide := [],
             ctx := c, node := 0 } data

/-- `CXL_MEM_WRITE`: applied when the host owns the range, and otherwise discarded, as through the raw alias (R118).
Marks: DEDUCED, unsafe (assumption 53). -/
def execCxlMemWrite (addr : Nat) (data : List Byte) (s : State) : Out :=
  if 2 ^ 41 ≤ addr ∨ addr % 64 ≠ 0 ∨ data.length ≠ 64 then .next s
  else if isRaw addr then .next (s.cxlError addr true)
  else .next <| match s.hostFrame (addr / 65536) with
    | none => s.cxlError addr true
    | some (c, o) =>
      if !o.hostOwned then s.cxlError addr true
      else
        let w := s.hostWrite c addr data
        if w.2 then w.1.cxlError addr true
        else
          let r : CxlResp := { addr := addr, write := true, poison := false, data := [] }
          { w.1 with cxlOut := w.1.cxlOut ++ [r] }

/-! ## Device links (R457 to R459) -/

def State.link (s : State) (l : Nat) : Link := s.links.getD l Link.reset
def State.modLink (s : State) (l : Nat) (f : Link → Link) : State := { s with links := listMod s.links l f }

/-- The part has 16 links.
Marks: DEDUCED, unsafe (assumption 55). -/
def onLink (l : Nat) (f : Link → State) (s : State) : Out :=
  if l < 16 then .next (f (s.link l)) else .next s

/-- Send flits again. -/
def State.resend (s : State) (l : Nat) (fs : List Flit) : State :=
  { s with linkOut := s.linkOut ++ fs.map fun f => LinkMsg.flit l f.n f.payload }

/-- `FLIT_RECEIVE`: the next flit of a link, with a good CRC, is taken and acknowledged; one that was taken before is
acknowledged and dropped; one that fails, or comes too early, is asked for again.  So each is taken once, in order (R457).
Marks: DEDUCED, unsafe (assumption 55); DESIGN CHOICE, safe (assumption 75); DESIGN CHOICE, unsafe (assumption 79). -/
def execFlitReceive (flit : FlitIn) (crcOk : Bool) (chunk : Option ChunkArgs) (s : State) : Out :=
  let l := flit.link
  let n := flit.n
  onLink l (fun x =>
    if x.down then s
    else if !crcOk || decide (x.expect < n) then { s with linkOut := s.linkOut ++ [.nak l x.expect] }
    else if n < x.expect then { s with linkOut := s.linkOut ++ [.ack l n] }
    else
      let got := chunk.toList.map fun c => { link := l, args := c : ChunkIn }
      { s.modLink l fun x => { x with expect := n + 1 } with
        linkOut := s.linkOut ++ [.ack l n], chunks := s.chunks ++ got }) s

/-- `FLIT_ACK`: the peer has the first `n` flits held. -/
def execFlitAck (link n : Nat) (s : State) : Out :=
  onLink link (fun _ => s.modLink link fun x => { x with retry := x.retry.drop n }) s

/-- `FLIT_NAK`: the flits from flit `n` onward are resent in order. -/
def execFlitNak (link n : Nat) (s : State) : Out :=
  onLink link (fun x =>
    if x.down then s
    else (s.modLink link fun x => { x with retry := mapFrom 0 (fun k (f : Flit) =>
      if n ≤ k then { f with resends := f.resends + 1 } else f) x.retry }).resend link (x.retry.drop n)) s

/-- `RESEND_TIMEOUT`: flit `n` is resent. -/
def execResendTimeout (link n : Nat) (s : State) : Out :=
  onLink link (fun x =>
    if x.down then s
    else (s.modLink link fun x =>
      { x with retry := listMod x.retry n fun f => { f with resends := f.resends + 1 } }).resend link
        ((x.retry.drop n).take 1)) s

/-- After 8 resends of one flit the link retrains. -/
def Link.mustRetrain (x : Link) : Bool := !x.down && !x.retraining && x.retry.any fun f => decide (8 ≤ f.resends)

/-- `LINK_RETRAIN`. -/
def execLinkRetrain (link : Nat) (s : State) : Out :=
  onLink link (fun x => if x.mustRetrain then s.modLink link fun x => { x with retraining := true } else s) s

/-- The link is down: its flits are discarded, and the host is told for each peer context, of each device, how many chunks
were never acknowledged.
Marks: DEDUCED, unsafe (assumption 55). -/
def State.linkDown (s : State) (l : Nat) (x : Link) : State :=
  let ends := x.retry.filter fun f => f.endsChunk
  let peers := (x.retry.map fun f => (f.gx, f.gy, f.pctx)).eraseDups
  let s := s.modLink l fun x => { x with retry := [], retraining := false, fails := x.fails + 1, down := true }
  { s with notices := s.notices ++ peers.map fun p =>
      Notice.linkDown l p.1 p.2.1 p.2.2 (ends.filter fun f => (f.gx, f.gy, f.pctx) == p).length }

/-- `LINK_RETRAIN_COMPLETE`.
Marks: DEDUCED, unsafe (assumption 55). -/
def execLinkRetrainComplete (link : Nat) (ok within : Bool) (s : State) : Out :=
  onLink link (fun x =>
    if !x.retraining then s
    else if ok then s.modLink link fun x =>
      { x with retraining := false, retry := x.retry.map fun f => { f with resends := 0 } }
    else if within && decide (3 ≤ x.fails + 1) then s.linkDown link x
    else s.modLink link fun x => { x with retraining := false, fails := x.fails + 1 }) s

/-! ## Chunks (R328, R405) -/

/-- The bytes that a chunk leaves at its homes: its own, or those there with its elements applied (R325).
Marks: DEDUCED, unsafe (assumption 56). -/
def chunkBytes (c : ChunkArgs) (old : List Byte) : List Byte :=
  let t := codeType c.ty
  let go := fun (op : RedOp) => packCodes t.bits
    (List.zipWith (fun x y => (redStep op t x y).1) (unpackCodes t.bits old) (unpackCodes t.bits c.data))
  match c.op with
  | 1 => go .add
  | 2 => go .min
  | 3 => go .max
  | _ => c.data

/-- A chunk reaches its homes; the answer says whether all of it is there.
Marks: DEDUCED, unsafe (assumption 56). -/
def State.landChunk (s : State) (c : ChunkArgs) (parts : List Part) : State × Bool :=
  let bs := chunkBytes c (parts.flatMap fun p => s.readHome (s.keyOf c.ctx) p.space p.addr p.n)
  (dealOut parts bs).foldl (fun (acc : State × Bool) p =>
    let r := acc.1.commit { id := 0, by_ := .host, space := p.1.space, addr := p.1.addr, old := [], ord := p.1.ord,
                            rels := [], known := [], wide := [], ctx := c.ctx, node := 0 } p.2
    (r.1, acc.2 && !r.2)) (s, true)

/-- The bound node's count goes down by one, and its groups know what the chunk wrote (R133, R405). -/
def State.countChunk (s : State) (before : Nat) (c : ChunkArgs) : State :=
  match (s.ctx c.ctx).bind fun x => mapGet x.binds c.obj with
  | none => s
  | some n => (s.teach (fun e => decide (before ≤ e.id)) [.node c.ctx n]).decrement c.ctx n

/-- `CHUNK_ARRIVAL`: the chunk reaches its homes, after those of its link before it (R457), and then decrements the bound
node; one whose page is absent waits, and the runtime is told (R432).
Marks: DEDUCED, unsafe (assumption 56). -/
def execChunkArrival (k : Nat) (s : State) : Out :=
  .next <| match s.chunks[k]? with
    | none => s
    | some x =>
      let c := x.args
      let t := { s with chunks := s.chunks.eraseIdx k }
      if (s.chunks.take k).any fun y => y.link == x.link then s
      else match s.chunkAt x with
        | .nowhere => t
        | .absent va =>
          if s.notices.contains (.pageAbsent c.ctx va) then s
          else { s with notices := s.notices ++ [.pageAbsent c.ctx va] }
        | .at ps =>
          let r := t.landChunk c ps
          if r.2 then r.1.countChunk s.stamp c else r.1

/-! ## The whole part (R391, R442, R463 to R465) -/

/-- The lowest spare core of a die. -/
def Die.spare (d : Die) : Option Nat := (List.range 72).find? fun k => (d.cores.getD k (Core.reset k)).state == 1

/-- The die after a repair still has what R3 and R415 promise. -/
def Die.enough (d : Die) : Bool :=
  decide (64 ≤ (d.cores.filter fun c => c.state == 0).length)
  && decide (60 ≤ (d.cores.filter fun c => c.state == 0 && c.cls == 2).length)

/-- A core is retired, and the lowest spare is enabled in its place. -/
def Die.retire (d : Die) (k : Nat) : Die :=
  let on := (d.cores.getD k (Core.reset k)).state == 0
  let e : Die := { d with cores := listMod d.cores k fun c => { c with state := 2 } }
  match on, d.spare with
  | true, some j => { e with cores := listMod e.cores j fun c => { c with state := 0 } }
  | _, _ => e

/-- The repair of one core (R442): the die, and whether it is exhausted. -/
def Die.repairCore (d : Die) (failed : List Nat) (k : Nat) : Die × Bool :=
  let c := d.cores.getD k (Core.reset k)
  let e : Die := if 2 ≤ c.mism then d.retire k else d
  let e : Die :=
    if c.accErr then
      let q := failed.foldl (fun (q : BitVec 4) i => q &&& ~~~(1#4 <<< i)) c.qmask
      let e : Die := { e with cores := listMod e.cores k fun c => { c with qmask := q } }
      if ((e.cores.getD k c).cls = 3) ∧ (e.cores.getD k c).state ≠ 2 then e.retire k else e
    else e
  if e = d then (d, false) else if e.enough then (e, false) else (d, true)

/-- The repair of a die, in core order.
Marks: DEDUCED, unsafe (assumption 57). -/
def Die.repair (d : Die) (failed : Nat → List Nat) : Die × Bool :=
  (List.range 72).foldl (fun (acc : Die × Bool) k =>
    let r := acc.1.repairCore (failed k) k
    (r.1, acc.2 || r.2)) (d, false)

/-- What of a core outlives a reset, which publishes its mismatches (R441).
Marks: DEDUCED, unsafe (assumption 57). -/
def Core.again (c : Core) : Core :=
  { c with shown := min 255 c.mism, mism := 0, clock := 0, queue := [], waiting := [], dtlb := [], itlb := [], objs := [],
           accErr := false }

/-- What of a core outlives a bring-up that halts before the repair: its counts stand for the next.
Marks: DEDUCED, unsafe (assumption 57). -/
def Core.kept (c : Core) : Core := { c with clock := 0, queue := [], waiting := [], dtlb := [], itlb := [], objs := [] }

/-- The root of trust after a bring-up: of a malformed stage the entry still stands, and nothing follows it (R460).
Marks: DEDUCED, unsafe (assumption 57). -/
def Trust.upTo (bad : Option (Nat × Nat)) : Trust :=
  let n := match bad with
    | none => measuredStages.length
    | some p => measuredStages.findIdx (· == p) + 1
  let log := (measuredStages.take n).map measure
  { log := log, chain := chainOf log }

/-- The bring-up reaches the repair (R463): no stage before the scheduler microcode is malformed.
Marks: DEDUCED, unsafe (assumption 57). -/
def repairs (bad : Option (Nat × Nat)) : Bool := bad.all fun p => decide (5 ≤ p.1)

/-- `RESET` (R463): nothing survives but the repair of the cores, what has left the part, the host's own memory, and the model's
own agenda and counter of free values.  A malformed stage halts bring-up (R460).
Marks: DEDUCED, unsafe (assumption 57). -/
def State.restart (s : State) (failed : List QuadrantFail) (bad : Option (Nat × Nat)) : State :=
  let ds := mapFrom 0 (fun i (d : Die) => if repairs bad then d.repair fun k =>
    (failed.filter fun f => f.die == i && f.core == k).map (·.quadrant) else (d, false)) s.dies
  { State.reset with
    agenda := s.agenda, fresh := s.fresh, hostMem := s.hostMem, hostOut := s.hostOut, cxlOut := s.cxlOut, linkOut := s.linkOut
    trust := Trust.upTo bad, halted := bad.isSome
    dies := ds.map fun p => { Die.reset with cores := p.1.cores.map (if repairs bad then Core.again else Core.kept) }
    errLog := (mapFrom 0 (fun i (p : Die × Bool) => (i, p.2)) ds).filterMap fun p =>
      if p.2 then some (LogEntry.exhausted p.1) else none }

/-- `RESET`, with the quadrants that its tests find failing (R442), and the stage whose image is malformed (R460).
Marks: DEDUCED, unsafe (assumption 57); DESIGN CHOICE, safe (assumption 75). -/
def execReset (b : BringUp) (s : State) : Out :=
  if (b.failed.all fun f => decide (f.die < 8) && decide (f.core < 72) && decide (f.quadrant < 4))
      && b.malformed.all measuredStages.contains then
    .next (s.restart b.failed b.malformed)
  else .next s

/-- The core clock of a die, in MHz: the lowest while its junction is too hot (R465). -/
def Die.clock (d : Die) : Nat := if d.throttled then 1000 else d.mhz

/-- `POWER_AVERAGE_WINDOW`: above the limit, core clocks go down by 125 MHz, to no less than 1.0 GHz.
Marks: DEDUCED, unsafe (assumption 58). -/
def execPowerAverageWindow (mw : Nat) (s : State) : Out :=
  .next (if s.limit < mw then { s with dies := s.dies.map fun d => { d with mhz := max 1000 (d.mhz - 125) } } else s)

/-- Change a die that the part has. -/
def onDie (d : Nat) (t s : State) : Out := .next (if d < 8 then t else s)

/-- `JUNCTION_THROTTLE`: the die is held at its lowest core clock (`Die.clock`).
Marks: DEDUCED, unsafe (assumption 58). -/
def execJunctionThrottle (die : Nat) (s : State) : Out := onDie die (s.modDie die fun d => { d with throttled := true }) s

/-- `JUNCTION_RECOVER`: the die is released. -/
def execJunctionRecover (die : Nat) (s : State) : Out := onDie die (s.modDie die fun d => { d with throttled := false }) s

/-- A context ends, and the host is told. -/
def State.endCtx (s : State) (lost : Option Nat) (c : Nat) : State :=
  let s := s.eraseCtx c
  { s with notices := s.notices ++ [.contextEnded c lost] }

/-- `DIE_LOST`: the die-lost machine check ends every context whose map names the die. -/
def execDieLost (die : Nat) (s : State) : Out :=
  onDie die (
    if (s.die die).lost then s
    else
      let t := s.modDie die fun d => { d with lost := true }
      let t := { t with errLog := t.errLog ++ [LogEntry.machineCheck die 0 0 (BitVec.ofNat 64 (4 + die * 256))] }
      ((s.ctxs.filter fun p => p.2.map.contains (some die)).map (·.1)).foldl (fun t c => t.endCtx (some die) c) t) s

/-- `COOLANT_FLOW_LOSS`: every die stops, every context ends, and nothing more happens before a reset.
Marks: DEDUCED, unsafe (assumption 58). -/
def execCoolantFlowLoss (s : State) : Out :=
  let t := (s.ctxs.map (·.1)).foldl (fun (t : State) c => t.endCtx none c)
    { s with dies := s.dies.map fun d => { d with stopped := true } }
  .next { t with halted := true }

end Sys2Proof.Machine
end

