-- ==== Sys2Proof/Machine/Fetch.lean ====
section
/-! DEFINITION. Stores that reach their homes, long-latency operations that complete, line fetches and page walks
(R105, R114, R125, R155 to R159, R178 to R182, R432, R433). -/

namespace Sys2Proof.Machine

/-! ## Stores and long-latency results -/

/-- `WRITE_REACHES_HOME` (R114, R125): with the earlier writes to its locations ahead of it; `late` says that an operation
reads what it copies only now (R126). -/
def execWriteReachesHome (x : Landing) (s : State) : Out :=
  .next <| match s.writes[x.k]? with
    | none => s
    | some w =>
      let r := splitWrites (fun y => ahead y w) (s.writes.take x.k)
      let t := r.1.foldl State.land1 { s with writes := r.2 ++ s.writes.drop (x.k + 1) }
      if x.late then
        let y := t.reread w
        y.1.land1 y.2
      else t.land1 w

/-- The lane has an open window of the operation. -/
def Lane.awaits (id : Nat) (x : Lane) : Bool := x.windows.any fun y => y.stamp == id && !y.done

/-- The value of a load that takes its place at its completion (R126): as its lane reads then, or the error that it meets
(R440). -/
def Load.value (d : Load) (s : State) : State × Res :=
  let a := Agent.lane d.gid d.warp d.lane
  if s.badRead d.space d.addr d.bytes then (s, (eccFlt d.space.source).res true)
  else
    let v := leNat (s.readAs a 0 d.space d.addr d.bytes)
    (s.noteRead a d.space d.addr d.bytes none,
     .ofVal (if d.bytes = 8 then BitVec.ofNat 64 v else extInt (8 * d.bytes) d.signed v))

/-- A load reads again as it completes; its window takes the value.
Marks: DEDUCED, unsafe (assumption 10). -/
def State.readLate (s : State) (id : Nat) : State :=
  (s.loads.filter fun d => d.id == id && !d.fixed).foldl (fun s d =>
    let r := d.value s
    r.1.modLane d.gid d.warp d.lane fun x => { x with windows := x.windows.map fun y =>
      if y.stamp = id then { y with val := r.2.val, flt := r.2.late } else y }) s

/-- The operation of some windows has completed. -/
def Lane.complete (id : Nat) (x : Lane) : Lane :=
  { x with windows := x.windows.map fun y => if y.stamp = id then { y with done := true } else y }

/-- A long-latency operation of a warp completes; what is due lands, unless the group is not on a core (R182). -/
def State.completeOn (s : State) (id gid w : Nat) (res : Residence) : State :=
  let ls := (s.warp gid w).where (·.awaits id)
  let s := s.modWarp gid w fun x => x.modLanes ls fun _ y => y.complete id
  if res = .resident then s.landDue gid w ls else s

/-- `LONG_LATENCY_COMPLETE` (R178, R182): an atomic has acted at its home by now; `late` says that a load takes its value here and not as it stood at its issue
(R126). -/
def execLongLatencyComplete (x : Completion) (s : State) : Out :=
  let s := s.drain fun w => w.rmw.any fun m => m.win == x.id
  let s := if x.late then s.readLate x.id else s
  let s := { s with loads := s.loads.filter fun d => d.id != x.id }
  .next <| match s.groups.findSome? fun p =>
      (p.2.warps.zipIdx.find? fun q => q.1.lanes.any (·.awaits x.id)).map fun q => (p.1, q.2, p.2.res) with
    | none => s
    | some (gid, w, res) => s.completeOn x.id gid w res

/-! ## Lines (R155 to R159) -/

/-- The parity of the body (R156). -/
def lineParity (bs : List Byte) : Byte := (bs.take 60).foldl (· ^^^ ·) 0

/-- The line word. -/
def lineWord (bs : List Byte) : W32 := BitVec.ofNat 32 (leNat ((bs.drop 60).take 4))

/-- The word of a slot. -/
def lineSlot (bs : List Byte) (k : Nat) : BitVec 96 := BitVec.ofNat 96 (leNat ((bs.drop (12 * k)).take 12))

/-- The opcode of a slot (R165). -/
def slotOp (bs : List Byte) (k : Nat) : Nat := ((lineSlot bs k).extractLsb' 86 10).toNat

/-- PAIR bit `k`: slots `k` and `k + 1` are a pair (R156). -/
def pairBit (bs : List Byte) (k : Nat) : Bool := decide (k < 4) && (lineWord bs).getLsbD (5 + k)

/-- The detail of `ILLEGAL_LINE`, 0 for a legal line (R157, R158); of several conditions that a line breaks, the lowest is
reported.
Marks: DESIGN CHOICE, unsafe (assumption 97). -/
def lineIllegal (bs : List Byte) : Nat :=
  let pairs := (List.range 4).filter (pairBit bs)
  if (lineWord bs).extractLsb' 9 15 ≠ 0 then 1
  else if pairs.any fun k => pairBit bs (k + 1) then 2
  else if pairs.any fun k => decide (slotOp bs k ≤ 0x00E) || decide (slotOp bs (k + 1) ≤ 0x00E) then 3
  else if pairs.any fun k => (lineWord bs).getLsbD (k + 1) then 4
  else 0

/-- Bits of the 64 bytes inverted by the transfer. -/
def flipBits (bs : List Byte) (fl : List Nat) : List Byte :=
  bs.zipIdx.map fun p => fl.foldl (fun (b : Byte) i => if i / 8 = p.2 then b ^^^ (1#8 <<< (i % 8)) else b) p.1

/-- The line fetches under way: group, warp and line. -/
def State.fetches (s : State) : List (Nat × Nat × Nat) :=
  (s.groups.filter fun p => p.2.res == .resident).flatMap fun p => p.2.warps.zipIdx.flatMap fun q =>
    ((q.1.lanes.filterMap (s.lineOf p.1 p.2 q.1)).eraseDups.filter fun n =>
      !(s.refetches.any fun r => r.gid == p.1 && r.warp == q.2 && r.line == n)).map fun n => (p.1, q.2, n)

/-- A line whose parity matches is checked under R157 and enters the buffers.
Marks: DESIGN CHOICE, safe (assumption 60). -/
def State.enterLine (s : State) (gid w line : Nat) (bs : List Byte) : State :=
  match lineIllegal bs with
  | 0 => s.modWarp gid w fun x => { x with lines := mapSet x.lines line bs }
  | n => s.failLine gid w line { code := .illegalLine, s45 := BitVec.ofNat 64 n }

/-- The bytes of a line as they arrive; a fetch that fails or parks is settled here.
Marks: DEDUCED, safe (assumption 78). -/
def State.withLine (s : State) (gid w line : Nat) (flips : List Nat) (f : List Byte → State) : State :=
  match s.group gid with
  | none => s
  | some g => match s.readCode g.ctx g.die g.core (s.desc g) (64 * line) 64 with
    | .error (.absent va) => s.parkLine gid w line va
    | .error (.flt x) => s.failLine gid w line x
    | .ok bs => f (flipBits bs flips)

/-- The instruction TLB and the second level keep the leaf of a line that has arrived (R107). -/
def State.cacheCode (s : State) (gid line : Nat) : State :=
  match s.group gid with
  | none => s
  | some g => s.cacheLeaf (.code g.die g.core) g.ctx (s.lineVa g line)

/-- The parity of a line matches. -/
def lineGood (bs : List Byte) : Bool := lineParity bs == bs.getD 63 0

/-- `LINE_FETCH_COMPLETE` (R158).
Marks: DESIGN CHOICE, safe (assumption 75). -/
def execLineFetchComplete (k : Nat) (flips : List Nat) (s : State) : Out :=
  .next <| match s.fetches[k]? with
    | none => s
    | some (gid, w, n) => s.withLine gid w n flips fun bs =>
        if lineGood bs then (s.cacheCode gid n).enterLine gid w n bs
        else { s with refetches := s.refetches ++ [{ gid := gid, warp := w, line := n, first := bs }] }

/-- `LINE_REFETCH_COMPLETE` (R158, R439). -/
def execLineRefetchComplete (k : Nat) (flips : List Nat) (s : State) : Out :=
  .next <| match s.refetches[k]? with
    | none => s
    | some r =>
      let t := { s with refetches := s.refetches.eraseIdx k }
      t.withLine r.gid r.warp r.line flips fun bs =>
        if lineGood bs then t.enterLine r.gid r.warp r.line bs
        else if bs = r.first then
          t.failLine r.gid r.warp r.line
            { code := .lineParity, s45 := (lineParity bs ^^^ bs.getD 63 0).zeroExtend 64 }
        else t.failLine r.gid r.warp r.line { code := .machineCheck, s45 := 3 }

/-! ## Page walks (R105, R106, R432, R433) -/

/-- `PAGE_WALK_COMPLETE`: a walk that finds its page present, or ends in `PAGE_INVALID`, ends the wait; one that finds it
absent leaves it (R106, R433). -/
def execPageWalkComplete (k : Nat) (s : State) : Out :=
  .next <| match s.walks[k]? with
    | none => s
    | some x => match leafOf s (s.walkerOf x.who) x.ctx x.va with
      | .error .absent => s
      | .error _ => ({ s with walks := s.walks.eraseIdx k }).wake x
      | .ok _ => (({ s with walks := s.walks.eraseIdx k }).cacheLeaf (s.walkerOf x.who) x.ctx x.va).wake x

end Sys2Proof.Machine
end

