-- ==== Sys2Proof/Machine/Dispatch.lean ====
section
/-! DEFINITION. The meaning of every instruction and event: one arm a constructor. -/

namespace Sys2Proof.Machine

/-- What an instruction does to the run that the current issue names, and what an event does. -/
def exec (i : Instr) (s : State) : Host.Outcome State Fault Refusal :=
  match i with
  | .nop o => Sys2Proof.Machine.execNop o s
  | .bra o => Sys2Proof.Machine.execBra o s
  | .brx o m => Sys2Proof.Machine.execBrx o m s
  | .call o => Sys2Proof.Machine.execCall o s
  | .callx o m => Sys2Proof.Machine.execCallx o m s
  | .ret o => Sys2Proof.Machine.execRet o s
  | .exit o => Sys2Proof.Machine.execExit o s
  | .reconv o => Sys2Proof.Machine.execReconv o s
  | .yield o => Sys2Proof.Machine.execYield o s
  | .bar o m => Sys2Proof.Machine.execBar o m s
  | .cbar o m => Sys2Proof.Machine.execCbar o m s
  | .trap o => Sys2Proof.Machine.execTrap o s
  | .bkpt o => Sys2Proof.Machine.execBkpt o s
  | .elect o => Sys2Proof.Machine.execElect o s
  | .hret o m => Sys2Proof.Machine.execHret o m s
  | .unassignedOpcode op => Sys2Proof.Machine.execUnassigned op s
  | .iadd o m => Sys2Proof.Machine.execIadd o m s
  | .isub o m => Sys2Proof.Machine.execIsub o m s
  | .imul o m => Sys2Proof.Machine.execImul o m s
  | .imulh o m => Sys2Proof.Machine.execImulh o m s
  | .imad o m => Sys2Proof.Machine.execImad o m s
  | .imadw o m => Sys2Proof.Machine.execImadw o m s
  | .idiv o m => Sys2Proof.Machine.execIdiv o m s
  | .irem o m => Sys2Proof.Machine.execIrem o m s
  | .iabs o m => Sys2Proof.Machine.execIabs o m s
  | .ineg o m => Sys2Proof.Machine.execIneg o m s
  | .imin o m => Sys2Proof.Machine.execImin o m s
  | .imax o m => Sys2Proof.Machine.execImax o m s
  | .icmp o m => Sys2Proof.Machine.execIcmp o m s
  | .isel o m => Sys2Proof.Machine.execIsel o m s
  | .idp4 o m => Sys2Proof.Machine.execIdp4 o m s
  | .andB o m => Sys2Proof.Machine.execAndB o m s
  | .orB o m => Sys2Proof.Machine.execOrB o m s
  | .xorB o m => Sys2Proof.Machine.execXorB o m s
  | .notB o m => Sys2Proof.Machine.execNotB o m s
  | .lop3 o m => Sys2Proof.Machine.execLop3 o m s
  | .shl o m => Sys2Proof.Machine.execShl o m s
  | .shr o m => Sys2Proof.Machine.execShr o m s
  | .sar o m => Sys2Proof.Machine.execSar o m s
  | .rot o m => Sys2Proof.Machine.execRot o m s
  | .fshf o m => Sys2Proof.Machine.execFshf o m s
  | .popc o m => Sys2Proof.Machine.execPopc o m s
  | .clz o m => Sys2Proof.Machine.execClz o m s
  | .brev o m => Sys2Proof.Machine.execBrev o m s
  | .bfe o m => Sys2Proof.Machine.execBfe o m s
  | .bfi o m => Sys2Proof.Machine.execBfi o m s
  | .prmt o m => Sys2Proof.Machine.execPrmt o m s
  | .mov o m => Sys2Proof.Machine.execMov o m s
  | .movi o m => Sys2Proof.Machine.execMovi o m s
  | .movs o m => Sys2Proof.Machine.execMovs o m s
  | .pset o m => Sys2Proof.Machine.execPset o m s
  | .plop o => Sys2Proof.Machine.execPlop o s
  | .ptov o => Sys2Proof.Machine.execPtov o s
  | .vtop o => Sys2Proof.Machine.execVtop o s
  | .capadd o m => Sys2Proof.Machine.execCapadd o m s
  | .capnar o m => Sys2Proof.Machine.execCapnar o m s
  | .capoff o m => Sys2Proof.Machine.execCapoff o m s
  | .capobj o m => Sys2Proof.Machine.execCapobj o m s
  | .capchk o m => Sys2Proof.Machine.execCapchk o m s
  | .fadd o m => Sys2Proof.Machine.execFadd o m s
  | .fsub o m => Sys2Proof.Machine.execFsub o m s
  | .fmul o m => Sys2Proof.Machine.execFmul o m s
  | .ffma o m => Sys2Proof.Machine.execFfma o m s
  | .fmin o m => Sys2Proof.Machine.execFmin o m s
  | .fmax o m => Sys2Proof.Machine.execFmax o m s
  | .fcmp o m => Sys2Proof.Machine.execFcmp o m s
  | .frnd o m => Sys2Proof.Machine.execFrnd o m s
  | .fclass o m => Sys2Proof.Machine.execFclass o m s
  | .fscale o m => Sys2Proof.Machine.execFscale o m s
  | .hadd2 o m => Sys2Proof.Machine.execHadd2 o m s
  | .hmul2 o m => Sys2Proof.Machine.execHmul2 o m s
  | .hfma2 o m => Sys2Proof.Machine.execHfma2 o m s
  | .dadd o m => Sys2Proof.Machine.execDadd o m s
  | .dmul o m => Sys2Proof.Machine.execDmul o m s
  | .dfma o m => Sys2Proof.Machine.execDfma o m s
  | .cvt o m => Sys2Proof.Machine.execCvt o m s
  | .cvtn o m => Sys2Proof.Machine.execCvtn o m s
  | .cvtw o m => Sys2Proof.Machine.execCvtw o m s
  | .qscale o m => Sys2Proof.Machine.execQscale o m s
  | .rcp o m => Sys2Proof.Machine.execRcp o m s
  | .rsq o m => Sys2Proof.Machine.execRsq o m s
  | .sqrt o m => Sys2Proof.Machine.execSqrt o m s
  | .ex2 o m => Sys2Proof.Machine.execEx2 o m s
  | .lg2 o m => Sys2Proof.Machine.execLg2 o m s
  | .sin o m => Sys2Proof.Machine.execSin o m s
  | .cos o m => Sys2Proof.Machine.execCos o m s
  | .fdiv o m => Sys2Proof.Machine.execFdiv o m s
  | .flagr o => Sys2Proof.Machine.execFlagr o s
  | .flagc o => Sys2Proof.Machine.execFlagc o s
  | .liadd o m => Sys2Proof.Machine.execLiadd o m s
  | .lisub o m => Sys2Proof.Machine.execLisub o m s
  | .limul o m => Sys2Proof.Machine.execLimul o m s
  | .lidiv o m => Sys2Proof.Machine.execLidiv o m s
  | .licmp o m => Sys2Proof.Machine.execLicmp o m s
  | .lircp o m => Sys2Proof.Machine.execLircp o m s
  | .liexp o m => Sys2Proof.Machine.execLiexp o m s
  | .liln o m => Sys2Proof.Machine.execLiln o m s
  | .licvt o m => Sys2Proof.Machine.execLicvt o m s
  | .lilvl o m => Sys2Proof.Machine.execLilvl o m s
  | .shfl o m => Sys2Proof.Machine.execShfl o m s
  | .qxch o m => Sys2Proof.Machine.execQxch o m s
  | .qbc o m => Sys2Proof.Machine.execQbc o m s
  | .vote o m => Sys2Proof.Machine.execVote o m s
  | .matchB o m => Sys2Proof.Machine.execMatchB o m s
  | .red o m => Sys2Proof.Machine.execRed o m s
  | .scan o m => Sys2Proof.Machine.execScan o m s
  | .regroup o m => Sys2Proof.Machine.execRegroup o m s
  | .lanemask o m => Sys2Proof.Machine.execLanemask o m s
  | .lds o m => Sys2Proof.Machine.execLds o m s
  | .sts o m => Sys2Proof.Machine.execSts o m s
  | .ldl o m => Sys2Proof.Machine.execLdl o m s
  | .stl o m => Sys2Proof.Machine.execStl o m s
  | .ldk o m => Sys2Proof.Machine.execLdk o m s
  | .stk o m => Sys2Proof.Machine.execStk o m s
  | .atms o m => Sys2Proof.Machine.execAtms o m s
  | .atml o m => Sys2Proof.Machine.execAtml o m s
  | .cass o m => Sys2Proof.Machine.execCass o m s
  | .casl o m => Sys2Proof.Machine.execCasl o m s
  | .fence o m => Sys2Proof.Machine.execFence o m s
  | .cpy o m => Sys2Proof.Machine.execCpy o m s
  | .cpyg o m => Sys2Proof.Machine.execCpyg o m s
  | .cpyx o m => Sys2Proof.Machine.execCpyx o m s
  | .redst o m => Sys2Proof.Machine.execRedst o m s
  | .cueb o m => Sys2Proof.Machine.execCueb o m s
  | .cuef o => Sys2Proof.Machine.execCuef o s
  | .ringi o => Sys2Proof.Machine.execRingi o s
  | .ringpTake o => Sys2Proof.Machine.execRingpTake o s
  | .ringpFill o => Sys2Proof.Machine.execRingpFill o s
  | .ringw o m => Sys2Proof.Machine.execRingw o m s
  | .ringr o => Sys2Proof.Machine.execRingr o s
  | .fwait o => Sys2Proof.Machine.execFwait o s
  | .ftest o m => Sys2Proof.Machine.execFtest o m s
  | .fcancel o => Sys2Proof.Machine.execFcancel o s
  | .tlrdCnt o => Sys2Proof.Machine.execTlrdCnt o s
  | .tlrdName o => Sys2Proof.Machine.execTlrdName o s
  | .tlwait o => Sys2Proof.Machine.execTlwait o s
  | .signal o => Sys2Proof.Machine.execSignal o s
  | .mma o => Sys2Proof.Machine.execMma o s
  | .mmab o => Sys2Proof.Machine.execMmab o s
  | .mmad o => Sys2Proof.Machine.execMmad o s
  | .accz o => Sys2Proof.Machine.execAccz o s
  | .acco o m => Sys2Proof.Machine.execAcco o m s
  | .acci o m => Sys2Proof.Machine.execAcci o m s
  | .accg o m => Sys2Proof.Machine.execAccg o m s
  | .cross o m => Sys2Proof.Machine.execCross o m s
  | .crossb o m => Sys2Proof.Machine.execCrossb o m s
  | .xbank o m => Sys2Proof.Machine.execXbank o m s
  | .xstat o m => Sys2Proof.Machine.execXstat o m s
  | .emit o => Sys2Proof.Machine.execEmit o s
  | .rand o => Sys2Proof.Machine.execRand o s
  | .mode o => Sys2Proof.Machine.execMode o s
  | .cover o m => Sys2Proof.Machine.execCover o m s
  | .clock o => Sys2Proof.Machine.execClock o s
  | .writeReachesHome x => Sys2Proof.Machine.execWriteReachesHome x s
  | .longLatencyComplete x => Sys2Proof.Machine.execLongLatencyComplete x s
  | .copyStart x => Sys2Proof.Machine.execCopyStart x s
  | .copyComplete id => Sys2Proof.Machine.execCopyComplete id s
  | .engineRingClaim id => Sys2Proof.Machine.execEngineRingClaim id s
  | .signalApply k => Sys2Proof.Machine.execSignalApply k s
  | .matrixEntryExecute die core => Sys2Proof.Machine.execMatrixEntryExecute die core s
  | .duetBoundExpiry gid warp => Sys2Proof.Machine.execDuetBoundExpiry gid warp s
  | .crossingStart id => Sys2Proof.Machine.execCrossingStart id s
  | .crossingDelivery id => Sys2Proof.Machine.execCrossingDelivery id s
  | .xbankLoadComplete id => Sys2Proof.Machine.execXbankLoadComplete id s
  | .emitRecordsArrive k => Sys2Proof.Machine.execEmitRecordsArrive k s
  | .lineFetchComplete k flips => Sys2Proof.Machine.execLineFetchComplete k flips s
  | .lineRefetchComplete k flips => Sys2Proof.Machine.execLineRefetchComplete k flips s
  | .pageWalkComplete k => Sys2Proof.Machine.execPageWalkComplete k s
  | .swapOut gid => Sys2Proof.Machine.execSwapOut gid s
  | .restore gid cores => Sys2Proof.Machine.execRestore gid cores s
  | .callboardDispatch die cores => Sys2Proof.Machine.execCallboardDispatch die cores s
  | .nodeComplete ctx node => Sys2Proof.Machine.execNodeComplete ctx node s
  | .toHost ctx node => Sys2Proof.Machine.execToHost ctx node s
  | .toDevice ctx node => Sys2Proof.Machine.execToDevice ctx node s
  | .joinNode ctx node => Sys2Proof.Machine.execJoinNode ctx node s
  | .gridCopyLocalComplete id => Sys2Proof.Machine.execGridCopyLocalComplete id s
  | .chunkArrival k => Sys2Proof.Machine.execChunkArrival k s
  | .ctxCreate c => Sys2Proof.Machine.execCtxCreate c s
  | .ctxDestroy ctx => Sys2Proof.Machine.execCtxDestroy ctx s
  | .objInstall c => Sys2Proof.Machine.execObjInstall c s
  | .objRemove ctx idx => Sys2Proof.Machine.execObjRemove ctx idx s
  | .load c => Sys2Proof.Machine.execLoad c s
  | .l3Write ctx index entry => Sys2Proof.Machine.execL3Write ctx index entry s
  | .pteWrite ctx entries => Sys2Proof.Machine.execPteWrite ctx entries s
  | .pageState ctx va present => Sys2Proof.Machine.execPageState ctx va present s
  | .dieMap ctx map => Sys2Proof.Machine.execDieMap ctx map s
  | .framePool ctx ranges => Sys2Proof.Machine.execFramePool ctx ranges s
  | .nodeWrite ctx idx desc => Sys2Proof.Machine.execNodeWrite ctx idx desc s
  | .lqCreate c => Sys2Proof.Machine.execLqCreate c s
  | .bind ctx obj node => Sys2Proof.Machine.execBind ctx obj node s
  | .peer c => Sys2Proof.Machine.execPeer c s
  | .preempt ctx t => Sys2Proof.Machine.execPreempt ctx t s
  | .resume ctx t => Sys2Proof.Machine.execResume ctx t s
  | .stat ctx what => Sys2Proof.Machine.execStat ctx what s
  | .attest nonce opt addr => Sys2Proof.Machine.execAttest nonce opt addr s
  | .debug ctx => Sys2Proof.Machine.execDebug ctx s
  | .power mw => Sys2Proof.Machine.execPower mw s
  | .mbTailWrite tail cmds => Sys2Proof.Machine.execMbTailWrite tail cmds s
  | .doorbellWrite d tail entries => Sys2Proof.Machine.execDoorbellWrite d tail entries s
  | .registerWrite off v => Sys2Proof.Machine.execRegisterWrite off v s
  | .submit q => Sys2Proof.Machine.execSubmit q s
  | .cxlMemRead addr => Sys2Proof.Machine.execCxlMemRead addr s
  | .cxlMemWrite addr data => Sys2Proof.Machine.execCxlMemWrite addr data s
  | .flitReceive flit crcOk chunk => Sys2Proof.Machine.execFlitReceive flit crcOk chunk s
  | .flitAck link n => Sys2Proof.Machine.execFlitAck link n s
  | .flitNak link n => Sys2Proof.Machine.execFlitNak link n s
  | .resendTimeout link n => Sys2Proof.Machine.execResendTimeout link n s
  | .linkRetrain link => Sys2Proof.Machine.execLinkRetrain link s
  | .linkRetrainComplete link ok within => Sys2Proof.Machine.execLinkRetrainComplete link ok within s
  | .reset b => Sys2Proof.Machine.execReset b s
  | .powerAverageWindow mw => Sys2Proof.Machine.execPowerAverageWindow mw s
  | .junctionThrottle die => Sys2Proof.Machine.execJunctionThrottle die s
  | .junctionRecover die => Sys2Proof.Machine.execJunctionRecover die s
  | .dieLost die => Sys2Proof.Machine.execDieLost die s
  | .coolantFlowLoss => Sys2Proof.Machine.execCoolantFlowLoss s

end Sys2Proof.Machine
end

