-- ==== Sys2Proof/Machine/Select.lean ====
section
/-! DEFINITION. Which lanes issue what (R21 to R29, R155, R160, R163, R167, R408, R409), and what happens when nothing is
asked for. -/

namespace Sys2Proof.Machine

/-! ## The runs of one issue opportunity (R21) -/

/-- A lane that yielded is left out while a lane it went behind is still ready at the same PC (R26).
Marks: DEDUCED, unsafe (assumption 65). -/
def Warp.leftOut (w : Warp) (ready : W64) (l : Nat) : Bool :=
  (lanesIn ((w.lane l).behind &&& ready)).any fun k => (w.lane k).pc == (w.lane l).pc

/-- The lowest PC among lanes, as a linear slot index. -/
def Warp.lowestPc (w : Warp) (ls : List Nat) : Option Nat := listMin (ls.map fun l => pcIndex (w.lane l).pc)

/-- The run at a PC: its ready lanes but those left out. -/
def Warp.runAt (w : Warp) (ready : W64) (n : Nat) : W64 :=
  maskOf ((lanesIn ready).filter fun l => pcIndex (w.lane l).pc == n && !w.leftOut ready l)

/-- The PC of runA: the lowest among the starved, or the lowest of all (R21, R25). -/
def Warp.pcA (w : Warp) (ready : W64) : Option Nat :=
  match w.lowestPc ((lanesIn ready).filter fun l => decide (2048 ≤ (w.lane l).starve)) with
  | some n => some n
  | none => w.lowestPc (lanesIn ready)

/-- The PC that the lanes of a run share. -/
def Warp.pcOf (w : Warp) (run : W64) : W64 := ((lowest run).map fun l => (w.lane l).pc).getD 0

/-- The line of a PC in the warp's buffers. -/
def Warp.lineAt (w : Warp) (pc : W64) : List Byte := (mapGet w.lines (pcLine pc)).getD []

/-- The instruction at a PC (R155, R167). -/
def Warp.instrAt (w : Warp) (pc : W64) : Except DecodeError Instr := decodeWord (lineSlot (w.lineAt pc) (pcSlot pc))

/-- The instructions that close windows before they read their guards (R180). -/
def closesFirst : Instr → Bool
  | .exit _ | .call _ | .callx _ _ | .ret _ | .bar _ _ | .cbar _ _ | .reconv _ | .hret _ _ => true
  | _ => false

/-- The warp as a run at a PC reads it: the lanes that stand before the second member of a pair read their registers as they
stood before the pair, and the shared registers are those of the lowest of them (R22).
Marks: DEDUCED, unsafe (assumption 67). -/
def Warp.recall (w : Warp) (run : W64) (pc : W64) : Warp :=
  let mine := fun (x : Lane) => x.before.filter fun b => b.pc == pc
  match ((lanesIn run).filterMap fun l => mine (w.lane l)).head? with
  | none => w
  | some b =>
    { w.modLanes run (fun _ x => match mine x with | none => x | some c => { x with v := c.v, p := c.p }) with
      s := b.s, tags := b.tags }

/-- The lanes of a run that issue the instruction at a PC with a true guard (R37). -/
def Warp.guarded (w : Warp) (run : W64) (pc : W64) : W64 :=
  match w.instrAt pc with
  | .error _ => 0
  | .ok i =>
    let x := if closesFirst i then (closeWindows (lanesIn run) w).1 else w
    maskOf ((lanesIn run).filter fun l => guardOf (opsOf i).g (x.lane l))

/-- What issues in one cycle: the first run, and the second with whether it is the second member of a pair. -/
structure Cycle where
  runA : W64
  pcA : W64
  second : Option (W64 × W64 × Bool)
  deriving DecidableEq, Repr

/-- The line of a PC is in the warp's buffers. -/
def Warp.hasLine (w : Warp) (pc : W64) : Bool := (mapGet w.lines (pcLine pc)).isSome

/-- The issue of one cycle (R21 to R23); `split` is false in rehearsal mode (R409).  The second run waits while its line is
not there (R23). -/
def Warp.cycle (w : Warp) (ready : W64) (split : Bool) : Option Cycle :=
  (w.pcA ready).map fun n =>
    let runA := w.runAt ready n
    let pcA := w.pcOf runA
    if pairBit (w.lineAt pcA) (pcSlot pcA) then { runA := runA, pcA := pcA, second := some (runA, nextSlot pcA, true) }
    else
      let rest := (lanesIn ready).filter fun l => pcIndex (w.lane l).pc != n
      match w.lowestPc rest with
      | some k =>
        let runB := w.runAt ready k
        let pcB := w.pcOf runB
        { runA := runA, pcA := pcA, second := if split && w.hasLine pcB then some (runB, pcB, false) else none }
      | none => { runA := runA, pcA := pcA, second := none }

/-- The lanes that issue in a cycle. -/
def Cycle.lanes (c : Cycle) : W64 := c.runA ||| ((c.second.map (·.1)).getD 0)

/-- The starve counts after a cycle (R21), and the lanes that yielded lanes still wait for (R26). -/
def Warp.counted (w : Warp) (ready issued : W64) : Warp :=
  { w with
    handed := false
    waited := 0
    lanes := mapFrom 0 (fun l x =>
      let x := { x with behind := x.behind &&& ready &&& ~~~issued }
      if issued.getLsbD l then { x with starve := 0 }
      else if ready.getLsbD l then { x with starve := x.starve + 1 } else x) w.lanes }

/-! ## Issuing an instruction to a run -/

/-- A switch instruction of a rehearsal launch (R409); `tag` says that it reads a future-tagged register.
Marks: DEDUCED, unsafe (assumption 77). -/
def switches (i : Instr) (duet tag : Bool) : Bool :=
  match i with
  | .bar _ _ | .cbar _ _ | .yield _ | .regroup _ _ | .ringpTake _ | .ringw _ _ | .fwait _ | .tlwait _
  | .acco _ _ | .accg _ _ => true
  | .mmad _ => duet
  | _ => tag

/-- The instructions whose mask operand every arriving run reads, whatever its guards (R32). -/
def namesMask : Instr → Bool
  | .reconv _ | .vote _ _ | .shfl _ _ | .matchB _ _ | .red _ _ | .scan _ _ | .qxch _ _ | .qbc _ _ => true
  | _ => false

/-- Does the instruction read a future-tagged register in this run? -/
def State.readsTag (s : State) (i : Instr) : Bool :=
  match s.runOf (opsOf i) with
  | none => false
  | some r => !(if namesMask i then r.ls else r.act).isEmpty && ((r.tag i (formOf i)).isSome || (match i with
    | .mma _ => s.pairTagged r [0]
    | .mmab _ => s.pairTagged r [1]
    | .mmad _ => s.pairTagged r [2, 3]
    | _ => false))

/-- The logical index of a warp in its launch (R409). -/
def State.logical (s : State) (p : Nat × Group) (w : Nat) : Nat := p.2.lin * (s.desc p.2).warps + w

/-- The ready warps of a rehearsal launch on a core, by logical index.
Marks: DEDUCED, unsafe (assumption 77). -/
def State.streamReady (s : State) (g : Group) : List (Nat × Nat) :=
  let on := s.groups.filter fun p => p.2.ctx == g.ctx && p.2.node == g.node && p.2.die == g.die && p.2.core == g.core
  let ws := on.flatMap fun p => (p.2.warps.zipIdx.filter fun q => s.ready p.1 p.2 q.1 != 0).map fun q =>
    ((p.1, q.2), s.logical p q.2)
  (sortBy (fun (x : (Nat × Nat) × Nat) => x.2) ws).map (·.1)

def Stream.is (t : Stream) (g : Group) : Bool :=
  t.ctx == g.ctx && t.node == g.node && t.die == g.die && t.core == g.core

/-- The warp that has the stream of a group's launch on its core, while it exists (R409). -/
def State.current (s : State) (g : Group) : Option (Nat × Nat) :=
  ((s.streams.find? fun t => t.is g).map fun t => (t.gid, t.warp)).filter fun p => (s.warp p.1 p.2).live != 0

def State.setStream (s : State) (g : Group) (p : Option (Nat × Nat)) : State :=
  let rest := s.streams.filter fun t => !t.is g
  match p with
  | none => { s with streams := rest }
  | some (i, w) =>
    let t : Stream := { ctx := g.ctx, node := g.node, die := g.die, core := g.core, gid := i, warp := w }
    { s with streams := t :: rest }

/-- At a switch the stream goes to the next ready warp, the one that gave it up last (R409).
Marks: DEDUCED, unsafe (assumption 77). -/
def State.switchStream (s : State) (g : Group) (gid w : Nat) : State :=
  let ready := s.streamReady g
  match (ready.filter (· != (gid, w))).head? with
  | some p => s.setStream g (some p)
  | none => s.setStream g ready.head?

/-- Lanes that enter a kernel or handler at a slot that is no target (R163).
Marks: DEDUCED, unsafe (assumption 63). -/
def Warp.badEntry (w : Warp) (pc : W64) (ls : List Nat) : List Nat :=
  ls.filter fun l => (w.lane l).entry && !(pcLegal pc && tgtBit (w.lineAt pc) (pcSlot pc))

/-- The issue is over. -/
def afterIssue (o : Out) (f : State → State) : Out :=
  match o with
  | .next t => .next (f { t with issue := none })
  | .fault r => .fault r
  | .refused r => .refused r

/-- Issue the instruction at the PC of a run (R167).  In rehearsal mode a switch happens when a lane issues the instruction,
and not when it goes on after a wait in it (R409).
Marks: DEDUCED, unsafe (assumptions 63, 69). -/
def runIssue (iss : Issue) (s : State) : Out :=
  let bad := iss.snap.badEntry iss.pc (lanesIn iss.lanes)
  let s := { s with issue := some { iss with lanes := iss.lanes &&& ~~~(maskOf bad) } }
  let s := s.raise iss.gid iss.warp iss.pc (bad.map fun l => (l, { code := .badTarget, s45 := iss.pc }))
  match iss.snap.instrAt iss.pc with
  | .error _ =>
    let ls := lanesIn (iss.lanes &&& ~~~(maskOf bad))
    .next { (s.raise iss.gid iss.warp iss.pc (ls.map fun l => (l, { code := .illegalField, s45 := 0 }))) with issue := none }
  | .ok i =>
    match (s.group iss.gid).filter fun g => (s.desc g).isRehearsal with
    | none => afterIssue (exec i s) id
    | some g =>
      let new := (lanesIn iss.lanes).any fun l => (iss.snap.lane l).wait == .none
      let sw := new && switches i (s.desc g).isDuet (s.readsTag i)
      afterIssue (exec i s) fun t => if sw then t.switchStream g iss.gid iss.warp else t

/-- The lanes of a second run that still stand where they stood: what the first did may have moved them. -/
def State.stillThere (s : State) (iss : Issue) : W64 :=
  match s.group iss.gid with
  | none => 0
  | some g =>
    let w := g.warp iss.warp
    iss.lanes &&& w.where fun x => x.isLive && x.pc == iss.pc && s.waitOver iss.gid g w x.wait

/-- A lane of a pair has yet to issue its second member: it waits at the first, or stands before the second. -/
def Lane.halfWay (pc : W64) (x : Lane) : Bool := x.pc == pc || nextSlot x.pc == pc

/-- The lane waits to issue the instruction at its PC again, and then reads everything anew (R240): the pair has not issued.
Marks: DEDUCED, unsafe (assumption 17). -/
def Warp.rereads (w : Warp) (x : Lane) : Bool :=
  match x.wait with
  | .future _ => match w.instrAt x.pc with
    | .ok (.fwait _) => false
    | _ => true
  | _ => false

/-- The lanes of a pair that have yet to issue its second member keep the registers that it reads (R22, R160).
Marks: DEDUCED, unsafe (assumption 67). -/
def State.keepBefore (s : State) (iss : Issue) : State :=
  s.modWarp iss.gid iss.warp fun w => w.modLanes iss.lanes fun l x =>
    if x.isLive && x.halfWay iss.pc && (x.pc == iss.pc || !iss.snap.rereads x) then
      let y := iss.snap.lane l
      { x with before := some { pc := iss.pc, v := y.v, p := y.p, s := iss.snap.s, tags := iss.snap.tags } }
    else x

/-- The second issue of the cycle (R21, R22).  For the second member of a pair the results of the first land before
it, and it still reads the state before the pair.
Marks: DESIGN CHOICE, unsafe (assumption 3). -/
def runSecond (x : Second) (s : State) : Out :=
  let s := { s with second := none }
  let s := if x.pair then
      (s.completeNow x.iss.gid x.iss.warp (s.stillThere x.iss)).keepBefore x.iss
    else s
  let ls := s.stillThere x.iss
  if ls = 0 then .next s else runIssue { x.iss with lanes := ls } s

/-! ## An issue opportunity of a warp -/

/-- In rehearsal mode only the warp with the stream may issue (R409). -/
def State.hasStream (s : State) (gid w : Nat) (g : Group) : Bool :=
  !(s.desc g).isRehearsal
  || (match s.current g with
      | some p => p == (gid, w)
      | none => (s.streamReady g).head? == some (gid, w))

/-- The requests of a core's lanes that are outstanding, stores on their way and other accesses: no more than 1,024 (R2).
Marks: DESIGN CHOICE, safe (assumption 80). -/
def State.roomFor (s : State) (g : Group) : Bool :=
  let here := fun (gid : Nat) => (s.group gid).any fun h => h.die == g.die && h.core == g.core
  decide ((s.writes.filter fun w => w.op.isNone && w.rmw.isNone && here w.gid).length
    + (s.loads.filter fun d => here d.gid).length + 128 ≤ 1024)

/-- May the warp issue now: a ready lane, the line of the PC that R21 names, and the stream where there is one?  While that
line is on its way the warp gets no opportunity.
Marks: DESIGN CHOICE, unsafe (assumption 81). -/
def State.mayIssue (s : State) (gid w : Nat) : Bool :=
  match s.group gid with
  | none => false
  | some g =>
    let wp := g.warp w
    let ready := s.ready gid g wp
    (wp.pcA ready).any (fun n => wp.hasLine (pcOfIndex n)) && s.hasStream gid w g && s.roomFor g

/-- The issue unit of a warp: warp slots go to the four units of a core in turn. -/
def unitOf (g : Group) (w : Nat) : Nat := (g.die * 72 + g.core) * 4 + (g.warp w).slot % 4

/-- The other warps of the issue unit that hold a ready lane have waited once more; those that hold none have not (R408). -/
def State.passOver (s : State) (gid w : Nat) (g : Group) : State :=
  { s with groups := s.groups.map fun p =>
      if p.2.die == g.die && p.2.core == g.core then
        (p.1, { p.2 with warps := mapFrom 0 (fun v x =>
          if !(p.1 == gid && v == w) && unitOf p.2 v == unitOf g w then
            { x with waited := if s.ready p.1 p.2 x != 0 then x.waited + 1 else 0 } else x) p.2.warps })
      else p }

/-- The lanes of a run whose instruction closes their windows before it reads anything (R180): what they await has its value. -/
def State.settleRun (s : State) (gid w : Nat) (run pc : W64) : State :=
  match (s.warp gid w).instrAt pc with
  | .ok i => if closesFirst i then s.settleReads gid w run else s
  | .error _ => s

/-- The runs of a cycle: lanes and PC of each. -/
def Cycle.runs (c : Cycle) : List (W64 × W64) := (c.runA, c.pcA) :: (c.second.map fun x => (x.1, x.2.1)).toList

/-- Start a cycle of a warp: the run with the lower PC issues first (R29). -/
def State.startCycle (s : State) (gid w : Nat) (g : Group) : Out :=
  let ready := s.ready gid g (g.warp w)
  match (g.warp w).cycle ready (!(s.desc g).isRehearsal) with
  | none => .next s
  | some c =>
    let s := c.runs.foldl (fun t x => t.settleRun gid w x.1 x.2) s
    let wp := s.warp gid w
    let see := fun (m pc : W64) => wp.recall m pc
    let on := fun (m pc : W64) => (see m pc).guarded m pc
    let busy := on c.runA c.pcA ||| (match c.second with | some (m, pc, _) => on m pc | none => 0)
    let mk := fun (m pc : W64) =>
      { gid := gid, warp := w, lanes := m, pc := pc, snap := see m pc, busy := busy, cycle := s.stamp, out := 0, pre := [] : Issue }
    let s := (s.modWarp gid w fun x => x.counted ready c.lanes).nextStamp
    let s := if (s.desc g).isRehearsal && (s.current g).isNone then s.setStream g (some (gid, w)) else s
    match c.second with
    | none => runIssue (mk c.runA c.pcA) s
    | some (m, pc, pair) =>
      if pair || decide (pcIndex c.pcA < pcIndex pc) then
        runIssue (mk c.runA c.pcA) { s with second := some { iss := mk m pc, pair := pair } }
      else runIssue (mk m pc) { s with second := some { iss := mk c.runA c.pcA, pair := false } }

/-- A warp that may issue. -/
structure Issuer where
  gid : Nat
  warp : Nat
  unit : Nat
  handed : Bool
  waited : Nat
  order : Nat
  deriving DecidableEq, Repr

/-- The warps that may issue. -/
def State.issuers (s : State) : List Issuer :=
  s.groups.flatMap fun p => (p.2.warps.zipIdx.filter fun q => s.mayIssue p.1 q.2).map fun q =>
    { gid := p.1, warp := q.2, unit := unitOf p.2 q.2, handed := q.1.handed, waited := q.1.waited, order := q.1.order }

/-- The place of a warp in the selection of its unit (R408): handed to it, then 256 cycles of waiting, then age. -/
def Issuer.rank (x : Issuer) : Nat :=
  if x.handed then 0 else if 256 ≤ x.waited then 1 + (2 ^ 64 - x.waited) else 2 ^ 65 + x.order

/-- The warp that an issue unit selects (R26, R41, R408). -/
def State.chosen (s : State) (unit : Nat) : Option Issuer :=
  (sortBy Issuer.rank (s.issuers.filter fun x => x.unit == unit)).head?

/-- An issue opportunity of the unit of a warp: the warp that the unit selects issues.
Marks: DESIGN CHOICE, safe (assumption 76). -/
def State.opportunity (s : State) (gid w : Nat) : Out :=
  match s.group gid with
  | none => .next s
  | some g =>
    let s := s.holdCycle g.die g.core
    match s.chosen (unitOf g w) with
    | none => .next s
    | some x => match s.group x.gid with
      | none => .next s
      | some h => (s.passOver x.gid x.warp h).startCycle x.gid x.warp h

/-! ## When the agenda is empty -/

/-- The event of a command. -/
def cmdEvent : Cmd → Option Instr
  | .ctxCreate c => some (.ctxCreate c)
  | .ctxDestroy c => some (.ctxDestroy c)
  | .objInstall c => some (.objInstall c)
  | .objRemove c i => some (.objRemove c i)
  | .load c => some (.load c)
  | .l3Write c i e => some (.l3Write c i e)
  | .pteWrite c es => some (.pteWrite c es)
  | .pageState c va p => some (.pageState c va p)
  | .dieMap c m => some (.dieMap c m)
  | .framePool c rs => some (.framePool c rs)
  | .nodeWrite c i d => some (.nodeWrite c i d)
  | .lqCreate c => some (.lqCreate c)
  | .bind c o n => some (.bind c o n)
  | .peer c => some (.peer c)
  | .preempt c t => some (.preempt c t)
  | .resume c t => some (.resume c t)
  | .stat c w => some (.stat c w)
  | .attest n o a => some (.attest n o a)
  | .debug c => some (.debug c)
  | .power m => some (.power m)
  | .unlisted _ _ => none

/-- The next command of the ring, or REFUSED for an unlisted OP, or for a nonzero byte where R447 has zeros (R448).
Marks: DEDUCED, unsafe (assumption 46). -/
def runCommand (c : CmdSlot) (s : State) : Out :=
  match (cmdEvent c.cmd).filter fun _ => c.pad == 0 with
  | some i => exec i s
  | none => .next (s.answer c.cmd stRefused)

/-- The commands of R448. -/
def Instr.isCommand : Instr → Bool
  | .ctxCreate _ | .ctxDestroy _ | .objInstall _ | .objRemove _ _ | .load _ | .l3Write _ _ _ | .pteWrite _ _
  | .pageState _ _ _ | .dieMap _ _ | .framePool _ _ | .nodeWrite _ _ _ | .lqCreate _ | .bind _ _ _ | .peer _
  | .preempt _ _ | .resume _ _ | .stat _ _ | .attest _ _ _ | .debug _ | .power _ => true
  | _ => false

/-- Is the event a command, and not the one at the head of the ring?  Commands execute in ring order (R448). -/
def State.outOfTurn (s : State) (i : Instr) : Bool :=
  match s.mailbox.cmds.head? with
  | some c => Instr.isCommand i && !(c.pad == 0 && cmdEvent c.cmd == some i)
  | none => Instr.isCommand i

/-- The next warp: the issue units take turns, and each selects by R408.
Marks: DESIGN CHOICE, unsafe (assumption 3). -/
def State.nextIssuer (s : State) : Option Issuer :=
  let xs := s.issuers
  ((sortBy (fun (x : Issuer) => (x.unit + 2304 - s.turn / 2 % 2304) % 2304) xs).head?).bind fun f => s.chosen f.unit

/-- Cores for groups that go together by these numbers, each lot on the first core that takes it; `used` lists the cores given
so far.
Marks: DEDUCED, safe (assumption 45). -/
def State.greedy (s : State) (die : Nat) (d : Desc) (nctx : Nat) : List Nat → List Nat → List Nat
  | [], used => used
  | k :: ks, used =>
    match (List.range 72).find? fun c => decide (used.count c + k ≤ s.takes die c d nctx) with
    | none => used
    | some c => s.greedy die d nctx ks (used ++ List.replicate k c)

/-- The groups of these linear indices that share a core: the pairs of a duet launch (R357). -/
def lotsOf (duet : Bool) (lins : List Nat) : List Nat :=
  if duet then ((lins.map (· / 2)).eraseDups).map fun j => (lins.filter fun n => n / 2 == j).length else lins.map fun _ => 1

/-- A dispatch of the next node of a die (R399). -/
def State.dispatchOf (s : State) (die : Nat) : Option Instr :=
  (s.nextNode die).bind fun p => match s.ctx p.1, s.node p.1 p.2 with
    | some x, some y =>
      let lins := (List.range (x.nextGroups p.2 y)).map (y.dispatched + ·)
      some (.callboardDispatch die (s.greedy die y.desc y.desc.nctx (lotsOf y.desc.isDuet lins) []))
    | _, _ => none

/-- A restore of a saved group's unit. -/
def State.restoreOf (s : State) (p : Nat × Group) : Option Instr :=
  if (s.unit p.1).any s.restoreReady then
    let lots := lotsOf (s.desc p.2).isDuet (s.linsOf (s.byLin (s.unit p.1)))
    some (.restore p.1 (s.greedy p.2.die (s.desc p.2) 0 lots []))
  else none

/-- Groups wait for room on a core. -/
def State.crowded (s : State) : Bool :=
  (s.ctxs.any fun p => p.2.nodes.any fun q => q.2.ready && decide (0 < p.2.nextGroups q.1 q.2))
  || s.groups.any fun p => s.restoreReady p.1

/-- A list from place `k` on, and then its beginning. -/
def turned {α : Type} (k : Nat) (xs : List α) : List α := xs.drop (k % xs.length) ++ xs.take (k % xs.length)

/-- The held entries of duet warps, whose bound may come. -/
def State.heldWarps (s : State) : List Instr :=
  s.groups.flatMap fun p => (List.range p.2.warps.length).filterMap fun w =>
    if (s.heldBy p.1 p.2 w).isEmpty then none else some (Instr.duetBoundExpiry p.1 w)

/-- What the part itself may do next, kind by kind: swap-out when there is no room, and the bound of held duet entries once in
4,096 turns.
Marks: DESIGN CHOICE, unsafe (assumption 3). -/
def State.kinds (s : State) : List (List Instr) :=
  [(s.fetches.take 1).map (fun _ => Instr.lineFetchComplete 0 []),
   (s.refetches.take 1).map (fun _ => Instr.lineRefetchComplete 0 []),
   (s.groups.flatMap fun p => p.2.warps.flatMap fun w => w.lanes.flatMap fun x =>
      (x.windows.filter fun y => !y.done).map fun y => Instr.longLatencyComplete ⟨y.stamp, false⟩),
   (s.writes.take 1).map (fun _ => Instr.writeReachesHome ⟨0, false⟩),
   (s.signals.take 1).map (fun _ => Instr.signalApply 0),
   (s.emits.take 1).map (fun _ => Instr.emitRecordsArrive 0),
   (List.range 8).flatMap fun d => (List.range 72).filterMap fun c =>
      if (s.core d c).entries.isEmpty then none else some (Instr.matrixEntryExecute d c),
   s.ops.flatMap fun x => [Instr.copyStart ⟨x.id, none⟩, .engineRingClaim x.id, .copyComplete x.id,
      .gridCopyLocalComplete x.id, .crossingStart x.id, .crossingDelivery x.id, .xbankLoadComplete x.id],
   (List.range s.walks.length).map Instr.pageWalkComplete,
   (List.range s.chunks.length).map Instr.chunkArrival,
   s.ctxs.flatMap fun p => p.2.nodes.flatMap fun q =>
      if q.2.live then [Instr.toHost p.1 q.1, .toDevice p.1 q.1, .joinNode p.1 q.1, .nodeComplete p.1 q.1] else [],
   s.lqs.map (fun p => Instr.submit ⟨p.1 / 256, p.1 % 256⟩),
   s.groups.filterMap s.restoreOf,
   (List.range 8).filterMap s.dispatchOf,
   if s.crowded then s.groups.map fun p => Instr.swapOut p.1 else [],
   if s.turn / 2 % 4096 = 4095 then s.heldWarps else [],
   (List.range 16).map Instr.linkRetrain]

/-- What the part itself may do next: the kinds take turns at being first, and so do the members of a kind, so that nothing
that stays possible is put off without end (R48).
Marks: DESIGN CHOICE, unsafe (assumption 3). -/
def State.internal (s : State) : List Instr :=
  let ks := s.kinds
  (turned (s.turn / 2) ks).flatMap (turned (s.turn / 2 / ks.length))

/-- The first event that changes the state, if one does. -/
def firstEvent (s : State) : List Instr → Option Out
  | [] => none
  | i :: is => match exec i s with
    | .next t => if t = s then firstEvent s is else some (.next t)
    | r => some r

/-- The issue of the next warp, if one may. -/
def State.issueNext (s : State) : Option Out := s.nextIssuer.map fun x => s.opportunity x.gid x.warp

/-- What happens when nothing is asked for: the next command, an issue and an event of the part itself by turns, and
the bound of a held duet entry when there is neither.
Marks: DESIGN CHOICE, unsafe (assumption 3). -/
def State.idle (s : State) : Out :=
  match s.mailbox.cmds.head?.filter fun c => c.pad != 0 || s.cmdReady c.cmd with
  | some c => runCommand c s
  | none =>
    let t := { s with turn := s.turn + 1, stale := [] }
    let one := if s.turn % 2 = 0 then t.issueNext else firstEvent t t.internal
    let two := if s.turn % 2 = 0 then firstEvent t t.internal else t.issueNext
    ((one.or two).or (firstEvent t t.heldWarps)).getD (.next s)

/-- The reads of a step that miss recent writes (R126). -/
def Item.stale : Item → List (Nat × Nat)
  | .event _ m | .issue _ _ m => m

/-- An entry of the agenda; a command out of its turn does not happen (R448).
Marks: DESIGN CHOICE, unsafe (assumption 2); DESIGN CHOICE, safe (assumption 70). -/
def runItem (x : Item) (s : State) : Out :=
  let s := { s with stale := x.stale }
  match x with
  | .issue gid w _ => s.opportunity gid w
  | .event i _ =>
    if !i.eventOk then .fault .noSuchUnit
    else if s.outOfTurn i then .next s
    else exec i s

/-- Does the entry reset the part? -/
def Item.isReset : Item → Bool
  | .event (.reset _) _ => true
  | _ => false

/-! ## What a step leaves behind -/

/-- The streams that no warp has go to the ready warps, the lowest logical index first (R409). -/
def State.settleStreams (s : State) : State :=
  s.groups.foldl (fun s p =>
    if p.2.res == .resident && (s.desc p.2).isRehearsal && (s.current p.2).isNone then
      match (s.streamReady p.2).head? with
      | some q => s.setStream p.2 (some q)
      | none => s
    else s) s

/-- The results of the resident warps that are due land: those that another issue of their cycle kept back (R29). -/
def State.landAll (s : State) : State :=
  s.groups.foldl (fun s p => if p.2.res == .resident then
    (List.range p.2.warps.length).foldl (fun s w => s.landDue p.1 w (BitVec.allOnes 64)) s else s) s

/-- The state between two steps. -/
def State.settleAll (s : State) : State := s.landAll.settleStreams

/-! ## A program in place (R155, R163, R393) -/

/-- The twelve bytes of a word in slot 0 of a line whose other slots are zero, its parity in place (R155, R156). -/
def lineOfWord (w : Nat) : List Byte :=
  let body := bytesOfWord 12 w ++ bytesOfWord 48 0
  body ++ [0, 0, 0, lineParity body]

/-- A descriptor of a kernel of one group of one warp, its code in object 1.
Marks: DEDUCED, unsafe (assumption 61). -/
def Desc.solo : Desc :=
  { Desc.zero with code := 0x0000120000000000#64, groups := 1, threads := 64, cluster := 1, vregs := 192, sregs := 43,
                   acc := 32, bars := 16, shared := 262144, stack := 2048, edst := 0xFFFF, nctx := 4, nring := 4,
                   succ := [0xFFFF, 0xFFFF, 0xFFFF, 0xFFFF] }

/-- A group of that kernel, its 64 lanes at PC 0, whose line is in the buffers.
Marks: DEDUCED, unsafe (assumption 61). -/
def soloGroup (w : Nat) : Group :=
  let wp : Warp := { newWarp Desc.solo [] 0 0 with lines := [(0, lineOfWord w)] }
  let wp : Warp := { wp with lanes := wp.lanes.map fun x => { x with entry := false } }
  { ctx := 1, node := 0, lin := 0, ldie := 0, die := 0, core := 0, res := .resident, shared := [], sharedErr := [],
    barriers := [], regroup := none, tiles := [], copyCtxs := [0, 1, 2, 3], rings := [], emitted := 0, kept := [],
    frameErr := false, warps := [wp] }

/-- The context of that kernel: the die map sends logical die 0 to die 0, and object 1 is its code.
Marks: DEDUCED, unsafe (assumption 61). -/
def soloCtx : Ctx :=
  let o : Obj := { base := 0, len := 64, gen := 0, owner := 1, ldie := 0, ord := .rc, kind := .mem, rights := 0xA,
                   placed := none, hostOwned := false }
  let n : Node := { Node.ofDesc Desc.solo with live := true, dispatched := 1, board := some 0 }
  { Ctx.fresh 1 0 with map := some 0 :: List.replicate 7 none, objs := [(1, o)], nodes := [(0, n)] }

/-- The kernel runs, and its warp has the next issue opportunity.
Marks: DEDUCED, unsafe (assumption 61). -/
def State.withWord (s : State) (w : Nat) : State :=
  { s with ctxs := mapSet s.ctxs 1 soloCtx, groups := mapSet s.groups s.nextGid (soloGroup w), nextGid := s.nextGid + 1,
           second := none, agenda := [.issue s.nextGid 0 []] }

end Sys2Proof.Machine
end

