-- ==== Sys2Proof/Machine/Step.lean ====
section
/-! DEFINITION. One step of the module. -/

namespace Sys2Proof.Machine

/-- What happens in a step: the second issue of a cycle under way, or the next entry of the agenda, or, when there is none,
what the part does by itself.  A part that has halted does nothing before its next reset (R460, R465). -/
def stepOf (s : State) : Out :=
  match s.agenda with
  | x :: rest =>
    let t := { s with agenda := rest }
    if s.halted then (if x.isReset then runItem x t else .next t)
    else match s.second with
      | some y => runSecond y s
      | none => runItem x t
  | [] => if s.halted then .next s else match s.second with
    | some y => runSecond y s
    | none => s.idle

/-- One step.
Marks: DEDUCED, unsafe (assumption 1); DESIGN CHOICE, unsafe (assumption 2); DESIGN CHOICE, safe (assumption 76). -/
def step (s : State) : Host.Outcome State Fault Refusal :=
  match stepOf s with
  | .next t => .next t.settleAll
  | r => r

/-- The machine with an instruction in the line that its next issue reads: a kernel of one warp is in place.
Marks: DEDUCED, unsafe (assumption 61). -/
def State.withFetchWord (s : State) (nbits w : Nat) : State := s.withWord (w % 2 ^ nbits)

end Sys2Proof.Machine
end

