-- ==== Sys2Proof/Safety.lean ====
section
/-! DEFINITION. What counts as a well-formed state and as a run without a stop, and the words in which the statements say
what an instruction does. -/

namespace Sys2Proof.Machine

/-! ## Canonical form -/

/-- The registers and the stack of a warp are in canonical form. -/
def Warp.canon (w : Warp) : Bool := Memory.wf w.stack && zwf w.s && w.lanes.all fun x => zwf x.v

/-- The shared memory and the warps of a group are in canonical form. -/
def Group.canon (g : Group) : Bool := Memory.wf g.shared && g.warps.all Warp.canon

/-- Every memory and register file of the state is in canonical form: main memory, the lofts, and those of each
group. -/
def State.canon (s : State) : Bool :=
  Memory.wf s.hbm && Memory.wf s.loft && s.groups.all fun p => p.2.canon

/-- Byte `a` of a space as it stands at its home. -/
def State.byteAt (s : State) (sp : Space) (a : Nat) : Byte :=
  match sp with
  | .shared gid => readByte (((s.group gid).map (·.shared)).getD []) a
  | .loft d => readByte s.loft (loftKey d a)
  | .hbm => readByte s.hbm a

/-- `n` bytes from `a` lie in the space: in the shared memory of a group that there is, or in the 128 MiB of a loft. -/
def State.InSpace (s : State) (sp : Space) (a n : Nat) : Prop :=
  match sp with
  | .shared gid => (s.group gid).isSome = true
  | .loft _ => a + n ≤ 2 ^ 27
  | .hbm => True

/-- A run of `n` steps that neither faults nor is refused. -/
def safeFor : Nat → State → Prop
  | 0, _ => True
  | n + 1, s => ∃ t, step s = .next t ∧ safeFor n t

/-! ## When an instruction issues and acts -/

/-- The instruction issues to the run, and nothing but a future tag stops it before it acts: the word is legal within the
limits of the node (R166 to R168), no register that it reads has an uncorrectable error (R440), and there are lanes, all
of them live (R16); no fault of its issue is held already (R420).  The registers of the warp are in canonical form. -/
structure Begins (i : Instr) (s : State) (r : Run) : Prop where
  run : s.runOf (opsOf i) = some r
  legal : i.wf = true
  limits : (opsOf i).inRange (formOf i) r.d.vregs r.d.sregs = true
  noErr : r.badLanes i (formOf i) = []
  lanes : r.ls ≠ []
  live : ∀ l ∈ r.ls, ((s.warp r.gid r.w).lane l).isLive = true
  first : r.iss.pre = []
  canon : (s.warp r.gid r.w).canon = true

/-- The instruction issues to the run, and no source is future-tagged (R240): nothing stops it before it acts. -/
structure Issues (i : Instr) (s : State) (r : Run) : Prop extends Begins i s r where
  noTag : ∀ n ∈ r.sReads i (formOf i), r.snap.tagged n = false

/-- Nothing else happens as the lanes of the run move on: no open window of theirs lands with this instruction (R178),
and no lane has a soft error to be found by its shadow (R39). -/
structure Calm (s : State) (r : Run) : Prop where
  windows : ∀ l ∈ r.ls, ∀ y ∈ ((s.warp r.gid r.w).lane l).windows, y.done = true → 2 ≤ y.left
  soft : r.snap.soft = 0

/-! ## What an instruction leaves -/

/-- V-register `n` of a lane, `old` before, after `v` is written to `d`. -/
def Dst.newV (d : Dst) (v : W64) (n : Nat) (old : W32) : W32 :=
  match d with
  | .v32 k => if n = k then v.extractLsb' 0 32 else old
  | .v64 k => if n = k then v.extractLsb' 0 32 else if n = k + 1 then v.extractLsb' 32 32 else old
  | _ => old

/-- Predicate `n` of a lane after `v` is written to `d`: bit 0, and p15 is not written (R170). -/
def Dst.newP (d : Dst) (v : W64) (n : Nat) (old : Bool) : Bool :=
  match d with
  | .pred k => if n = k ∧ k < 15 then v.getLsbD 0 else old
  | _ => old

/-- S-register `n` of a warp after `v` is written to `d`. -/
def Dst.newS (d : Dst) (v : W64) (n : Nat) (old : W64) : W64 :=
  match d with
  | .s k => if n = k then v else old
  | .sHi k => if n = k then v.extractLsb' 0 32 ++ old.extractLsb' 0 32 else old
  | _ => old

/-- The register `e` (lane and register, lanes 64 and 65 for the halves of an s-register) is written as a whole when lanes
`ls` write `d`. -/
def Dst.covers (d : Dst) (ls : List Nat) (e : Nat × Nat) : Prop :=
  match d with
  | .v32 k => e.1 ∈ ls ∧ e.2 = k
  | .v64 k => e.1 ∈ ls ∧ (e.2 = k ∨ e.2 = k + 1)
  | .s k => ls ≠ [] ∧ (e = (64, k) ∨ e = (65, k))
  | .sHi k => ls ≠ [] ∧ e = (65, k)
  | _ => False

/-- Between `s` and `t` one warp has changed, and the issue counter has advanced. -/
def OnlyWarp (s t : State) (gid w : Nat) : Prop :=
  t = { s.modWarp gid w (fun _ => t.warp gid w) with stamp := s.stamp + 1 }

/-- The lanes of the run go to `dest`, and their windows count one instruction (R178): everything else of each lane but
its registers and its own new windows is as it was; what a lane kept for the second of a pair that it has now issued is
gone (R22). -/
def LanesMove (a b : Warp) (stamp : Nat) (ls : List Nat) (dest : Nat → W64) : Prop :=
  ∀ l, b.lane l = if l ∈ ls then { (a.lane l).count stamp with
      pc := dest l, entry := false, wait := .none, before := (a.lane l).before.filter fun x => x.pc != (a.lane l).pc
      v := (b.lane l).v, p := (b.lane l).p, windows := (b.lane l).windows }
    else a.lane l

/-- The counts of understudy checking (R37, R431): the lanes checked, and those that had a shadow. -/
def Counted (a b : Warp) (r : Run) (chk : Bool) : Prop :=
  b.checked = (if chk && r.snap.use then a.checked + BitVec.ofNat 64 r.act.length else a.checked)
  ∧ b.shadowed = (if chk && r.snap.use then
      a.shadowed + BitVec.ofNat 64 (r.act.filter fun l => (r.shadow l).isSome).length else a.shadowed)

/-- A short-latency instruction has completed (R29, R78, R177): each issuing lane holds its result in the destination
`d` (an s-register holds that of the lowest issuing lane), the flags of every issuing lane are in the flag word, the
lanes of the run stand at the next slot, and nothing else has changed. -/
structure Completes (s t : State) (r : Run) (chk : Bool) (d : Dst) (res : Nat → Res) : Prop where
  rest : OnlyWarp s t r.gid r.w
  warp : t.warp r.gid r.w = { s.warp r.gid r.w with
    lanes := (t.warp r.gid r.w).lanes, s := (t.warp r.gid r.w).s, tags := (t.warp r.gid r.w).tags
    flags := (t.warp r.gid r.w).flags, regErr := (t.warp r.gid r.w).regErr
    checked := (t.warp r.gid r.w).checked, shadowed := (t.warp r.gid r.w).shadowed }
  counts : Counted (s.warp r.gid r.w) (t.warp r.gid r.w) r chk
  lanes : LanesMove (s.warp r.gid r.w) (t.warp r.gid r.w) s.stamp r.ls fun _ => nextSlot r.pc
  windows : ∀ l ∈ r.ls, ((t.warp r.gid r.w).lane l).windows = (((s.warp r.gid r.w).lane l).count s.stamp).windows
  vregs : ∀ l n, ((t.warp r.gid r.w).lane l).getV n
    = if l ∈ r.act then d.newV (res l).val n (((s.warp r.gid r.w).lane l).getV n)
      else ((s.warp r.gid r.w).lane l).getV n
  preds : ∀ l n, ((t.warp r.gid r.w).lane l).getP n
    = if l ∈ r.act then d.newP (res l).val n (((s.warp r.gid r.w).lane l).getP n)
      else ((s.warp r.gid r.w).lane l).getP n
  sregs : ∀ n, (t.warp r.gid r.w).getS n
    = if r.act = [] then (s.warp r.gid r.w).getS n
      else d.newS (res (r.act.headD 0)).val n ((s.warp r.gid r.w).getS n)
  tags : ∀ n, (t.warp r.gid r.w).tagged n = ((s.warp r.gid r.w).tagged n && !decide ((d = .s n ∨ d = .sHi n) ∧ r.act ≠ []))
  flags : (t.warp r.gid r.w).flags = r.act.foldl (fun f l => f ||| (res l).flags) (s.warp r.gid r.w).flags
  errors : ∀ e, e ∈ (t.warp r.gid r.w).regErr ↔ e ∈ (s.warp r.gid r.w).regErr ∧ ¬d.covers r.act e

/-- The window that a long-latency instruction opens for a lane (R178): an s-register result belongs to the lowest
issuing lane (R30), and a result that fails later carries its fault (R181). -/
def newWindow (s : State) (r : Run) (d : Dst) (tag : Bool) (l : Nat) (x : Res) : Window :=
  { stamp := s.stamp, cycle := r.iss.cycle, left := r.o.la.toNat, pc := r.pc
    dst := if d.shared && l != r.act.headD 64 then .none else d
    val := x.val, tag := tag, flags := x.flags, done := false, flt := x.late }

/-- A long-latency instruction has issued (R178): each issuing lane has one more window, with its result and flags to
land later; the lanes of the run stand at the next slot, and nothing else has changed, no register among it. -/
structure Opens (s t : State) (r : Run) (chk : Bool) (d : Dst) (tag : Bool) (res : Nat → Res) : Prop where
  rest : OnlyWarp s t r.gid r.w
  warp : t.warp r.gid r.w = { s.warp r.gid r.w with
    lanes := (t.warp r.gid r.w).lanes
    checked := (t.warp r.gid r.w).checked, shadowed := (t.warp r.gid r.w).shadowed }
  counts : Counted (s.warp r.gid r.w) (t.warp r.gid r.w) r chk
  lanes : LanesMove (s.warp r.gid r.w) (t.warp r.gid r.w) s.stamp r.ls fun _ => nextSlot r.pc
  windows : ∀ l, ((t.warp r.gid r.w).lane l).windows
    = if l ∈ r.act then
        insertWindow (newWindow s r d tag l (res l)) ((s.warp r.gid r.w).lane l).windows
          |>.map fun y => if y.stamp < s.stamp then { y with left := y.left - 1 } else y
      else if l ∈ r.ls then (((s.warp r.gid r.w).lane l).count s.stamp).windows
      else ((s.warp r.gid r.w).lane l).windows
  regs : ∀ l, ((t.warp r.gid r.w).lane l).v = ((s.warp r.gid r.w).lane l).v
    ∧ ((t.warp r.gid r.w).lane l).p = ((s.warp r.gid r.w).lane l).p

/-- A short-latency instruction (R177) that issues with nothing in its way completes, with these results. -/
def Gives (i : Instr) (chk : Bool) (res : Run → Nat → Res) : Prop :=
  ∀ s r, Issues i s r → Calm s r → ∃ t, exec i s = .next t ∧ Completes s t r chk (r.dst (formOf i).d) (res r)

/-- A long-latency instruction (R178) that issues with nothing in its way opens its windows, with these results to
land. -/
def GivesLater (i : Instr) (chk : Bool) (res : Run → Nat → Res) : Prop :=
  ∀ s r, Issues i s r → Calm s r → ∃ t, exec i s = .next t ∧ Opens s t r chk (r.dst (formOf i).d) false (res r)

/-- The lanes of the run that go on, each to its PC: their windows count the instruction (R178). -/
def Warp.moved (stamp : Nat) (ls : List Nat) (dest : Nat → W64) (x : Warp) : Warp :=
  x.modLanes (maskOf ls) fun l y => y.goOn stamp (dest l)

/-- The lanes of the run have moved, and that is all. -/
def State.moved (s : State) (r : Run) (dest : Nat → W64) : State :=
  s.modWarp r.gid r.w (Warp.moved s.stamp r.ls dest)

/-- The lanes of the run wait at the instruction, and that is all. -/
def State.waiting (s : State) (r : Run) (wait : Nat → Wait) : State :=
  s.modWarp r.gid r.w fun x => x.modLanes (maskOf r.ls) fun l y => { y with wait := wait l }

/-- The lanes of the run meet: each knows after it what happens-before the arrival of any (R133). -/
def State.taught (s : State) (r : Run) : State :=
  let bs := laneAgents r.gid r.w (maskOf r.ls)
  s.teach (fun e => bs.any (·.knows e)) bs

/-- Every lane of the run raises the fault. -/
def State.faults (s : State) (r : Run) (f : Nat → Flt) : State :=
  s.raise r.gid r.w r.pc (r.ls.map fun l => (l, f l))

/-! ## Rounding (R52 to R54, R57) -/

/-- The exact value of a finite number. -/
def FV.value : FV → ℚ
  | .fin n m e => (if n then -1 else 1) * m * 2 ^ e
  | _ => 0

/-- One value lies below another: -0 does not lie below +0, and a NaN nowhere (R274). -/
def FV.below : FV → FV → Prop
  | .inf a, .inf b => a = true ∧ b = false
  | .inf a, .fin _ _ _ => a = true
  | .fin _ _ _, .inf b => b = false
  | .fin n1 m1 e1, .fin n2 m2 e2 => (FV.fin n1 m1 e1).value < (FV.fin n2 m2 e2).value
  | _, _ => False

/-- The magnitude that a code has when the exponents of its format go on above the largest (R49). -/
def Fmt.mag (f : Fmt) (c : Nat) : ℚ :=
  (if c / 2 ^ f.mb = 0 then c else 2 ^ f.mb + c % 2 ^ f.mb : Nat)
    * 2 ^ (max 1 ((c / 2 ^ f.mb : Nat) : Int) - f.bias - f.mb)

/-- Does a magnitude `v` from `lo` up to `hi`, two neighbours of which the lower is odd or not, round to the upper one in
the mode (R52)? -/
def goesUp (rnd : Rnd) (neg odd : Bool) (lo hi v : ℚ) : Bool :=
  match rnd with
  | .rn => decide ((lo + hi) / 2 < v) || (decide ((lo + hi) / 2 = v) && odd)
  | .rz => false
  | .ru => !neg && decide (lo < v)
  | .rd => neg && decide (lo < v)
  | .rna => decide ((lo + hi) / 2 ≤ v)

/-- Is a magnitude tiny (R53): below the smallest normal, and still below it when rounded at the same precision? -/
def Fmt.tiny (f : Fmt) (rnd : Rnd) (neg : Bool) (v : ℚ) : Bool :=
  let least : ℚ := 2 ^ (1 - (f.bias : Int))
  let last := least - least / 2 ^ (f.mb + 1)
  decide (v < last) || (decide (v < least) && !goesUp rnd neg true last least v)

/-- The result of the exact value of magnitude `v` and sign `neg`, rounded once to the format (R52), with the flags and
the overflow of R53, and the clamp and SAT of R54 and R57. -/
def IsRounded (f : Fmt) (rnd : Rnd) (sat neg : Bool) (v : ℚ) (r : FRes) : Prop :=
  ∀ c, f.mag c ≤ v → v < f.mag (c + 1) →
    let k := if goesUp rnd neg (c % 2 == 1) (f.mag c) (f.mag (c + 1)) v then c + 1 else c
    let inf := rnd == .rn || rnd == .rna || (rnd == .ru && !neg) || (rnd == .rd && neg)
    r = if k ≤ f.maxCode then
        (signOf f neg + k, if f.mag c = v then 0 else if f.tiny rnd neg v then fUF ||| fNX else fNX)
      else if !f.hasInf || (sat && (inf || f == fmtE5M2)) then (signOf f neg + f.maxCode, fOF ||| fNX ||| fSAT)
      else (signOf f neg + (if inf then f.infCode else f.maxCode), fOF ||| fNX)

/-! ## Transfers and meetings -/

/-- The lanes of the run that issue the instruction do so for the first time: none of them has waited at it. -/
def Fresh (r : Run) : Prop := ∀ l ∈ r.act, (r.snap.lane l).wait = .none

/-- A call whose lanes go: the counter of issues has advanced, and when a lane goes the PC after the call stands in s43,
written once, so that no lane that waits in this very call writes it again (R216). -/
def State.linked (s : State) (r : Run) : State :=
  if r.act = [] then s.nextStamp
  else s.nextStamp.modWarp r.gid r.w fun w => (w.put 0 (.s 43) (nextSlot r.pc) false).linked [s.stamp]

/-- The lanes of the run stand at the PC of the instruction. -/
def AtPc (s : State) (r : Run) : Prop := ∀ l ∈ r.ls, ((s.warp r.gid r.w).lane l).pc = r.pc

/-- A slot that a transfer may take: its line lies within the code object and stands in the buffers of the warp, the PC
is well formed, and the TGT bit of the slot is set (R161 to R163). -/
def IsTarget (s : State) (r : Run) (pc : W64) : Prop :=
  pcLine pc * 64 < s.codeLen r.g.ctx r.d ∧ pcLegal pc = true
  ∧ ∃ b, mapGet (s.warp r.gid r.w).lines (pcLine pc) = some b ∧ tgtBit b (pcSlot pc) = true

/-- The run as its lanes read their own operands: no s-register destination makes them share the lowest lane's
(R255). -/
def Run.own (r : Run) : Run := { r with o := { r.o with d := 0xF0 } }

/-- The lanes of the run meet at an instruction with a membership mask at once: the mask names lanes of the run only,
the lanes with a true guard among them, and no other lane of the warp waits at such an instruction (R31 to R33). -/
structure Meets (s : State) (r : Run) (mask : W64) : Prop where
  some : mask ≠ 0
  named : ∀ l, mask.getLsbD l = true → l ∈ r.ls
  act : ∀ l ∈ r.act, mask.getLsbD l = true
  alone : (s.warp r.gid r.w).arrivals = []
  pcs : AtPc s r

/-- The lanes of `set` have entered the handler of their kernel with the record of fault `f` (R418, R421): the record
stands in `s44` to `s47`, the lanes stand at the handler's PC, which is still to be checked (R163), and nothing else has
changed. -/
structure Entered (s t : State) (gid w : Nat) (d : Desc) (f : Flt) (pc set : W64) : Prop where
  rest : t = s.modWarp gid w fun _ => t.warp gid w
  warp : t.warp gid w = { s.warp gid w with
    lanes := (t.warp gid w).lanes, s := (t.warp gid w).s, tags := (t.warp gid w).tags, regErr := (t.warp gid w).regErr
    hset := set, hrec := some { s44 := f.code.code, s45 := f.s45, s46 := pc, s47 := set } }
  lanes : ∀ l, (t.warp gid w).lane l = if set.getLsbD l then
      { (s.warp gid w).lane l with pc := d.handler, entry := true, wait := .none, before := none } else (s.warp gid w).lane l
  record : (t.warp gid w).getS 44 = f.code.code ∧ (t.warp gid w).getS 45 = f.s45 ∧ (t.warp gid w).getS 46 = pc
    ∧ (t.warp gid w).getS 47 = set
  sregs : ∀ n, n < 44 ∨ 47 < n → (t.warp gid w).getS n = (s.warp gid w).getS n
  tags : ∀ n, (t.warp gid w).tagged n = ((s.warp gid w).tagged n && !decide (44 ≤ n ∧ n ≤ 47))
  errors : ∀ e, e ∈ (t.warp gid w).regErr ↔ e ∈ (s.warp gid w).regErr ∧ ¬(64 ≤ e.1 ∧ 44 ≤ e.2)

/-- A fault of these lanes can go to the handler (R421, R422): their group has a handler, the warp has HEN set (and MCH
for a machine check), no lane of it is in a handler, and no lane waits where lanes meet. -/
structure CanDeliver (s : State) (gid w : Nat) (g : Group) (f : Flt) (ls : List Nat) : Prop where
  group : s.group gid = some g ∧ w < g.warps.length
  handler : (s.desc g).handler ≠ 0
  hen : (s.warp gid w).mode.getLsbD 0 = true
  mch : f.code = .machineCheck → (s.warp gid w).mode.getLsbD 1 = true
  noSet : (s.warp gid w).hset = 0
  lanes : ls ≠ [] ∧ ∀ l ∈ ls, l < 64 ∧ l < (s.warp gid w).lanes.length
  alone : (s.warp gid w).arrivals = []
  canon : (s.warp gid w).canon = true

/-- The fault can go to the handler, and none of the lanes has a result under way. -/
structure Delivers (s : State) (gid w : Nat) (g : Group) (f : Flt) (ls : List Nat) : Prop
    extends CanDeliver s gid w g f ls where
  windows : ∀ l ∈ ls, ((s.warp gid w).lane l).windows = []
  loads : ∀ d ∈ s.loads, d.byLanes gid w (maskOf ls) = false
  atomics : ∀ x ∈ s.writes, x.atomicOf gid w (maskOf ls) = false

end Sys2Proof.Machine
end

