-- ==== Sys2Proof/Certificates/Slice0/Obligations.lean ====
section
/-! DEFINITION. The statements for the provers.  `Issues` and `Calm` (Safety.lean) say when an instruction issues with
nothing in its way; `Completes` and `Opens` say what it then does and what it leaves as it was. -/

open Sys2Proof Sys2Proof.Machine Host

/-- Eight words that the manual prints beside their verbose text decode to that text: an add and a multiply of the
sample line, a load, a shuffle, a special function, a copy, a matrix step and a trap (09_encoding_rules.md,
13_isa_memory_rules.md, 21_isa_matrix_rules.md, 29_faults_rules.md). -/
def Obligations.SpecWordsDecode : Prop :=
  let p15 : Guard := { neg := false, p := 15 }
  let s0 : StdMod := { ty := .s32, rnd := .rn, na := false, nb := false, aa := false, ab := false, sat := false, w := false }
  decodeWord 0x100040205FFE000000000007
    = .ok (.iadd { g := { neg := false, p := 2 }, la := 0, d := 1, a := 2, b := 0xFF, c := 0xF0, imm := 7 } s0)
  ∧ decodeWord 0x4081E100809E080000000000
    = .ok (.fmul { g := p15, la := 0, d := 8, a := 4, b := 4, c := 0xF0, imm := 0 } { s0 with ty := .f32 })
  ∧ decodeWord 0xA089E118C13E008000000000
    = .ok (.ldl { g := p15, la := 2, d := 8, a := 0xC6, b := 9, c := 0xF0, imm := 0 }
        { scope := .lane, kind := .plain, size := 2, sx := false, op := .add })
  ∧ decodeWord 0x8001E0A09FF8980000000001
    = .ok (.shfl { g := p15, la := 0, d := 5, a := 4, b := 0xFF, c := 0xC4, imm := 1 }
        { mode := 3, wrel := false, b64 := false })
  ∧ decodeWord 0x514DE1211E1E080000000000
    = .ok (.sin { g := p15, la := 3, d := 9, a := 8, b := 0xF0, c := 0xF0, imm := 0 } { s0 with ty := .f32 })
  ∧ decodeWord 0xC041F998D8FFE1C000000005
    = .ok (.cpyg { g := p15, la := 0, d := 0xCC, a := 0xC6, b := 0xC7, c := 0xFF, imm := 5 }
        { ctx := 3, recGen := true, sameGen := false })
  ∧ decodeWord 0xE0400018BE1E000000000040
    = .ok (.mmab { g := { neg := false, p := 0 }, la := 0, d := 0, a := 0xC5, b := 0xF0, c := 0xF0, imm := 0x40 })
  ∧ decodeWord 0x02C1FE1E1E1E000000000007
    = .ok (.trap { g := p15, la := 0, d := 0xF0, a := 0xF0, b := 0xF0, c := 0xF0, imm := 7 })

/-- Every well-formed instruction that issues to lanes has a word, and that word decodes to the instruction, with
every operand and modifier at every value that the encoding admits; the same holds of the words of unassigned opcodes,
and events have no word (09_encoding_rules.md). -/
def Obligations.DecodeOfEncode : Prop :=
  (∀ i : Instr, i.wf = true → ∀ w, encode i = some w → decodeWord w = .ok i)
  ∧ (∀ i : Instr, (encode i).isSome = true ↔ i.ops.isSome = true ∨ ∃ op, i = .unassignedOpcode op)

/-- When a word whose opcode is assigned decodes to an instruction, the instruction is well formed and encoding it
gives the same 96 bits, so that no bit of a legal word is dropped and no two legal words mean the same
(09_encoding_rules.md). -/
def Obligations.EncodeOfDecode : Prop :=
  ∀ (w : BitVec 96) (i : Instr), decodeWord w = .ok i → assigned (w.extractLsb' 86 10) = true →
    i.wf = true ∧ encode i = some w

/-- The opcodes 0x04F, 0x185, 0x286, 0x287 and 0x3E1 are unassigned. Every word with an unassigned opcode decodes to
that opcode's instruction, whatever its other bits, and executing it raises ILLEGAL_OPCODE with s45 = 0 for every lane
of the run, whatever its guard, and does nothing else (R185). -/
def Obligations.UnassignedOpcodesFault : Prop :=
  ([0x04F#10, 0x185#10, 0x286#10, 0x287#10, 0x3E1#10].all fun op => !assigned op) = true
  ∧ (∀ w : BitVec 96, assigned (w.extractLsb' 86 10) = false →
      decodeWord w = .ok (.unassignedOpcode (w.extractLsb' 86 10)))
  ∧ ∀ (op : BitVec 10) (s : State) (r : Run), s.runOf (opsOf (.unassignedOpcode op)) = some r →
      exec (.unassignedOpcode op) s
        = .next (s.raise r.gid r.w r.pc (r.ls.map fun l => (l, { code := .illegalOpcode, s45 := 0 })))

/-- A field that holds a predicate accepts exactly the indices 0x00 to 0x0F (any other makes the word ill formed,
which raises ILLEGAL_FIELD); p15 reads as true in every lane, and writing it changes nothing (R170). -/
def Obligations.PredicateFields : Prop :=
  (∀ i : BitVec 8, FieldKind.pred.ok i = decide (i.toNat < 16))
  ∧ (∀ x : Lane, x.getP 15 = true ∧ ∀ b, x.setP 15 b = x)
  ∧ (∀ (x : Lane) (n : Nat) (b : Bool), n < 15 → ∀ k, (x.setP n b).getP k = if k = n then b else x.getP k)
  ∧ (∀ (o : Ops) (f : Form), f.d = .pred ∧ 16 ≤ o.d.toNat ∨ f.a = .pred ∧ 16 ≤ o.a.toNat
      ∨ f.b = .pred ∧ 16 ≤ o.b.toNat ∨ f.c = .pred ∧ 16 ≤ o.c.toNat → o.fits f = false)
  ∧ ∀ (i : Instr) (t : Tags) (body : Run → State → State) (s : State) (r : Run),
      s.runOf (opsOf i) = some r → i.wf = false →
      issued i t body s = .next (s.raise r.gid r.w r.pc (r.ls.map fun l => (l, { code := .illegalField, s45 := 0 })))

/-- For an integer type of n bits and any exact result x: without .sat the result is the number of the type's range
congruent to x modulo 2^n, and no flag is set; with .sat it is x clamped to the range, and SAT is set exactly when the
clamp changes the value. It stands in the destination extended by the type's signedness (R55). -/
def Obligations.IntegerRange : Prop :=
  ∀ (t : NumType) (x : Int), t.isInt = true →
    let lo : Int := if t.isSigned then -(2 ^ (t.bits - 1)) else 0
    let hi : Int := if t.isSigned then 2 ^ (t.bits - 1) - 1 else 2 ^ t.bits - 1
    (∃ y : Int, lo ≤ y ∧ y ≤ hi ∧ (x - y) % 2 ^ t.bits = 0 ∧ Res.int t false x = { val := BitVec.ofInt 64 y })
    ∧ Res.int t true x = { val := BitVec.ofInt 64 (max lo (min hi x))
                           flags := if max lo (min hi x) = x then 0 else fSAT }

/-- Each integer instruction but the two divisions, when it issues with nothing in its way, completes: every issuing
lane receives the exact sum, difference, product, upper half of the product, multiply-add, absolute value, negation,
minimum, maximum, selection, comparison or byte dot product of its operands, fitted to the type, and nothing else
changes (R198, R199, R200, R201). -/
def Obligations.IntegerResults : Prop :=
  (∀ (o : Ops) (m : StdMod),
  Gives (.iadd o m) true (fun r l => .int m.ty m.sat (r.ia m l + r.ib m l))
  ∧ Gives (.isub o m) true (fun r l => .int m.ty m.sat (r.ia m l - r.ib m l))
  ∧ Gives (.imul o m) true (fun r l => .int m.ty m.sat (r.ia m l * r.ib m l))
  ∧ Gives (.imulh o m) true (fun r l => .int m.ty false (r.ia m l * r.ib m l / 2 ^ m.ty.bits))
  ∧ Gives (.imad o m) true (fun r l => .int m.ty m.sat (r.ia m l * r.ib m l + r.ic m l))
  ∧ Gives (.imadw o m) true (fun r l =>
      .int (wideOf m.ty) m.sat (r.ia m l * r.ib m l + r.int (wideOf m.ty) false false l r.o.c))
  ∧ Gives (.iabs o m) true (fun r l => .int m.ty m.sat (r.ia m l).natAbs)
  ∧ Gives (.ineg o m) true (fun r l => .int m.ty m.sat (-r.ia m l))
  ∧ Gives (.imin o m) true (fun r l => .int m.ty false (min (r.ia m l) (r.ib m l)))
  ∧ Gives (.imax o m) true (fun r l => .int m.ty false (max (r.ia m l) (r.ib m l)))
  ∧ Gives (.isel o m) true (fun r l =>
      .word m.ty (r.code m.ty false l (if r.rdP l r.o.c then r.o.a else r.o.b)))
  ∧ Gives (.idp4 o m) true (fun r l =>
      .int .s32 m.sat (dp4 m.ty (r.rd32 l r.o.a).toNat (r.rd32 l r.o.b).toNat
        + toNum 32 true (r.rd32 l r.o.c).toNat)))
  ∧ ∀ (o : Ops) (m : CmpMod), Gives (.icmp o m) true (fun r l =>
    .bool (combine m.comb (icmpHolds m.cmp (r.int m.ty m.na m.aa l r.o.a) (r.int m.ty m.nb m.ab l r.o.b))
      (r.pc3 m.comb l)))

/-- IDIV and IREM open their windows with these results: for a zero divisor all ones and the dividend with DZ; for the
signed minimum divided by -1 the signed minimum (the maximum with SAT under .sat) and 0; otherwise the quotient
truncated toward zero and the dividend less divisor times quotient, whose magnitude is below the divisor's and whose
sign is the dividend's, with no flag (R56). -/
def Obligations.Division : Prop :=
  (∀ (o : Ops) (m : StdMod), GivesLater (.idiv o m) true (fun r l => divRes m.ty m.sat (r.ia m l) (r.ib m l))
    ∧ GivesLater (.irem o m) true (fun r l => remRes m.ty (r.ia m l) (r.ib m l)))
  ∧ ∀ (t : NumType) (sat : Bool) (a b : Int), t ∈ wideInt →
    let lo : Int := if t.isSigned then -(2 ^ (t.bits - 1)) else 0
    let hi : Int := if t.isSigned then 2 ^ (t.bits - 1) - 1 else 2 ^ t.bits - 1
    lo ≤ a → a ≤ hi → lo ≤ b → b ≤ hi →
    if b = 0 then
      divRes t sat a b = { val := if t.isSigned then BitVec.allOnes 64 else BitVec.ofInt 64 hi, flags := fDZ }
      ∧ remRes t a b = { val := BitVec.ofInt 64 a, flags := fDZ }
    else if t.isSigned = true ∧ a = lo ∧ b = -1 then
      divRes t sat a b = (if sat then { val := BitVec.ofInt 64 hi, flags := fSAT } else { val := BitVec.ofInt 64 lo })
      ∧ remRes t a b = { val := 0 }
    else
      divRes t sat a b = { val := BitVec.ofInt 64 (a.tdiv b) }
      ∧ remRes t a b = { val := BitVec.ofInt 64 (a - b * a.tdiv b) }
      ∧ (a - b * a.tdiv b).natAbs < b.natAbs ∧ (a.tdiv b).natAbs = a.natAbs / b.natAbs
      ∧ (0 ≤ a → 0 ≤ a - b * a.tdiv b) ∧ (a ≤ 0 → a - b * a.tdiv b ≤ 0)

/-- SHL and SHR shift in zeros by bits 31:0 of b, and SAR shifts in copies of the sign; a count of n or more gives 0
from the first two and copies of the sign from the third. ROT and FSHF reduce the count modulo n (R204). -/
def Obligations.Shifts : Prop :=
  (∀ (o : Ops) (m : StdMod),
  Gives (.shl o m) true (fun r l =>
      .word m.ty (BitVec.ofNat m.ty.bits (r.ca m.ty l) <<< (r.rd32 l o.b).toNat).toNat)
  ∧ Gives (.shr o m) true (fun r l =>
      .word m.ty (BitVec.ofNat m.ty.bits (r.ca m.ty l) >>> (r.rd32 l o.b).toNat).toNat)
  ∧ Gives (.sar o m) true (fun r l =>
      .int m.ty false ((BitVec.ofNat m.ty.bits (r.ca m.ty l)).sshiftRight (r.rd32 l o.b).toNat).toInt)
  ∧ Gives (.rot o m) true (fun r l => .word m.ty (if m.w
      then (BitVec.ofNat m.ty.bits (r.ca m.ty l)).rotateRight ((r.rd32 l o.b).toNat % m.ty.bits)
      else (BitVec.ofNat m.ty.bits (r.ca m.ty l)).rotateLeft ((r.rd32 l o.b).toNat % m.ty.bits)).toNat)
  ∧ Gives (.fshf o m) true (fun r l =>
      let x := BitVec.ofNat m.ty.bits (r.ca m.ty l) ++ BitVec.ofNat m.ty.bits (r.cb m.ty l)
      let k := (r.rd32 l o.c).toNat % m.ty.bits
      .word m.ty (if m.w then (x >>> k).extractLsb' 0 m.ty.bits else (x <<< k).extractLsb' m.ty.bits m.ty.bits).toNat))
  ∧ (∀ (n k : Nat) (x : BitVec n), n ≤ k → x <<< k = 0 ∧ x >>> k = 0
      ∧ x.sshiftRight k = if x.msb then BitVec.allOnes n else 0)

/-- LOP3 completes with a word whose bit i is bit (a_i << 2 | b_i << 1 | c_i) of immediate bits 7:0, and PLOP with the
predicate that the same indexing gives; 0x96 is exclusive or of three and 0xE8 the majority. A LOP3 word with an
immediate bit above 7, or with a source field 0xFF, is ill formed, and so raises ILLEGAL_FIELD (R203). -/
def Obligations.TruthTables : Prop :=
  (∀ (o : Ops) (m : StdMod), Gives (.lop3 o m) true (fun r l => .word m.ty (BitVec.ofBoolListLE
      ((List.range m.ty.bits).map fun i => o.imm.getLsbD (4 * ((r.ca m.ty l).testBit i).toNat
        + 2 * ((r.cb m.ty l).testBit i).toNat + ((r.cc m.ty l).testBit i).toNat))).toNat))
  ∧ (∀ o : Ops, Gives (.plop o) true (fun r l =>
      .bool (o.imm.getLsbD (4 * (r.rdP l o.a).toNat + 2 * (r.rdP l o.b).toNat + (r.rdP l o.c).toNat))))
  ∧ (∀ (o : Ops) (m : StdMod), 256 ≤ o.imm.toNat ∨ o.a = 0xFF ∨ o.b = 0xFF ∨ o.c = 0xFF →
      (Instr.lop3 o m).wf = false)
  ∧ (∀ a b c : Bool, (0x96#32).getLsbD (4 * a.toNat + 2 * b.toNat + c.toNat) = (a ^^ b ^^ c)
      ∧ (0xE8#32).getLsbD (4 * a.toNat + 2 * b.toNat + c.toNat) = (a && b || a && c || b && c))
  ∧ ∀ (i : Instr) (t : Tags) (body : Run → State → State) (s : State) (r : Run),
      s.runOf (opsOf i) = some r → i.wf = false →
      issued i t body s = .next (s.raise r.gid r.w r.pc (r.ls.map fun l => (l, { code := .illegalField, s45 := 0 })))

/-- AND, OR, XOR, NOT, POPC, CLZ, BREV, BFE, BFI and PRMT complete with the bitwise results, the counts, the reversal,
the extracted or inserted field and the byte permutation of their operands, and nothing else changes (R202, R205,
R206). -/
def Obligations.LogicResults : Prop :=
  ∀ (o : Ops) (m : StdMod),
  Gives (.andB o m) true (fun r l => .word m.ty (r.ca m.ty l &&& r.cb m.ty l))
  ∧ Gives (.orB o m) true (fun r l => .word m.ty (r.ca m.ty l ||| r.cb m.ty l))
  ∧ Gives (.xorB o m) true (fun r l => .word m.ty (r.ca m.ty l ^^^ r.cb m.ty l))
  ∧ Gives (.notB o m) true (fun r l => .word m.ty (~~~(BitVec.ofNat m.ty.bits (r.ca m.ty l))).toNat)
  ∧ Gives (.popc o m) true (fun r l => .word m.ty ((List.range m.ty.bits).countP (r.ca m.ty l).testBit))
  ∧ Gives (.clz o m) true (fun r l => .word m.ty (m.ty.bits - bitLen (r.ca m.ty l)))
  ∧ Gives (.brev o m) true (fun r l => .word m.ty (BitVec.ofNat m.ty.bits (r.ca m.ty l)).reverse.toNat)
  ∧ Gives (.bfe o m) true (fun r l => .int m.ty false (bfeN m.ty.bits m.ty.isSigned (r.ca m.ty l) (r.nb l)))
  ∧ Gives (.bfi o m) true (fun r l => .word m.ty (bfiN m.ty.bits (r.ca m.ty l) (r.cb m.ty l) (r.nc l)))
  ∧ Gives (.prmt o m) true (fun r l =>
      let x := r.ca m.ty l + r.cb m.ty l * 2 ^ 32
      let c := r.cc m.ty l
      .word m.ty (prmtByte x c 0 + prmtByte x c 1 * 2 ^ 8 + prmtByte x c 2 * 2 ^ 16 + prmtByte x c 3 * 2 ^ 24))

/-- MOV, MOVI, MOVS, PSET, PTOV and LANEMASK complete with the copied, replaced or named lane's value, the test for
zero, the predicate word and the lane mask; MOVI with .hi writes the immediate to bits 63:32 of its destination alone.
VTOP sets, in each issuing lane, the predicates that its mask names from the bits of a, counts its checked lanes, and
changes nothing else (R207, R208, R209, R269). -/
def Obligations.MoveResults : Prop :=
  (∀ (o : Ops) (m : StdMod),
  Gives (.mov o m) true (fun r l => .word m.ty (r.ca m.ty l))
  ∧ Gives (.movs o m) true (fun r l =>
      let k := (r.rd32 l r.o.b).toNat % 128
      .ofVal (if r.isAct k then
          (if m.ty.is64 then (r.snap.lane k).getV64 r.o.a.toNat
           else ((r.snap.lane k).getV r.o.a.toNat).zeroExtend 64)
        else 0))
  ∧ Gives (.pset o m) true (fun r l => .bool (r.ca m.ty l != 0))
  ∧ ∀ (s : State) (r : Run), Issues (.movi o m) s r → Calm s r → ∃ t, exec (.movi o m) s = .next t
      ∧ Completes s t r true (match m.w, r.dst (formOf (.movi o m)).d with
          | true, .v64 k => .v32 (k + 1)
          | true, .s k => .sHi k
          | _, d => d)
        (fun _ => .ofVal (if m.w = false ∧ m.ty.isSigned = true then o.imm.signExtend 64 else o.imm.zeroExtend 64)))
  ∧ (∀ o : Ops, Gives (.ptov o) true (fun r l => .ofVal (r.snap.lane (r.from l)).pWord))
  ∧ (∀ (o : Ops) (m : LaneMaskMod), Gives (.lanemask o m) false (fun r l => .ofVal (laneMask r.snap r.act m.sel l)))
  ∧ ∀ (o : Ops) (s : State) (r : Run), Issues (.vtop o) s r → Calm s r →
      ∃ t, exec (.vtop o) s = .next t ∧ OnlyWarp s t r.gid r.w
      ∧ t.warp r.gid r.w = { s.warp r.gid r.w with
          lanes := (t.warp r.gid r.w).lanes
          checked := (t.warp r.gid r.w).checked, shadowed := (t.warp r.gid r.w).shadowed }
      ∧ Counted (s.warp r.gid r.w) (t.warp r.gid r.w) r true
      ∧ LanesMove (s.warp r.gid r.w) (t.warp r.gid r.w) s.stamp r.ls (fun _ => nextSlot r.pc)
      ∧ ∀ l, ((t.warp r.gid r.w).lane l).v = ((s.warp r.gid r.w).lane l).v
        ∧ ((t.warp r.gid r.w).lane l).windows
          = (if l ∈ r.ls then (((s.warp r.gid r.w).lane l).count s.stamp).windows
             else ((s.warp r.gid r.w).lane l).windows)
        ∧ ∀ k, k < 16 → ((t.warp r.gid r.w).lane l).getP k
          = if l ∈ r.act ∧ k < 15 ∧ o.imm.getLsbD k = true then (r.rd32 l o.a).getLsbD k
            else ((s.warp r.gid r.w).lane l).getP k

/-- CAPADD adds b, exact and signed, to the offset, and CAPOFF replaces it, when the new offset is below 2^40; CAPNAR
removes rights; CAPOBJ writes the length of an installed object; CAPCHK writes whether the object is installed, the
rights of the mask are held and the range fits, and never faults. When every lane of the run overflows at CAPADD or
CAPOFF, each raises CAP_OVERFLOW and no register changes; with no such object, each raises OBJECT at CAPOBJ (R211). -/
def Obligations.CapabilityResults : Prop :=
  ∀ (o : Ops) (m : CapMod) (s : State) (r : Run), Calm s r →
  let cap := fun l => r.rd64 .zero l o.a
  let sum := fun l => (capOff (cap l) : Int) + (r.rd64 .sign l o.b).toInt
  let off := fun l => (r.rd64 .zero l o.b).toNat
  let obj := fun l => s.capEntry r.g.ctx (cap l) [.loft, .mem, .host]
  let fails := fun (c : FCode) (s45 : Nat → W64) =>
    s.nextStamp.raise r.gid r.w r.pc (r.ls.map fun l => (l, ({ code := c, s45 := s45 l } : Flt)))
  (Issues (.capadd o m) s r →
    ((∀ l ∈ r.act, 0 ≤ sum l ∧ sum l < 2 ^ 40) → ∃ t, exec (.capadd o m) s = .next t
      ∧ Completes s t r false (r.dst .dst64) (fun l => .ofVal (capWithOff (cap l) (sum l).toNat)))
    ∧ (r.act = r.ls → (∀ l ∈ r.ls, sum l < 0 ∨ 2 ^ 40 ≤ sum l) →
      exec (.capadd o m) s = .next (fails .capOverflow fun l => BitVec.ofInt 64 (sum l))))
  ∧ (Issues (.capoff o m) s r →
    ((∀ l ∈ r.act, off l < 2 ^ 40) → ∃ t, exec (.capoff o m) s = .next t
      ∧ Completes s t r false (r.dst .dst64) (fun l => .ofVal (capWithOff (cap l) (off l))))
    ∧ (r.act = r.ls → (∀ l ∈ r.ls, 2 ^ 40 ≤ off l) →
      exec (.capoff o m) s = .next (fails .capOverflow fun l => r.rd64 .zero l o.b)))
  ∧ (Issues (.capnar o m) s r → ∃ t, exec (.capnar o m) s = .next t
      ∧ Completes s t r false (r.dst .dst64) (fun l => .ofVal (cap l &&& ~~~(m.mask.zeroExtend 64 <<< 40))))
  ∧ (Issues (.capobj o m) s r →
    ((∀ l ∈ r.act, (obj l).isSome = true) → ∃ t, exec (.capobj o m) s = .next t
      ∧ Completes s t r false (r.dst .dst64) (fun l => .ofVal (BitVec.ofNat 64 (((obj l).map (·.len)).getD 0))))
    ∧ (r.act = r.ls → (∀ l ∈ r.ls, obj l = none) → exec (.capobj o m) s = .next (fails .object cap)))
  ∧ (Issues (.capchk o m) s r → ∃ t, exec (.capchk o m) s = .next t
      ∧ Completes s t r false (r.dst .pred) (fun l => .bool (match obj l with
        | none => false
        | some e => m.mask &&& ~~~(capRights (cap l) &&& e.rights) == 0 && decide (capOff (cap l) + off l ≤ e.len))))

/-- The scalar, packed and F64 arithmetic instructions complete with the sum, product or fused multiply-add of their
operands and its flags, the comparison with its predicate, and FCLASS with the class word, and nothing else changes. A
nonzero sum, product or multiply-add of finite operands is the exact value rounded once in the selected mode, with the
flags, the overflow and the clamp under .sat of the manual's tables; a zero one has the sign of its equal-signed
operands, or is +0, and -0 under RD; signalling NaNs, infinity less infinity and zero times infinity give the
canonical NaN with IV, and quiet NaNs the canonical NaN without a flag. FMIN and FMAX give the smaller or the larger
operand, -0 below +0, the other operand for a NaN and the canonical NaN for two; FCMP compares the values, every
comparison with a NaN but NE and UN being false; signalling NaNs set IV, in FCMP any NaN under LT, LE, GT and GE. FRND
gives the integral value that the mode rounds to, with the operand's sign and no flag; FSCALE the value times a power
of two, rounded once; FCLASS one bit, by sign and kind (R52, R53, R54, R272, R273, R274, R275, R276, R277). -/
def Obligations.FloatResults : Prop :=
  (∀ (o : Ops) (m : StdMod),
  Gives (.fadd o m) true (fun r l => .ofF (fadd fmtF32 m.rnd m.sat (r.fa m l) (r.fb m l)))
  ∧ Gives (.fsub o m) true (fun r l => .ofF (fadd fmtF32 m.rnd m.sat (r.fa m l) (r.fb m l).neg))
  ∧ Gives (.fmul o m) true (fun r l => .ofF (fmul fmtF32 m.rnd m.sat (r.fa m l) (r.fb m l)))
  ∧ Gives (.ffma o m) true (fun r l => .ofF (ffma fmtF32 m.rnd m.sat (r.fa m l) (r.fb m l) (r.fc m l)))
  ∧ Gives (.fmin o m) true (fun r l =>
      .ofF (fminmax fmtF32 false (r.fcode m.ty false m.na m.aa l o.a) (r.fcode m.ty false m.nb m.ab l o.b)))
  ∧ Gives (.fmax o m) true (fun r l =>
      .ofF (fminmax fmtF32 true (r.fcode m.ty false m.na m.aa l o.a) (r.fcode m.ty false m.nb m.ab l o.b)))
  ∧ Gives (.frnd o m) true (fun r l => .ofF (frndRes m.rnd (r.fa m l)))
  ∧ Gives (.fclass o m) true (fun r l =>
      .ofVal (BitVec.ofNat 64 (fclass (fmtOf m.ty) (r.code m.ty m.w l o.a))))
  ∧ Gives (.fscale o m) true (fun r l =>
      .ofF (fscaleRes m.rnd m.sat (r.fa m l) (toNum 32 true (r.rd32 l o.b).toNat)))
  ∧ Gives (.hadd2 o m) true (fun r l => r.packed m l fun f x y _ => fadd f m.rnd m.sat x y)
  ∧ Gives (.hmul2 o m) true (fun r l => r.packed m l fun f x y _ => fmul f m.rnd m.sat x y)
  ∧ Gives (.hfma2 o m) true (fun r l => r.packed m l fun f x y z => ffma f m.rnd m.sat x y z)
  ∧ Gives (.dadd o m) true (fun r l => .ofF (fadd fmtF64 m.rnd m.sat (r.fa m l) (r.fb m l)))
  ∧ Gives (.dmul o m) true (fun r l => .ofF (fmul fmtF64 m.rnd m.sat (r.fa m l) (r.fb m l)))
  ∧ Gives (.dfma o m) true (fun r l => .ofF (ffma fmtF64 m.rnd m.sat (r.fa m l) (r.fb m l) (r.fc m l))))
  ∧ (∀ (o : Ops) (m : CmpMod), Gives (.fcmp o m) true (fun r l =>
      let t := fcmpRes m.cmp (r.flt m.ty m.na m.aa l o.a) (r.flt m.ty m.nb m.ab l o.b)
      { Res.bool (combine m.comb t.1 (r.pc3 m.comb l)) with flags := t.2 }))
  ∧ (∀ f ∈ [fmtF64, fmtF32, fmtF16, fmtBF16], ∀ (rnd : Rnd) (sat n1 n2 n3 : Bool) (m1 m2 m3 : Nat) (e1 e2 e3 : Int),
    let x : FV := .fin n1 m1 e1
    let y : FV := .fin n2 m2 e2
    let z : FV := .fin n3 m3 e3
    let rounds := fun (w : ℚ) (r : FRes) => ∀ (neg : Bool) (v : ℚ), 0 < v → w = (if neg then -v else v) →
      IsRounded f rnd sat neg v r
    rounds (x.value + y.value) (fadd f rnd sat x y) ∧ rounds (x.value * y.value) (fmul f rnd sat x y)
    ∧ rounds (x.value * y.value + z.value) (ffma f rnd sat x y z)
    ∧ (x.value + y.value = 0 → fadd f rnd sat x y = (signOf f (if n1 = n2 then n1 else rnd == .rd), 0))
    ∧ (x.value * y.value = 0 → fmul f rnd sat x y = (signOf f (n1 != n2), 0))
    ∧ (x.value * y.value + z.value = 0 →
      ffma f rnd sat x y z = (signOf f (if (n1 != n2) = n3 then n3 else rnd == .rd), 0)))
  ∧ (∀ f ∈ [fmtF64, fmtF32, fmtF16, fmtBF16], ∀ (rnd : Rnd) (sat : Bool) (x y z : FV) (a n : Bool) (m : Nat) (e : Int),
    ((x.isSig || y.isSig) = true → fadd f rnd sat x y = (f.nanCode, fIV) ∧ fmul f rnd sat x y = (f.nanCode, fIV))
    ∧ ((x.isSig || y.isSig || z.isSig) = true → ffma f rnd sat x y z = (f.nanCode, fIV))
    ∧ ((x.isSig || y.isSig) = false → (x.isNaN || y.isNaN) = true →
      fadd f rnd sat x y = (f.nanCode, 0) ∧ fmul f rnd sat x y = (f.nanCode, 0))
    ∧ fadd f rnd sat (.inf a) (.inf !a) = (f.nanCode, fIV) ∧ fmul f rnd sat (.inf a) (.fin n 0 e) = (f.nanCode, fIV)
    ∧ fmul f rnd sat (.fin n 0 e) (.inf a) = (f.nanCode, fIV)
    ∧ fadd f rnd sat (.inf a) (.inf a) = (signOf f a + f.infCode, 0)
    ∧ fadd f rnd sat (.inf a) (.fin n m e) = (signOf f a + f.infCode, 0)
    ∧ fadd f rnd sat (.fin n m e) (.inf a) = (signOf f a + f.infCode, 0)
    ∧ fmul f rnd sat (.inf a) (.inf n) = (signOf f (a != n) + f.infCode, 0)
    ∧ (0 < m → fmul f rnd sat (.inf a) (.fin n m e) = (signOf f (a != n) + f.infCode, 0)))
  ∧ (∀ a b : Nat, a < 2 ^ 32 → b < 2 ^ 32 →
    let x := fdecode fmtF32 a
    let y := fdecode fmtF32 b
    let iv := if x.isSig || y.isSig then fIV else 0
    (x.isNaN = true → y.isNaN = true → ∀ big, fminmax fmtF32 big a b = (fmtF32.nanCode, iv))
    ∧ (x.isNaN = true → y.isNaN = false → ∀ big, fminmax fmtF32 big a b = (b, iv) ∧ fminmax fmtF32 big b a = (b, iv))
    ∧ (x.isNaN = false → y.isNaN = false → (x.below y ∨ ¬y.below x ∧ x.isNeg = true) →
      fminmax fmtF32 false a b = (a, 0) ∧ fminmax fmtF32 true a b = (b, 0))
    ∧ (x.isNaN = false → y.isNaN = false → ¬(x.below y ∨ ¬y.below x ∧ x.isNeg = true) →
      fminmax fmtF32 false a b = (b, 0) ∧ fminmax fmtF32 true a b = (a, 0)))
  ∧ (∀ (c : Cmp) (x y : FV),
    (fcmpRes c x y).2 = (if x.isSig = true ∨ y.isSig = true
      ∨ (c = .lt ∨ c = .le ∨ c = .gt ∨ c = .ge) ∧ (x.isNaN = true ∨ y.isNaN = true) then fIV else 0)
    ∧ ((x.isNaN = true ∨ y.isNaN = true) → ((fcmpRes c x y).1 = true ↔ c = .ne ∨ c = .un))
    ∧ (x.isNaN = false → y.isNaN = false → ((fcmpRes c x y).1 = true ↔ match c with
      | .eq => ¬x.below y ∧ ¬y.below x
      | .ne => x.below y ∨ y.below x
      | .lt => x.below y
      | .le => ¬y.below x
      | .gt => y.below x
      | .ge => ¬x.below y
      | .un => False
      | .ord => True)))
  ∧ (∀ (rnd : Rnd) (sat n sig : Bool) (code m k : Nat) (e b : Int),
    let x : FV := .fin n m e
    (code < 2 ^ 32 → fdecode fmtF32 code = x → (k : ℚ) ≤ m * 2 ^ e → (m : ℚ) * 2 ^ e < k + 1 →
      ∃ c, frndRes rnd x = (signOf fmtF32 n + c, 0) ∧ c ≤ fmtF32.maxCode
        ∧ fmtF32.mag c = if goesUp rnd n (k % 2 == 1) k (k + 1) (m * 2 ^ e) then (k + 1 : ℚ) else k)
    ∧ frndRes rnd (.inf n) = (signOf fmtF32 n + fmtF32.infCode, 0)
    ∧ frndRes rnd (.nan sig) = (fmtF32.nanCode, if sig then fIV else 0)
    ∧ (code < 2 ^ 32 → fdecode fmtF32 code = x → 0 < m → IsRounded fmtF32 rnd sat n (m * 2 ^ (e + b)) (fscaleRes rnd sat x b))
    ∧ fscaleRes rnd sat (.fin n 0 e) b = (signOf fmtF32 n, 0)
    ∧ fscaleRes rnd sat (.inf n) b = (signOf fmtF32 n + fmtF32.infCode, 0)
    ∧ fscaleRes rnd sat (.nan sig) b = (fmtF32.nanCode, if sig then fIV else 0))
  ∧ ∀ f ∈ [fmtF64, fmtF32, fmtF16, fmtBF16], ∀ code : Nat, code < 2 * f.signBit →
    fclass f code = 2 ^ match fdecode f code with
      | .nan sig => if sig then 8 else 9
      | .inf n => if n then 0 else 7
      | .fin n m e => if m = 0 then (if n then 3 else 4)
        else if (m : ℚ) * 2 ^ e < 2 ^ (1 - (f.bias : Int)) then (if n then 2 else 5) else if n then 1 else 6

/-- CVT and CVTW complete with the converted code, or two of them in one word, and CVTN and QSCALE open windows with
the narrow field or its expansion, and with the scale code of the block maximum. A conversion of a finite value, of an
integer, or of a value scaled by a block scale is the exact value rounded once, with the clamps of the narrow formats;
to an integer it is the rounded integer, clamped with SAT and NX; infinities and NaNs convert as the manual's tables
say; the scale code of a block is that of the power of two of its largest magnitude less the format's largest
exponent, clamped to -127 to 127. The model's own choices and readings in it: assumption 68 of the log (R57, R58, R60,
R279, R280, R281, R282). -/
def Obligations.ConversionResults : Prop :=
  (∀ (o : Ops) (m : CvtMod),
  Gives (.cvt o m) true (fun r l => convert m.dty m.sty m.rnd m.sat (r.code m.sty m.w l o.a))
  ∧ Gives (.cvtw o m) true (fun r l =>
      pack2 (convert m.dty m.sty m.rnd m.sat (r.code m.sty false l o.a))
        (convert m.dty m.sty m.rnd m.sat (r.code m.sty false l o.b))))
  ∧ (∀ (o : Ops) (m : CvtnMod), GivesLater (.cvtn o m) true (fun r l =>
      let g := NarrowFmt.bits m.fmt
      let at_ := g * m.sel.toNat
      let code := if m.sc then (r.rd32 l o.b).toNat % 256 else 127
      let a := (r.rd32 l o.a).toNat
      if m.expand then .ofF (expandN m.fmt m.rnd code (a / 2 ^ at_ % 2 ^ g))
      else
        let q := quantise m.fmt m.rnd code (fdecode fmtF32 a)
        let c := (r.rd32 l o.c).toNat
        .ofF (c / 2 ^ (at_ + g) * 2 ^ (at_ + g) + q.1 % 2 ^ g * 2 ^ at_ + c % 2 ^ at_, q.2)))
  ∧ (∀ (o : Ops) (m : QscaleMod), GivesLater (.qscale o m) true (fun r l =>
      .ofVal (BitVec.ofNat 64 (blockCode m.fmt (fdecode fmtF32 ((r.rd32 l o.a).toNat % 2 ^ 31))))))
  ∧ (∀ g ∈ [fmtF64, fmtF32, fmtF16, fmtBF16, fmtE5M2, fmtE4M3, fmtE2M1],
    ∀ (rnd : Rnd) (sat n sig : Bool) (m : Nat) (e z : Int),
      (0 < m → IsRounded g rnd sat n (m * 2 ^ e) (fconvert g rnd sat (.fin n m e)))
      ∧ fconvert g rnd sat (.fin n 0 e) = (signOf g n, 0)
      ∧ (z ≠ 0 → IsRounded g rnd sat (decide (z < 0)) z.natAbs (intToF g rnd sat z)) ∧ intToF g rnd sat 0 = (0, 0)
      ∧ fconvert g rnd sat (.inf n) = (if g = fmtE4M3 ∨ g = fmtE2M1 ∨ g = fmtE5M2 ∧ sat = true
          then (signOf g n + g.maxCode, fSAT) else (signOf g n + g.infCode, 0))
      ∧ fconvert g rnd sat (.nan sig) = (if g = fmtE2M1 then (0, fIV) else (g.nanCode, if sig then fIV else 0)))
  ∧ ((fmtE4M3.maxCode, fmtE2M1.maxCode, fmtE5M2.maxCode, fmtE4M3.nanCode, fmtE5M2.nanCode)
      = (0x7E, 0x7, 0x7B, 0x7F, 0x7E))
  ∧ (∀ (w : Nat) (sg : Bool) (rnd : Rnd) (n sig : Bool) (m k : Nat) (e : Int), w ∈ [8, 16, 32, 64] →
      let v : ℚ := m * 2 ^ e
      let lo : Int := if sg then -(2 ^ (w - 1)) else 0
      let hi : Int := if sg then 2 ^ (w - 1) - 1 else 2 ^ w - 1
      let j := if goesUp rnd n (k % 2 == 1) k (k + 1) v then k + 1 else k
      let z : Int := if n then -j else j
      ((k : ℚ) ≤ v → v < k + 1 → fToInt w sg rnd (.fin n m e) =
        if lo ≤ z ∧ z ≤ hi then (z, if (k : ℚ) = v then 0 else fNX) else (max lo (min hi z), fSAT ||| fNX))
      ∧ fToInt w sg rnd (.inf n) = (if n then lo else hi, fSAT) ∧ fToInt w sg rnd (.nan sig) = (0, fIV))
  ∧ (∀ (f : NarrowFmt) (rnd : Rnd) (code : Nat) (n sig : Bool) (m k : Nat) (e : Int), code < 255 →
      let g := NarrowFmt.fmt f
      let v : ℚ := m * 2 ^ (e + 127 - code)
      let j := if goesUp rnd n (k % 2 == 1) k (k + 1) v then k + 1 else k
      let z : Int := if n then -j else j
      (f ≠ .int8 → 0 < m → IsRounded g rnd true n v (quantise f rnd code (.fin n m e)))
      ∧ (f = .int8 → (k : ℚ) ≤ v → v < k + 1 → quantise f rnd code (.fin n m e) =
        ((max (-128) (min 127 z) % 256).toNat,
          if -128 ≤ z ∧ z ≤ 127 then (if (k : ℚ) = v then 0 else fNX) else fSAT ||| fNX))
      ∧ quantise f rnd code (.inf n) = (if f = .int8 then (if n then 0x80 else 0x7F) else signOf g n + g.maxCode, fSAT)
      ∧ (∀ c x, c = 255 ∧ x = FV.fin n m e ∧ sig = false ∨ x = FV.nan sig → quantise f rnd c x =
        match f with
        | .e4m3 => (0x7F, if sig then fIV else 0)
        | .e5m2 => (0x7E, if sig then fIV else 0)
        | _ => (0, fIV))
      ∧ ∀ field, narrowVal f field = .fin n m e → 0 < m →
        IsRounded fmtF32 rnd false n (m * 2 ^ (e + code - 127)) (expandN f rnd code field))
  ∧ ∀ (f : NarrowFmt) (n sig : Bool) (m : Nat) (e k : Int),
      let emax : Int := match f with | .e4m3 => 8 | .e5m2 => 15 | .e2m1 => 2 | .int8 => 6
      ((2 : ℚ) ^ k ≤ m * 2 ^ e → (m : ℚ) * 2 ^ e < 2 ^ (k + 1) →
        blockCode f (.fin n m e) = (max (-127) (min 127 (k - emax)) + 127).toNat)
      ∧ blockCode f (.fin n 0 e) = 0 ∧ blockCode f (.inf n) = 0xFE ∧ blockCode f (.nan sig) = 0

/-- RCP, RSQ, SQRT, EX2, LG2, SIN, COS and FDIV open windows with the results of their functions. A quotient and a
reciprocal of finite operands are rounded once; the root of a square, the reciprocal root of a power of four, the
exponential of an integer and the logarithm of a power of two are the exact value rounded; the special operands give
what the manual's table says: the root of a negative number is the canonical NaN with IV, the logarithm of zero
negative infinity with DZ, and so on. The model's own choices and readings in it: assumption 74 of the log (R283,
R284, R285). -/
def Obligations.SpecialFunctionResults : Prop :=
  (∀ (o : Ops) (m : StdMod),
  GivesLater (.rcp o m) true (fun r l => .ofF (frcp m.sat (r.fa m l)))
  ∧ GivesLater (.rsq o m) true (fun r l => .ofF (frsq m.sat (r.fa m l)))
  ∧ GivesLater (.sqrt o m) true (fun r l => .ofF (fsqrt m.sat (r.fa m l)))
  ∧ GivesLater (.ex2 o m) true (fun r l => .ofF (fex2 m.sat (r.fa m l)))
  ∧ GivesLater (.lg2 o m) true (fun r l => .ofF (flg2 m.sat (r.fa m l)))
  ∧ GivesLater (.sin o m) true (fun r l => .ofF (ftrig false m.sat (r.fa m l)))
  ∧ GivesLater (.cos o m) true (fun r l => .ofF (ftrig true m.sat (r.fa m l)))
  ∧ GivesLater (.fdiv o m) true (fun r l => .ofF (fdiv fmtF32 .rn m.sat (r.fa m l) (r.fb m l))))
  ∧ (∀ (sat n1 n2 : Bool) (m1 m2 : Nat) (e1 e2 : Int), 0 < m1 → 0 < m2 →
    IsRounded fmtF32 .rn sat (n1 != n2) (m1 * 2 ^ e1 / (m2 * 2 ^ e2)) (fdiv fmtF32 .rn sat (.fin n1 m1 e1) (.fin n2 m2 e2))
    ∧ IsRounded fmtF32 .rn sat n2 (1 / (m2 * 2 ^ e2)) (frcp sat (.fin n2 m2 e2)))
  ∧ (∀ (sat n : Bool) (m j : Nat) (e q k : Int), m < 2 ^ 64 →
    let v : ℚ := m * 2 ^ e
    (0 < j → v = (j * 2 ^ q) ^ 2 → IsRounded fmtF32 .rn sat false (j * 2 ^ q) (fsqrt sat (.fin false m e)))
    ∧ (v = 4 ^ k → IsRounded fmtF32 .rn sat false (2 ^ (-k)) (frsq sat (.fin false m e)))
    ∧ ((FV.fin n m e).value = k → IsRounded fmtF32 .rn sat false (2 ^ k) (fex2 sat (.fin n m e)))
    ∧ (v = 2 ^ k → if k = 0 then flg2 sat (.fin false m e) = (0, 0)
        else IsRounded fmtF32 .rn sat (decide (k < 0)) k.natAbs (flg2 sat (.fin false m e))))
  ∧ ∀ (sat n sig : Bool) (m : Nat) (e : Int),
    let sign : Nat := if n then 0x80000000 else 0
    let nan : FRes := (0x7FC00000, fIV)
    (∀ f ∈ [frcp sat, frsq sat, fsqrt sat, fex2 sat, flg2 sat, ftrig false sat, ftrig true sat],
      f (.nan sig) = (0x7FC00000, if sig then fIV else 0))
    ∧ frcp sat (.fin n 0 e) = (sign + 0x7F800000, fDZ) ∧ frcp sat (.inf n) = (sign, 0)
    ∧ frsq sat (.fin n 0 e) = (sign + 0x7F800000, fDZ) ∧ frsq sat (.inf false) = (0, 0)
    ∧ fsqrt sat (.fin n 0 e) = (sign, 0) ∧ fsqrt sat (.inf false) = (0x7F800000, 0)
    ∧ fex2 sat (.inf true) = (0, 0) ∧ fex2 sat (.inf false) = (0x7F800000, 0)
    ∧ flg2 sat (.fin n 0 e) = (0xFF800000, fDZ) ∧ flg2 sat (.inf false) = (0x7F800000, 0)
    ∧ (∀ f ∈ [frsq sat, fsqrt sat, flg2 sat], f (.inf true) = nan ∧ (0 < m → f (.fin true m e) = nan))
    ∧ (∀ c, ftrig c sat (.inf n) = nan)
    ∧ ftrig false sat (.fin n 0 e) = (sign, 0) ∧ ftrig true sat (.fin n 0 e) = (0x3F800000, 0)

/-- The ten instructions on symmetric level-index numbers open windows with the results of their functions on the
decoded operands. Patterns of level 0 are zero or NaR, and the one with r set reads as one; NaR operands give NaR with
no flag but NAR; a sum is zero exactly when its operands are opposite; products, quotients, reciprocals, exponentials
and logarithms of zeros and ones, the fast paths of LIEXP and LILN, the conversions of zeros, infinities, NaNs and
ones, the widening of SLI16, and the order of the values are as the manual says. The model's own choices and readings
in it: assumption 74 of the log (R65, R70, R71, R73, R74, R289, R291, R292, R293). -/
def Obligations.SliResults : Prop :=
  (∀ (o : Ops) (m : StdMod),
  GivesLater (.liadd o m) true (fun r l => .ofF (sliAdd (sliF m.ty) (r.sa m l) (r.sb m l)))
  ∧ GivesLater (.lisub o m) true (fun r l => .ofF (sliAdd (sliF m.ty) (r.sa m l) (r.sb m l).negate))
  ∧ GivesLater (.limul o m) true (fun r l => .ofF (sliMul (sliF m.ty) (r.sa m l) (r.sb m l)))
  ∧ GivesLater (.lidiv o m) true (fun r l => .ofF (sliDiv (sliF m.ty) (r.sa m l) (r.sb m l)))
  ∧ GivesLater (.lircp o m) true (fun r l => .ofF (sliRcp (sliF m.ty) (r.sa m l)))
  ∧ GivesLater (.liexp o m) true (fun r l => .ofF (sliExp (sliF m.ty) (r.sa m l)))
  ∧ GivesLater (.liln o m) true (fun r l => .ofF (sliLn (sliF m.ty) (r.sa m l)))
  ∧ GivesLater (.lilvl o m) true (fun r l =>
      .ofVal (BitVec.ofNat 64 (sliClass (sliF m.ty) (r.fcode m.ty false m.na m.aa l o.a)))))
  ∧ (∀ (o : Ops) (m : CmpMod), GivesLater (.licmp o m) true (fun r l =>
      .bool (combine m.comb
        (sliCmp (sliF m.ty) m.cmp (r.sli m.ty false m.na m.aa l o.a) (r.sli m.ty false m.nb m.ab l o.b))
        (r.pc3 m.comb l))))
  ∧ (∀ (o : Ops) (m : CvtMod), GivesLater (.licvt o m) true (fun r l => .ofF (liConvert m.dty m.sty m.sat (r.code m.sty m.w l o.a))))
  ∧ ∀ F ∈ [11, 27], ∀ (n1 n2 r1 r2 : Bool) (x1 x2 : Nat),
    2 ^ F ≤ x1 → x1 < 2 ^ (F + 3) → 2 ^ F ≤ x2 → x2 < 2 ^ (F + 3) → (r1 = true → x1 ≠ 2 ^ F) → (r2 = true → x2 ≠ 2 ^ F) →
    let code := fun (n r : Bool) (x : Nat) => (if n then 2 ^ (F + 4) else 0) + (if r then 2 ^ (F + 3) else 0) + x
    let big := fun n => code n false (2 ^ (F + 3) - 1)
    let nar : FRes := (2 ^ (F + 3), fNAR)
    let bad : FRes := (2 ^ (F + 3), fNAR ||| fIV)
    let a : SV := .val n1 r1 x1
    let b : SV := .val n2 r2 x2
    let size := fun (r : Bool) (x : Nat) => (if r then 2 * 2 ^ F - x else x : Int)
    (sdecode F (code n1 r1 x1) = a ∧ sdecode F (code n1 true (2 ^ F)) = .val n1 false (2 ^ F)
      ∧ ∀ x, x < 2 ^ F → sdecode F (code n1 r1 x) = if r1 then .nar else .zero)
    ∧ (∀ y, sliAdd F .nar y = nar ∧ sliAdd F y .nar = nar ∧ sliMul F .nar y = nar ∧ sliMul F y .nar = nar
      ∧ sliDiv F .nar y = nar ∧ sliDiv F y .nar = nar)
    ∧ sliRcp F .nar = nar ∧ sliExp F .nar = nar ∧ sliLn F .nar = nar
    ∧ ((sliAdd F a b).1 = 0 ↔ n1 ≠ n2 ∧ r1 = r2 ∧ x1 = x2) ∧ sliAdd F .zero .zero = (0, 0)
    ∧ sliAdd F a .zero = (code n1 r1 x1, 0) ∧ sliAdd F .zero a = (code n1 r1 x1, 0)
    ∧ sliMul F .zero a = (0, 0) ∧ sliMul F a .zero = (0, 0) ∧ sliMul F .zero .zero = (0, 0)
    ∧ sliDiv F .zero .zero = bad ∧ sliDiv F .zero a = (0, 0)
    ∧ sliDiv F a .zero = (big n1, if x1 / 2 ^ F < 7 then fLUP ||| fDZ else fDZ)
    ∧ sliRcp F .zero = (big false, fDZ) ∧ sliRcp F a = (code n1 (decide (x1 ≠ 2 ^ F) && !r1) x1, 0)
    ∧ sliExp F .zero = (code false false (2 ^ F), 0)
    ∧ (r1 = false → x1 < 7 * 2 ^ F → sliExp F a = (code false n1 (x1 + 2 ^ F), fLUP))
    ∧ sliLn F .zero = bad ∧ (n1 = true → sliLn F a = bad) ∧ sliLn F (.val false false (2 ^ F)) = (0, 0)
    ∧ (n1 = false → 2 * 2 ^ F ≤ x1 → sliLn F a = (code r1 false (x1 - 2 ^ F), fLDN))
    ∧ (∀ e, sliOfF F (.fin n1 0 e) = (0, 0)) ∧ sliOfF F (.inf n1) = (big n1, fSAT) ∧ (∀ g, sliOfF F (.nan g) = nar)
    ∧ (∀ g ∈ [fmtF64, fmtF32, fmtF16, fmtBF16], ∀ sat, sliToF F g sat .zero = (0, 0)
      ∧ sliToF F g sat .nar = (g.nanCode, 0)
      ∧ sliToF F g sat (.val n1 false (2 ^ F)) = (signOf g n1 + g.bias * 2 ^ g.mb, 0))
    ∧ (F = 11 → sliResize 11 27 a = (2 ^ 16 * code n1 r1 x1, 0) ∧ sliResize 11 27 .zero = (0, 0)
      ∧ sliResize 11 27 .nar = (2 ^ 30, fNAR))
    ∧ (∀ y, sliCmp F .eq .nar y = false ∧ sliCmp F .lt .nar y = false ∧ sliCmp F .le .nar y = false
      ∧ sliCmp F .gt .nar y = false ∧ sliCmp F .ge .nar y = false ∧ sliCmp F .ne .nar y = true
      ∧ sliCmp F .eq y .nar = false ∧ sliCmp F .lt y .nar = false ∧ sliCmp F .gt y .nar = false
      ∧ sliCmp F .ne y .nar = true)
    ∧ (sliCmp F .eq a b = decide (n1 = n2 ∧ r1 = r2 ∧ x1 = x2))
    ∧ (sliCmp F .lt a b = match n1, n2 with
        | true, false => true
        | false, true => false
        | false, false => decide (size r1 x1 < size r2 x2)
        | true, true => decide (size r2 x2 < size r1 x1))
    ∧ sliCmp F .lt .zero a = !n1 ∧ sliCmp F .lt a .zero = n1 ∧ sliCmp F .eq .zero a = false
    ∧ sliCmp F .eq .zero .zero = true

/-- A PC whose line is LINE and whose slot is SLOT has the linear slot index LINE x 5 + SLOT; it is well formed
exactly when bits 5:3 are zero and the slot is 0 to 4; the slot after slot 4 of a line is slot 0 of the next line, and
otherwise the next slot of the line (09_encoding_rules.md). -/
def Obligations.ProgramCounterSlots : Prop :=
  (∀ pc : W64, pcLegal pc = true ↔ pc.extractLsb' 3 3 = 0 ∧ (pc.extractLsb' 0 3).toNat < 5)
  ∧ ∀ line slot : Nat, line + 1 < 2 ^ 58 → slot < 5 →
    let pc := BitVec.ofNat 64 (line * 64 + slot)
    pcLegal pc = true ∧ pcIndex pc = line * 5 + slot ∧ pcOfIndex (line * 5 + slot) = pc
    ∧ nextSlot pc = if slot = 4 then BitVec.ofNat 64 ((line + 1) * 64) else BitVec.ofNat 64 (line * 64 + slot + 1)

/-- When every target is legal, BRA and CALL send the lanes with a true guard to the slot of the linear index n +
offset, BRX and CALLX each lane to the table entry of its index, and RET each lane to its link; the other lanes go to
the next slot; CALL and CALLX write the next slot's PC into s43 when some lane goes; CALL, CALLX and RET first close
the lanes' windows. Nothing else changes. A BRA whose target lies before slot 0 or at or beyond the end of the code
object raises BOUNDS for every lane, and one whose TGT bit is clear BAD_TARGET. The model's own choices and readings
in it: assumption 64 of the log (R162, R214, R215, R216, R217, R218). -/
def Obligations.Transfers : Prop :=
  let goes := fun (s : State) (r : Run) (dest : Nat → W64) =>
    Outcome.next (s.moved r fun l => if l ∈ r.act then dest l else nextSlot r.pc)
  let entry := fun (s : State) (r : Run) (l : Nat) =>
    s.readCode r.g.ctx r.g.die r.g.core r.d (r.o.imm.toNat + 8 * ((r.rd32 l r.o.a).toNat + 1)) 8
  let tabled := fun (m : TableMod) (s : State) (r : Run) (dest : Nat → W64) =>
    r.o.imm.toNat + 8 * (m.n.toNat + 1) ≤ s.codeLen r.g.ctx r.d ∧ ∀ l ∈ r.act, (r.rd32 l r.o.a).toNat < m.n.toNat
      ∧ IsTarget s r (dest l) ∧ ∃ bs, entry s r l = .ok bs ∧ dest l = BitVec.ofNat 64 (leNat bs)
  (∀ (o : Ops) (s : State) (r : Run) (n : Nat), Issues (.bra o) s r → Calm s r → Fresh r →
    (pcIndex r.pc : Int) + o.imm.toInt = n → IsTarget s r (pcOfIndex n) →
    exec (.bra o) s = goes s r fun _ => pcOfIndex n)
  ∧ (∀ (o : Ops) (s : State) (r : Run), Issues (.bra o) s r → Fresh r → r.act = r.ls →
    let n := (pcIndex r.pc : Int) + o.imm.toInt
    let fails := fun (c : FCode) (v : W64) =>
      Outcome.next (s.raise r.gid r.w r.pc (r.ls.map fun l => (l, ({ code := c, s45 := v } : Flt))))
    (n < 0 → exec (.bra o) s = fails .bounds (BitVec.ofInt 64 (n / 5 * 64)))
    ∧ (0 ≤ n → s.codeLen r.g.ctx r.d ≤ pcLine (pcOfIndex n.toNat) * 64 →
        exec (.bra o) s = fails .bounds (BitVec.ofNat 64 (pcLine (pcOfIndex n.toNat) * 64)))
    ∧ (0 ≤ n → pcLine (pcOfIndex n.toNat) * 64 < s.codeLen r.g.ctx r.d → ∀ b,
        mapGet (s.warp r.gid r.w).lines (pcLine (pcOfIndex n.toNat)) = some b →
        tgtBit b (pcSlot (pcOfIndex n.toNat)) = false →
        exec (.bra o) s = fails .badTarget (pcOfIndex n.toNat)))
  ∧ (∀ (o : Ops) (s : State) (r : Run) (n : Nat), Issues (.call o) s.closeIssue r → Calm s.closeIssue r → Fresh r →
    (pcIndex r.pc : Int) + o.imm.toInt = n → IsTarget s.closeIssue r (pcOfIndex n) →
    exec (.call o) s = goes (s.closeIssue.linked r) r fun _ => pcOfIndex n)
  ∧ (∀ (o : Ops) (m : TableMod) (s : State) (r : Run) (dest : Nat → W64), Issues (.brx o m) s r → Calm s r → Fresh r →
    tabled m s r dest → exec (.brx o m) s = goes s r dest)
  ∧ (∀ (o : Ops) (m : TableMod) (s : State) (r : Run) (dest : Nat → W64), Issues (.callx o m) s.closeIssue r →
    Calm s.closeIssue r → Fresh r → tabled m s.closeIssue r dest →
    exec (.callx o m) s = goes (s.closeIssue.linked r) r dest)
  ∧ ∀ (o : Ops) (s : State) (r : Run), Issues (.ret o) s.closeIssue r → Calm s.closeIssue r → Fresh r →
    (∀ l ∈ r.act, IsTarget s.closeIssue r (r.rd64 .zero l o.a)) →
    exec (.ret o) s = goes s.closeIssue r fun l => r.rd64 .zero l o.a

/-- NOP moves the lanes of its run to the next slot and does nothing else. YIELD does the same, makes each lane with a
true guard wait behind the other ready lanes of its next PC, and hands the next opportunity to the oldest other ready
warp of the issue unit, if there is one; with no true guard it only advances. The model's own choices and readings in
it: assumption 65 of the log (R222, R26). -/
def Obligations.NopAndYield : Prop :=
  (∀ (o : Ops) (s : State) (r : Run), Issues (.nop o) s r → Calm s r →
    exec (.nop o) s = .next (s.moved r fun _ => nextSlot r.pc))
  ∧ ∀ (o : Ops) (s : State) (r : Run), Issues (.yield o) s r → Calm s r →
    let t := s.moved r fun _ => nextSlot r.pc
    let w := s.warp r.gid r.w
    let others := (s.ready r.gid r.g w &&& w.where fun x => x.pc == nextSlot r.pc) &&& ~~~(maskOf r.act)
    let u := t.modWarp r.gid r.w fun w => w.modLanes (maskOf r.act) fun _ x => { x with behind := others }
    exec (.yield o) s = .next (if r.act = [] then t else match u.oldestOther r.g r.gid r.w with
      | none => u
      | some (i, v) => u.modWarp i v fun w => { w with handed := true })

/-- ELECT writes true for the lowest-indexed real lane among the issuing lanes and false for every other issuing lane;
the lanes with a false guard keep their predicate, and when no issuing lane is real every issuing lane receives false
(R226). -/
def Obligations.ElectedLane : Prop :=
  ∀ o : Ops, Gives (.elect o) false (fun r l =>
    .bool (decide ((r.snap.lane l).st = .real) && r.act.all fun k => decide (k < l → (r.snap.lane k).st ≠ .real)))

/-- In a run that holds every real and helper lane of the warp, FLAGR writes the flag word, zero-extended, for each
issuing lane, and FLAGC clears each of bits 8:0 that is set in its operand; in any other run each raises MASK_MISMATCH
for every lane with the mask of the lanes that are missing. A FLAGC word with a v-register in src a is ill formed
(R286, R287). -/
def Obligations.FlagWord : Prop :=
  (∀ (o : Ops) (s : State) (r : Run), Issues (.flagr o) s r → Calm s r → r.snap.live &&& ~~~r.iss.lanes = 0 →
    ∃ t, exec (.flagr o) s = .next t
      ∧ Completes s t r false (r.dst .dst32) (fun _ => .ofVal (r.snap.flags.zeroExtend 64)))
  ∧ (∀ (o : Ops) (s : State) (r : Run), Issues (.flagc o) s r → Calm s r → r.snap.live &&& ~~~r.iss.lanes = 0 →
    exec (.flagc o) s = .next ((if r.act = [] then s else s.modWarp r.gid r.w fun w =>
      { w with flags := w.flags &&& ~~~(r.rd32 (r.act.headD 0) o.a &&& 0x1FF) }).moved r fun _ => nextSlot r.pc))
  ∧ (∀ (o : Ops) (s : State) (r : Run), r.snap.live &&& ~~~r.iss.lanes ≠ 0 →
    let fails := Outcome.next (s.raise r.gid r.w r.pc
      (r.ls.map fun l => (l, ({ code := .maskMismatch, s45 := r.snap.live &&& ~~~r.iss.lanes } : Flt))))
    (Issues (.flagr o) s r → exec (.flagr o) s = fails) ∧ (Issues (.flagc o) s r → exec (.flagc o) s = fails))
  ∧ ∀ o : Ops, isV o.a = true → (Instr.flagc o).wf = false

/-- MODE writes the old mode word for each issuing lane and sets the bits named by the immediate from src a, but HEN
stays 0 without a handler and USE stays 0 outside an understudy launch; in a run that lacks real or helper lanes of
the warp it raises MASK_MISMATCH for every lane with the mask of those lanes. COVER writes the count of checked or of
shadowed lanes and clears it when told to. Neither does anything else. The model's own choices and readings in it:
assumption 41 of the log (R429, R430, R431). -/
def Obligations.ModeAndCover : Prop :=
  (∀ (o : Ops) (s : State) (r : Run), Issues (.mode o) s r → Calm s r → r.snap.live &&& ~~~r.iss.lanes = 0 →
    r.act ≠ [] →
    let sel := o.imm &&& 0xF
    let x := (r.snap.mode &&& ~~~sel) ||| (r.rd32 (r.act.headD 0) o.a &&& sel)
    let new : W32 := if r.d.handler = 0 then x &&& 0xE else x &&& 0xF
    let new : W32 := if r.d.flags.getLsbD 2 then new else new &&& 0x7
    ∃ t, exec (.mode o) s = .next t ∧ Completes (s.modWarp r.gid r.w fun w => { w with mode := new }) t r false
      (r.dst .dst32) (fun _ => .ofVal (r.snap.mode.zeroExtend 64)))
  ∧ (∀ (o : Ops) (s : State) (r : Run), Issues (.mode o) s r → r.snap.live &&& ~~~r.iss.lanes ≠ 0 →
    exec (.mode o) s = .next (s.faults r fun _ => { code := .maskMismatch, s45 := r.snap.live &&& ~~~r.iss.lanes }))
  ∧ ∀ (o : Ops) (m : CoverMod) (s : State) (r : Run), Issues (.cover o m) s r → Calm s r →
    let w := s.warp r.gid r.w
    ∃ t, exec (.cover o m) s = .next t
      ∧ Completes (if m.clr = true ∧ r.act ≠ [] then s.modWarp r.gid r.w fun w =>
          if m.all then { w with checked := 0 } else { w with shadowed := 0 } else s) t r false (r.dst .dst64)
        (fun _ => .ofVal (if m.all then w.checked else w.shadowed))

/-- RAND writes, for each issuing lane, the draw of the manual's formula from the launch, the lane's position and its
draw counter, and adds one to the counter; a lane with a false guard draws nothing. CLOCK writes the core's cycle
counter, advanced by an unknown number of cycles since it was last read (a free value of the model, assumption 9)
(27_scheduling_rules.md). -/
def Obligations.ClockAndRand : Prop :=
  (∀ (o : Ops) (s : State) (r : Run), Issues (.rand o) s r → Calm s r →
    let draw := fun l : Nat =>
      let a := r.d.launch
      let b := BitVec.ofNat 64 (r.g.lin * 2 ^ 32 + (r.w * 64 + l))
      let d := BitVec.ofNat 64 (r.snap.lane l).draw
      let x := (a ^^^ b * 0xD1B54A32D192ED03#64) ^^^ (d + 1) * 0xAEF17502108EF2D9#64
      let f := fun x : W64 => ((x ^^^ x >>> 31) * 0xC2B2AE3D27D4EB4F#64) ^^^ b.rotateLeft 23
      (f (f (f (f x)))).extractLsb' 32 32
    ∃ t, exec (.rand o) s = .next t
      ∧ Completes (s.modWarp r.gid r.w fun w => w.modLanes (maskOf r.act) fun _ x => { x with draw := x.draw + 1 }) t r
          false (r.dst .dstV) (fun l => .ofVal ((draw l).zeroExtend 64)))
  ∧ ∀ (o : Ops) (s : State) (r : Run), Issues (.clock o) s r → Calm s r →
    let v := (s.core r.g.die r.g.core).clock + BitVec.ofNat 64 (Config.clockTick s.fresh)
    r.g.die < s.dies.length → r.g.core < (s.die r.g.die).cores.length →
    ∃ t, exec (.clock o) s = .next t
      ∧ Completes (s.modCore r.g.die r.g.core fun c => { c with clock := v }).nextFresh t r false (r.dst .dst64)
          (fun _ => .ofVal v)

/-- When a run brings every lane that the mask names, the named lanes leave together: RECONV changes no register;
SHFL, QXCH and QBC give each participating lane the value of its source lane, its own where that lane does not take
part; VOTE and MATCH give the any, all, unanimity, ballot or match result over the participating lanes. Each lane
reads its own operands, and nothing else changes (R33, R255, R259, R260). -/
def Obligations.MeetingResults : Prop :=
  let take := fun (r : Run) (val : Nat → W64) (l : Nat) (j : Int) =>
    Res.ofVal (if 0 ≤ j ∧ j.toNat ∈ r.act then val j.toNat else val l)
  (∀ (o : Ops) (s : State) (r : Run), Issues (.reconv o) s.closeIssue r → Calm s.closeIssue r →
    Meets s.closeIssue r (r.snap.getS (sNum o.a)) →
    ∃ t, exec (.reconv o) s = .next t ∧ Completes s.closeIssue t r false .none (fun _ => .ofVal 0))
  ∧ (∀ (o : Ops) (m : ShflMod) (s : State) (r : Run), Calm s r → Meets s r (r.snap.getS (sNum o.c)) →
    let val := fun l => if m.b64 then r.own.rd64 .zero l o.a else (r.own.rd32 l o.a).zeroExtend 64
    let off := fun l => if m.wrel then 64 / 2 ^ (o.imm.toNat % 8) % 2 ^ 32 else (r.own.rd32 l o.b).toNat
    let src := fun l : Nat => if m.mode = 0 then (off l : Int) else if m.mode = 1 then (l : Int) - off l
      else if m.mode = 2 then (l : Int) + off l else (l ^^^ off l : Nat)
    (Issues (.shfl o m) s r → ∃ t, exec (.shfl o m) s = .next t
      ∧ Completes s t r false (r.dst (xdst m.b64)) (fun l => take r val l (src l)))
    ∧ (Issues (.qxch o m) s r → ∃ t, exec (.qxch o m) s = .next t
      ∧ Completes s t r false (r.dst (xdst m.b64)) (fun l => take r val l (l ^^^ m.mode.toNat : Nat)))
    ∧ (Issues (.qbc o m) s r → ∃ t, exec (.qbc o m) s = .next t
      ∧ Completes s t r false (r.dst (xdst m.b64)) (fun l => take r val l (l / 4 * 4 + o.imm.toNat % 4 : Nat))))
  ∧ ∀ (o : Ops) (m : VoteMod) (s : State) (r : Run), Calm s r → Meets s r (r.snap.getS (sNum o.c)) →
    let p := fun l => r.own.rdP l o.a != m.np
    let val := fun l => if m.b64 then r.own.rd64 .zero l o.a else (r.own.rd32 l o.a).zeroExtend 64
    (Issues (.vote o m) s r → ∃ t, exec (.vote o m) s = .next t
      ∧ Completes s t r false (r.dst (if m.mode = 3 then .dst64 else .pred)) (fun _ =>
          if m.mode = 0 then .bool (r.act.any p) else if m.mode = 1 then .bool (r.act.all p)
          else if m.mode = 2 then .bool (r.act.all p || !r.act.any p) else .ofVal (maskOf (r.act.filter p))))
    ∧ (Issues (.matchB o m) s r → ∃ t, exec (.matchB o m) s = .next t
      ∧ Completes s t r false (r.dst (if m.mode = 0 then .dstV64 else .pred)) (fun l =>
          if m.mode = 0 then .ofVal (maskOf (r.act.filter fun k => val k == val l))
          else .bool (r.act.all fun k => val k == val l)))

/-- When a run brings every lane that the mask names, RED and SCAN open a window for each participating lane: RED's
result is that of six exchange steps at lane distances 32, 16, 8, 4, 2 and 1, SCAN's that of six steps that add the
value of the lane 1, 2, 4, 8, 16 and 32 below (shifted up one lane by the identity when exclusive), with the
operation's identity for lanes that do not take part, and the flags of every application. The model's own choices and
readings in it: assumption 16 of the log (R261, R262, R263, R264, R265). -/
def Obligations.ReductionResults : Prop :=
  ∀ (o : Ops) (m : RedMod) (s : State) (r : Run), Calm s r → Meets s r (r.snap.getS (sNum o.c)) →
  let val := fun l => if m.ty.is64 then r.own.rd64 (extOf m.ty) l o.a else (r.own.rd32 l o.a).zeroExtend 64
  let x : List Nat := (List.range 64).map fun l =>
    if l ∈ r.act then (val l).toNat % 2 ^ m.ty.bits else redIdentity m.op m.ty
  let meet := fun (y : List Nat × W32) (k : Nat) => redRound m.op m.ty (fun l => some (l, l ^^^ k)) y
  let below := fun (y : List Nat × W32) (k : Nat) => redRound m.op m.ty (fun l => if k ≤ l then some (l - k, l) else none) y
  let red := meet (meet (meet (meet (meet (meet (x, 0) 32) 16) 8) 4) 2) 1
  let scan := below (below (below (below (below (below (x, 0) 1) 2) 4) 8) 16) 32
  (Issues (.red o m) s r → ∃ t, exec (.red o m) s = .next t
    ∧ Opens s t r false (r.dst (xdst m.ty.is64)) false (fun l =>
        { val := BitVec.ofNat 64 (red.1.getD l 0), flags := red.2 }))
  ∧ (Issues (.scan o m) s r → ∃ t, exec (.scan o m) s = .next t
    ∧ Opens s t r false (r.dst (xdst m.ty.is64)) false (fun l =>
        { val := BitVec.ofNat 64 (if m.excl then (redIdentity m.op m.ty :: scan.1).getD l 0 else scan.1.getD l 0)
          flags := scan.2 }))

/-- At an instruction with a membership mask, the named lanes that have exited or never existed raise MEMBER_GONE with
their mask; failing that, when some named lanes have not arrived and every one of them waits at another synchronising
instruction, MEMBER_BLOCKED with their mask. A run that brings a participating lane which its mask does not name, or a
mask other than that of the lanes that wait there, raises MASK_MISMATCH. At SHFL, QXCH, QBC, VOTE, MATCH, RED and SCAN
the fault is raised for every lane that has arrived at the instruction, those of the run and those that wait there,
and for no other; a lane that faulted as it came (a register in error) counts as arrived, and the rendezvous is over.
The model's own choices and readings in it: assumption 15 of the log (R34). -/
def Obligations.MembershipFaults : Prop :=
  (∀ (w : Warp) (pc named : W64),
    let here := maskOf ((w.arrivals.filter fun a => a.pc == pc).map (·.lane))
    let gone := named &&& w.where fun x => x.st == .exited || x.st == .never
    let out := named &&& ~~~here
    memberFault w pc named = if gone ≠ 0 then some { code := .memberGone, s45 := gone }
      else if out ≠ 0 ∧ ((List.range 64).all fun l => !out.getLsbD l || (w.lane l).wait.isSync) = true
        then some { code := .memberBlocked, s45 := out } else none)
  ∧ ∀ (o : Ops) (ms : ShflMod) (mv : VoteMod) (mr : RedMod) (s : State) (r : Run),
    ∀ i ∈ [Instr.shfl o ms, .qxch o ms, .qbc o ms, .vote o mv, .matchB o mv, .red o mr, .scan o mr], Issues i s r →
    let w := s.warp r.gid r.w
    let mask := r.snap.getS (sNum o.c)
    (∀ a ∈ w.arrivals, a.pc = r.pc) → (∀ l ∈ r.ls, l ∈ r.act ∨ mask.getLsbD l = true) →
    let met := (List.range 64).filter fun l => r.ls.contains l || w.arrivals.any fun a => a.lane == l
    let gone := mask &&& w.where fun x => x.st == .exited || x.st == .never
    let out := mask &&& ~~~(maskOf met)
    let waits := met.filter fun l => r.ls.contains l || !(w.arrivals.find? fun a => a.lane == l).any (·.ghost)
    let u := s.modWarp r.gid r.w fun x => { x with arrivals := [] }
    let fails := fun (c : FCode) (v : W64) =>
      Outcome.next (u.raise r.gid r.w r.pc (waits.map fun l => (l, ({ code := c, s45 := v } : Flt))))
    ((∃ l ∈ r.act, mask.getLsbD l = false) ∨ (∃ a ∈ w.arrivals, a.lane < 64 ∧ a.mask ≠ mask) →
      (w.arrivals.map (·.lane)).Nodup → exec i s = fails .maskMismatch 0)
    ∧ ((∀ l ∈ r.act, mask.getLsbD l = true) → (∀ a ∈ w.arrivals, a.mask = mask) →
      (gone ≠ 0 → exec i s = fails .memberGone gone)
      ∧ (gone = 0 → out ≠ 0 → (∀ l, out.getLsbD l = true → (w.lane l).wait.isSync = true) →
        exec i s = fails .memberBlocked out))

/-- In a launch without helpers, when nothing counts on the lanes (no barrier, mask, REGROUP, handler set or partner),
EXIT makes the lanes with a true guard exited, the others of the run go to the next slot, and nothing else changes,
while a real lane of the group remains; when none remains, the group is gone (no engine operation of it being under
way), its node counts one more exited group, and every other group is as it was. In a launch with helpers a lane
becomes a helper at the next slot while another lane of its quad stays real; when the last real lane of a quad exits,
it and the helpers of the quad become exited, and what they still await is gone (R20, R220). -/
def Obligations.ExitEndsLanes : Prop :=
  ∀ (o : Ops) (s : State) (r : Run), Issues (.exit o) s.closeIssue r → Calm s.closeIssue r → r.act ≠ [] →
  let u := s.closeIssue
  let w := u.warp r.gid r.w
  r.d.isDuet = false → w.arrivals = [] → w.hset = 0 →
  w.pend = [] → r.g.barriers = [] → r.g.regroup = none → u.cbars = [] → mapSorted none u.groups = true →
  let passed := fun x : Warp => x.moved u.stamp (r.ls.filter fun l => !r.isAct l) fun _ => nextSlot r.pc
  let ended := fun (ls : List Nat) (x : Warp) => (passed x).modLanes (maskOf ls) fun _ y =>
    { y with st := .exited, windows := [], wait := .none, behind := 0, before := none }
  let stays := fun v l : Nat => ((r.g.warp v).lane l).st = .real ∧ ¬(v = r.w ∧ l ∈ r.act)
  let plain := r.d.hasHelpers = false ∧ ∀ l, (w.lane l).st ≠ .helper
  (plain → (∃ v l, v < r.g.warps.length ∧ l < 64 ∧ stays v l) →
    exec (.exit o) s = .next (u.modWarp r.gid r.w (ended r.act)))
  ∧ (r.d.hasHelpers = true →
    (∀ l ∈ r.act, ∃ k, k / 4 = l / 4 ∧ k ∉ r.act ∧ (w.lane k).st = .real) →
    exec (.exit o) s = .next (u.modWarp r.gid r.w fun x => (passed x).modLanes (maskOf r.act) fun _ y =>
      { y with st := .helper, pc := nextSlot r.pc, entry := false, wait := .none, before := none }))
  ∧ (∀ l, r.d.hasHelpers = true → r.act = [l] → (∀ k, k / 4 = l / 4 → (w.lane k).st = .real → k = l) →
    (∀ k, k / 4 = l / 4 → (w.lane k).st = .helper → (w.lane k).windows = []) →
    (∃ v k, v < r.g.warps.length ∧ k < 64 ∧ stays v k) →
    let quad := l :: (List.range 64).filter fun k => decide (k / 4 = l / 4) && decide ((w.lane k).st = .helper)
    exec (.exit o) s = .next ((u.modWarp r.gid r.w (ended quad)).dropLoads r.gid r.w (maskOf quad)))
  ∧ (plain → (∀ v l, ¬stays v l) → (∀ x ∈ u.ops, x.gid ≠ r.gid) → ∃ t, exec (.exit o) s = .next t
      ∧ t.group r.gid = none ∧ (∀ i, i ≠ r.gid → t.group i = u.group i)
      ∧ (∀ x n, u.ctx r.g.ctx = some x → mapGet x.nodes r.g.node = some n → ∃ x' n', t.ctx r.g.ctx = some x'
          ∧ mapGet x'.nodes r.g.node = some n' ∧ n'.exited = n.exited + 1 ∧ n'.desc = n.desc)
      ∧ t.hbm = u.hbm ∧ t.loft = u.loft)

/-- When all lanes of a run issue BAR and no other arrival of the instance had another count: the lanes' earlier
writes reach their homes, and while fewer have arrived than the count names (0 names every real lane of the group) the
lanes wait and the instance counts them; when their arrival completes the instance in a group of one warp whose real
lanes are the run's, the instance is reset, each lane knows the writes that any of them knew (R133), and the lanes
leave at the next slot. A run with another count raises BARRIER_MISMATCH with the count of the earlier arrivals. The
model's own choices and readings in it: assumption 66 of the log (R133, R224). -/
def Obligations.GroupBarriers : Prop :=
  ∀ (o : Ops) (m : BarMod) (s : State) (r : Run), Issues (.bar o m) s.closeIssue r → Calm s.closeIssue r →
  let u := s.closeIssue
  let g := r.g
  r.act = r.ls → (∀ l ∈ r.ls, (r.snap.lane l).st = .real ∧ ((g.warp r.w).lane l).st = .real) →
  AtPc u r → (g.warp r.w).arrivals = [] → r.d.isDuet = false → mapSorted none g.barriers = true →
  let i := m.i.toNat
  let c := r.rd64 .zero (r.act.headD 0) o.a
  let old := mapGet g.barriers i
  let arrived := ((old.map (·.arrived)).getD 0) + r.act.length
  let expected := if c = 0 then g.reals else c.toNat
  let v := u.drainMask r.gid r.w (maskOf r.act)
  ((∀ b, old = some b → b.count = c) → expected ≤ g.reals → arrived < expected →
    exec (.bar o m) s = .next ((v.modGroup r.gid fun g =>
      { g with barriers := mapSet g.barriers i { count := c, arrived := arrived } }).hold r r.act (.bar i)))
  ∧ ((∀ b, old = some b → b.count = c) → expected ≤ g.reals → arrived = expected →
    g.warps.length = 1 → (∀ l, ((g.warp r.w).lane l).st = .real → l ∈ r.ls) →
    (∀ l, ((g.warp r.w).lane l).st ≠ .helper) → (∀ l, l ∉ r.ls → ((g.warp r.w).lane l).wait ≠ .bar i) →
    exec (.bar o m) s = .next (((v.modGroup r.gid fun g => { g with barriers := mapErase g.barriers i }).taught r).moved r
      fun _ => nextSlot r.pc))
  ∧ ∀ b, old = some b → b.count ≠ c →
    exec (.bar o m) s
      = .next (u.raise r.gid r.w r.pc (r.ls.map fun l => (l, { code := .barrierMismatch, s45 := b.count })))

/-- When all lanes of a run issue CBAR and no other arrival of the instance had another count: the lanes' earlier
writes reach their homes, and while fewer have arrived than the count names (0 names every real lane of the cluster's
groups) the lanes wait and the cluster's instance counts them; when their arrival completes it in a cluster of one
group of one warp, the instance is reset, each lane knows the writes that any of them knew (R133), and the lanes leave
at the next slot. The model's own choices and readings in it: assumption 66 of the log (R133, R223, R224). -/
def Obligations.ClusterBarriers : Prop :=
  ∀ (o : Ops) (m : BarMod) (s : State) (r : Run), Issues (.cbar o m) s.closeIssue r → Calm s.closeIssue r →
  let u := s.closeIssue
  let g := r.g
  r.act = r.ls → (∀ l ∈ r.ls, (r.snap.lane l).st = .real ∧ ((g.warp r.w).lane l).st = .real) →
  AtPc u r → (g.warp r.w).arrivals = [] → r.d.isDuet = false →
  let i := m.i.toNat
  let c := r.rd64 .zero (r.act.headD 0) o.a
  let mine := fun b : ClusterBar =>
    b.ctx == g.ctx && b.node == g.node && b.cluster == g.lin / r.d.cluster && b.i == i
  let old := (u.cbars.find? mine).map (·.bar)
  let live := ((u.clusterOf g).map fun k => ((u.group k).map Group.reals).getD 0).sum
  let arrived := ((old.map (·.arrived)).getD 0) + r.act.length
  let expected := if c = 0 then live else c.toNat
  let v := u.drainMask r.gid r.w (maskOf r.act)
  (∀ b, old = some b → b.count = c) → expected ≤ live →
  (arrived < expected → exec (.cbar o m) s = .next ((({ v with
    cbars := { ctx := g.ctx, node := g.node, cluster := g.lin / r.d.cluster, i := i,
               bar := { count := c, arrived := arrived } } :: v.cbars.filter fun b => !mine b } : State)).hold r r.act
    (.cbar i)))
  ∧ (arrived = expected → u.clusterOf g = [r.gid] → g.warps.length = 1 →
    (∀ l, ((g.warp r.w).lane l).st = .real → l ∈ r.ls) → (∀ l, ((g.warp r.w).lane l).st ≠ .helper) →
    (∀ l, l ∉ r.ls → ((g.warp r.w).lane l).wait ≠ .cbar i) →
    exec (.cbar o m) s = .next ((State.taught { v with cbars := v.cbars.filter fun b => !mine b } r).moved r
      fun _ => nextSlot r.pc))

/-- The lanes' earlier writes reach their homes. A run of real lanes that does not complete the instance adds its
lanes with a true guard as records (thread, key in bits 15:0 of a, payload registers) and waits. When the run holds
every real lane of a group of one warp, the records in thread order receive the payloads in key order, equal keys
staying in thread order; every lane leaves at the next slot; no other register changes, and a register that is written
has no error left (R440) (R133, R267, R268, R440). -/
def Obligations.RegroupedPayloads : Prop :=
  ∀ (o : Ops) (m : RegroupMod) (s : State) (r : Run), Issues (.regroup o m) s r → Calm s r → AtPc s r →
  (∀ l ∈ r.ls, (r.snap.lane l).st = .real ∧ ((r.g.warp r.w).lane l).st = .real) →
  (r.g.warp r.w).arrivals = [] → r.d.isDuet = false →
  let c := m.c.toNat + 1
  let v := s.drainMask r.gid r.w (maskOf r.ls)
  let x := v.warp r.gid r.w
  let old := r.g.regroup
  let recs := r.act.map fun l => ({ t := 64 * r.w + l, key := (r.rd32 l o.a).extractLsb' 0 16, base := o.d.toNat
                                    payload := (List.range c).map fun k => (r.snap.lane l).getV (o.d.toNat + k) } : RegRec)
  ((∀ x, old = some x → x.c = c) → ((old.map (·.arrived)).getD 0) + r.ls.length ≠ r.g.reals →
    let inst : RegInst := { c := c, arrived := ((old.map (·.arrived)).getD 0) + r.ls.length
                            recs := ((old.map (·.recs)).getD []) ++ recs }
    exec (.regroup o m) s = .next ((v.modGroup r.gid fun g => { g with regroup := some inst }).hold r r.ls .regroup))
  ∧ (old = none → r.g.warps.length = 1 → (∀ l, ((r.g.warp r.w).lane l).st = .real → l ∈ r.ls) →
    (∀ l, ((r.g.warp r.w).lane l).st ≠ .helper) → ∃ t, exec (.regroup o m) s = .next t ∧
    let pos := sortBy (fun x : RegRec => x.t) recs
    let srt := sortBy (fun x : RegRec => x.key.toNat) pos
    t = ((v.taught r).modGroup r.gid fun g => { g with regroup := none }).modWarp r.gid r.w (fun _ => t.warp r.gid r.w)
    ∧ t.warp r.gid r.w = { x with lanes := (t.warp r.gid r.w).lanes, regErr := (t.warp r.gid r.w).regErr }
    ∧ LanesMove x (t.warp r.gid r.w) v.stamp r.ls (fun _ => nextSlot r.pc)
    ∧ (∀ e, e ∈ (t.warp r.gid r.w).regErr ↔ e ∈ x.regErr
      ∧ ¬(e.1 ∈ r.act ∧ o.d.toNat ≤ e.2 ∧ e.2 < o.d.toNat + c))
    ∧ ∀ l, ((t.warp r.gid r.w).lane l).p = (x.lane l).p
      ∧ ((t.warp r.gid r.w).lane l).windows
        = (if l ∈ r.ls then ((x.lane l).count v.stamp).windows else (x.lane l).windows)
      ∧ ∀ n, ((t.warp r.gid r.w).lane l).getV n =
        match (pos.zip srt).find? (fun y => y.1.t == 64 * r.w + l) with
        | some y => if o.d.toNat ≤ n ∧ n < o.d.toNat + c then y.2.payload.getD (n - o.d.toNat) 0
          else (x.lane l).getV n
        | none => (x.lane l).getV n)

/-- When its fault can be delivered, TRAP sends the lanes with a true guard into the handler with code 0x50 and s45
the number of the instruction, and BKPT with code 0x51 when the mode word has BKEN set: the record is in s44 to s47,
the lanes stand at the handler's PC, and nothing else changes. With BKEN clear, BKPT only advances (R418, R421, R426,
R427). -/
def Obligations.TrapsEnterTheHandler : Prop :=
  (∀ (o : Ops) (s : State) (r : Run), Issues (.trap o) s r → r.act = r.ls →
    let f : Flt := { code := .trap, s45 := o.imm.zeroExtend 64 }
    Delivers s r.gid r.w r.g f r.ls →
    ∃ t, exec (.trap o) s = .next t ∧ Entered s t r.gid r.w r.d f r.pc (maskOf r.ls))
  ∧ (∀ (o : Ops) (s : State) (r : Run), Issues (.bkpt o) s r → r.act = r.ls → r.snap.mode.getLsbD 2 = true →
    let f : Flt := { code := .bkpt, s45 := o.imm.zeroExtend 64 }
    r.snap.mode.getLsbD 0 = true → Delivers s r.gid r.w r.g f r.ls →
    ∃ t, exec (.bkpt o) s = .next t ∧ Entered s t r.gid r.w r.d f r.pc (maskOf r.ls))
  ∧ ∀ (o : Ops) (s : State) (r : Run), Issues (.bkpt o) s r → Calm s r → r.snap.mode.getLsbD 2 = false →
    exec (.bkpt o) s = .next (s.moved r fun _ => nextSlot r.pc)

/-- After closing the windows, HRET sends the lanes of the handler set to T, which is s46, or with NEXT the slot after
it, and takes them out of the set, which is released when it is empty. When T is ill formed every issuing lane raises
BAD_TARGET, and lanes outside the set raise ILLEGAL_OPCODE. The model's own choices and readings in it: assumption 39
of the log (R428). -/
def Obligations.ReturnFromHandler : Prop :=
  ∀ (o : Ops) (m : FlagMod) (s : State) (r : Run), Issues (.hret o m) s.closeIssue r → r.act = r.ls →
  let u := s.closeIssue
  let w := u.warp r.gid r.w
  let s46 := r.snap.getS 46
  let t := if m.b ∧ pcLegal s46 = true then nextSlot s46 else s46
  let fails := fun (c : FCode) (v : W64) =>
    Outcome.next (u.raise r.gid r.w r.pc (r.ls.map fun l => (l, ({ code := c, s45 := v } : Flt))))
  (pcLegal t = false → exec (.hret o m) s = fails .badTarget t)
  ∧ (pcLegal t = true → (∀ l ∈ r.ls, w.hset.getLsbD l = false) → exec (.hret o m) s = fails .illegalOpcode 0)
  ∧ (pcLegal t = true → (∀ l ∈ r.ls, w.hset.getLsbD l = true) → w.pend = [] →
    exec (.hret o m) s = .next (u.modWarp r.gid r.w fun x =>
      { x.modLanes (maskOf r.ls) (fun _ y => { y with pc := t, wait := .none, entry := false, before := none }) with
        hset := x.hset &&& ~~~(maskOf r.ls)
        hrec := if x.hset &&& ~~~(maskOf r.ls) = 0 then none else x.hrec }))

/-- When lanes raise one fault and it can be delivered, exactly those lanes form the handler set: first each of their
open windows closes, its result landing in issue order with its flags; then their record stands in s44 to s47 without
tags, they stand at the handler's PC, still to be checked against TGT, and nothing else changes, but that a machine
check is entered in the error log for each lane. The model's own choices and readings in it: assumption 63 of the log
(R180, R418, R421, R439). -/
def Obligations.FaultDelivery : Prop :=
  ∀ (s : State) (gid w : Nat) (g : Group) (pc : W64) (f : Flt) (ls : List Nat), CanDeliver s gid w g f ls →
    let u : State := if f.code = .machineCheck then { s with errLog := s.errLog
        ++ (ls.map fun _ => LogEntry.machineCheck g.die g.core ((g.warp w).slot % 4) f.s45) } else s
    let v := u.settleWindows gid w (maskOf ls)
    let x := v.warp gid w
    (∀ l ∈ ls, ∀ y ∈ (x.lane l).windows, y.flt = none) →
    let results := sortBy (fun (p : Nat × Window) => p.2.stamp)
      ((lanesIn (maskOf ls)).flatMap fun l => (x.lane l).windows.map fun y => (l, y))
    let closed := x.modLanes (maskOf ls) fun _ y => { y with windows := [] }
    let landed := results.foldl (fun v p => (v.put p.1 p.2.dst p.2.val p.2.tag).orFlags p.2.flags) closed
    Entered (v.modWarp gid w fun _ => landed) (s.raise gid w pc (ls.map fun l => (l, f))) gid w (s.desc g) f pc (maskOf ls)
    ∧ ∀ l ∈ ls, (((s.raise gid w pc (ls.map fun l => (l, f))).warp gid w).lane l).windows = []

/-- When lanes raise one fault and the kernel has no handler, or HEN is clear, or the fault is a machine check and MCH
is clear, or a lane of theirs is in the handler set, the grid is aborted: its record goes to the host with the group's
linear index and the warp's index, and with the earlier record for a fault in a handler; every group of the node is
gone or only drains its operations; the node is marked aborted and its queue is empty; the groups of other nodes are
as they were (R423, R424). -/
def Obligations.FaultAborts : Prop :=
  ∀ (s : State) (gid w : Nat) (g : Group) (pc : W64) (f : Flt) (ls : List Nat), s.group gid = some g →
  w < g.warps.length → ls ≠ [] → (∀ l ∈ ls, l < 64) → mapSorted none s.groups = true → g.res ≠ .draining →
  let wp := g.warp w
  let inner := ls.any fun l => wp.hset.getLsbD l
  (inner = true ∨ (s.desc g).handler = 0 ∨ wp.mode.getLsbD 0 = false
    ∨ (f.code = .machineCheck ∧ wp.mode.getLsbD 1 = false)) →
  let t := s.raise gid w pc (ls.map fun l => (l, f))
  let set := maskOf (if inner then ls.filter fun l => wp.hset.getLsbD l else ls)
  let rec_ : Record := { s44 := f.code.code, s45 := f.s45, s46 := pc, s47 := set }
  t.aborts = s.aborts ++ [{ ctx := g.ctx, node := g.node, lin := g.lin, warp := w, record := rec_
                            earlier := if inner then wp.hrec else none }]
  ∧ (∀ i h, t.group i = some h → h.ctx = g.ctx → h.node = g.node → h.res = .draining)
  ∧ (∀ i h, s.group i = some h → ¬(h.ctx = g.ctx ∧ h.node = g.node) → t.group i = some h)
  ∧ (∀ n, s.node g.ctx g.node = some n → ∃ n', t.node g.ctx g.node = some n' ∧ n'.aborted = true ∧ n'.queue = [])
  ∧ t.hbm = s.hbm ∧ t.loft = s.loft

/-- When an ordinary instruction of a run without false guards reads one future-tagged s-register: while the operation
has not completed, every lane waits at the instruction and nothing else happens; if it has failed, the tag is cleared
and every lane raises FUTURE_FAILED with the status word; if it succeeded, the tag is cleared and the instruction
acts; either way the lanes then know what happens-before the completion (R133). The model's own choices and readings
in it: assumption 17 of the log (R133, R240). -/
def Obligations.FutureTagsBlockReaders : Prop :=
  ∀ (i : Instr) (body : Run → State → State) (s : State) (r : Run) (n : Nat) (e : ECtx),
  s.runOf (opsOf i) = some r → i.wf = true → (opsOf i).inRange (formOf i) r.d.vregs r.d.sregs = true →
  r.badLanes i (formOf i) = [] → r.act = r.ls → r.ls ≠ [] → Fresh r → r.d.isDuet = false →
  r.iss.pre = [] →
  r.sReads i (formOf i) = [n] → r.snap.tagged n = true →
  let h := r.snap.getS n
  let seq := (h.extractLsb' 0 56).toNat
  s.ectx r.g (h.extractLsb' 56 8).toNat = some e →
  let clear := (s.modWarp r.gid r.w fun w => { w with tags := w.tags &&& ~~~(1#48 <<< n) }).observe r.g
    (h.extractLsb' 56 8).toNat seq r.gid r.w r.ls
  (e.isDone seq = false → issued i .issuing body s = .next (body (r.without r.ls) (s.hold r r.ls (.future h))))
  ∧ (e.isDone seq = true → e.failed seq = true → issued i .issuing body s
      = .next (body (r.without r.ls) (clear.raise r.gid r.w r.pc (r.ls.map fun l =>
          (l, { code := .futureFailed, s45 := (e.status seq).zeroExtend 64 })))))
  ∧ (e.isDone seq = true → e.failed seq = false → issued i .issuing body s = .next (body r clear))

/-- With an event at the head of the agenda and no second issue of a cycle pending, a step is exec of that event, but
for a command that is not the next of the mailbox ring, which changes nothing, and an event that names a part that
does not exist, which is the fault noSuchUnit. When an issue unit gets an opportunity, the warp that it selects
belongs to a launch outside rehearsal, its cycle holds one run and the lanes may start at their PC, and the bytes of
the slot at that PC in its line buffers decode to an instruction, a step is exec of that instruction for that run,
after the counts of waiting have been brought up to date; the second issue of a cycle runs the instruction at its own
PC in the same way, and as the second of a pair it reads the registers as they stood before the pair; bytes that do
not decode raise ILLEGAL_FIELD for the lanes of the run. In each case the results that are due then land, and a stream
without a warp goes to the next. The model's own choices and readings in it: assumptions 2, 3, 36, 70, 77 and 81 of
the log (R21, R22, R167, R408, R448). -/
def Obligations.StepRunsTheInstruction : Prop :=
  let settled := fun (o : Outcome State Machine.Fault Refusal) => match o with
    | .next t => Outcome.next t.settleAll
    | o => o
  let ended := fun (o : Outcome State Machine.Fault Refusal) => match o with
    | .next t => Outcome.next (State.settleAll { t with issue := none })
    | o => o
  let legalAt := fun (x : Issue) => x.snap.badEntry x.pc (lanesIn x.lanes) = []
  (∀ (i : Instr) (m : List (Nat × Nat)) (rest : List Item) (s : State), s.halted = false → s.second = none →
    s.agenda = .event i m :: rest →
    let t : State := { s with agenda := rest, stale := m }
    let inTurn := Instr.isCommand i = false ∨ ∃ c, s.mailbox.cmds.head? = some c ∧ c.pad = 0 ∧ cmdEvent c.cmd = some i
    (i.eventOk = false → step s = .fault .noSuchUnit)
    ∧ (i.eventOk = true → ¬inTurn → step s = .next t.settleAll)
    ∧ (i.eventOk = true → inTurn → step s = settled (exec i t)))
  ∧ (∀ (gid w : Nat) (stale : List (Nat × Nat)) (rest : List Item) (s : State) (g h : Group) (y : Issuer) (m pc : W64),
    s.halted = false → s.second = none → s.agenda = .issue gid w stale :: rest → s.group gid = some g →
    let t : State := State.holdCycle { s with agenda := rest, stale := stale } g.die g.core
    t.chosen (unitOf g w) = some y → t.group y.gid = some h → (s.desc h).isRehearsal = false →
    let v := t.passOver y.gid y.warp h
    let ready := v.ready y.gid h (h.warp y.warp)
    (h.warp y.warp).cycle ready true = some { runA := m, pcA := pc, second := none } →
    let v := v.settleRun y.gid y.warp m pc
    let snap := (v.warp y.gid y.warp).recall m pc
    let x : Issue := { gid := y.gid, warp := y.warp, lanes := m, pc := pc, snap := snap, busy := snap.guarded m pc
                       cycle := v.stamp, out := 0, pre := [] }
    legalAt x →
    let u := (v.modWarp y.gid y.warp fun z => z.counted ready m).nextStamp
    (∀ i, decodeWord (lineSlot (snap.lineAt pc) (pcSlot pc)) = .ok i →
      step s = ended (exec i { u with issue := some x }))
    ∧ ∀ e, decodeWord (lineSlot (snap.lineAt pc) (pcSlot pc)) = .error e →
      step s = ended (.next (({ u with issue := some x } : State).raise y.gid y.warp pc ((lanesIn m).map fun l =>
        (l, ({ code := .illegalField, s45 := 0 } : Flt))))))
  ∧ ∀ (x : Issue) (pair : Bool) (s : State) (g : Group) (i : Instr), s.halted = false →
    s.second = some { iss := x, pair := pair } →
    let t : State := { s with second := none }
    let v := if pair then (t.completeNow x.gid x.warp (t.stillThere x)).keepBefore x else t
    v.group x.gid = some g → (v.desc g).isRehearsal = false → x.lanes ≠ 0 → legalAt x →
    (∀ l, x.lanes.getLsbD l = true → ((g.warp x.warp).lane l).isLive = true ∧ ((g.warp x.warp).lane l).pc = x.pc
      ∧ ((g.warp x.warp).lane l).wait = .none) →
    decodeWord (lineSlot (x.snap.lineAt x.pc) (pcSlot x.pc)) = .ok i →
    step s = ended (exec i { v with issue := some x })

/-- After reset there is no context, group, kernel, write, engine operation, walk, cached leaf or cached object; the
error log is empty, and no abort, status of a node or notice waits for the host; every memory and register file is in
canonical form; each of the eight dies has 72 cores, cores 0 to 63 enabled and 64 to 71 spare, with four quadrants and
a cycle counter of zero; the sixteen links are up with empty retry buffers. The model's own choices and readings in
it: assumptions 7, 8 and 91 of the log. The fields that the manual gives no reset value (QMASK, MISM, the sparse form
of memories) stand as the log entries 5 and 8 name them (R2, R463, R441, R413). -/
def Obligations.ResetState : Prop :=
  let s := State.reset
  s.canon = true ∧ s.ctxs = [] ∧ s.groups = [] ∧ s.writes = [] ∧ s.recent = [] ∧ s.ops = [] ∧ s.walks = []
  ∧ s.aborts = [] ∧ s.errLog = [] ∧ s.nodeStatus = [] ∧ s.notices = [] ∧ s.halted = false
  ∧ s.dies.length = 8 ∧ s.links.length = 16
  ∧ (∀ d, d < 8 → (s.die d).cores.length = 72 ∧ (s.die d).lost = false ∧ (s.die d).stopped = false
    ∧ (s.die d).throttled = false ∧ (s.die d).mhz = 4000 ∧ (s.die d).tlb = [])
  ∧ (∀ d c, d < 8 → c < 72 → (s.core d c).state = (if c < 64 then 0 else 1) ∧ (s.core d c).qmask = 0xF
    ∧ (s.core d c).clock = 0 ∧ (s.core d c).mism = 0 ∧ (s.core d c).queue = [] ∧ (s.core d c).dtlb = [] ∧ (s.core d c).itlb = []
    ∧ (s.core d c).objs = [])
  ∧ ∀ x ∈ s.links, x.retry = [] ∧ x.down = false ∧ x.retraining = false

/-- For every state in which main memory, the lofts, and the shared memory, stacks and registers of every group are in
canonical form (addresses strictly rising and no word of zero listed, so that equal contents are equal data), a step
that gives a next state gives one in which they are again (05_memory_rules.md). -/
def Obligations.StepKeepsCanon : Prop :=
  ∀ s t : State, s.canon = true → step s = .next t → t.canon = true

/-- When a store whose value is fixed reaches its home, nothing is ahead of it at its location and no ECC unit of it
is in error, its bytes stand at its address, every other byte of shared memory, lofts and main memory is as it was, a
release adds one to GEN of its object, it has left the list of stores under way, and it is the newest write of its
location, known to its lane (unless it is a UO write that the lane has not read). An atomic that reaches its home acts
there, and the windows of its instruction receive what it found and its flags, or the uncorrectable error that it met.
When a long-latency operation of a resident group completes whose value is fixed and no earlier result of the warp is
due, the results whose lookahead count has run out land in their lanes' registers with their flags, the others are
marked complete, and no other lane changes; for a group that is not on a core they are only marked. The model's own
choices and readings in it: assumption 10 of the log (R99, R114, R125, R126, R178, R182). -/
def Obligations.LateEffects : Prop :=
  (∀ (k : Nat) (late : Bool) (s : State) (w : PWrite), s.writes[k]? = some w → (∀ x ∈ s.writes.take k, ahead x w = false) →
    w.space ≠ .hbm → s.InSpace w.space w.addr w.bytes.length → s.canon = true →
    w.rmw = none → (late = true → w.late = []) →
    (∀ u ∈ s.errUnits w.space,
      ¬(w.addr < (u + 1) * eccUnit w.space ∧ u * eccUnit w.space < w.addr + w.bytes.length)) →
    ∃ t, exec (.writeReachesHome ⟨k, late⟩) s = .next t ∧ t.writes = s.writes.eraseIdx k
      ∧ (∀ sp b, s.InSpace sp b 1 → t.byteAt sp b =
          if sp = w.space ∧ w.addr ≤ b ∧ b < w.addr + w.bytes.length then w.bytes.getD (b - w.addr) 0 else s.byteAt sp b)
      ∧ (∀ c i, t.obj c i = if w.release = true ∧ w.obj = some (c, i) then
          (s.obj c i).map fun o => { o with gen := o.gen + 1 } else s.obj c i)
      ∧ t.recent = s.recent ++ [{ id := s.stamp, by_ := w.agent, space := w.space, addr := w.addr
                                  old := s.readHome 0 w.space w.addr w.bytes.length, ord := w.ord
                                  rels := if w.ord = .uo then [] else w.rels
                                  known := if w.ord = .uo ∧ w.seen = false then [] else [w.agent]
                                  wide := [], ctx := w.ctx, node := w.node }]
      ∧ t = { s with writes := t.writes, loft := t.loft, groups := t.groups, ctxs := t.ctxs, recent := t.recent
                     stamp := s.stamp + 1 }
      ∧ ∀ i, t.group i = (s.group i).map fun g => { g with shared := ((t.group i).map (·.shared)).getD [] })
  ∧ (∀ (k : Nat) (s : State) (w : PWrite) (m : Rmw), s.writes[k]? = some w → (∀ x ∈ s.writes.take k, ahead x w = false) →
    w.rmw = some m →
    let a := State.atomicHome { s with writes := s.writes.eraseIdx k } w m none
    exec (.writeReachesHome ⟨k, false⟩) s = .next (a.1.modWarp w.gid w.warp fun x =>
      x.modLanes (if m.shared then BitVec.allOnes 64 else oneLane w.lane) fun _ y =>
        { y with windows := y.windows.map fun z => if z.stamp = m.win then
            { z with val := BitVec.ofNat 64 a.2.old, flags := a.2.flags
                     flt := if a.2.bad then some { code := .machineCheck, s45 := BitVec.ofNat 64 (2 + w.space.source * 256) }
                       else none }
          else z }))
  ∧ ∀ (id gid w : Nat) (late : Bool) (s : State) (g : Group), s.group gid = some g → w < g.warps.length →
    (late = true → ∀ d ∈ s.loads, d.id = id → d.fixed = true) → s.second = none →
    (∀ z ∈ s.writes, ∀ m, z.rmw = some m → m.win ≠ id) →
    (∀ k z, z ∈ ((g.warp w).lane k).windows → z.stamp < id → z.left ≠ 0) →
    mapSorted none s.groups = true → (g.warp w).lanes.length = 64 →
    (∃ l, ((g.warp w).lane l).awaits id = true) →
    (∀ i h v l, s.group i = some h → v < h.warps.length → ((h.warp v).lane l).awaits id = true → i = gid ∧ v = w) →
    (∀ l, ((g.warp w).lane l).awaits id = true → ∃ y, ((g.warp w).lane l).windows = [y] ∧ y.stamp = id ∧ y.flt = none) →
    let x := g.warp w
    let win := fun l => (x.lane l).windows.headD
      { stamp := 0, cycle := 0, left := 0, pc := 0, dst := .none, val := 0, tag := false, flags := 0, done := false, flt := none }
    let lands := fun l => (x.lane l).awaits id = true ∧ (win l).left = 0
    let u : State := { s with loads := s.loads.filter fun d => d.id != id }
    (g.res ≠ .resident → exec (.longLatencyComplete ⟨id, late⟩) s = .next (u.modWarp gid w fun x =>
      { x with lanes := x.lanes.map fun y => if y.awaits id then y.complete id else y }))
    ∧ (g.res = .resident → x.canon = true → ∃ t, exec (.longLatencyComplete ⟨id, late⟩) s = .next t
      ∧ t = u.modWarp gid w (fun _ => t.warp gid w)
      ∧ t.warp gid w = { x with lanes := (t.warp gid w).lanes, s := (t.warp gid w).s, tags := (t.warp gid w).tags
                                flags := (t.warp gid w).flags, regErr := (t.warp gid w).regErr }
      ∧ (∀ l, (t.warp gid w).lane l = if (x.lane l).awaits id then
          { x.lane l with windows := if (win l).left = 0 then [] else [{ win l with done := true }]
                          v := ((t.warp gid w).lane l).v, p := ((t.warp gid w).lane l).p } else x.lane l)
      ∧ (∀ l n, (lands l → ((t.warp gid w).lane l).getV n = (win l).dst.newV (win l).val n ((x.lane l).getV n)
            ∧ ((t.warp gid w).lane l).getP n = (win l).dst.newP (win l).val n ((x.lane l).getP n))
          ∧ (¬lands l → ((t.warp gid w).lane l).getV n = (x.lane l).getV n
            ∧ ((t.warp gid w).lane l).getP n = (x.lane l).getP n))
      ∧ (∀ n, (∀ l, lands l → (win l).dst ≠ .s n ∧ (win l).dst ≠ .sHi n) →
          (t.warp gid w).getS n = x.getS n ∧ (t.warp gid w).tagged n = x.tagged n)
      ∧ (∀ n l, n < 48 → lands l → (win l).dst = .s n → (∀ k, lands k → (win k).dst ≠ .sHi n ∧ ((win k).dst = .s n → k = l)) →
          (t.warp gid w).getS n = (win l).val ∧ (t.warp gid w).tagged n = (win l).tag)
      ∧ ∀ b, (t.warp gid w).flags.getLsbD b = true ↔ x.flags.getLsbD b = true ∨ ∃ l, lands l ∧ (win l).flags.getLsbD b = true)

/-- When every issuing lane's location is legal, LDS writes the little-endian bytes of shared memory at a + b +
displacement, extended by SX when narrower than 8 bytes, as the lane sees them under its own stores under way; LDL
opens windows with those of the loft object of its capability, an SO access first sending the lane's SO stores home,
while the core's object cache holds the object; a lane's own atomics at the location have acted first; LDK opens
windows with those of the lane's own stack words. Each lane from then on knows the writes that it has read, and an
acquire those that happen-before the releases that it read (R126, R132). Nothing else changes. A location out of
bounds, misaligned or without the right raises BOUNDS, MISALIGNED, STACK_OVERFLOW or RIGHTS, bounds before alignment;
a right that the object's entry alone lacks fails at the memory port, and so in the window. The model's own choices
and readings in it: assumptions 10, 12, 88 and 91 of the log (R86, R87, R88, R97, R126, R132, R181, R229, R231). -/
def Obligations.Loads : Prop :=
  let value := fun (m : MemMod) (bs : List Byte) =>
    Res.ofVal (BitVec.ofInt 64 (if m.sx = true ∧ m.size ≠ 3 ∧ 2 ^ (8 * memBytes m - 1) ≤ leNat bs
      then (leNat bs : Int) - 2 ^ (8 * memBytes m) else leNat bs))
  let src := fun (r : Run) (l : Nat) => if isS r.o.d then r.act.headD 0 else l
  let disp := fun (r : Run) (l : Nat) => r.o.imm.toInt + ((r.rd32 l r.o.b).toNat : Int)
  let at_ := fun (r : Run) (l : Nat) => ((r.rd32 l r.o.a).toNat : Int) + disp r l
  let fails := fun (s : State) (r : Run) (c : FCode) (v : Nat → Int) => Outcome.next (s.nextStamp.raise r.gid r.w r.pc
    (r.ls.map fun l => (l, ({ code := c, s45 := BitVec.ofInt 64 (v l) } : Flt))))
  let noted := fun (m : MemMod) (r : Run) (loc : Nat → Loc) (long : Bool) (s : State) =>
    (if isS r.o.d then r.act.take 1 else r.act).foldl (fun u l =>
      let v := u.noteRead (.lane r.gid r.w l) (loc l).space (loc l).addr (memBytes m)
        (if (m.kind = .acquire ∨ m.kind = .acqRel) ∧ (loc l).ord ≠ .uo then some (scopeAt (loc l).space m.scope) else none)
      { v with loads := v.loads ++ if long = true then
          [{ id := s.stamp, gid := r.gid, warp := r.w, lane := l, space := (loc l).space, addr := (loc l).addr
             bytes := memBytes m, signed := m.sx
             fixed := !decide ((m.kind = .plain ∨ m.kind = .release) ∧ (loc l).ord ≠ .so ∧ r.d.isRehearsal = false) }]
          else [] }) s
  let own := fun (m : MemMod) (r : Run) (loc : Nat → Loc) (s : State) =>
    r.act.foldl (fun u l => u.settleOwn (.lane r.gid r.w l) (loc l).space (loc l).addr (memBytes m)) s
  (∀ (o : Ops) (m : MemMod) (s : State) (r : Run), Issues (.lds o m) s r → Calm s r →
    let n := memBytes m
    let loc := fun l => ({ space := .shared r.gid, addr := (at_ r l).toNat, ord := .rc, obj := none } : Loc)
    let u := own m r loc s
    ((∀ l ∈ r.act, 0 ≤ at_ r l ∧ at_ r l + n ≤ r.d.shared ∧ (at_ r l).toNat % n = 0
        ∧ u.badRead (.shared r.gid) (at_ r l).toNat n = false) →
      ∃ t, exec (.lds o m) s = .next t ∧ Completes (noted m r loc false u) t r false (r.dst (memDst m)) fun l =>
        value m (u.readLane r.gid r.w (src r l) 0 (.shared r.gid) (at_ r l).toNat n))
    ∧ (r.act = r.ls → (∀ l ∈ r.act, at_ r l < 0 ∨ (r.d.shared : Int) < at_ r l + n) →
      exec (.lds o m) s = fails s r .bounds (at_ r))
    ∧ (r.act = r.ls → (∀ l ∈ r.act, 0 ≤ at_ r l ∧ at_ r l + n ≤ r.d.shared ∧ (at_ r l).toNat % n ≠ 0) →
      exec (.lds o m) s = fails s r .misaligned (at_ r)))
  ∧ (∀ (o : Ops) (m : MemMod) (s : State) (r : Run) (e : Nat → Obj), Issues (.ldl o m) s r → Calm s r →
    let n := memBytes m
    let cap := fun l => r.rd64 .zero l o.a
    let off := fun l => (capOff (cap l) : Int) + disp r l
    let granted := fun l => rightRD &&& (capRights (cap l) &&& (e l).rights) = rightRD
    let home := fun l => Space.loft (((e l).placed).getD 0)
    let addr := fun l => (e l).base + (off l).toNat
    (∀ l ∈ r.act, s.capEntry r.g.ctx (cap l) [.loft] = some (e l)) →
    let loc := fun l => ({ space := home l, addr := addr l, ord := (e l).ord, obj := some (r.g.ctx, capObj (cap l)) } : Loc)
    let u := own m r loc (r.act.foldl (fun u l => if (e l).ord = .so then u.drainSo r.gid r.w l else u) s)
    let kept := fun t : State => t.holdCaps r.g (r.act.map cap)
    ((∀ l ∈ r.act, granted l ∧ 0 ≤ off l ∧ off l + n ≤ (e l).len ∧ (e l).placed.isSome = true ∧ (off l).toNat % n = 0
        ∧ (s.hops r.g.die ((e l).placed.getD 0)).isSome = true ∧ u.badRead (home l) (addr l) n = false
        ∧ s.heldLen r.g.die r.g.core r.g.ctx (capObj (cap l)) (e l) = (e l).len) →
      ∃ t, exec (.ldl o m) s = .next t ∧ Opens (kept (noted m r loc true u)) t r false
        (r.dst (memDst m)) false fun l => value m (u.readLane r.gid r.w (src r l) 0 (home l) (addr l) n))
    ∧ (r.act = r.ls → (∀ l ∈ r.act, rightRD &&& capRights (cap l) ≠ rightRD) →
      exec (.ldl o m) s = fails (kept s) r .rights off)
    ∧ ((∀ l ∈ r.act, rightRD &&& capRights (cap l) = rightRD ∧ ¬granted l) → ∃ t, exec (.ldl o m) s = .next t
      ∧ Opens (kept s) t r false (r.dst (memDst m)) false fun l =>
        { val := 0, late := some { code := .rights, s45 := BitVec.ofInt 64 (off (src r l)) } })
    ∧ (r.act = r.ls → (∀ l ∈ r.act, granted l ∧ (off l < 0 ∨ ((e l).len : Int) < off l + n)) →
      exec (.ldl o m) s = fails (kept s) r .bounds off))
  ∧ ∀ (o : Ops) (m : MemMod) (s : State) (r : Run), Issues (.ldk o m) s r → Calm s r →
    let n := memBytes m
    let size := ceilDiv r.d.stack 256 * 256
    let words := fun l => (List.range (n / 4)).map fun i => ((at_ r l).toNat + i) * 64 + l
    ((∀ l ∈ r.act, 0 ≤ at_ r l ∧ (at_ r l + (n / 4 : Nat)) * 256 ≤ size ∧ (n = 8 → (at_ r l).toNat % 2 = 0)
        ∧ ∀ k ∈ words l, k ∉ (s.warp r.gid r.w).stackErr) →
      ∃ t, exec (.ldk o m) s = .next t ∧ Opens s t r false (r.dst (memDstV m)) false fun l =>
        value m ((words l).flatMap fun k => readBytes (s.warp r.gid r.w).stack (4 * k) 4))
    ∧ (r.act = r.ls → (∀ l ∈ r.act, at_ r l < 0 ∨ (size : Int) < (at_ r l + (n / 4 : Nat)) * 256) →
      exec (.ldk o m) s = fails s r .stackOverflow (at_ r))

/-- When every issuing lane's location is legal: for each issuing real lane in turn, STS and STL put one store of the
low bytes of c at the computed address on its way to its home, behind the lane's earlier SO stores at an SO location,
and behind all of its earlier SO and RC stores when it is a release, which carries what happens-before it (R132); in a
rehearsal launch it goes home at once (R412); helper lanes store nothing, and the core's object cache holds the
object; STK writes the words of each lane's own stack at once, helpers among them, and no other byte of the stack. The
lanes go to the next slot and nothing else changes. Out of bounds, misaligned or without the right raises the fault,
bounds first. The model's own choices and readings in it: assumptions 12, 14 and 91 of the log (R18, R86, R88, R97,
R131, R132, R142, R231, R412). -/
def Obligations.Stores : Prop :=
  let disp := fun (r : Run) (l : Nat) => r.o.imm.toInt + ((r.rd32 l r.o.b).toNat : Int)
  let at_ := fun (r : Run) (l : Nat) => ((r.rd32 l r.o.a).toNat : Int) + disp r l
  let bytes := fun (r : Run) (m : MemMod) (l : Nat) =>
    bytesOfWord (memBytes m) (if m.size = 3 then (r.rd64 .zero l r.o.c).toNat else (r.rd32 l r.o.c).toNat)
  let fails := fun (s : State) (r : Run) (c : FCode) (v : Nat → Int) => Outcome.next (s.nextStamp.raise r.gid r.w r.pc
    (r.ls.map fun l => (l, ({ code := c, s45 := BitVec.ofInt 64 (v l) } : Flt))))
  let sent := fun (s : State) (r : Run) (m : MemMod) (w : Nat → PWrite) => r.act.foldl (fun u l =>
    if (r.snap.lane l).st = .real then
      let a := Agent.lane r.gid r.w l
      let v := if m.kind = .release then (u.drainLane r.gid r.w l).bindLoads r.gid r.w (oneLane l)
        else if (w l).ord = .so then u.drainSo r.gid r.w l else u
      let x := v.placeLoads a (w l).space (w l).addr (memBytes m)
      let y : State := { x with writes := x.writes ++ [{ w l with
        rels := x.relsOf a (w l).space (if m.kind = .release then some m.scope else none) }] }
      if r.d.isRehearsal then y.drain (·.byLane r.gid r.w l) else y
    else u) s
  (∀ (o : Ops) (m : MemMod) (s : State) (r : Run), Issues (.sts o m) s r → Calm s r →
    let n := memBytes m
    let w := fun l => ({ cycle := r.iss.cycle, gid := r.gid, warp := r.w, lane := l, op := none, rels := [], seen := false
                         space := .shared r.gid, addr := (at_ r l).toNat
                         bytes := bytes r m l, ord := .rc, release := decide (m.kind = .release), obj := none
                         ctx := r.g.ctx, node := r.g.node, rmw := none, late := [] } : PWrite)
    ((∀ l ∈ r.act, 0 ≤ at_ r l ∧ at_ r l + n ≤ r.d.shared ∧ (at_ r l).toNat % n = 0) →
      exec (.sts o m) s = .next (((sent s r m w).moved r fun _ => nextSlot r.pc).nextStamp))
    ∧ (r.act = r.ls → (∀ l ∈ r.act, at_ r l < 0 ∨ (r.d.shared : Int) < at_ r l + n) →
      exec (.sts o m) s = fails s r .bounds (at_ r))
    ∧ (r.act = r.ls → (∀ l ∈ r.act, 0 ≤ at_ r l ∧ at_ r l + n ≤ r.d.shared ∧ (at_ r l).toNat % n ≠ 0) →
      exec (.sts o m) s = fails s r .misaligned (at_ r)))
  ∧ (∀ (o : Ops) (m : MemMod) (s : State) (r : Run) (e : Nat → Obj), Issues (.stl o m) s r → Calm s r →
    let n := memBytes m
    let cap := fun l => r.rd64 .zero l o.a
    let off := fun l => (capOff (cap l) : Int) + disp r l
    let granted := fun l => rightWR &&& (capRights (cap l) &&& (e l).rights) = rightWR
    let w := fun l => ({ cycle := r.iss.cycle, gid := r.gid, warp := r.w, lane := l, op := none, rels := [], seen := false
                         space := .loft ((e l).placed.getD 0)
                         addr := (e l).base + (off l).toNat, bytes := bytes r m l, ord := (e l).ord
                         release := decide (m.kind = .release), obj := some (r.g.ctx, capObj (cap l))
                         ctx := r.g.ctx, node := r.g.node, rmw := none, late := [] } : PWrite)
    let kept := s.holdCaps r.g (r.act.map cap)
    ((∀ l ∈ r.act, s.capEntry r.g.ctx (cap l) [.loft] = none) → r.act = r.ls →
      exec (.stl o m) s = .next (kept.nextStamp.raise r.gid r.w r.pc
        (r.ls.map fun l => (l, ({ code := .object, s45 := cap l } : Flt)))))
    ∧ ((∀ l ∈ r.act, s.capEntry r.g.ctx (cap l) [.loft] = some (e l)) →
      ((∀ l ∈ r.act, granted l ∧ 0 ≤ off l ∧ off l + n ≤ (e l).len ∧ (e l).placed.isSome = true
          ∧ (off l).toNat % n = 0 ∧ (s.hops r.g.die ((e l).placed.getD 0)).isSome = true
          ∧ s.heldLen r.g.die r.g.core r.g.ctx (capObj (cap l)) (e l) = (e l).len) →
        exec (.stl o m) s = .next (((sent kept r m w).moved r fun _ => nextSlot r.pc).nextStamp))
      ∧ (r.act = r.ls → (∀ l ∈ r.act, ¬granted l) → exec (.stl o m) s = fails kept r .rights off)
      ∧ (r.act = r.ls → (∀ l ∈ r.act, granted l ∧ (off l < 0 ∨ ((e l).len : Int) < off l + n)) →
        exec (.stl o m) s = fails kept r .bounds off)))
  ∧ ∀ (o : Ops) (m : MemMod) (s : State) (r : Run), Issues (.stk o m) s r → Calm s r →
    let n := memBytes m
    let size := ceilDiv r.d.stack 256 * 256
    let x := s.warp r.gid r.w
    ((∀ l ∈ r.act, 0 ≤ at_ r l ∧ (at_ r l + (n / 4 : Nat)) * 256 ≤ size ∧ (n = 8 → (at_ r l).toNat % 2 = 0)) →
      ∃ t, exec (.stk o m) s = .next t ∧ OnlyWarp s t r.gid r.w
        ∧ t.warp r.gid r.w = { x.moved s.stamp r.ls (fun _ => nextSlot r.pc) with
            stack := (t.warp r.gid r.w).stack, stackErr := (t.warp r.gid r.w).stackErr }
        ∧ (∀ l ∈ r.act, ∀ i j, i < n / 4 → j < 4 →
            readByte (t.warp r.gid r.w).stack (4 * (((at_ r l).toNat + i) * 64 + l) + j) = (bytes r m l).getD (4 * i + j) 0
            ∧ ((at_ r l).toNat + i) * 64 + l ∉ (t.warp r.gid r.w).stackErr)
        ∧ ∀ a, (∀ l ∈ r.act, ∀ i, i < n / 4 → a / 4 ≠ ((at_ r l).toNat + i) * 64 + l) →
            readByte (t.warp r.gid r.w).stack a = readByte x.stack a
            ∧ (a / 4 ∈ (t.warp r.gid r.w).stackErr ↔ a / 4 ∈ x.stackErr))
    ∧ (r.act = r.ls → (∀ l ∈ r.act, at_ r l < 0 ∨ (size : Int) < (at_ r l + (n / 4 : Nat)) * 256) →
      exec (.stk o m) s = fails s r .stackOverflow (at_ r))

/-- When every issuing lane's location is legal, ATMS, ATML, CASS and CASL go to it lane by lane in increasing lane
index and open windows; helpers do nothing and receive 0; into an s-register one lane goes. When every access is plain
or a release, of a location that is not SO, outside rehearsal, the atomics are on their way and act as they reach
their homes; otherwise they act at once, and the windows hold what they found. Those of a loft make the core's object
cache hold the object. At the location the new value of the operation (or of a comparison that succeeds) stands after
the one found, no other byte changes, and a release adds one to GEN of its object. In a rehearsal launch ATML and CASL
raise REHEARSAL. A FENCE beyond lane scope sends its lanes' atomics home and fixes the values of their loads; an
acquire synchronises with the releases that they have read; a release sends their earlier stores home and makes their
later ones releases; an acq_rel makes their RC and SO writes visible to its whole scope; the lanes then go to the next
slot, and nothing else changes. The model's own choices and readings in it: assumptions 10, 11, 88 and 91 of the log
(R97, R99, R114, R131, R234, R235). -/
def Obligations.AtomicsAndFences : Prop :=
  let value := fun (r : Run) (m : MemMod) (l : Nat) (i : BitVec 8) =>
    if m.size = 3 then (r.rd64 .zero l i).toNat else (r.rd32 l i).toNat
  let acts := fun (s : State) (r : Run) (m : MemMod) (loc : Nat → Loc) (f : Nat → AtomArgs) =>
    (if isS r.o.d then r.act.take 1 else r.act).foldl (fun (acc : State × (Nat → Res)) l =>
      if (r.snap.lane l).st = .real then
        let x := acc.1.atomicAt r m l (loc l) (f l)
        (x.1, fun k => if k = l ∨ isS r.o.d = true then x.2 else acc.2 k)
      else acc) (s, fun _ => Res.ofVal 0)
  let new := fun (r : Run) (m : MemMod) (l : Nat) => ({ fn := .atom m.op, c := value r m l r.o.c } : AtomArgs)
  let swap := fun (r : Run) (m : MemMod) (l : Nat) => ({ fn := .cas (value r m l r.o.b), c := value r m l r.o.c } : AtomArgs)
  let real := fun r : Run => (if isS r.o.d then r.act.take 1 else r.act).filter fun l => decide ((r.snap.lane l).st = .real)
  let asked := fun (r : Run) (m : MemMod) (loc : Nat → Loc) (s : State) => (real r).foldl (fun u l =>
    { u with loads := u.loads ++ [{ id := u.stamp, gid := r.gid, warp := r.w, lane := l, space := (loc l).space
                                    addr := (loc l).addr, bytes := memBytes m, signed := false, fixed := true }] }) s
  let goes := fun (i : Instr) (s0 s : State) (r : Run) (m : MemMod) (k : FieldKind) (loc : Nat → Loc) (f : Nat → AtomArgs) =>
    let waits := fun l => (m.kind = .plain ∨ m.kind = .release) ∧ (loc l).ord ≠ .so ∧ r.d.isRehearsal = false
    ((∃ l ∈ real r, ¬waits l) → let u := acts s r m loc f
      ∃ t, exec i s0 = .next t ∧ Opens (asked r m loc u.1) t r false (r.dst k) false u.2)
    ∧ ((∀ l ∈ real r, waits l) →
      let u := asked r m loc ((real r).foldl (fun u l =>
        (if m.kind = .release then (u.drainLane r.gid r.w l).bindLoads r.gid r.w (oneLane l) else u).placeLoads
          (.lane r.gid r.w l) (loc l).space (loc l).addr (memBytes m)) s)
      let v := (real r).foldl (fun v l => { v with writes := v.writes ++ [
        { cycle := r.iss.cycle, gid := r.gid, warp := r.w, lane := l, op := none, space := (loc l).space
          addr := (loc l).addr, bytes := List.replicate (memBytes m) 0, ord := (loc l).ord
          release := decide (m.kind = .release)
          rels := v.relsOf (.lane r.gid r.w l) (loc l).space (if m.kind = .release then some m.scope else none)
          seen := false, obj := (loc l).obj, ctx := r.g.ctx, node := r.g.node
          rmw := some { win := v.stamp, fn := (f l).fn, c := (f l).c, shared := isS r.o.d }, late := [] }] }) u
      ∃ t, exec i s0 = .next t ∧ Opens v t r false (r.dst k) false fun _ => .ofVal 0)
  let index := fun (r : Run) (useB : Bool) (l : Nat) => r.o.imm.toInt + if useB then ((r.rd32 l r.o.b).toNat : Int) else 0
  let shared := fun (i : Instr) (m : MemMod) (k : FieldKind) (useB : Bool) (f : Run → MemMod → Nat → AtomArgs) =>
    ∀ (s : State) (r : Run), Issues i s r → Calm s r →
    let at_ := fun l => ((r.rd32 l r.o.a).toNat : Int) + index r useB l
    (∀ l ∈ r.act, 0 ≤ at_ l ∧ at_ l + memBytes m ≤ r.d.shared ∧ (at_ l).toNat % memBytes m = 0) →
    goes i s s r m k (fun l => { space := .shared r.gid, addr := (at_ l).toNat, ord := .rc, obj := none }) (f r m)
  let loft := fun (i : Instr) (m : MemMod) (k : FieldKind) (useB : Bool) (f : Run → MemMod → Nat → AtomArgs) =>
    ∀ (s : State) (r : Run) (e : Nat → Obj), Issues i s r → Calm s r → r.d.isRehearsal = false →
    let cap := fun l => r.rd64 .zero l r.o.a
    let off := fun l => (capOff (cap l) : Int) + index r useB l
    let need := rightRD ||| rightWR ||| rightAT
    let n := memBytes m
    (∀ l ∈ r.act, s.capEntry r.g.ctx (cap l) [.loft] = some (e l)
      ∧ need &&& (capRights (cap l) &&& (e l).rights) = need ∧ 0 ≤ off l ∧ off l + n ≤ (e l).len
      ∧ (e l).placed.isSome = true ∧ ((e l).base + (off l).toNat) / 65536 = ((e l).base + (off l).toNat + n - 1) / 65536
      ∧ (off l).toNat % n = 0 ∧ (s.hops r.g.die ((e l).placed.getD 0)).isSome = true
      ∧ s.heldLen r.g.die r.g.core r.g.ctx (capObj (cap l)) (e l) = (e l).len) →
    goes i s (s.holdCaps r.g (r.act.map cap)) r m k (fun l =>
      { space := .loft ((e l).placed.getD 0), addr := (e l).base + (off l).toNat, ord := (e l).ord,
        obj := some (r.g.ctx, capObj (cap l)) }) (f r m)
  (∀ (o : Ops) (m : MemMod), shared (.atms o m) m (memDstV m) true new ∧ loft (.atml o m) m (memDstV m) true new
    ∧ shared (.cass o m) m (memDst m) false swap ∧ loft (.casl o m) m (memDst m) false swap)
  ∧ (∀ (o : Ops) (m : MemMod) (s : State) (r : Run), r.act = r.ls → r.d.isRehearsal = true →
    let fails := Outcome.next (s.raise r.gid r.w r.pc (r.ls.map fun l => (l, ({ code := .rehearsal, s45 := 0 } : Flt))))
    (Issues (.atml o m) s r → exec (.atml o m) s = fails) ∧ (Issues (.casl o m) s r → exec (.casl o m) s = fails))
  ∧ (∀ (s : State) (r : Run) (m : MemMod) (l : Nat) (p : Loc) (f : AtomArgs),
    (∀ x ∈ s.writes, ¬(x.space = p.space ∧ x.addr < p.addr + memBytes m ∧ p.addr < x.addr + x.bytes.length)) →
    (∀ x ∈ s.writes, x.byLane r.gid r.w l = false) → p.space ≠ .hbm → s.InSpace p.space p.addr (memBytes m) → s.canon = true →
    s.badRead p.space p.addr (memBytes m) = false →
    let old := leNat (s.readHome 0 p.space p.addr (memBytes m))
    let new := f.fn.new (8 * memBytes m) old f.c
    let t := s.atomicAt r m l p f
    t.2.val = BitVec.ofNat 64 old ∧ t.2.flt = none ∧ t.2.late = none
    ∧ (∀ sp b, s.InSpace sp b 1 → t.1.byteAt sp b = match new with
        | none => s.byteAt sp b
        | some v => if sp = p.space ∧ p.addr ≤ b ∧ b < p.addr + memBytes m
          then (bytesOfWord (memBytes m) v.1).getD (b - p.addr) 0 else s.byteAt sp b)
    ∧ ∀ c i, t.1.obj c i = if (m.kind = .release ∨ m.kind = .acqRel) ∧ new.isSome = true ∧ p.obj = some (c, i) then
        (s.obj c i).map fun o => { o with gen := o.gen + 1 } else s.obj c i)
  ∧ (∀ (s : State) (w : PWrite) (m : Rmw) (acq : Option Scope), w.space ≠ .hbm →
    s.InSpace w.space w.addr w.bytes.length → s.canon = true → s.badRead w.space w.addr w.bytes.length = false →
    let old := leNat (s.readHome 0 w.space w.addr w.bytes.length)
    let new := m.fn.new (8 * w.bytes.length) old m.c
    let t := s.atomicHome w m acq
    t.2.old = old ∧ t.2.flags = ((new.map (·.2)).getD 0) ∧ t.2.bad = false
    ∧ (∀ sp b, s.InSpace sp b 1 → t.1.byteAt sp b = match new with
        | none => s.byteAt sp b
        | some v => if sp = w.space ∧ w.addr ≤ b ∧ b < w.addr + w.bytes.length
          then (bytesOfWord w.bytes.length v.1).getD (b - w.addr) 0 else s.byteAt sp b)
    ∧ ∀ c i, t.1.obj c i = if w.release = true ∧ new.isSome = true ∧ w.obj = some (c, i) then
        (s.obj c i).map fun o => { o with gen := o.gen + 1 } else s.obj c i)
  ∧ (∀ (op : AtomOp) (b n x c : Nat), (RmwFn.atom op).new n x c = some (atomNew op n x c)
    ∧ (RmwFn.cas b).new n x c = if x = b then some (c, 0) else none)
  ∧ (∀ n x c : Nat, (n = 32 ∨ n = 64) → x < 2 ^ n → c < 2 ^ n →
    let num := fun a : Nat => if 2 ^ (n - 1) ≤ a then (a : Int) - 2 ^ n else a
    (atomNew .add n x c).1 = (x + c) % 2 ^ n ∧ (atomNew .minz n x c).1 = min x c ∧ (atomNew .maxz n x c).1 = max x c
    ∧ num (atomNew .mins n x c).1 = min (num x) (num c) ∧ num (atomNew .maxs n x c).1 = max (num x) (num c)
    ∧ (atomNew .and n x c).1 = x &&& c ∧ (atomNew .or n x c).1 = x ||| c ∧ (atomNew .xor n x c).1 = x ^^^ c
    ∧ (atomNew .exch n x c).1 = c ∧ (atomNew .inc n x c).1 = (if c ≤ x then 0 else x + 1)
    ∧ (atomNew .dec n x c).1 = if x = 0 ∨ c < x then c else x - 1)
  ∧ ∀ (o : Ops) (m : FenceMod) (s : State) (r : Run), Issues (.fence o m) s r → Calm s r →
    let mine := fun x : PWrite => x.op = none ∧ x.gid = r.gid ∧ x.warp = r.w ∧ x.lane ∈ r.act
    let acq := m.kind = .acquire ∨ m.kind = .acqRel
    let rel := m.kind = .release ∨ m.kind = .acqRel
    let fence := fun (t : State) (l : Nat) =>
      let a := Agent.lane r.gid r.w l
      let t := (t.drain (PWrite.atomicOf r.gid r.w (oneLane l))).bindLoads r.gid r.w (oneLane l)
      let t := if acq then t.acquire (t.stand a) m.scope ((t.met.filter fun p => p.1 == a).map (·.2)) else t
      let d := t.drain (·.byLane r.gid r.w l)
      let own : Rel := { by_ := d.stand a, scope := m.scope, ids := (d.recent.filter a.knows).map (·.id) }
      let t : State := if rel then
        { d with fenced := (a, own) :: d.fenced.filter fun p => !(p.1 == a && p.2.scope == m.scope) } else t
      if m.kind = .acqRel then { t with recent := t.recent.map fun (e : Recent) =>
        if e.by_ = a ∧ e.ord ≠ .uo then { e with wide := e.wide ++ [(m.scope, t.stand a)] } else e } else t
    let u := if m.scope = .lane then s else r.act.foldl fence s
    exec (.fence o m) s = .next (u.moved r fun _ => nextSlot r.pc)
    ∧ (rel → m.scope ≠ .lane → ∀ x ∈ u.writes, x ∈ s.writes ∧ ¬mine x)

/-- FWAIT lets its lanes go on, and clears the tag of its s-register, when the operations of their handles have
completed with success; otherwise the lanes wait, or raise FUTURE_FAILED with the status word, or OBJECT for a handle
of no context. FTEST gives the status word or its DONE bit without waiting. A lane that goes on so, or is told that
the operation failed, or that its status is DONE, or reads a counter, knows the writes that happen-before the
completions up to that number or count, or before that one completion when the counter has not passed it (R133).
FCANCEL completes an operation that has not started with code 7, counts it, and gives true, and false for any other,
and its helper lanes cancel nothing. TLRD.CNT gives the counter of a timeline name and TLRD.NAME the name of a
handle's context; TLWAIT lets lanes go on when the counter has reached the value or the name is released, and
otherwise they wait. Completion passes a counter over the numbers completed without a gap. The model's own choices and
readings in it: assumptions 17, 18 and 37 of the log (R133, R236, R237, R238, R239, R241, R242, R243). -/
def Obligations.FuturesAndTimelines : Prop :=
  let h := fun (r : Run) (l : Nat) => r.rd64 .zero l r.o.a
  let name := fun (kind ldie idx : Nat) (alloc : W32) =>
    (BitVec.ofNat 3 kind ++ BitVec.ofNat 3 ldie ++ BitVec.ofNat 13 idx ++ alloc ++ (0 : BitVec 13) : W64)
  let reach := fun (counter v : Nat) => (counter + 2 ^ 56 - v % 2 ^ 56) % 2 ^ 56 < 2 ^ 55
  let seen := fun (r : Run) (ls : List Nat) (s : State) =>
    ls.foldl (fun t l => t.observe r.g (handleCtx (h r l)) (handleSeq (h r l)) r.gid r.w [l]) s
  let told := fun (r : Run) (e : Nat → ECtx) (ls : List Nat) (s : State) => ls.foldl (fun t l =>
    if handleSeq (h r l) = 0 ∨ reach (e l).counter (handleSeq (h r l)) then
      t.observe r.g (handleCtx (h r l)) (handleSeq (h r l)) r.gid r.w [l]
    else t.acquireDone r.g.die (engineNo r.g (handleCtx (h r l))) (e l).alloc.toNat (· == handleSeq (h r l))
      [.lane r.gid r.w l]) s
  let heard := fun (r : Run) (s : State) =>
    r.act.foldl (fun t l => t.observeTimeline r.g.ctx (h r l) (.lane r.gid r.w l)) s
  (∀ (o : Ops) (s : State) (r : Run) (e : Nat → ECtx), Begins (.fwait o) s r → Fresh r →
    let seq := fun l => handleSeq (h r l)
    let done := fun l => seq l = 0 ∨ reach (e l).counter (seq l)
    let u := if isS o.a = true ∧ r.act ≠ [] then s.modWarp r.gid r.w fun w => w.untag (sNum o.a) else s
    (isS o.a = true → (s.warp r.gid r.w).getS (sNum o.a) = r.snap.getS (sNum o.a)) →
    (r.act = r.ls → (∀ l ∈ r.act, s.ectx r.g (handleCtx (h r l)) = none) →
      exec (.fwait o) s = .next (u.faults r fun l => { code := .object, s45 := h r l }))
    ∧ ((∀ l ∈ r.act, s.ectx r.g (handleCtx (h r l)) = some (e l)) →
      (Calm s r → (∀ l ∈ r.act, done l ∧ (e l).failed (seq l) = false) →
        exec (.fwait o) s = .next ((seen r r.act u).moved r fun _ => nextSlot r.pc))
      ∧ (r.act = r.ls → (∀ l ∈ r.act, done l ∧ (e l).failed (seq l) = true) →
        exec (.fwait o) s = .next ((seen r r.act u).faults r fun l =>
          { code := .futureFailed, s45 := ((e l).status (seq l)).zeroExtend 64 }))
      ∧ (r.act = r.ls → r.d.isDuet = false → (∀ l ∈ r.act, ¬done l) →
        exec (.fwait o) s = .next (s.waiting r fun l => .future (h r l)))))
  ∧ (∀ (o : Ops) (m : FlagMod) (s : State) (r : Run) (e : Nat → ECtx), Begins (.ftest o m) s r → Calm s r →
    (∀ l ∈ r.act, s.ectx r.g (handleCtx (h r l)) = some (e l)) →
    let finished := r.act.filter fun l => decide (handleSeq (h r l) = 0 ∨ reach (e l).counter (handleSeq (h r l))
      ∨ handleSeq (h r l) ∈ (e l).done)
    let word := fun l => let n := handleSeq (h r l)
      if n = 0 ∨ reach (e l).counter n ∨ n ∈ (e l).done then
        ((((e l).statuses.find? fun p => p.1 == n).map (·.2)).getD 0) ||| 0x80000000#32 else 0
    ∃ t, exec (.ftest o m) s = .next t ∧ Completes (told r e finished s) t r false (r.dst (if m.b then .pred else .dstV)) fun l =>
      if m.b then .bool ((word l).getLsbD 31) else .ofVal ((word l).zeroExtend 64))
  ∧ (∀ (o : Ops) (s : State) (r : Run), Begins (.fcancel o) s r → Calm s r → r.g.res = .resident →
    (∀ l ∈ r.act, (s.ectx r.g (handleCtx (h r l))).isSome = true) →
    let open_ := fun (u : State) (l : Nat) =>
      u.ops.find? fun x => x.is r.gid r.g (handleCtx (h r l)) (handleSeq (h r l)) && !x.started
    let u := r.act.foldl (fun (acc : State × (Nat → Bool)) l => match open_ acc.1 l with
      | some x => if (r.snap.lane l).st = .real then ((acc.1.addStat x).completeOp x 7, fun k => if k = l then true else acc.2 k) else acc
      | none => acc) (s, fun _ => false)
    ∃ t, exec (.fcancel o) s = .next t ∧ Completes u.1 t r false (r.dst .pred) fun l => .bool (u.2 l))
  ∧ (∀ (o : Ops) (s : State) (r : Run) (n : Nat → Nat), Issues (.tlrdCnt o) s r → Calm s r →
    (∀ l ∈ r.act, s.timeline r.g.ctx (h r l) = .counter (n l)) →
    ∃ t, exec (.tlrdCnt o) s = .next t ∧ Completes (heard r s) t r false (r.dst .dst64) fun l => .ofVal (BitVec.ofNat 64 (n l)))
  ∧ (∀ (o : Ops) (s : State) (r : Run) (e : Nat → ECtx), Issues (.tlrdName o) s r → Calm s r →
    (∀ l ∈ r.act, s.ectx r.g (handleCtx (h r l)) = some (e l)) →
    ∃ t, exec (.tlrdName o) s = .next t ∧ Completes s t r false (r.dst .dst64) fun l =>
      let c := handleCtx (h r l)
      .ofVal (if c < 0x40 then name 0 r.g.ldie (r.g.copyCtxs.getD c 0) (e l).alloc else name 1 r.g.ldie (c - 0x40) 0))
  ∧ (∀ (o : Ops) (s : State) (r : Run), Issues (.tlwait o) s r → Fresh r →
    let v := fun l => r.rd64 .zero l o.b
    (Calm s r → (∀ l ∈ r.act, s.timeline r.g.ctx (h r l) = .released
        ∨ ∃ n, s.timeline r.g.ctx (h r l) = .counter n ∧ reach n (v l).toNat) →
      exec (.tlwait o) s = .next ((heard r s).moved r fun _ => nextSlot r.pc))
    ∧ (r.act = r.ls → r.d.isDuet = false →
      (∀ l ∈ r.act, ∃ n, s.timeline r.g.ctx (h r l) = .counter n ∧ ¬reach n (v l).toNat) →
      exec (.tlwait o) s = .next (s.waiting r fun l => .timeline (h r l) (v l)))
    ∧ (r.act = r.ls → ∀ f : Nat → Flt, (∀ l ∈ r.act, s.timeline r.g.ctx (h r l) = .fault (f l)) →
      exec (.tlwait o) s = .next (s.faults r f)))
  ∧ (∀ (s : State) (c ldie d idx : Nat) (alloc : W32), ldie < 8 → s.phys c ldie = some d →
    (idx < 4608 → ∀ e i, mapGet (s.die d).copyCtx idx = some e → e.holder = some (c, i) →
      s.timeline c (name 0 ldie idx alloc) = if e.alloc = alloc then .counter e.counter else .released)
    ∧ (idx < 64 → ((((s.ctx c).map Ctx.scrim).getD 0).getLsbD idx = true) →
      ∀ e, mapGet (s.die d).scrimCtx idx = some e → s.timeline c (name 1 ldie idx 0) = .counter e.counter)
    ∧ (idx < 256 → ∀ q, mapGet s.lqs (c * 256 + idx) = some q → s.timeline c (name 2 ldie idx 0) = .counter q.counter))
  ∧ ∀ (e : ECtx) (seq : Nat) (st : W32),
    ((e.complete seq st).statuses.head? = some (seq, st ||| 0x80000000#32))
    ∧ (seq = e.counter + 1 → e.done = [] → (e.complete seq st).counter = seq ∧ (e.complete seq st).done = [])
    ∧ (e.counter + 1 ≠ seq → e.counter + 1 ∉ e.done →
      (e.complete seq st).counter = e.counter ∧ (e.complete seq st).done = e.done ++ [seq])

/-- RINGI initialises a quiescent ring, or releases it, once for the run with the operands of its lowest real lane,
after that lane's earlier stores have reached their homes, and does nothing for helpers alone. RINGP.TAKE claims one
slot for each issuing real lane in turn (into an s-register, one for its lowest issuing lane), 0 for helpers, and when
the ring is full its lanes wait. RINGP.FILL and RINGR mark each real lane's slot, and FILLED or FREED passes over the
marks without a gap, after the lane's earlier stores have reached their homes. RINGW writes the slot index and the
phase once the slot is filled, and otherwise waits. A lane that claims a slot or finds one filled knows what those
knew who released or filled it (R133). Misuse raises RING_MISUSE with its detail. The model's own choices and readings
in it: assumptions 17, 19, 82, 91, 92 and 95 of the log (R133, R244, R245, R246, R247, R248, R249, R250, R251). -/
def Obligations.StageRings : Prop :=
  let misuse := fun (d : Nat) => ({ code := .ringMisuse, s45 := BitVec.ofNat 64 d } : Flt)
  let reals := fun (r : Run) => r.act.filter fun l => (r.snap.lane l).isReal
  let named := fun (s : State) (r : Run) (x : RingAt) (y : Ring) =>
    ∀ l ∈ r.act, s.useRing r.gid r.g (r.rd32 l r.o.a) = .ok (x, y)
  let num := fun (r : Run) (l : Nat) => (r.rd64 .zero l r.o.b).toNat
  let marked := fun (s : State) (r : Run) (x : RingAt) (y : Ring) (f : Ring → Nat → Ring) =>
    ((reals r).foldl (fun (acc : State × Ring) l =>
      ((((acc.1.drainMask r.gid r.w (oneLane l)).learn (.lane r.gid r.w l) [x.agent]).setRing x
        (some (f acc.2 (num r l)))), f acc.2 (num r l))) (s, y)).1
  let learnt := fun (r : Run) (x : RingAt) (ls : List Nat) (s : State) =>
    ls.foldl (fun t l => t.learn x.agent [.lane r.gid r.w l]) s
  (∀ (o : Ops) (s : State) (r : Run), Issues (.ringi o) s r → Calm s r → r.lead = none →
    exec (.ringi o) s = .next (s.moved r fun _ => nextSlot r.pc))
  ∧ (∀ (o : Ops) (s : State) (r : Run) (l : Nat) (x : RingAt), Issues (.ringi o) s r → r.lead = some l →
    let nm := r.rd32 l o.a
    let cfg := r.rd32 l o.c
    let size := (cfg.extractLsb' 8 20).toNat
    let k := (cfg.extractLsb' 0 4).toNat
    let base := if nm.getLsbD 31 then r.rd64 .zero l o.b else (r.rd32 l o.b).zeroExtend 64
    let legal := cfg.extractLsb' 28 4 = 0 ∧ cfg.extractLsb' 4 4 = 0 ∧ size ≠ 0 ∧ size % 16 = 0 ∧ k ≤ 8
    let fits := if nm.getLsbD 31 then
        ∃ e a, s.capEntry r.g.ctx base [.loft] = some e ∧ e.ldie = (nm.extractLsb' 28 3).toNat
          ∧ s.checkCap r.g.ctx base (capOff base) (size * 2 ^ k) (rightRD ||| rightWR) [.loft] false false = .ok (e, a)
          ∧ s.heldLen r.g.die r.g.core r.g.ctx (capObj base) e = e.len
      else base.toNat + size * 2 ^ k ≤ r.d.shared
    let idle := ∀ y, s.ringOf x = some y → y.claimed = y.freed ∧ y.owner = r.g.ctx ∧ s.ringAwaited x = false
    r.baseOk l = true → s.ringAt r.gid r.g nm = .ok x →
    (Calm s r → idle → cfg = 0 →
      exec (.ringi o) s = .next (((s.drainMask r.gid r.w (oneLane l)).setRing x none).moved r fun _ => nextSlot r.pc))
    ∧ (Calm s r → idle → cfg ≠ 0 → legal → fits →
      exec (.ringi o) s = .next ((((s.drainMask r.gid r.w (oneLane l)).setRing x (some
        { k := k, size := size, base := base, claimed := 0, filled := 0, freed := 0, fillMarks := [], freeMarks := []
          owner := r.g.ctx })).holdCaps r.g (if nm.getLsbD 31 then [base] else [])).moved r fun _ => nextSlot r.pc))
    ∧ (r.act = r.ls → ¬idle → exec (.ringi o) s = .next (s.faults r fun _ => misuse 2))
    ∧ (r.act = r.ls → idle → cfg ≠ 0 → ¬legal → exec (.ringi o) s = .next (s.faults r fun _ => misuse 8)))
  ∧ (∀ (o : Ops) (s : State) (r : Run) (x : RingAt) (y : Ring), Issues (.ringpTake o) s r → Fresh r → named s r x y →
    let lead := match r.act with | [] => false | l :: _ => (r.snap.lane l).isReal
    let n := if isS o.d then (if lead then 1 else 0) else (reals r).length
    let slot := fun l => if isS o.d then (if lead then y.claimed else 0)
      else if (r.snap.lane l).isReal then y.claimed + ((reals r).filter (· < l)).length else 0
    (Calm s r → y.claimed + n ≤ y.freed + 2 ^ y.k → y.freed ≤ y.claimed →
      ∃ t, exec (.ringpTake o) s = .next t ∧ Completes (learnt r x (if isS o.d then r.act.take 1 else r.act)
          (if n = 0 then s else s.setRing x (some { y with claimed := y.claimed + n }))) t.nextStamp r
        false (r.dst .dst64) fun l => .ofVal (BitVec.ofNat 64 (slot l)))
    ∧ (r.act = r.ls → r.d.isDuet = false → reals r = r.ls → y.claimed = y.freed + 2 ^ y.k →
      exec (.ringpTake o) s = .next (s.waiting r fun l => .ringp (r.rd32 (if isS o.d then r.act.headD 0 else l) o.a))))
  ∧ (∀ (o : Ops) (s : State) (r : Run) (x : RingAt) (y : Ring), Issues (.ringpFill o) s r → named s r x y →
    let bad := fun l => y.claimed ≤ num r l ∨ num r l < y.filled ∨ num r l ∈ y.fillMarks
    (Calm s r → (∀ l ∈ reals r, ¬bad l) → (∀ l ∈ reals r, ∀ k ∈ reals r, num r l = num r k → l = k) →
      exec (.ringpFill o) s = .next ((marked s r x y Ring.fill).moved r fun _ => nextSlot r.pc))
    ∧ (r.act = r.ls → (∀ l ∈ r.ls, (r.snap.lane l).isReal = true ∧ bad l) →
      exec (.ringpFill o) s = .next (s.faults r fun _ => misuse 3)))
  ∧ (∀ (o : Ops) (s : State) (r : Run) (x : RingAt) (y : Ring), Issues (.ringr o) s r → named s r x y →
    let bad := fun l => y.filled ≤ num r l ∨ num r l < y.freed ∨ num r l ∈ y.freeMarks
    (Calm s r → (∀ l ∈ reals r, ¬bad l) → (∀ l ∈ reals r, ∀ k ∈ reals r, num r l = num r k → l = k) →
      exec (.ringr o) s = .next ((marked s r x y Ring.release).moved r fun _ => nextSlot r.pc))
    ∧ (r.act = r.ls → (∀ l ∈ r.ls, (r.snap.lane l).isReal = true ∧ bad l) →
      exec (.ringr o) s = .next (s.faults r fun _ => misuse 4)))
  ∧ (∀ (o : Ops) (m : RingwMod) (s : State) (r : Run) (x : RingAt) (y : Ring), Issues (.ringw o m) s r → Fresh r →
    named s r x y →
    (Calm s r → (∀ l ∈ r.act, y.freed ≤ num r l ∧ num r l < y.filled) →
      ∃ t, exec (.ringw o m) s = .next t ∧ Completes (learnt r x r.act (s.modWarp r.gid r.w fun w =>
          w.modLanes (maskOf r.act) fun l z => z.setP m.k.toNat (decide (num r l / 2 ^ y.k % 2 = 1)))) t.nextStamp r false (r.dst .dstV)
        fun l => .ofVal (BitVec.ofNat 64 (num r l % 2 ^ y.k)))
    ∧ (r.act = r.ls → r.d.isDuet = false → (∀ l ∈ r.act, y.freed ≤ num r l ∧ y.filled ≤ num r l) →
      exec (.ringw o m) s = .next (s.waiting r fun l => .ringw (r.rd32 l o.a) (BitVec.ofNat 64 (num r l))))
    ∧ (r.act = r.ls → (∀ l ∈ r.act, num r l < y.freed) → exec (.ringw o m) s = .next (s.faults r fun _ => misuse 5)))
  ∧ ∀ (y : Ring) (n : Nat),
    (y.filled ≤ n → n ∉ y.fillMarks → let z := y.fill n
      z = { y with filled := z.filled, fillMarks := z.fillMarks } ∧ y.filled ≤ z.filled ∧ z.filled ≠ n
      ∧ z.filled ∉ y.fillMarks ∧ ∀ k, y.filled ≤ k → k < z.filled → k = n ∨ k ∈ y.fillMarks)
    ∧ (y.freed ≤ n → n ∉ y.freeMarks → let z := y.release n
      z = { y with freed := z.freed, freeMarks := z.freeMarks } ∧ y.freed ≤ z.freed ∧ z.freed ≠ n
      ∧ z.freed ∉ y.freeMarks ∧ ∀ k, y.freed ≤ k → k < z.freed → k = n ∨ k ∈ y.freeMarks)

/-- CUEB, for its lowest real lane, reads 96 bytes at an aligned place of shared memory or a reachable loft object,
whose core's object cache then holds the object, after the lane's SO writes where the object is SO (R142) and after
its own atomics there, as one memory request, and when they pass the checks seals them under the lowest free handle of
the context, which lands; a record that breaks a check lands CUE_INVALID with its detail, and detail 9 when every
handle is in use. CUEF frees a sealed handle, and raises CUE_INVALID 10 for another. A run of helpers only advances.
XSTAT gives the duet split, the counts of a scrim context, the die map, the hops and the own bank record, and clears
what it returns when told to. The model's own choices and readings in it: assumptions 20, 31 and 38 of the log (R142,
R318, R319, R365, R373, R380, R388). -/
def Obligations.CuesAndScrimStatus : Prop :=
  let invalid := fun (d : Nat) => ({ code := .cueInvalid, s45 := BitVec.ofNat 64 d } : Flt)
  (∀ (o : Ops) (m : FlagMod) (s : State) (r : Run), Issues (.cueb o m) s r → Calm s r →
    (r.lead = none → exec (.cueb o m) s = .next (s.moved r fun _ => nextSlot r.pc))
    ∧ ∀ (l : Nat) (sp : Space) (a : Nat), r.lead = some l → ∀ (so : Bool),
      let v := State.settleOwn (if so then s.drainSo r.gid r.w l else s) (.lane r.gid r.w l) sp a 96
      v.badRead sp a 96 = false →
      (if m.b then ∃ e a' d, s.checkCap r.g.ctx (r.reals.rd64 .zero l o.a)
            (capOff (r.reals.rd64 .zero l o.a) + o.imm.toInt) 96 rightRD [.loft] false false = .ok (e, a')
            ∧ e.placed = some d ∧ sp = .loft d ∧ a = e.base + a' ∧ a' % 16 = 0 ∧ (s.hops r.g.die d).isSome = true
            ∧ (so = true ↔ e.ord = .so)
            ∧ s.heldLen r.g.die r.g.core r.g.ctx (capObj (r.reals.rd64 .zero l o.a)) e = e.len
        else so = false ∧ sp = .shared r.gid ∧ ((r.reals.rd32 l o.a).toNat : Int) + o.imm.toInt = a ∧ a + 96 ≤ r.d.shared
          ∧ a % 16 = 0) →
      let bs := v.readLane r.gid r.w l 0 sp a 96
      let v := State.noteRead { v with loads := v.loads ++ [
          { id := s.stamp, gid := r.gid, warp := r.w, lane := l, space := sp, addr := a, bytes := 96, signed := false
            fixed := true }] }
        (.lane r.gid r.w l) sp a 96 none
      let kept := fun u : State => if m.b then u.holdCaps r.g [r.reals.rd64 .zero l o.a] else u
      let lands := fun (u : State) (x : Res) => ∃ t, exec (.cueb o m) s = .next t
        ∧ Opens (kept u) t r false (r.dst .dstS) false fun _ => x
      ((cueOf bs).check ≠ 0 → lands v { val := 0, late := some (invalid (cueOf bs).check) })
      ∧ ∀ c, v.ctx r.g.ctx = some c → (cueOf bs).check = 0 →
        ((∀ i, i < 256 → (mapGet c.cues i).isSome = true) → lands v { val := 0, late := some (invalid 9) })
        ∧ ∀ h, h < 256 → mapGet c.cues h = none → (∀ i, i < h → (mapGet c.cues i).isSome = true) →
          lands (v.modCtx r.g.ctx fun c => { c with cues := mapSet c.cues h bs }) (.ofVal (BitVec.ofNat 64 h)))
  ∧ (∀ (o : Ops) (s : State) (r : Run) (c : Ctx), Issues (.cuef o) s r → s.ctx r.g.ctx = some c →
    (Calm s r → r.lead = none → exec (.cuef o) s = .next (s.moved r fun _ => nextSlot r.pc))
    ∧ ∀ l, r.lead = some l →
      let h := (r.rd64 .zero l o.a).toNat
      (Calm s r → (mapGet c.cues h).isSome = true → exec (.cuef o) s = .next ((s.modCtx r.g.ctx fun c =>
        { c with cues := mapErase c.cues h }).moved r fun _ => nextSlot r.pc))
      ∧ (r.act = r.ls → mapGet c.cues h = none → exec (.cuef o) s = .next (s.faults r fun _ => invalid 10)))
  ∧ ∀ (o : Ops) (m : XstatMod) (s : State) (r : Run), Issues (.xstat o m) s r → Calm s r → r.act ≠ [] →
    let a := (r.rd64 .zero (r.act.headD 0) o.a).toNat
    let sel := m.sel.toNat
    let stat := (mapGet (s.die r.g.die).scrimStat a).getD { sent := 0, sat := 0, nan := 0 }
    let gives := fun (u : State) (v : W64) => ∃ t, exec (.xstat o m) s = .next t
      ∧ Completes u t r false (r.dst .dst64) fun _ => .ofVal v
    let bit := fun b : Bool => if b then (1 : W64) else 0
    (sel = 0 → gives (if m.clr = true ∧ r.d.isDuet = true then s.setSplit r.g false else s)
      (bit (r.d.isDuet && s.split r.g)))
    ∧ (1 ≤ sel → sel ≤ 3 → s.scrimOwned r.g.ctx a = true →
      let left : ScrimStat := { sent := if sel = 1 then 0 else stat.sent, sat := if sel = 2 then 0 else stat.sat
                                nan := if sel = 3 then 0 else stat.nan }
      gives (if m.clr then s.modDie r.g.die fun d => { d with scrimStat := mapSet d.scrimStat a left } else s)
        (BitVec.ofNat 64 (if sel = 1 then stat.sent else if sel = 2 then stat.sat else stat.nan)))
    ∧ (sel = 4 → gives s (BitVec.ofNat 64 (leNat ((List.range 8).map fun d =>
        BitVec.ofNat 8 ((s.phys r.g.ctx d).getD 0xFF)))))
    ∧ (sel = 5 → ∀ p, a < 8 → s.phys r.g.ctx a = some p →
      gives s (match s.hops r.g.die p with | some n => BitVec.ofNat 64 n | none => BitVec.allOnes 64))
    ∧ (sel = 6 → ∀ p, a < 2048 → s.phys r.g.ctx (a / 256) = some p →
      gives s (match s.bankRec r.g.ctx p (a % 256) with
        | none => 0
        | some b => BitVec.ofNat 64 (brSh b * 2 ^ 32 + brM b * 2 ^ 24 + brK b * 2 ^ 16 + 4
            + (if brBf b then 2 else 0) + brRole b)))

/-- When their checks pass, CPY, CPYG, CPYX, REDST, CROSS, CROSSB and XBANK, once for the run with the operands of its
lowest real lane, append an operation with the next number of the context named and a handle of that context and
number lands, future-tagged, in the destination, after the lane's earlier stores have reached their homes, so that
what happens-before the issue is known to the operation (R133); a run of helpers receives an untagged 0. An unsealed
cue, a cue of another mode, a context that is not allotted, and a capability that names no loft object raise
CUE_INVALID 11 or 12 or OBJECT. The model's own choices and readings in it: assumption 30 of the log (R18, R133, R237,
R239, R321, R324, R383, R384, R386, R387). -/
def Obligations.EngineIssue : Prop :=
  let starts := fun (i : Instr) (s : State) (r : Run) (l c : Nat) (kind : OpKind) (ring : W32) (banks : List (Nat × Nat)) =>
    let seq := ((s.ectx r.g c).map ECtx.next).getD 1
    let u := (s.drain (·.byLane r.gid r.w l)).nextStamp
    let x : Op :=
      { id := u.stamp, gid := r.gid, ctx := r.g.ctx, node := r.g.node, die := r.g.die, ldie := r.g.ldie, core := r.g.core
        ectx := c, seq := seq, kind := kind, started := false, parked := false, moved := false, slots := [], ring := ring
        status := 0, stats := { sent := 0, sat := 0, nan := 0 }, wrote := [], banks := banks, prog := none, record := [] }
    let v := (u.issueEdge r l [.op u.stamp r.gid]).modEctx r.g c fun e => { e with next := e.next + 1 }
    ∃ t, exec i s = .next t ∧ Opens { v.nextStamp with ops := v.ops ++ [x] } t r false (r.dst .dstS) true fun _ =>
      .ofVal (BitVec.ofNat 8 c ++ BitVec.ofNat 56 seq)
  let helpers := fun (i : Instr) => ∀ (s : State) (r : Run), Issues i s r → Calm s r → r.lead = none →
    ∃ t, exec i s = .next t ∧ Opens s t r false (r.dst .dstS) false fun _ => .ofVal 0
  let copies := fun (i : Instr) (c : Nat) (fits : Cue → Prop) (kind : Run → Nat → List Byte → OpKind) =>
    helpers i ∧ ∀ (s : State) (r : Run) (l : Nat), Issues i s r → r.lead = some l →
      let q := r.reals
      let cue := fun bs : List Byte => (s.ctx r.g.ctx).bind (fun x => mapGet x.cues (q.rd64 .zero l r.o.c).toNat) = some bs
      (∀ bs, Calm s r → cue bs → (s.ectx r.g c).isSome = true → ((cueOf bs).rg = true ↔ r.o.a = 0xF0) → fits (cueOf bs) →
        ((cueOf bs).rg = true → ∃ x h, s.ringAt r.gid r.g (cueOf bs).ring = .ok x ∧ s.ringOf x = some h
          ∧ h.owner = r.g.ctx ∧ (cueOf bs).minUnit ≤ h.size - 8) →
        starts i s r l c (kind q l bs) (if (cueOf bs).rg then (cueOf bs).ring else 0) [])
      ∧ (r.act = r.ls → (s.ectx r.g c).isSome = true →
        (s.ctx r.g.ctx).bind (fun x => mapGet x.cues (q.rd64 .zero l r.o.c).toNat) = none →
        exec i s = .next (s.faults r fun _ => { code := .cueInvalid, s45 := 11 }))
      ∧ (∀ bs, r.act = r.ls → cue bs → ((cueOf bs).rg = true ↔ r.o.a = 0xF0) → s.ectx r.g c = none →
        exec i s = .next (s.faults r fun _ => { code := .object, s45 := BitVec.ofNat 64 c }))
      ∧ (∀ bs, r.act = r.ls → cue bs → ((cueOf bs).rg = true ↔ r.o.a = 0xF0) → (s.ectx r.g c).isSome = true →
        ¬fits (cueOf bs) → exec i s = .next (s.faults r fun _ => { code := .cueInvalid, s45 := 12 }))
  let copy := fun (m : CopyMod) (mode : Nat) (r : Run) (l : Nat) (bs : List Byte) =>
    OpKind.copy mode (r.rd64 .zero l r.o.a) (r.rd64 .zero l r.o.b) bs m.recGen m.sameGen
  let crossing := fun (i : Instr) (m : CrossMod) (back : Bool) =>
    helpers i ∧ ∀ (s : State) (r : Run) (l : Nat) (p : Nat) (a b : List Byte), Issues i s r → Calm s r → r.lead = some l →
      let q := r.reals
      let src := if m.loft then q.rd64 .zero l r.o.a else (q.rd32 l r.o.a).zeroExtend 64
      let d := q.rd64 .zero l r.o.b
      let role := if back then 1 else 0
      d.getLsbD 47 = false → d.extractLsb' 32 6 = 0 → 1 ≤ dNvec d → dNvec d ≤ 256 →
      s.scrimOwned r.g.ctx m.ctx.toNat = true → (m.loft = true → (s.capEntry r.g.ctx src [.loft]).isSome = true) →
      s.phys r.g.ctx (dDie d) = some p → s.bankRec r.g.ctx r.g.die (dLbank d) = some a →
      s.bankRec r.g.ctx p (dRbank d) = some b → brRole a = role → brRole b ≠ role → brBf a = brBf b → brK a = brK b →
      brM a = brM b → brK a * (if back ∨ brBf a = true then 2 else 1) ≤ dVpitch d →
      (back = false → if brBf a then brM a + 1 ≤ brK a else 2 * brM a ≤ brK a) →
      starts i s r l (0x40 + m.ctx.toNat) (.cross back m.loft m.keepy src d) (loftRing (dDie d) (dRidx d))
        [(r.g.die, dLbank d), (p, dRbank d)]
  (∀ (o : Ops) (m : CopyMod),
    copies (.cpy o m) m.ctx.toNat (fun c => c.mode = 0) (copy m 0)
    ∧ copies (.cpyg o m) m.ctx.toNat (fun c => c.mode = 1) (copy m 1)
    ∧ copies (.cpyx o m) m.ctx.toNat (fun c => c.mode = 2) (copy m 2))
  ∧ (∀ (o : Ops) (m : RedstMod), helpers (.redst o m)
    ∧ ∀ (s : State) (r : Run) (l : Nat) (bs : List Byte) (e : ECtx), Issues (.redst o m) s r → r.lead = some l →
      let q := r.reals
      (s.ctx r.g.ctx).bind (fun x => mapGet x.cues (q.rd64 .zero l o.c).toNat) = some bs → s.ectx r.g m.ctx.toNat = some e →
      (cueOf bs).rg = false → o.a ≠ 0xF0 → (cueOf bs).mode = 3 → (cueOf bs).sfmt = typeCode m.ty →
      (cueOf bs).dfmt = typeCode m.ty →
      (Calm s r → r.d.isRehearsal = false → starts (.redst o m) s r l m.ctx.toNat (.redst m.op m.ty
        (if m.tag then r.snap.getS (sNum o.d + 1) else 0) (q.rd64 .zero l o.a) (q.rd64 .zero l o.b) bs) 0 [])
      ∧ (r.act = r.ls → r.d.isRehearsal = true →
        exec (.redst o m) s = .next (s.faults r fun _ => { code := .rehearsal, s45 := 0 })))
  ∧ (∀ (o : Ops) (m : CrossMod), crossing (.cross o m) m false ∧ crossing (.crossb o m) m true)
  ∧ ∀ (o : Ops) (m : XbankMod), helpers (.xbank o m)
    ∧ ∀ (s : State) (r : Run) (l p : Nat), Issues (.xbank o m) s r → r.lead = some l →
      let cap := r.reals.rd64 .zero l o.a
      let b := (r.reals.rd32 l o.b).toNat
      b < 2048 → s.scrimOwned r.g.ctx m.ctx.toNat = true → s.phys r.g.ctx (b / 256) = some p →
      (Calm s r → (s.capEntry r.g.ctx cap [.loft]).isSome = true →
        starts (.xbank o m) s r l (0x40 + m.ctx.toNat) (.xbank cap (b % 256) p) 0 [])
      ∧ (r.act = r.ls → s.capEntry r.g.ctx cap [.loft] = none →
        exec (.xbank o m) s = .next (s.faults r fun _ => { code := .object, s45 := cap }))

/-- A copy that may start, or go on, runs to its end or for so many accesses: a one-dimensional copy without stages
within shared memory, with no write on its way, sends the source's bytes on their way to the destination, where
outside a rehearsal launch they may still be read as they arrive (R126), and writes nothing else; and any copy or
REDST ends with the result and status of its run, pauses with a record of what it has done, or parks on the page it
misses with that record, a walk and a notice to the host; one that may not start is left as it is. A claim takes the
next slot of the ring, writes the pieces, which must fit before the trailer, the trailer with DONE and the byte count,
and fills the slot. When an operation completes, its writes are at their homes, the objects it wrote gain one in GEN,
its context records its number and status, who observes the context knows what it did, and it is gone; a remote grid
copy completes by its own event. The model's own choices and readings in it: assumptions 21, 22 and 26 of the log
(R99, R126, R133, R237, R252, R296, R316, R321, R328, R432). -/
def Obligations.CopyEvents : Prop :=
  let done := fun (s : State) (x : Op) (w : W32) (g : Group) =>
    let t := State.modEctx { x.wrote.foldl (fun s p => s.bumpGen p.1 p.2) s with
        ops := s.ops.filter fun y => y.id != x.id, walks := s.walks.filter fun w => w.who != Walker.op x.id }
      g x.ectx fun e => e.complete x.seq w
    let alloc := ((s.ectx g x.ectx).map (·.alloc.toNat)).getD 0
    (t.learn x.agent [.done g.die (engineNo g x.ectx) alloc x.seq, .grid x.ctx x.node]).unlearn x.agent
  let put := fun (x : Op) (a : Nat) (bs : List Byte) (s : State) =>
    (s.commit { id := 0, by_ := x.agent, space := .shared x.gid, addr := a, old := [], ord := .rc, rels := []
                known := [x.agent], wide := [], ctx := x.ctx, node := x.node } bs).1
  let kept := fun (j : Job) (parked : Bool) => j.s.modOp j.x.id fun y =>
    { y with started := true, parked := parked, slots := j.x.slots, wrote := j.x.wrote
             prog := j.ends.map fun e => { ends := e, log := j.log } }
  let ended := fun (j : Job) => j.s.modOp j.x.id fun y =>
    { y with started := true, moved := true, slots := j.x.slots, wrote := j.x.wrote, prog := none
             status := if y.status = 0 then j.st else y.status }
  (∀ (id : Nat) (upto : Option Nat) (s : State) (x : Op), s.op id = some x →
    (s.canStart x = false → exec (.copyStart ⟨id, upto⟩) s = .next s)
    ∧ (s.canStart x = true →
      (∀ (mode : Nat) (dst src : W64) (q : List Byte) (g : Group), x.kind = .copy mode dst src q false false →
        let c := cueOf q
        let n := c.e0 * fmtBits c.sfmt / 8
        c.check = 0 → c.nstage = 0 → c.dims = 1 → c.mode = 0 → c.rg = false → c.gx = false → capObj c.auxb = 0 →
        s.group x.gid = some g → capObj dst = 0xFFFFF → capObj src = 0xFFFFF → capOff dst + n ≤ (s.desc g).shared →
        capOff src + n ≤ (s.desc g).shared → s.badRead (.shared x.gid) (capOff src) n = false →
        x.slots = [] → x.prog = none → upto = none → (∀ w ∈ s.writes, w.agent ≠ x.agent) →
        let t := s.noteRead x.agent (.shared x.gid) (capOff src) n none
        exec (.copyStart ⟨id, upto⟩) s = .next (State.modOp { t with writes := t.writes ++
            [{ cycle := x.id, gid := x.gid, warp := 0, lane := 0, op := some x.id, space := .shared x.gid, addr := capOff dst
               bytes := s.readAs x.agent (s.keyOf x.ctx) (.shared x.gid) (capOff src) n, ord := .rc, release := false
               rels := [], seen := false, obj := none, ctx := x.ctx, node := x.node, rmw := none,
               late := if ((s.node x.ctx x.node).any fun z => z.desc.isRehearsal) = true then []
                 else [(.shared x.gid, capOff src, n)] }] } id fun y =>
          { y with started := true, moved := true, slots := [], wrote := x.wrote, prog := none }))
      ∧ (∀ (op : RedOp) (t : NumType) (tag dst src : W64) (q : List Byte) (j : Job), x.kind = .redst op t tag dst src q →
        s.runRedst x upto (cueOf q) op t tag dst src = .ok j → exec (.copyStart ⟨id, upto⟩) s = .next (ended j))
      ∧ (∀ (mode : Nat) (dst src : W64) (q : List Byte) (a b : Bool) (j : Job), x.kind = .copy mode dst src q a b →
        s.runCopy x upto (cueOf q) dst src a b = .ok j → (cueOf q).gx = false →
        exec (.copyStart ⟨id, upto⟩) s = .next (ended j))
      ∧ ∀ (mode : Nat) (dst src : W64) (q : List Byte) (a b : Bool) (j : Job), x.kind = .copy mode dst src q a b →
        (s.runCopy x upto (cueOf q) dst src a b = .error (none, j) →
          exec (.copyStart ⟨id, upto⟩) s = .next (kept j false))
        ∧ ∀ va, s.runCopy x upto (cueOf q) dst src a b = .error (some va, j) →
          exec (.copyStart ⟨id, upto⟩) s = .next { kept j true with
            walks := j.s.walks ++ [{ who := .op id, ctx := x.ctx, va := va }]
            notices := j.s.notices ++ [.pageAbsent x.ctx va] }))
  ∧ (∀ (id : Nat) (s : State) (x : Op) (g : Group) (i : Nat) (h : Ring) (bs : List Byte) (rest : List Slot),
    s.op id = some x → x.kind.isCopy = true → s.group x.gid = some g → bs ≠ [] →
    x.slots = { pieces := [(0, bs)], count := bs.length, status := 0 } :: rest →
    s.ringAt x.gid g x.ring = .ok (.group x.gid i) → mapGet g.rings i = some h →
    let p := h.base.toNat + h.claimed % 2 ^ h.k * h.size
    let ring := fun (h : Ring) (s : State) => s.setRing (.group x.gid i) (some h)
    (h.claimed - h.freed < 2 ^ h.k → s.claimTurn x = true → g.sharedErr = [] → bs.length + 8 ≤ h.size →
      let t := (ring { h with claimed := h.claimed + 1 } s).learn (.ring false x.gid i) [x.agent]
      let t := put x (p + (h.size - 8)) (bytesOfWord 4 0x80000000 ++ bytesOfWord 4 bs.length) (put x p bs t)
      let t := (ring (({ h with claimed := h.claimed + 1 } : Ring).fill h.claimed) t).learn x.agent [.ring false x.gid i]
      exec (.engineRingClaim id) s = .next (t.modOp id fun y => { y with slots := y.slots.drop 1 }))
    ∧ (2 ^ h.k ≤ h.claimed - h.freed → exec (.engineRingClaim id) s = .next s))
  ∧ (∀ (id : Nat) (s : State) (x y : Op) (g : Group), s.op id = some x → x.kind.isCopy = true → x.moved = true →
    (s.drainOp x).op id = some y → (s.drainOp x).group x.gid = some g → g.res ≠ .draining →
    (x.slots = [] → x.remote = false → exec (.copyComplete id) s = .next (done (s.drainOp x) x y.status g))
    ∧ (x.remote = true → exec (.gridCopyLocalComplete id) s = .next (done (s.drainOp x) x y.status g)))
  ∧ ∀ (id : Nat) (s : State) (x : Op), s.op id = some x → x.moved = false →
    exec (.copyComplete id) s = .next s ∧ exec (.gridCopyLocalComplete id) s = .next s

/-- A crossing starts after the earlier ones of its context: when its context holds both banks and a route exists, it
computes every vector of its source and is ready to deliver one slot with the outputs, and the y values when asked,
and the counts of SAT and NAN; a crossing that fails ends with its status. Its claim on a loft ring takes, writes and
fills the next slot. Once the slot is filled its delivery counts the crossing and completes it; a delivery not yet
claimed claims first. A bank load that reads a legal record into a bank free of other contexts leaves the record there
under its context, is counted and completes. The model's own choices and readings in it: assumptions 37 and 38 of the
log (R133, R252, R375, R378, R380, R384, R385, R387, R388). -/
def Obligations.ScrimEvents : Prop :=
  let done := fun (s : State) (x : Op) (w : W32) (g : Group) =>
    let t := State.modEctx { x.wrote.foldl (fun s p => s.bumpGen p.1 p.2) s with
        ops := s.ops.filter fun y => y.id != x.id, walks := s.walks.filter fun w => w.who != Walker.op x.id }
      g x.ectx fun e => e.complete x.seq w
    let alloc := ((s.ectx g x.ectx).map (·.alloc.toNat)).getD 0
    (t.learn x.agent [.done g.die (engineNo g x.ectx) alloc x.seq, .grid x.ctx x.node]).unlearn x.agent
  let counted := fun (s : State) (x : Op) => s.modDie x.die fun d =>
    let o := (mapGet d.scrimStat (x.ectx - 0x40)).getD { sent := 0, sat := 0, nan := 0 }
    let n : ScrimStat := { sent := o.sent + 1, sat := o.sat + x.stats.sat, nan := o.nan + x.stats.nan }
    { d with scrimStat := mapSet d.scrimStat (x.ectx - 0x40) n }
  (∀ (id : Nat) (s : State) (x : Op) (back loft keepy : Bool) (src d : W64), s.op id = some x →
    x.kind = .cross back loft keepy src d → x.started = false → s.earlierCross x (·.started) = false →
    (∀ w, s.crossRun x back loft keepy src d = .error w →
      exec (.crossingStart id) s = .next (s.modOp id fun y => { y with started := true, moved := true, status := w }))
    ∧ (∀ u bs st, s.crossRun x back loft keepy src d = .ok (u, bs, st) →
      exec (.crossingStart id) s = .next (u.modOp id fun y => { y with
        started := true, moved := true, stats := st, slots := [{ pieces := [(0, bs)], count := bs.length, status := 0 }] }))
    ∧ ∀ (g : Group) (da la db rb : Nat) (a b : List Byte), loft = false → s.group x.gid = some g →
      x.banks = [(da, la), (db, rb)] → (s.bank da la).holder = some x.ctx → (s.bank db rb).holder = some x.ctx →
      s.bankRec x.ctx da la = some a → s.bankRec x.ctx db rb = some b → (s.hops x.die db).isSome = true →
      (∀ w ∈ s.writes, w.agent ≠ x.agent) →
      let n := brK a * if back = true ∨ brBf a = true then 2 else 1
      let place := fun v : Nat => src.toNat + v * dVpitch d
      (∀ v, v < dNvec d → place v + n ≤ (s.desc g).shared ∧ s.badRead (.shared x.gid) (place v) n = false) →
      let r := (List.range (dNvec d)).foldl (fun (p : State × List (List Byte)) v =>
        (p.1.noteRead x.agent (.shared x.gid) (place v) n none,
         p.2 ++ [p.1.readAs x.agent (s.keyOf x.ctx) (.shared x.gid) (place v) n])) (s, [])
      s.crossRun x back loft keepy src d = .ok (r.1, crossSlot back keepy a (r.2.map fun bs => crossOne back a b bs)))
  ∧ (∀ (id : Nat) (s : State) (x : Op) (back loft keepy : Bool) (src d : W64) (die rb : Nat) (lb : Nat × Nat) (h : Ring)
      (o : Obj) (bs : List Byte), s.op id = some x → x.kind = .cross back loft keepy src d → x.banks = [lb, (die, rb)] →
    bs ≠ [] → x.slots = [{ pieces := [(0, bs)], count := bs.length, status := 0 }] →
    (s.earlierCross x fun z => (z.moved && z.slots.isEmpty) || z.crossRing != x.crossRing) = false →
    mapGet (s.die die).rings (dRidx d) = some h → h.owner = x.ctx → bs.length + 8 ≤ h.size →
    h.claimed - h.freed < 2 ^ h.k → s.capEntry x.ctx h.base [.loft] = some o →
    rightWR &&& (capRights h.base &&& o.rights) = rightWR → o.placed = some die → (s.hops x.die die).isSome = true →
    capOff h.base + 2 ^ h.k * h.size ≤ o.len → s.errUnits (.loft die) = [] →
    let put := fun (a : Nat) (bs : List Byte) (s : State) =>
      (s.commit { id := 0, by_ := x.agent, space := .loft die, addr := a, old := [], ord := o.ord, rels := []
                  known := if o.ord = .uo then [] else [x.agent], wide := [], ctx := x.ctx, node := x.node } bs).1
    let p := o.base + (capOff h.base + h.claimed % 2 ^ h.k * h.size)
    let ring := fun (h : Ring) (s : State) => s.setRing (.loft die (dRidx d)) (some h)
    let t := (ring { h with claimed := h.claimed + 1 } s).learn (.ring true die (dRidx d)) [x.agent]
    let t := put (p + (h.size - 8)) (bytesOfWord 4 0x80000000 ++ bytesOfWord 4 bs.length) (put p bs t)
    let t := (ring (({ h with claimed := h.claimed + 1 } : Ring).fill h.claimed) t).learn x.agent [.ring true die (dRidx d)]
    exec (.engineRingClaim id) s = .next (t.modOp id fun z =>
      { z with slots := [], status := 0, wrote := [(x.ctx, capObj h.base)] }))
  ∧ (∀ (id : Nat) (s : State) (x : Op) (back loft keepy : Bool) (src d : W64), s.op id = some x →
    x.kind = .cross back loft keepy src d → x.moved = true → 0x40 ≤ x.ectx →
    (x.slots = [] → ∀ y g, let t := (counted s x).drainOp x
      t.op id = some y → t.group x.gid = some g → g.res ≠ .draining →
      exec (.crossingDelivery id) s = .next (done t x y.status g))
    ∧ ∀ u y, exec (.engineRingClaim id) s = .next u → u.op id = some y → x.slots ≠ [] → y.slots = [] →
      exec (.crossingDelivery id) s = exec (.crossingDelivery id) u)
  ∧ ∀ (id : Nat) (s : State) (x : Op) (src : W64) (b die p : Nat) (o : Obj), s.op id = some x →
    x.kind = .xbank src b die → x.started = false → s.bankInUse x die b = false → (s.hops x.die die).isSome = true →
    0x40 ≤ x.ectx → capObj src ≠ 0xFFFFF → s.capEntry x.ctx src [.loft] = some o →
    rightRD &&& (capRights src &&& o.rights) = rightRD → o.placed = some p → (s.hops x.die p).isSome = true →
    capOff src % 16 = 0 →
    let a := o.base + capOff src
    let key := s.keyOf x.ctx
    let n := brSize (s.readAs x.agent key (.loft p) a 16)
    let head := s.noteRead x.agent (.loft p) a 16 none
    let bs := head.readAs x.agent key (.loft p) a n
    brOk (s.readAs x.agent key (.loft p) a 16) = true → 16 ≤ n → capOff src + n ≤ o.len → s.errUnits (.loft p) = [] →
    ((s.bank die b).holder = none ∨ (s.bank die b).holder = some x.ctx) → (∀ w ∈ s.writes, w.agent ≠ x.agent) →
    let u := (head.noteRead x.agent (.loft p) a n none).modOp id fun y => { y with started := true, record := bs }
    let t := (counted (u.putBank x.ctx die b bs) x).drainOp x
    let st := (t.op id).map (·.status)
    ∀ g, t.group x.gid = some g → g.res ≠ .draining →
    exec (.xbankLoadComplete id) s = .next (done t x (if st = some x.status then 0 else st.getD 0) g)

/-- When the parameter block, read in shared memory after the own atomics of the lane there, passes the checks, MMA,
MMAB, and MMAD outside a duet launch, append an entry with the operands as they stand, ACCZ a zeroing entry and ACCI
an entry with the image in the registers of the run, after the lane's earlier stores, and the core's object cache
holds the loft objects that the block names; the lanes then go on. While the queue holds eight entries, or entries
wait for a place in it, the entry waits behind them and the lanes stall. An MMAD of a duet launch whose partner is
gone appends unpaired and splits the pair; the first of a pair holds its entry and its lanes wait; the second with the
same descriptor pairs with the held entry and releases it. A tile beyond the allotment raises ACC_RANGE and a block
outside shared memory BOUNDS; a run without live lanes of a register operand raises MASK_MISMATCH. The model's own
choices and readings in it: assumptions 32, 33, 36 and 91 of the log (R133, R330, R331, R333, R347, R348, R350, R351,
R361, R362, R365, R366). -/
def Obligations.MatrixIssue : Prop :=
  let full := fun (s : State) (r : Run) =>
    8 ≤ (s.core r.g.die r.g.core).queue.length ∨ (s.core r.g.die r.g.core).waiting ≠ []
  let put := fun (u : State) (r : Run) (op : MOp) (numbered : Bool) (rdv : Rdv) =>
    let e : MEntry := { id := u.stamp, entered := none, cycles := 0, numbered := numbered, gid := r.gid, warp := r.w
                        tile := r.o.d.toNat, op := op, rdv := rdv }
    (u.modCore r.g.die r.g.core fun c =>
      if c.queue.length < 8 ∧ c.waiting = [] then { c with queue := c.queue ++ [{ e with entered := some u.stamp }] }
      else { c with waiting := c.waiting ++ [e] }).nextStamp
  let on := fun (u : State) (r : Run) => Outcome.next (u.moved r fun _ => nextSlot r.pc)
  let fails := fun (s : State) (r : Run) (c : FCode) (v : W64) => Outcome.next (s.faults r fun _ => { code := c, s45 := v })
  let leaves := fun (i : Instr) (s u t : State) (r : Run) =>
    (Calm s r → ¬full s r → exec i s = on t r) ∧ (full s r → exec i s = .next (t.waiting r fun _ => .queue u.stamp))
  let off := fun (r : Run) (l : Nat) => ((r.rd32 l r.o.a).toNat : Int) + r.o.imm.toInt
  let own := fun (s : State) (r : Run) (l : Nat) => s.settleOwn (.lane r.gid r.w l) (.shared r.gid) (off r l).toNat 64
  let read := fun (s : State) (r : Run) (l : Nat) =>
    (own s r l).noteRead (.lane r.gid r.w l) (.shared r.gid) (off r l).toNat 64 none
  let issue := fun (s : State) (r : Run) (l : Nat) (ws : List W32) =>
    let u := (read s r l).drain (·.byLane r.gid r.w l)
    (u.issueEdge r l [.op u.stamp r.gid]).holdCaps r.g ((if bAloft ws = true then [(r.pair ws false).1] else [])
      ++ if bBloft ws = true then [(r.pair ws true).1] else [])
  let block := fun (s : State) (r : Run) (l : Nat) (modes : List Nat) (ws : List W32) =>
    r.lead = some l ∧ r.o.d.toNat < r.d.acc ∧ 0 ≤ off r l ∧ off r l + 64 ≤ r.d.shared ∧ (off r l).toNat % 16 = 0
    ∧ (own s r l).badRead (.shared r.gid) (off r l).toNat 64 = false
    ∧ ws = blockOf ((own s r l).readLane r.gid r.w l 0 (.shared r.gid) (off r l).toNat 64)
    ∧ blockDetail ws modes r.d.vregs r.d.sregs r.snap.getS = 0 ∧ (∀ n ∈ pairRegs ws, r.snap.tagged n = false)
  let passes := fun (s : State) (r : Run) (ws : List W32) =>
    (((bAloft ws && bBloft ws && !bScl ws) = true) ∨ r.snap.live &&& ~~~r.iss.lanes = 0) ∧ r.badOperands ws = false
    ∧ s.operandFault r ws false = none ∧ s.operandFault r ws true = none
  let shape := fun (i : Instr) (modes : List Nat) (always : Bool) => ∀ (s : State) (r : Run), Issues i s r →
    (Calm s r → r.lead = none → exec i s = on s r)
    ∧ (∀ l ws, block s r l modes ws → passes (own s r l) r ws →
      (always = true ∨ r.d.isDuet = false) →
      let u := issue s r l ws
      leaves i s u (put u r (r.macOp ws) false .free) r)
    ∧ (∀ l ws, r.act = r.ls → block s r l modes ws → (bAloft ws && bBloft ws && !bScl ws) = false →
      r.snap.live &&& ~~~r.iss.lanes ≠ 0 → exec i s = fails (read s r l) r .maskMismatch (r.snap.live &&& ~~~r.iss.lanes))
    ∧ (∀ l, r.act = r.ls → r.lead = some l → r.d.acc ≤ r.o.d.toNat →
      exec i s = fails s r .accRange (BitVec.ofNat 64 r.o.d.toNat))
    ∧ (∀ l, r.act = r.ls → r.lead = some l → r.o.d.toNat < r.d.acc →
      (r.d.shared : Int) < off r l + 64 →
      exec i s = fails s r .bounds (BitVec.ofInt 64 (off r l)))
  (∀ o : Ops, shape (.mma o) [0] true ∧ shape (.mmab o) [1] true ∧ shape (.mmad o) [2, 3] false)
  ∧ (∀ (o : Ops) (s : State) (r : Run) (l : Nat) (ws : List W32), Issues (.mmad o) s r → r.d.isDuet = true →
    block s r l [2, 3] ws → passes (own s r l) r ws →
    let op := r.macOp ws
    let q := (s.warp r.gid r.w).pairing + 1
    let u := (issue s r l ws).modWarp r.gid r.w fun w => { w with pairing := q }
    let desc := descriptor ws op
    (u.partner r.g = none → leaves (.mmad o) s u ((put u r op true .free).setSplit r.g true) r)
    ∧ ∀ pid p, u.partner r.g = some (pid, p) → pid ≠ r.gid →
      (u.heldBy pid p r.w = [] → (p.warp r.w).pairing.toNat < q.toNat → u.parted pid r.w = false →
        exec (.mmad o) s = .next ((put u r op true (.held q.toNat desc)).waiting r fun _ => .duet u.stamp))
      ∧ ∀ e, u.heldBy pid p r.w = [e] → e.rdv = .held q.toNat desc →
        let t := put u r op true (.paired e.id)
        (Calm s r → ¬full s r → exec (.mmad o) s = .next ((t.moved r fun _ => nextSlot r.pc).releaseEntry
          pid p e (.paired u.stamp)))
        ∧ (full s r → exec (.mmad o) s = .next ((t.waiting r fun _ => .queue u.stamp).releaseEntry
          pid p e (.paired u.stamp))))
  ∧ (∀ (o : Ops) (s : State) (r : Run), Issues (.accz o) s r →
    (Calm s r → r.lead = none → exec (.accz o) s = on s r)
    ∧ ∀ l, r.lead = some l →
      (r.o.d.toNat < r.d.acc → leaves (.accz o) s s (put s r .zero false .free) r)
      ∧ (r.act = r.ls → r.d.acc ≤ r.o.d.toNat → exec (.accz o) s = fails s r .accRange (BitVec.ofNat 64 r.o.d.toNat)))
  ∧ ∀ (o : Ops) (m : StdMod) (s : State) (r : Run), Issues (.acci o m) s r →
    let word := fun k : Nat => if (r.snap.lane (k % 64)).isLive then (r.snap.lane (k % 64)).getV (r.o.a.toNat + k / 64) else 0
    let image : List W32 := if m.ty = .bf16 then
        (List.range 512).flatMap fun k => [word k <<< 16, word k &&& 0xFFFF0000#32]
      else (List.range 1024).map word
    (Calm s r → r.lead = none → exec (.acci o m) s = on s r)
    ∧ ∀ l, r.lead = some l → r.o.d.toNat < r.d.acc →
      (r.snap.live &&& ~~~r.iss.lanes = 0 → leaves (.acci o m) s s (put s r (.init image) false .free) r)
      ∧ (r.act = r.ls → r.snap.live &&& ~~~r.iss.lanes ≠ 0 →
        exec (.acci o m) s = fails s r .maskMismatch (r.snap.live &&& ~~~r.iss.lanes))

/-- The engine of a core executes the next entry of its queue that is not held: it leaves the queue, its tile is
zeroed, loaded, or has the terms added, and an entry that waits takes the place. ACCO waits until every earlier entry
on its tile has executed; its image is then written into the registers of the live lanes, its flags and the pending
ones join the flag word, and the lanes go on. ACCG waits for its partner's issue; when the partners agree and no entry
is left, the guided image goes to the even group of the pair and, when asked, each group's own image beside it. The
bound of a held entry, of a group that goes on or is halted on its core, releases it unpaired, to go on or to wait for
its place, and splits the pair. The model's own choices and readings in it: assumptions 33, 34, 35 and 36 of the log
(R334, R335, R349, R350, R351, R353, R362, R363, R365, R367, R368, R369). -/
def Obligations.MatrixJoins : Prop :=
  let quiet := fun (s : State) (die core : Nat) => mapSorted none s.groups = true ∧ ∀ i h, s.group i = some h →
    h.die = die → h.core = core → ∀ w ∈ h.warps, w.join? = none
  let took := fun (s : State) (die core : Nat) (e : MEntry) (f : Tile → Tile) =>
    (((s.modCore die core fun k => { k with queue := k.queue.filter fun x => x.id != e.id }).modTile e.gid e.tile f).unlearn
      e.agent).fill die core
  let waits := fun (s : State) (r : Run) (wait : JoinArgs → Wait) (a : JoinArgs) =>
    (s.waiting r fun l => wait { a with act := r.isAct l }).nextStamp
  let fails := fun (s : State) (r : Run) (c : FCode) (v : W64) => Outcome.next (s.faults r fun _ => { code := c, s45 := v })
  let args := fun (r : Run) (m : StdMod) (weight : W32) =>
    ({ base := r.o.d.toNat, tile := r.o.imm.toNat % 32, bf := decide (m.ty = .bf16), sat := m.sat, both := m.w
       weight := weight, act := true, snap := none } : JoinArgs)
  (∀ (die core : Nat) (s0 : State) (e : MEntry) (g : Group),
    let s := s0.fill die core
    nextEntry (s.core die core).queue = some e → s.group e.gid = some g → g.die = die → g.core = core → e.rdv = .free →
    quiet s die core →
    let does := fun (f : Tile → Tile) =>
      quiet (took s die core e f) die core → exec (.matrixEntryExecute die core) s0 = .next (took s die core e f)
    (e.op = .zero → does Tile.zero)
    ∧ (∀ img, e.op = .init img → does fun t => t.load img)
    ∧ (e.op = .failed → does fun t => { t with latch := true })
    ∧ ∀ ws a b scales acap bcap ap bp, e.op = .mac ws a b scales acap bcap ap bp →
      (g.tile e.tile).bad = false → ∀ x y, s.operandImage e.agent g.ctx ws false acap ap a = some x →
      s.operandImage e.agent g.ctx ws true bcap bp b = some y → does fun t => t.mac ws scales x y)
  ∧ (∀ (t : Tile) (k : Nat) (img : List W32), k < 1024 → img.length = 1024 →
    t.zero.chain k = { e := 0, o := 0, n := 0 } ∧ (t.load img).chain k = { e := (img.getD k 0).toNat, o := 0, n := 0 }
    ∧ t.zero.latch = false ∧ (t.load img).latch = false)
  ∧ (∀ (s : State) (gid w : Nat) (a : JoinArgs) (p : Wait → Bool) (images : List (Nat × List W32)) (fl : W32) (g : Group),
    s.group gid = some g → w < g.warps.length → (g.warp w).lanes.length = 64 → (g.warp w).canon = true →
    (∀ l, p ((g.warp w).lane l).wait = true → ∀ y ∈ ((g.warp w).lane l).windows, y.done = true → 2 ≤ y.left) →
    p .none = false →
    let x := g.warp w
    let t := s.endJoin gid w a p images fl
    let u := if a.snap.isSome then s
      else s.modGroup gid fun g => { g with tiles := mapSet g.tiles a.tile { g.tile a.tile with flags := 0 } }
    t = u.modWarp gid w (fun _ => t.warp gid w)
    ∧ t.warp gid w = { x with lanes := (t.warp gid w).lanes, flags := x.flags ||| (fl ||| (a.snap.getD (g.tile a.tile)).flags)
                              regErr := (t.warp gid w).regErr }
    ∧ ∀ l, l < 64 →
      (t.warp gid w).lane l = (if p (x.lane l).wait then
          { (x.lane l).count s.stamp with pc := nextSlot (x.lane l).pc, entry := false, wait := .none
                                          before := (x.lane l).before.filter fun b => b.pc != (x.lane l).pc
                                          v := ((t.warp gid w).lane l).v }
        else { x.lane l with v := ((t.warp gid w).lane l).v })
      ∧ ∀ n, ((t.warp gid w).lane l).getV n = images.foldl (fun old i =>
          if (x.lane l).isLive = true ∧ i.1 ≤ n ∧ (n - i.1) * 64 + l < i.2.length
          then i.2.getD ((n - i.1) * 64 + l) 0 else old) ((x.lane l).getV n))
  ∧ (∀ (o : Ops) (m : StdMod) (s : State) (r : Run), Issues (.acco o m) s r →
    let a := args r m 0
    let tile := r.g.tile a.tile
    (Calm s r → r.lead = none → exec (.acco o m) s = .next (s.moved r fun _ => nextSlot r.pc))
    ∧ ∀ l, r.lead = some l →
      (r.act = r.ls → r.d.acc ≤ a.tile → exec (.acco o m) s = fails s r .accRange (BitVec.ofNat 64 a.tile))
      ∧ (r.act = r.ls → a.tile < r.d.acc → r.snap.live &&& ~~~r.iss.lanes ≠ 0 →
        exec (.acco o m) s = fails s r .maskMismatch (r.snap.live &&& ~~~r.iss.lanes))
      ∧ (a.tile < r.d.acc → r.snap.live &&& ~~~r.iss.lanes = 0 → a.base + imageRegs m.ty ≤ r.d.vregs →
        quiet s r.g.die r.g.core → r.d.isDuet = false → r.g.res = .resident →
        let u := waits s r (.join s.stamp) a
        (s.entriesOn r.gid r.g a.tile s.stamp ≠ 0 → exec (.acco o m) s = .next u)
        ∧ (s.entriesOn r.gid r.g a.tile s.stamp = 0 → tile.bad = false → tile.latch = false →
          exec (.acco o m) s = .next (u.endJoin r.gid r.w a (Wait.isJoin s.stamp)
            [(a.base, (tile.image a.bf a.sat).1)] (tile.image a.bf a.sat).2))))
  ∧ (∀ (o : Ops) (m : StdMod) (s : State) (r : Run), Issues (.accg o m) s r →
    (Calm s r → r.lead = none → exec (.accg o m) s = .next (s.moved r fun _ => nextSlot r.pc))
    ∧ ∀ l, r.lead = some l →
      let a := args r m (r.rd32 l o.a)
      a.tile < r.d.acc → r.snap.live &&& ~~~r.iss.lanes = 0 →
      (r.act = r.ls → s.partner r.g = none → exec (.accg o m) s = fails s r .duetAbsent 0)
      ∧ ∀ pid p b, s.partner r.g = some (pid, p) → r.d.isDuet = true → (p.warp r.w).real ≠ 0 → pid ≠ r.gid →
        quiet s r.g.die r.g.core → r.g.res = .resident → p.res = .resident →
        ((∀ x ∈ (p.warp r.w).lanes, x.wait.isFirst = false) → s.heldBy pid p r.w = [] →
          exec (.accg o m) s = .next (waits s r (.accg none) a))
        ∧ ((p.warp r.w).joinArgs Wait.isFirst = some b → a.bf = b.bf → a.sat = b.sat → a.both = b.both →
          a.tile = b.tile → b.tile < 32 → (p.warp r.w).lanes.length = 64 → s.partner p = some (r.gid, r.g) →
          p.die = r.g.die → p.core = r.g.core → r.g.lin % 2 = 0 → p.lin % 2 = 1 →
          s.entriesOn r.gid r.g a.tile s.stamp = 0 → s.entriesOn pid p a.tile s.stamp = 0 →
          let ut := b.snap.getD (p.tile b.tile)
          (r.g.tile a.tile).fault = none → ut.fault = none →
          let met := fun x : Lane => match x.wait with
            | .accg none c => { x with wait := .accg (some s.stamp) c }
            | _ => x
          let u := waits (s.modWarp pid r.w fun w => { w with lanes := w.lanes.map met }) r (.accg (some s.stamp)) a
          let n := if a.bf then 8 else 16
          let gi := guidedImage a.bf a.sat a.weight (r.g.tile a.tile) ut
          let ci := (r.g.tile a.tile).image a.bf a.sat
          let ui := ut.image a.bf a.sat
          exec (.accg o m) s = .next ((u.endJoin r.gid r.w a (Wait.isAccg s.stamp)
              ((a.base, gi.1) :: if a.both then [(a.base + n, ci.1)] else []) (if a.both then gi.2 ||| ci.2 else gi.2)).endJoin
            pid r.w b (Wait.isAccg s.stamp) (if a.both then [(b.base, ui.1)] else []) (if a.both then ui.2 else 0))))
  ∧ ∀ (gid w : Nat) (s : State) (g : Group) (e : MEntry) (rest : List MEntry), s.group gid = some g →
    g.res = .resident ∨ g.res = .halted → s.heldBy gid g w = e :: rest → w < g.warps.length → (g.warp w).lanes.length = 64 →
    (∀ l, ((g.warp w).lane l).wait = .duet e.id → ∀ y ∈ ((g.warp w).lane l).windows, y.done = true → 2 ≤ y.left) →
    let free := fun x : MEntry => if x.id = e.id then { x with rdv := .free, cycles := 4096 } else x
    let go := fun x : Lane =>
      if x.wait = .duet e.id then
        if (s.core g.die g.core).queue.any (·.id == e.id) then
          { x.count s.stamp with pc := nextSlot x.pc, entry := false, wait := .none
                                 before := x.before.filter fun b => b.pc != x.pc }
        else { x with wait := .queue e.id }
      else x
    exec (.duetBoundExpiry gid w) s = .next (((s.modCore g.die g.core fun c =>
      { c with queue := c.queue.map free, waiting := c.waiting.map free }).modWarp
      gid w fun w => { w with lanes := w.lanes.map go }).setSplit g true)

/-- EMIT, for its lowest real lane, sends N records of shared memory on their way to the queue of EDST, the cue header
in their first bytes when there is one, after the lane's earlier SO and RC stores, and every issuing lane receives the
group's count of records before; helpers alone receive 0 and send nothing. More records than EMAX or than shared
memory holds raise BOUNDS, and no record or more than 256 ILLEGAL_FIELD. The records arrive in the queue and leave
their reserved places, and a node in the callboard that can form a batch by it takes its place in the order. What
happens-before an EMIT or a SIGNAL is known to the node (R133). SIGNAL puts a signal for a node of the context on its
way, OBJECT for no node; applied, it lowers the count of the node, which enters the callboard at 0 when it is live,
and is counted as late at a node that is complete or has no count left. The model's own choices and readings in it:
assumptions 10 and 45 of the log (R18, R133, R396, R397, R398, R401, R403, R404). -/
def Obligations.RecordsAndSignals : Prop :=
  (∀ (o : Ops) (s : State) (r : Run), Begins (.emit o) s r →
    (Calm s r → r.lead = none → ∃ t, exec (.emit o) s = .next t ∧ Completes s t r false (r.dst .dstS) fun _ => .ofVal 0)
    ∧ ∀ l e, r.lead = some l → s.node r.g.ctx r.d.edst = some e →
      let q := r.reals
      let a := (q.rd32 l o.a).toNat
      let n := (q.rd32 l o.b).toNat
      let size := e.desc.qrec
      let u := s.settleOwn (.lane r.gid r.w l) (.shared r.gid) a (n * size)
      let head := fun bs : List Byte => if o.c = 0xF0 then bs else bytesOfWord 8 (q.rd64 .zero l o.c).toNat ++ bs.drop 8
      let recs := (List.range n).map fun i => ({ node := r.g.node, producer := r.g.lin, ordinal := r.g.emitted + i
                                                 bytes := head (u.readLane r.gid r.w l 0 (.shared r.gid) (a + i * size) size) }
                                               : QRecord)
      let known := ((u.noteRead (.lane r.gid r.w l) (.shared r.gid) a (n * size) none).drainMask r.gid r.w (oneLane l)).learn
        (.lane r.gid r.w l) [.node r.g.ctx r.d.edst]
      let sent : State := { known with
        emits := s.emits ++ [{ ctx := r.g.ctx, node := r.g.node, edst := r.d.edst, records := recs }] }
      (Calm s r → 1 ≤ n → n ≤ 256 → a + n * size ≤ r.d.shared → r.g.emitted + n ≤ r.d.emax →
        u.badRead (.shared r.gid) a (n * size) = false →
        ∃ t, exec (.emit o) s = .next t ∧ Completes (sent.modGroup r.gid fun g => { g with emitted := r.g.emitted + n }) t r
          false (r.dst .dstS) fun _ => .ofVal (BitVec.ofNat 64 r.g.emitted))
      ∧ (r.act = r.ls → (n = 0 ∨ 256 < n) →
        exec (.emit o) s = .next (s.faults r fun _ => { code := .illegalField, s45 := 0 }))
      ∧ (r.act = r.ls → 1 ≤ n → n ≤ 256 → r.d.shared < a + n * size →
        exec (.emit o) s = .next (s.faults r fun _ => { code := .bounds, s45 := BitVec.ofNat 64 a }))
      ∧ (r.act = r.ls → 1 ≤ n → n ≤ 256 → a + n * size ≤ r.d.shared → r.d.emax < r.g.emitted + n →
        exec (.emit o) s = .next (s.faults r fun _ => { code := .bounds, s45 := BitVec.ofNat 64 r.d.emax })))
  ∧ (∀ (k : Nat) (s : State) (e : Emit), s.emits[k]? = some e →
    let u := ({ s with emits := s.emits.eraseIdx k } : State).modNode e.ctx e.edst fun n =>
      { n with queue := n.queue ++ e.records, reserved := n.reserved - e.records.length }
    let able := fun (v : State) => ∃ x y, v.ctx e.ctx = some x ∧ v.node e.ctx e.edst = some y ∧ y.desc.qrec ≠ 0
      ∧ y.board.isSome = true ∧ 0 < x.nextGroups e.edst y
    (¬able u ∨ able s → exec (.emitRecordsArrive k) s = .next u)
    ∧ (able u → ¬able s → exec (.emitRecordsArrive k) s = .next ((u.modNode e.ctx e.edst fun n =>
        { n with board := some s.stamp }).nextStamp)))
  ∧ (∀ (o : Ops) (s : State) (r : Run), Issues (.signal o) s r →
    (Calm s r → r.lead = none → exec (.signal o) s = .next (s.moved r fun _ => nextSlot r.pc))
    ∧ ∀ l, r.lead = some l →
      let n := (r.reals.rd32 l o.a).toNat
      (Calm s r → (s.node r.g.ctx n).isSome = true → exec (.signal o) s = .next (State.moved
        { (s.drainMask r.gid r.w (oneLane l)).learn (.lane r.gid r.w l) [.node r.g.ctx n] with
        signals := s.signals ++ [{ ctx := r.g.ctx, node := r.g.node, target := n }] } r fun _ => nextSlot r.pc))
      ∧ (r.act = r.ls → s.node r.g.ctx n = none →
        exec (.signal o) s = .next (s.faults r fun _ => { code := .object, s45 := BitVec.ofNat 64 n })))
  ∧ ∀ (k : Nat) (s : State) (x : Sig) (y : Node), s.signals[k]? = some x → s.node x.ctx x.target = some y →
    let u : State := { s with signals := s.signals.eraseIdx k }
    ((y.complete = true ∨ y.count = 0) →
      exec (.signalApply k) s = .next (u.modCtx x.ctx fun c => { c with late := c.late + 1 }))
    ∧ (y.complete = false → y.count ≠ 0 → (y.count ≠ 1 ∨ y.live = false ∨ y.board.isSome = true) →
      exec (.signalApply k) s = .next (u.modNode x.ctx x.target fun n => { n with count := n.count - 1 }))
    ∧ (y.complete = false → y.count = 1 → y.live = true → y.board = none → (y.desc.ctl ≠ 0 ∨ y.desc.cueMask = 0) →
      exec (.signalApply k) s = .next ((u.modNode x.ctx x.target fun n => { n with
        count := 0, board := some (if y.desc.ctl = 0 ∧ y.desc.qrec = 0 then y.order else s.stamp) }).nextStamp))

/-- A line that arrives with its parity intact and legal enters the warp's buffers; a line whose parity fails is
fetched again, and a second failure raises LINE_PARITY for the lanes at the line when the same bytes came twice, and
MACHINE_CHECK when they differ; an illegal line raises ILLEGAL_LINE with its detail. A page that is absent blocks the
lanes at the line, and the host is told once. A page walk that finds its page caches the leaf, in 512 entries of the
core and 16,384 of the die, and ends the wait; one that finds it absent leaves everything as it is. The model's own
choices and readings in it: assumptions 59 and 60 of the log (R106, R107, R156, R157, R158, R159, R432). -/
def Obligations.InstructionLines : Prop :=
  let want := fun (s : State) (gid : Nat) (g : Group) (w n : Nat) => (s.warp gid w).where (s.wantsLine gid g (s.warp gid w) n)
  let fails := fun (s : State) (gid : Nat) (g : Group) (w n : Nat) (pc : W64) (f : Flt) => Outcome.next (s.raise gid w pc
    ((lanesIn (want s gid g w n)).map fun l => (l, f)))
  let entered := fun (s : State) (gid w n : Nat) (bs : List Byte) =>
    Outcome.next (s.modWarp gid w fun x => { x with lines := mapSet x.lines n bs })
  let together := fun (s : State) (gid : Nat) (g : Group) (w n : Nat) (pc : W64) => want s gid g w n ≠ 0
    ∧ ∀ l, (want s gid g w n).getLsbD l = true → ((s.warp gid w).lane l).pc = pc ∧ ((s.warp gid w).lane l).wait = .none
  (∀ (k gid w n : Nat) (fl : List Nat) (s : State) (g : Group) (raw : List Byte), s.fetches[k]? = some (gid, w, n) →
    s.group gid = some g → s.readCode g.ctx g.die g.core (s.desc g) (64 * n) 64 = .ok raw →
    let bs := flipBits raw fl
    let good := (bs.take 60).foldl (· ^^^ ·) 0 = bs.getD 63 0
    let u := s.cacheLeaf (.code g.die g.core) g.ctx (s.lineVa g n)
    (good → lineIllegal bs = 0 → exec (.lineFetchComplete k fl) s = entered u gid w n bs)
    ∧ (¬good → exec (.lineFetchComplete k fl) s = .next { s with
        refetches := s.refetches ++ [{ gid := gid, warp := w, line := n, first := bs }] })
    ∧ ∀ pc, good → lineIllegal bs ≠ 0 → together u gid g w n pc → exec (.lineFetchComplete k fl) s
      = fails u gid g w n pc { code := .illegalLine, s45 := BitVec.ofNat 64 (lineIllegal bs) })
  ∧ (∀ (k : Nat) (fl : List Nat) (s : State) (x : Refetch) (g : Group) (raw : List Byte), s.refetches[k]? = some x →
    s.group x.gid = some g → s.readCode g.ctx g.die g.core (s.desc g) (64 * x.line) 64 = .ok raw →
    let bs := flipBits raw fl
    let sum := (bs.take 60).foldl (· ^^^ ·) 0
    let u : State := { s with refetches := s.refetches.eraseIdx k }
    (sum = bs.getD 63 0 → lineIllegal bs = 0 → exec (.lineRefetchComplete k fl) s = entered u x.gid x.warp x.line bs)
    ∧ ∀ pc, sum ≠ bs.getD 63 0 → together u x.gid g x.warp x.line pc → exec (.lineRefetchComplete k fl) s
      = fails u x.gid g x.warp x.line pc (if bs = x.first
        then { code := .lineParity, s45 := (sum ^^^ bs.getD 63 0).zeroExtend 64 } else { code := .machineCheck, s45 := 3 }))
  ∧ (∀ (k gid w n va : Nat) (fl : List Nat) (s : State) (g : Group), s.fetches[k]? = some (gid, w, n) →
    s.group gid = some g → s.readCode g.ctx g.die g.core (s.desc g) (64 * n) 64 = .error (.absent va) → (s.desc g).isDuet = false →
    (∀ x ∈ s.walks, x.who ≠ .fetch gid w n) →
    exec (.lineFetchComplete k fl) s = .next { s.modWarp gid w fun x => x.modLanes (want s gid g w n) fun _ y =>
        { y with wait := .page (y.wait.park n) } with
      walks := s.walks ++ [{ who := .fetch gid w n, ctx := g.ctx, va := va }]
      notices := s.notices ++ [.pageAbsent g.ctx va] })
  ∧ (∀ bs : List Byte, let word := BitVec.ofNat 32 (leNat ((bs.drop 60).take 4))
    (word.extractLsb' 9 15 ≠ 0 → lineIllegal bs = 1)
    ∧ (word.extractLsb' 5 4 = 0 → word.extractLsb' 9 15 = 0 → lineIllegal bs = 0)
    ∧ (word.extractLsb' 9 15 = 0 → word.extractLsb' 5 2 = 3 → lineIllegal bs = 2))
  ∧ ∀ (k : Nat) (s : State) (x : Walk), s.walks[k]? = some x →
    (leafOf s (s.walkerOf x.who) x.ctx x.va = .error .absent → exec (.pageWalkComplete k) s = .next s)
    ∧ ∀ leaf bits id y, x.who = .op id → s.op id = some y → walk s y.die x.ctx x.va = .ok (leaf, bits) →
      s.isNever x.ctx x.va = false →
      (∀ t ∈ (s.core y.die y.core).dtlb ++ (s.die y.die).tlb, ∀ a, a / 2 ^ bits = x.va / 2 ^ bits →
        ¬(t.ctx = x.ctx ∧ t.page = a / 2 ^ t.bits)) →
      let new : Tlb := { ctx := x.ctx, page := x.va / 2 ^ bits, bits := bits, leaf := leaf }
      exec (.pageWalkComplete k) s = .next (((State.modCore { s with walks := s.walks.eraseIdx k } y.die y.core fun c =>
        { c with dtlb := (new :: c.dtlb).take 512 }).modDie y.die fun d =>
        { d with tlb := (new :: d.tlb).take 16384 }).modOp id fun z => { z with parked := false })

/-- A unit of one group whose live lanes are all blocked, one of them at an external point, is saved when its
context's pool has room for its frame: it leaves its core with what a frame holds, the rest is gone, and the pool
gives the units; one that is not so blocked, or does not fit, stays. A saved group that is ready goes to a core that
has room, with free warp slots, its kept entries in line for the matrix queue and the writes of its lanes at their
homes, and its units return to the pool; then what is due lands and the joins that can end do. Dispatch starts the
next group of the first node of a die that can place one: its lanes are real below .threads and stand at the entry,
which is still to be checked, its registers are zero but for the operands, its shared memory is empty, and the node
counts it. The model's own choices and readings in it: assumptions 42, 45 and 63 of the log (R16, R44, R45, R46, R47,
R135, R182, R354, R398, R399, R400, R438). -/
def Obligations.FramesAndDispatch : Prop :=
  (∀ (gid : Nat) (s : State) (g : Group) (c : Ctx), s.group gid = some g → s.ctx g.ctx = some c → s.unit gid = [gid] →
    (s.core g.die g.core).entries.filter (fun e => e.gid == gid) = [] →
    let units := frameUnits (s.desc g) 0
    let out := fun w : Warp => { w with
      lines := [], handed := false, waited := 0, lanes := w.lanes.map fun x => { x with starve := 0, behind := 0 } }
    (g.res = .resident → s.eligible gid = true → c.used + units ≤ c.poolUnits → exec (.swapOut gid) s = .next {
      ((s.modCtx g.ctx fun x => { x with used := x.used + units }).modGroup gid fun g => { g with
        res := .saved .swapped, kept := [], warps := g.warps.map out }).fill g.die g.core with
      refetches := s.refetches.filter fun r => r.gid != gid
      streams := s.streams.filter fun t => t.gid != gid
      second := s.second.filter fun i => i.iss.gid != gid })
    ∧ ((g.res ≠ .resident ∨ s.eligible gid = false) → exec (.swapOut gid) s = .next s)
    ∧ (g.res = .resident → s.eligible gid = true → c.poolUnits < c.used + units →
      exec (.swapOut gid) s = .next (s.joins g.die g.core)))
  ∧ (∀ (gid core : Nat) (s : State) (g : Group), s.group gid = some g → s.unit gid = [gid] → (s.desc g).isDuet = false →
    (g.res = .saved .swapped ∨ g.res = .saved .resumed) → s.restoreReady gid = true → g.frameErr = false →
    let v : State := { s.drain (fun w => w.op.isNone && w.gid == gid) with loads := s.loads.filter fun d => d.gid != gid }
    (v.takes g.die core (s.desc g) 0 = 0 → exec (.restore gid [core]) s = .next s)
    ∧ (0 < v.takes g.die core (s.desc g) 0 →
      let slots := v.freeSlots g.die core
      let t := (((v.modCtx g.ctx fun x => { x with
          used := x.used - frameUnits (s.desc g) g.kept.length }).modGroup gid fun g => { g with
            core := core, res := .resident, kept := []
            warps := g.warps.zipIdx.map fun p => { p.1 with slot := slots.getD p.2 0, order := v.stamp } }).modCore g.die core
        fun c => { c with waiting := c.waiting ++ g.kept }).nextStamp
      exec (.restore gid [core]) s = .next (((t.fill g.die core).landGroup gid).joinsOf [gid])))
  ∧ ∀ (die core c n : Nat) (s : State) (x : Ctx) (y : Node), (s.die die).lost = false → (s.die die).stopped = false →
    s.nextNode die = some (c, n) → s.ctx c = some x → s.node c n = some y → mapSorted none s.groups = true →
    y.desc.qrec = 0 → y.queue = [] → y.desc.emax = 0 → y.desc.cluster = 1 → y.desc.isDuet = false → y.dispatched < y.desc.groups →
    0 < s.takes die core y.desc y.desc.nctx → s.group s.nextGid = none →
    let d := y.desc
    ∃ t g, exec (.callboardDispatch die [core]) s = .next t ∧ t.group s.nextGid = some g ∧ t.nextGid = s.nextGid + 1
      ∧ g.ctx = c ∧ g.node = n ∧ g.lin = y.dispatched ∧ g.die = die ∧ g.core = core ∧ g.res = .resident ∧ g.shared = []
      ∧ g.emitted = 0 ∧ g.tiles = [] ∧ g.rings = [] ∧ g.warps.length = (d.threads + 63) / 64
      ∧ (∀ w l, w < g.warps.length → l < 64 → let z := (g.warp w).lane l
        (z.st = .real ↔ 64 * w + l < d.threads) ∧ z.pc = d.entry ∧ z.entry = true ∧ z.wait = .none ∧ z.windows = []
        ∧ (∀ k, z.getV k = 0) ∧ (∀ k, k < 15 → z.getP k = false))
      ∧ (∀ w k, w < g.warps.length → y.handles = [] → d.ops.length = 16 → d.nops ≤ 16 →
        (g.warp w).getS k = if k < d.nops then d.ops.getD k 0 else 0)
      ∧ (∀ w, w < g.warps.length → (g.warp w).stack = [] ∧ (g.warp w).flags = 0 ∧ (g.warp w).hset = 0)
      ∧ t.node c n = some { y with dispatched := y.dispatched + 1 }
      ∧ (∀ i, i ≠ s.nextGid → t.group i = s.group i) ∧ t.hbm = s.hbm ∧ t.loft = s.loft

/-- A kernel node whose groups have all been dispatched and that has nothing under way completes: the host learns its
status, its place in the launch queue is passed, its UO writes are visible to every agent of the device, what happens-
before its end, its own writes, what its groups knew and what those who made it ready passed on, is known at its place
in its launch queue (R452) and to its successors, and each successor's count goes down when it succeeded; where it was
a producer, the queue-fed node that it fed takes its place in the callboard when it can form a batch now and could not
before (R401); a node that still has something under way is left as it is. The first ready control node hands its HOST
object to the host (TOHOST), or back to the device with one added to GEN when the host had it (TODEVICE), or only
completes (JOIN). The model's own choices and readings in it: assumption 45 of the log (R133, R150, R396, R398, R401,
R406, R407, R452, R453, R455). -/
def Obligations.NodesComplete : Prop :=
  let reports := fun (s : State) (c n : Nat) (y : Node) (ok : Bool) =>
    ({ s with
        nodeStatus := s.nodeStatus ++ [{ ctx := c, node := n, tag := y.tag, ok := ok }]
        notices := if ok then s.notices else s.notices ++ [.nodeFailed c n y.tag]
        cbars := s.cbars.filter fun b => !(b.ctx == c && b.node == n)
        duets := s.duets.filter fun b => !(b.ctx == c && b.node == n) } : State)
  let ends := fun (s : State) (c n : Nat) (y : Node) (ok : Bool) =>
    let u := ((reports s c n y ok).modNode c n fun z => { z with complete := true, live := false, handles := [], board := none
      }).modCtx c fun x => { x with cues := y.handles.foldl (fun m h => mapErase m h.2) x.cues }
    let v := u.advanceLq (lqKey c y.desc.lq) y.place
    let succ := if ok then y.desc.succ.filter (· != 0xFFFF) else []
    let mine := fun e : Recent => e.ctx == c && e.node == n && e.by_ != .host
    let v : State := { v with recent := v.recent.map fun e => if (mine e && e.ord == .uo) = true then
      { e with wide := e.wide ++ [(.device, { agent := .host, ctx := 0, node := 0, cluster := 0, ldie := 0 })] } else e }
    let v := ((v.teach (fun e => mine e && e.ord != .uo || (Agent.grid c n).knows e || (Agent.node c n).knows e)
      (.placed (lqKey c y.desc.lq) y.place :: succ.map fun m => .node c m)).unlearn (.grid c n)).unlearn (.node c n)
    succ.foldl (fun v m => v.decrement c m) v
  let last := fun (s v : State) (c : Nat) (y : Node) => if y.desc.emax = 0 then v else v.placeQueue c y.desc.edst s
  (∀ (c n : Nat) (s : State) (x : Ctx) (y : Node), s.ctx c = some x → s.node c n = some y → y.live = true →
    y.complete = false → y.desc.ctl = 0 →
    (s.quiet c n = false → exec (.nodeComplete c n) s = .next s)
    ∧ (s.quiet c n = true → (y.failed = true ∨ y.aborted = true) →
      exec (.nodeComplete c n) s = .next (last s (ends s c n y false) c y))
    ∧ (s.quiet c n = true → y.failed = false → y.aborted = false → y.board.isSome = true → y.desc.qrec = 0 →
      y.dispatched = y.desc.groups → exec (.nodeComplete c n) s = .next (last s (ends s c n y true) c y)))
  ∧ (∀ (c n : Nat) (s : State) (y : Node), s.node c n = some y → y.live = true → y.complete = false → y.board.isSome = true →
    (∀ p ∈ s.ctxs, ∀ q ∈ p.2.nodes, q.2.live = true → q.2.complete = false → q.2.desc.ctl ≠ 0 →
      ∀ a b, q.2.board = some a → y.board = some b → b ≤ a) →
    let i := capObj (y.desc.ops.getD 0 0)
    let does := fun (j : Instr) (u : State) => exec j s = .next (last u (ends u c n y true) c y)
    (∀ o, y.desc.ctl = 1 → s.obj c i = some o →
      (o.hostOwned = true → does (.toHost c n) s)
      ∧ (o.hostOwned = false → does (.toHost c n) ((s.drain fun w => w.op.isSome && w.ctx == c).modObj c i fun o =>
        { o with hostOwned := true })))
    ∧ (∀ o, y.desc.ctl = 2 → s.obj c i = some o →
      (o.hostOwned = false → does (.toDevice c n) s)
      ∧ (o.hostOwned = true → does (.toDevice c n) (s.modObj c i fun o =>
        { o with hostOwned := false, gen := o.gen + 1 })))
    ∧ (y.desc.ctl = 3 → does (.joinNode c n) s))
  ∧ ∀ (s : State) (q place : Nat) (x : LQueue), mapGet s.lqs q = some x →
    (place = x.counter + 1 → x.done = [] → s.advanceLq q place = { s with
        lqs := mapSet s.lqs q { x with counter := place, done := [] }
        hostOut := s.hostOut ++ [{ addr := x.completion, bytes := bytesOfWord 8 place }] })
    ∧ (x.counter + 1 ≠ place → x.counter + 1 ∉ x.done →
      s.advanceLq q place = { s with lqs := mapSet s.lqs q { x with done := x.done ++ [place] } })

/-- Each command does what R448 says and answers OK: CTXCREATE makes the context with a new key, every die-map entry
absent and its scrim contexts afresh; CTXDESTROY of a context with nothing running or under way erases it; OBJINSTALL
writes the entry of a legal description, in place of an earlier one, once the earlier one is quiet, and a loft unit
that was last another owner's becomes zero; OBJREMOVE removes it, and no read that is still open takes its value
later, and no core's object cache holds it; LOAD puts bytes into a loft object; L3WRITE and PTEWRITE write entries
once the context's writes to main memory are at their homes, and drop the cached leaves and lines of their range;
PAGESTATE sets or clears the mark of a page, an operation parked on a page that will never arrive goes on at once, to
its end, and one issued before the page was made present again still finds it lost; DIEMAP of a context with no LOFT
object writes the map; FRAMEPOOL adds ranges. An existing context, an illegal entry, a load past the end are REFUSED,
a missing context or object is NOT_FOUND, scrim contexts in use are NO_SPACE, and a group on a core makes DIEMAP BUSY.
The answer appends the response, and a command of the ring leaves it and advances MBHEAD. The model's own choices and
readings in it: assumptions 46, 47, 48, 49, 51, 60 and 79 of the log (R94, R95, R96, R98, R101, R108, R120, R433,
R434, R447, R448, R466). -/
def Obligations.MailboxMemory : Prop :=
  (∀ (s : State) (c : Cmd) (st : Nat) (v : W64),
    let r : Response := { status := st, value := v, report := .none }
    let m := s.mailbox
    (∀ x rest, m.cmds = x :: rest → x.cmd = c → s.answerVal c st v = { s with
      mailbox := { m with cmds := rest, head := if m.size = 0 then m.head + 1 else (m.head + 1) % m.size
                          responses := m.responses ++ [r] }
      hostOut := s.hostOut ++ [{ addr := m.resp + 16 * m.head
                                 bytes := bytesOfWord 4 st ++ [0, 0, 0, 0] ++ bytesOfWord 8 v.toNat }] })
    ∧ (m.cmds.head?.map (·.cmd) ≠ some c → s.answerVal c st v = { s with mailbox := { m with responses := m.responses ++ [r] } })
    ∧ ∃ any, s.answer c st = { s.answerVal c st any with fresh := s.fresh + 1 })
  ∧ (∀ (c : CtxCreateArgs) (s : State),
    let k := s.nextKey + 1
    let new : Ctx := { key := k, scrim := c.scrim, map := List.replicate 8 none, objs := [], l3 := [], never := [], lapsed := []
                       pool := [], used := 0, cues := [], nodes := [], late := 0, dropped := [], tags := [], binds := []
                       peers := [], debug := false }
    let used := ∃ p ∈ s.ctxs, p.2.scrim &&& c.scrim ≠ 0
    (1 ≤ c.ctx → c.ctx ≤ 4095 → s.ctx c.ctx = none → ¬used →
      exec (.ctxCreate c) s = .next (State.answer { s with
        ctxs := mapSet s.ctxs c.ctx new, nextKey := k
        dies := s.dies.map fun d => { d with
          scrimCtx := d.scrimCtx.filter fun p => !c.scrim.getLsbD p.1
          scrimStat := d.scrimStat.filter fun p => !c.scrim.getLsbD p.1 } } (.ctxCreate c) 0))
    ∧ ((c.ctx = 0 ∨ 4095 < c.ctx ∨ (s.ctx c.ctx).isSome = true) →
      exec (.ctxCreate c) s = .next (s.answer (.ctxCreate c) 1))
    ∧ (1 ≤ c.ctx → c.ctx ≤ 4095 → s.ctx c.ctx = none → used → exec (.ctxCreate c) s = .next (s.answer (.ctxCreate c) 2)))
  ∧ (∀ (c : Nat) (s : State), s.ctx c = none →
    exec (.ctxDestroy c) s = .next (s.answer (.ctxDestroy c) 3)
    ∧ (∀ i, exec (.objRemove c i) s = .next (s.answer (.objRemove c i) 3))
    ∧ (∀ i e, exec (.l3Write c i e) s = .next (s.answer (.l3Write c i e) 3)))
  ∧ (∀ (c : Nat) (s : State) (x : Ctx), s.ctx c = some x → mapSorted none s.ctxs = true →
    let still := fun (p : Nat → Bool) => (s.fixCtx c).dropHeld fun h => h.ctx == c && p h.obj
    let home := (s.drain fun w => w.ctx == c && w.space == .hbm).fixCtx c
    (x.running = false → s.drainedCtx c = true → ∃ t, exec (.ctxDestroy c) s = .next t ∧ t.ctx c = none
      ∧ (∀ d, d ≠ c → t.ctx d = s.ctx d) ∧ t.hbm = s.hbm ∧ t.loft = s.loft ∧ t.groups = s.groups ∧ t.ops = s.ops
      ∧ t.writes = s.writes ∧ t.lqs = s.lqs.filter fun p => p.2.ctx != c)
    ∧ (∀ (a : ObjInstallArgs) (o : Obj), a.ctx = c → 1 ≤ a.idx → a.idx < sharedObj → s.objQuiet c a.idx = true →
      objOf a = some o →
      (o.kind ≠ .loft → exec (.objInstall a) s = .next (((still (· == a.idx)).modCtx c fun x => { x with
        objs := mapSet x.objs a.idx o }).answer (.objInstall a) 0))
      ∧ (o.kind = .loft → x.phys o.ldie = none → exec (.objInstall a) s = .next (((still (· == a.idx)).modCtx c fun x => { x with
        objs := mapSet x.objs a.idx { o with placed := none } }).answer (.objInstall a) 0))
      ∧ (∀ d, o.kind = .loft → x.phys o.ldie = some d → s.loftFree d c a.idx o = true →
        (∀ u, o.base / 64 ≤ u → u < (o.base + o.len) / 64 → mapGet s.loftOwner (d * 2 ^ 21 + u) = some x.key) →
        exec (.objInstall a) s = .next (((still (· == a.idx)).modCtx c fun x => { x with
          objs := mapSet x.objs a.idx { o with placed := some d } }).answer (.objInstall a) 0))
      ∧ (∀ d old, o.kind = .loft → x.phys o.ldie = some d → s.loftFree d c a.idx o = true → o.len = 64 →
        mapGet s.loftOwner (d * 2 ^ 21 + o.base / 64) = some old → old ≠ x.key →
        let z := ((still (· == a.idx)).writeHome 0 (.loft d) o.base (List.replicate 64 0)).1
        exec (.objInstall a) s = .next ((State.modCtx { z with
          loftOwner := mapSet s.loftOwner (d * 2 ^ 21 + o.base / 64) x.key } c fun x => { x with
            objs := mapSet x.objs a.idx { o with placed := some d } }).answer (.objInstall a) 0)))
    ∧ (∀ a : ObjInstallArgs, a.ctx = c → (a.idx = 0 ∨ (a.idx < sharedObj ∧ s.objQuiet c a.idx = true ∧ objOf a = none)) →
      exec (.objInstall a) s = .next (s.answer (.objInstall a) 1))
    ∧ (∀ i, (mapGet x.objs i).isSome = true → s.objQuiet c i = true →
      exec (.objRemove c i) s = .next (((still (· == i)).modCtx c fun x => { x with objs := mapErase x.objs i }).answer
        (.objRemove c i) 0))
    ∧ (∀ i, mapGet x.objs i = none → exec (.objRemove c i) s = .next (s.answer (.objRemove c i) 3))
    ∧ (∀ (a : LoadArgs) (o : Obj) (d : Nat), a.ctx = c → mapGet x.objs a.idx = some o → o.kind = .loft →
      o.placed = some d → a.off + a.data.length ≤ o.len →
      exec (.load a) s = .next ((s.writeHome 0 (.loft d) (o.base + a.off) a.data).1.answer (.load a) 0))
    ∧ (∀ (a : LoadArgs) (o : Obj), a.ctx = c → mapGet x.objs a.idx = some o → o.len < a.off + a.data.length →
      exec (.load a) s = .next (s.answer (.load a) 1))
    ∧ (∀ i (e : W64), i < 1024 → e.extractLsb' 52 12 = 0 → e.extractLsb' 36 12 = 0 → e.extractLsb' 1 12 = 0 →
      exec (.l3Write c i e) s = .next (((home.modCtx c fun x => { x with l3 := mapSet x.l3 i e }).shootdown c
        { level := 3, va := i * 2 ^ 46, entry := e }).answer (.l3Write c i e) 0))
    ∧ (∀ (p : PteArgs) (y : Ctx) (at_ : Nat), p.level ≤ 2 → p.va < 2 ^ 56 → home.ctx c = some y →
      entryAddr home y p.level p.va = some at_ →
      exec (.pteWrite c [p]) s = .next (((home.writeHome 0 .hbm at_ (bytesOfWord 8 p.entry.toNat)).1.shootdown c p).answer
        (.pteWrite c [p]) 0))
    ∧ (∀ va, va < 2 ^ 56 →
      let marked := fun (s : State) => s.modCtx c fun x => { x with never := va / 65536 :: x.never }
      (x.never.contains (va / 65536) = false → (∀ y ∈ s.chunks, y.args.ctx ≠ c) →
        ((∀ y ∈ s.walks, ¬(y.ctx = c ∧ y.va / 65536 = va / 65536)) →
          exec (.pageState c va false) s = .next ((marked s).answer (.pageState c va false) 0))
        ∧ ∀ id a z, s.walks = [{ who := .op id, ctx := c, va := a }] → a / 65536 = va / 65536 → s.op id = some z →
          exec (.pageState c va false) s = .next (((State.modOp { marked s with walks := [] } id fun y =>
            { y with parked := false }).startCopy { z with parked := false } none).answer (.pageState c va false) 0))
      ∧ exec (.pageState c va true) s = .next (((s.modCtx c fun x =>
        if x.never.contains (va / 65536) then
          { x with never := x.never.filter (· != va / 65536)
                   lapsed := (va / 65536, s.stamp) :: x.lapsed.filter fun p => p.1 != va / 65536 }
        else x).nextStamp).answer (.pageState c va true) 0))
    ∧ (∀ (o : Op) (va : Nat), o.ctx = c → (va / 65536, o.id + 1) ∈ x.lapsed → s.isLapsed o va = true)
    ∧ (∀ (o : Op) (va : Nat), o.ctx = c → (∀ p ∈ x.lapsed, p.1 = va / 65536 → p.2 ≤ o.id) → s.isLapsed o va = false)
    ∧ (∀ m : List (Option Nat), m.length = 8 → (∀ y ∈ m, ∀ d, y = some d → d < 8) →
      let onCore := ∃ p ∈ s.groups, p.2.ctx = c ∧ (p.2.res = .resident ∨ p.2.res = .halted)
      (onCore → exec (.dieMap c m) s = .next (s.answer (.dieMap c m) 4))
      ∧ (¬onCore → (∀ p ∈ x.objs, p.2.kind ≠ .loft) →
        exec (.dieMap c m) s = .next (((still fun _ => true).modCtx c fun x => { x with map := m }).answer (.dieMap c m) 0)))
    ∧ ∀ rs : List (Nat × Nat), (∀ r ∈ rs, r.1 % 65536 = 0 ∧ r.1 + 65536 * r.2 ≤ 2 ^ 40) →
      exec (.framePool c rs) s = .next ((s.modCtx c fun x => { x with pool := x.pool ++ rs }).answer (.framePool c rs) 0))

/-- NODEWRITE writes a legal descriptor and sets its count, BUSY while the node is live and REFUSED when it is not
legal; LQCREATE makes an empty queue; BIND binds a node to an object; PEER sets the peer at its coordinates; PREEMPT
of a node, and RESUME, hold and release what it has not dispatched, and a group that no frame takes stays halted on
its core and is counted; RESUME alone names one group, and clears BKEN in its frame when it is to; STAT returns late
signals, dropped counts, the capability vector of a core, whose MISM is what the last reset published (a mismatch
raises the count and leaves what is published), and the entries that the host may read; ATTEST writes the report of a
nonce, or the certificate; DEBUG marks the context; POWER sets the limit within 1.5 to 4.4 kW, and REFUSES any other.
The model's own choices and readings in it: assumptions 44, 46, 49, 50 and 71 of the log (R393, R395, R405, R427,
R435, R436, R441, R447, R448, R450, R464, R468). -/
def Obligations.MailboxWork : Prop :=
  (∀ (c : Nat) (s : State) (x : Ctx), s.ctx c = some x →
    (∀ (i : Nat) (bs : List Byte), i < 0xFFFF →
      ((mapGet x.nodes i).any (·.live) = true → exec (.nodeWrite c i bs) s = .next (s.answer (.nodeWrite c i bs) 4))
      ∧ ((mapGet x.nodes i).any (·.live) = false → s.nodeOk c x bs (descOf bs) = false →
        exec (.nodeWrite c i bs) s = .next (s.answer (.nodeWrite c i bs) 1))
      ∧ ((mapGet x.nodes i).any (·.live) = false → s.nodeOk c x bs (descOf bs) = true →
        let new : Node := { desc := descOf bs, count := leNat ((bs.drop 40).take 2), live := false, complete := false
                            failed := false, aborted := false, tag := 0, place := 0, order := 0, board := none
                            dispatched := 0, exited := 0, queue := [], reserved := 0, handles := [], held := false }
        exec (.nodeWrite c i bs) s = .next ((s.modCtx c fun x => { x with nodes := mapSet x.nodes i new }).answer
          (.nodeWrite c i bs) 0)))
    ∧ (∀ (a : LqCreateArgs), a.ctx = c → a.q < 256 → (∃ k, 6 ≤ k ∧ k ≤ 16 ∧ a.entries = 2 ^ k) → a.doorbell < 1024 →
      mapGet s.lqs (lqKey c a.q) = none → (∀ p ∈ s.lqs, p.2.doorbell ≠ a.doorbell) →
      let new : LQueue := { ctx := c, ring := a.ring, entries := a.entries, completion := a.completion, doorbell := a.doorbell, tail := 0
                            waiting := [], submitted := 0, done := [], counter := 0 }
      exec (.lqCreate a) s = .next (State.answer { s with lqs := mapSet s.lqs (lqKey c a.q) new } (.lqCreate a) 0))
    ∧ (∀ o n, (mapGet x.objs o).isSome = true → (mapGet x.nodes n).isSome = true →
      exec (.bind c o n) s = .next ((s.modCtx c fun x => { x with binds := mapSet x.binds o n }).answer (.bind c o n) 0))
    ∧ (∀ o n, ((mapGet x.objs o).isNone = true ∨ (mapGet x.nodes n).isNone = true) →
      exec (.bind c o n) s = .next (s.answer (.bind c o n) 3))
    ∧ (∀ p : PeerArgs, p.ctx = c → p.gx.extractLsb' 10 6 = 0 → p.gy.extractLsb' 10 6 = 0 → 1 ≤ p.pctx.toNat →
      p.pctx.toNat ≤ 4095 → p.zero = 0 → p.lsel.length = 8 → (∀ b ∈ p.lsel, b.toNat < 2) → (∀ b ∈ p.rest, b = 0) →
      let new : Peer := { gx := p.gx.toNat, gy := p.gy.toNat, pctx := p.pctx.toNat, lsel := p.lsel }
      let others := fun (x : Ctx) => x.peers.filter fun q => !(q.gx == p.gx.toNat && q.gy == p.gy.toNat)
      exec (.peer p) s = .next ((s.modCtx c fun x => { x with peers := new :: others x }).answer (.peer p) 0))
    ∧ (∀ p : PeerArgs, p.ctx = c → p.zero ≠ 0 → exec (.peer p) s = .next (s.answer (.peer p) 1))
    ∧ (∀ n clear,
      let put := fun (v : Bool) (p : Nat × Node) => (p.1, if p.1 = n then { p.2 with held := v } else p.2)
      let hold := fun v => s.modCtx c fun x => { x with nodes := x.nodes.map (put v) }
      ((∀ p ∈ s.groups, ¬(p.2.ctx = c ∧ p.2.node = n)) →
        exec (.preempt c (.node n)) s = .next ((hold true).answerVal (.preempt c (.node n)) 0 0)
        ∧ exec (.resume c ⟨.node n, clear⟩) s = .next ((hold false).answer (.resume c ⟨.node n, clear⟩) 0))
      ∧ ∀ gid g, s.groups = [(gid, g)] → g.ctx = c → g.node = n → (s.desc g).cluster = 1 → (s.desc g).isDuet = false →
        (g.res = .resident → (s.core g.die g.core).entries.filter (fun e => e.gid == gid) = [] →
          x.poolUnits < x.used + frameUnits (s.desc g) 0 → exec (.preempt c (.node n)) s
          = .next (((hold true).modGroup gid fun g => { g with res := .halted }).answerVal (.preempt c (.node n)) 2 1))
        ∧ ∀ lin, g.lin = lin → exec (.preempt c (.group n lin)) s = .next (s.answer (.preempt c (.group n lin)) 1)
          ∧ (g.res = .saved .preempted → exec (.resume c ⟨.group n lin, clear⟩) s
            = .next ((s.modGroup gid fun g => { g with
                res := .saved .resumed
                warps := if clear then g.warps.map (fun w => { w with mode := w.mode &&& ~~~4#32 }) else g.warps }).answer
              (.resume c ⟨.group n lin, clear⟩) 0)))
    ∧ exec (.stat c .lateSignals) s = .next (s.answerVal (.stat c .lateSignals) 0 (BitVec.ofNat 64 x.late))
    ∧ (∀ d, exec (.stat c (.droppedRedst d)) s = .next (s.answerVal (.stat c (.droppedRedst d)) 0
      (BitVec.ofNat 64 ((mapGet x.dropped d).getD 0))))
    ∧ exec (.debug c) s = .next ((s.modCtx c fun x => { x with debug := true }).answer (.debug c) 0))
  ∧ (∀ (c d k : Nat) (s : State), d < 8 → k < 72 → ∃ v, exec (.stat c (.capability d k)) s
      = .next (s.answerVal (.stat c (.capability d k)) 0 v) ∧ v.extractLsb' 0 8 = BitVec.ofNat 8 k
      ∧ ((s.core d k).state < 4 → v.extractLsb' 8 2 = BitVec.ofNat 2 (s.core d k).state
        ∧ v.extractLsb' 12 4 = (s.core d k).qmask ∧ v.extractLsb' 16 8 = BitVec.ofNat 8 (min 255 (s.core d k).shown)
        ∧ v.extractLsb' 24 40 = 0 ∧ ((s.core d k).qmask = 0xF → v.extractLsb' 10 2 = 2)))
  ∧ (∀ (d k : Nat) (s : State) (g : Group), ((s.countMism g).core d k).shown = (s.core d k).shown
      ∧ ((s.core d k).mism ≤ 255 → ((s.countMism g).core d k).mism ≤ 255))
  ∧ (∀ (d k : Nat) (s : State), d < 8 → k < 72 → ∃ t, exec (.reset ⟨[], none⟩) s = .next t
      ∧ (t.core d k).shown = min 255 (s.core d k).mism ∧ (t.core d k).mism = 0)
  ∧ (∀ (c k : Nat) (s : State) (r : Report) (w : StatSel),
      ((∃ e, s.errLog[k]? = some e ∧ w = .errorLog k ∧ r = .log e)
        ∨ (∃ e, s.nodeStatus[k]? = some e ∧ w = .nodeStatus k ∧ r = .node e)
        ∨ ∃ e, s.aborts[k]? = some e ∧ w = .abort k ∧ r = .abort e) →
      ∃ v, exec (.stat c w) s = .next
        { s.answerWith (.stat c w) { status := 0, value := v, report := r } with fresh := s.fresh + 1 })
  ∧ (∀ (nonce : List Byte) (addr : W64) (s : State), nonce.length = 32 →
      let out := fun (bs : List Byte) => ({ s with hostOut := s.hostOut ++ [{ addr := addr, bytes := bs }] } : State)
      let head := bytesOfWord 4 0x4B520001 ++ bytesOfWord 4 s.trust.log.length ++ nonce ++ s.trust.chain
        ++ s.trust.log.flatMap Measure.bytes
      (∃ keys, exec (.attest nonce 0 addr) s = .next ((out (head ++ keys)).answer (.attest nonce 0 addr) 0)
        ∧ keys.length = 1952 + 3309)
      ∧ ∃ cert, exec (.attest nonce 1 addr) s = .next ((out cert).answer (.attest nonce 1 addr) 0))
  ∧ ∀ (mw : Nat) (s : State),
      (1500000 ≤ mw → mw ≤ 4400000 → exec (.power mw) s = .next (State.answer { s with limit := mw } (.power mw) 0))
      ∧ ((mw < 1500000 ∨ 4400000 < mw) → exec (.power mw) s = .next (s.answer (.power mw) 1))

/-- A write of MBTAIL makes the device read, from its ring in the host's memory, the commands from the old tail up to
the new, none while the ring has no legal size; a host that has placed up to a ring of them and writes the tail after
them gives it exactly those. MBBASE, MBSIZE, MBTAIL and MBRESP take the value written and MBHEAD does not. A doorbell
gives its queue the new tail and the entries up to it in the same way, and what the host wrote to the range of a
TODEVICE entry before it is known to that node (R456); one of no queue is logged. The next entry of a queue makes its
node live with its tag and place, and the node enters the callboard when its count is 0; an entry that may not do so
completes as failed. A CXL.mem read of a frame of a HOST object returns the bytes; a write is applied when the host
owns the object; any other access, one through the raw alias among them, gets an error response and is logged. The
model's own choices and readings in it: assumptions 45, 52, 53, 54, 79 and 102 of the log (R118, R396, R407, R445,
R446, R447, R450, R451, R453, R456). -/
def Obligations.HostAccesses : Prop :=
  let slot := fun (base : W64) (size i : Nat) => (base + BitVec.ofNat 64 (64 * (i % size))).toNat
  let placed := fun (s : State) (base : W64) (size i : Nat) (xs : List HostSlot) => ({ s with
    hostMem := xs.zipIdx.foldl (fun m p => mapSet m (slot base size (i + p.2)) p.1) s.hostMem } : State)
  (∀ (size n : Nat) (old : W64), n ≤ size → size < 2 ^ 64 →
    newSlots size old (old + BitVec.ofNat 64 n) = (List.range n).map (old.toNat + ·))
  ∧ (∀ (tail : W64) (cmds : List CmdSlot) (s : State),
    let m := s.mailbox
    let n := m.size.toNat
    let u := placed s m.base n m.tail.toNat (cmds.map .cmd)
    let legal := (∃ k, n = 2 ^ k) ∧ 16 ≤ n ∧ n ≤ 4096
    (legal → exec (.mbTailWrite tail cmds) s = .next { u with mailbox := { m with
      tail := tail, cmds := m.cmds ++ (newSlots n m.tail tail).map fun i => u.hostCmd (slot m.base n i) } })
    ∧ (legal → cmds.length ≤ n → mapSorted none s.hostMem = true → tail = m.tail + BitVec.ofNat 64 cmds.length →
      exec (.mbTailWrite tail cmds) s = .next { u with mailbox := { m with tail := tail, cmds := m.cmds ++ cmds } })
    ∧ (¬legal → exec (.mbTailWrite tail cmds) s = .next { u with mailbox := { m with tail := tail } })
    ∧ exec (.registerWrite 0x10 tail) s = exec (.mbTailWrite tail []) s)
  ∧ (∀ (d : Nat) (tail : W64) (es : List LqEntry) (s : State), d < 1024 →
    ((∀ p ∈ s.lqs, p.2.doorbell ≠ d) → exec (.doorbellWrite d tail es) s = .next { s with
      errLog := s.errLog ++ [.doorbell (0x1000 + 8 * d) tail.toNat] })
    ∧ ∀ q x, s.lqs.find? (fun p => p.2.doorbell == d) = some (q, x) →
      let u := placed s x.ring x.entries x.tail.toNat (es.map .entry)
      let given := fun (new : List LqEntry) => new.foldl (fun s e => s.hostRelease x.ctx e) { u with
        lqs := mapSet s.lqs q { x with tail := tail, waiting := x.waiting ++ new } }
      exec (.doorbellWrite d tail es) s = .next (given ((newSlots x.entries x.tail tail).map fun i =>
        u.hostEntry (slot x.ring x.entries i)))
      ∧ (0 < x.entries → x.entries ≤ 65536 → es.length ≤ x.entries → mapSorted none s.hostMem = true →
        tail = x.tail + BitVec.ofNat 64 es.length → exec (.doorbellWrite d tail es) s = .next (given es)))
  ∧ (∀ (c : Nat) (e : LqEntry) (s : State),
    ((∀ y, s.node c e.node = some y → e.op ≠ 1 ∨ y.desc.ctl ≠ 2) → s.hostRelease c e = s)
    ∧ ∀ y o, s.node c e.node = some y → e.op = 1 → y.desc.ctl = 2 → s.obj c (capObj (y.desc.ops.getD 0 0)) = some o →
      s.hostRelease c e = s.teach (fun x => x.by_ == .host && x.ctx == c && s.mapsFrame c o (x.addr / 65536)) [.node c e.node])
  ∧ (∀ (v : W64) (s : State), let m := s.mailbox
    exec (.registerWrite 0x00 v) s = .next { s with mailbox := { m with base := v } }
    ∧ exec (.registerWrite 0x08 v) s = .next { s with mailbox := { m with size := v } }
    ∧ exec (.registerWrite 0x18 v) s = .next s
    ∧ exec (.registerWrite 0x20 v) s = .next { s with mailbox := { m with resp := v } }
    ∧ ∀ d, d < 1024 → exec (.registerWrite (BitVec.ofNat 64 (0x1000 + 8 * d)) v) s = exec (.doorbellWrite d v []) s)
  ∧ (∀ (c q : Nat) (s : State) (x : LQueue) (e : LqEntry) (rest : List LqEntry), q < 256 →
    mapGet s.lqs (lqKey c q) = some x → x.ctx = c → x.waiting = e :: rest →
    let place := x.submitted + 1
    let u : State := { s with lqs := mapSet s.lqs (lqKey c q) { x with waiting := rest, submitted := place } }
    (∀ y, s.node x.ctx e.node = some y → e.op = 1 → e.zeros = true → y.live = false → y.complete = false →
      y.desc.lq = q → (y.count ≠ 0 ∨ y.desc.ctl ≠ 0 ∨ y.desc.cueMask = 0) → y.board = none →
      let v := (u.modNode x.ctx e.node fun n => { n with live := true, tag := e.tag, place := place, order := s.stamp }).nextStamp
      exec (.submit ⟨c, q⟩) s = .next (if y.count = 0 then
        (v.modNode x.ctx e.node fun n => { n with
          board := some (if y.desc.ctl = 0 ∧ y.desc.qrec = 0 then s.stamp else s.stamp + 1) }).nextStamp else v))
    ∧ ((s.node x.ctx e.node = none ∨ e.op ≠ 1 ∨ e.zeros = false) → exec (.submit ⟨c, q⟩) s = .next (State.advanceLq { u with
      nodeStatus := s.nodeStatus ++ [{ ctx := x.ctx, node := e.node, tag := e.tag, ok := false }]
      notices := s.notices ++ [.nodeFailed x.ctx e.node e.tag] } (lqKey c q) place)))
  ∧ ∀ (addr : Nat) (s : State), addr < 2 ^ 41 → addr % 64 = 0 →
    let bad := fun (u : State) (w : Bool) => (Outcome.next { u with
      cxlOut := u.cxlOut ++ [{ addr := addr, write := w, poison := true, data := if w then [] else List.replicate 64 0xFF }]
      errLog := u.errLog ++ [.cxl addr w] } : Out)
    (2 ^ 40 ≤ addr ∨ s.hostFrame (addr / 65536) = none → exec (.cxlMemRead addr) s = bad s false
      ∧ ∀ bs, bs.length = 64 → exec (.cxlMemWrite addr bs) s = bad s true)
    ∧ ∀ c o, addr < 2 ^ 40 → s.hostFrame (addr / 65536) = some (c, o) →
      (s.badRead .hbm addr 64 = false → exec (.cxlMemRead addr) s = .next { s with
        cxlOut := s.cxlOut ++ [{ addr := addr, write := false, poison := false
                                 data := s.readHome (s.keyOf c) .hbm addr 64 }] })
      ∧ (s.badRead .hbm addr 64 = true → exec (.cxlMemRead addr) s = bad s false)
      ∧ ∀ bs : List Byte, bs.length = 64 →
        (o.hostOwned = false → exec (.cxlMemWrite addr bs) s = bad s true)
        ∧ ∀ t,
          let w : Recent := { id := 0, by_ := .host, space := .hbm, addr := addr, old := [], ord := .rc, rels := []
                              known := [], wide := [], ctx := c, node := 0 }
          o.hostOwned = true → s.commit w bs = (t, false) →
          exec (.cxlMemWrite addr bs) s = .next { t with
            cxlOut := t.cxlOut ++ [{ addr := addr, write := true, poison := false, data := [] }] }

/-- On a link that is up, the next flit with a good CRC is acknowledged and its chunk received, one with a bad CRC or
ahead of its turn is asked for again, and one that was taken before is acknowledged and dropped; an acknowledgement
frees the flits it covers; a negative one sends them again in order, and a timeout the one flit, each counted. A link
with a flit sent again 8 times retrains; when that succeeds the counts start again, when it fails for the third time
within 10 ms the link is down, its flits are gone, and the host learns for each peer context of each device how many
chunks were not acknowledged. A chunk waits for those of its link before it. A chunk for a LOFT object in reach of its
link's die reaches its place and counts for the node bound to the object; one that has no place is dropped. The
model's own choices and readings in it: assumptions 55 and 56 of the log (R133, R325, R328, R405, R453, R457, R458,
R459). -/
def Obligations.LinksAndChunks : Prop :=
  (∀ (l : Nat) (s : State) (x : Link), l < 16 → s.links[l]? = some x →
    let put := fun (y : Link) => ({ s with links := s.links.set l y } : State)
    let again := fun (y : Link) (fs : List Flit) => (Outcome.next { put y with
      linkOut := s.linkOut ++ fs.map fun f => LinkMsg.flit l f.n f.payload } : Out)
    (x.down = false →
      (∀ ch, exec (.flitReceive ⟨l, x.expect⟩ true ch) s = .next { put { x with expect := x.expect + 1 } with
        linkOut := s.linkOut ++ [.ack l x.expect]
        chunks := s.chunks ++ ch.toList.map fun c => { link := l, args := c } })
      ∧ (∀ n ok ch, (ok = false ∨ x.expect < n) → exec (.flitReceive ⟨l, n⟩ ok ch) s
        = .next { s with linkOut := s.linkOut ++ [.nak l x.expect] })
      ∧ (∀ n ch, n < x.expect → exec (.flitReceive ⟨l, n⟩ true ch) s = .next { s with linkOut := s.linkOut ++ [.ack l n] })
      ∧ (∀ n, exec (.flitNak l n) s = again { x with retry := x.retry.take n ++ (x.retry.drop n).map fun f =>
          { f with resends := f.resends + 1 } } (x.retry.drop n))
      ∧ ∀ n f, x.retry[n]? = some f → exec (.resendTimeout l n) s
        = again { x with retry := x.retry.set n { f with resends := f.resends + 1 } } [f])
    ∧ (∀ n, exec (.flitAck l n) s = .next (put { x with retry := x.retry.drop n }))
    ∧ ((x.down = false ∧ x.retraining = false ∧ ∃ f ∈ x.retry, 8 ≤ f.resends) →
      exec (.linkRetrain l) s = .next (put { x with retraining := true }))
    ∧ ((∀ f ∈ x.retry, f.resends < 8) → exec (.linkRetrain l) s = .next s)
    ∧ (x.retraining = true →
      (∀ w, exec (.linkRetrainComplete l true w) s = .next (put { x with
        retraining := false, retry := x.retry.map fun f => { f with resends := 0 } }))
      ∧ (∀ w, (x.fails < 2 ∨ w = false) → exec (.linkRetrainComplete l false w) s = .next (put { x with
        retraining := false, fails := x.fails + 1 }))
      ∧ (2 ≤ x.fails → ∃ t peers, exec (.linkRetrainComplete l false true) s = .next t
        ∧ t = { put { x with retry := [], retraining := false, fails := x.fails + 1, down := true } with
            notices := s.notices ++ peers }
        ∧ (∀ a b p k, Notice.linkDown l a b p k ∈ peers ↔ (∃ f ∈ x.retry, f.gx = a ∧ f.gy = b ∧ f.pctx = p)
            ∧ k = (x.retry.filter fun f => f.endsChunk && f.gx == a && f.gy == b && f.pctx == p).length)
        ∧ ∀ y ∈ peers, ∃ a b p k, y = Notice.linkDown l a b p k)))
  ∧ ∀ (k l : Nat) (s : State) (c : ChunkArgs), s.chunks[k]? = some { link := l, args := c } →
    let u : State := { s with chunks := s.chunks.eraseIdx k }
    ((∃ y ∈ s.chunks.take k, y.link = l) → exec (.chunkArrival k) s = .next s)
    ∧ ((∀ y ∈ s.chunks.take k, y.link ≠ l) →
      ((s.obj c.ctx c.obj = none ∨ ∃ o, s.obj c.ctx c.obj = some o ∧ (o.len < c.off + c.data.length ∨ o.hostOwned = true)) →
        exec (.chunkArrival k) s = .next u)
      ∧ ∀ o d, s.obj c.ctx c.obj = some o → c.off + c.data.length ≤ o.len → o.hostOwned = false → o.kind = .loft →
        o.placed = some d → (s.hops (l / 2) d).isSome = true →
        let old := s.readHome (s.keyOf c.ctx) (.loft d) (o.base + c.off) c.data.length
        let bs := chunkBytes c old
        (c.op = 0 → bs = c.data)
        ∧ (∀ t,
          let w : Recent := { id := 0, by_ := .host, space := .loft d, addr := o.base + c.off, old := [], ord := o.ord
                              rels := [], known := [], wide := [], ctx := c.ctx, node := 0 }
          u.commit w (bs.take c.data.length) = (t, false) →
          exec (.chunkArrival k) s = .next (match (s.ctx c.ctx).bind fun x => mapGet x.binds c.obj with
            | some n => (t.teach (fun e => decide (s.stamp ≤ e.id)) [.node c.ctx n]).decrement c.ctx n
            | none => t)))

/-- After a reset there are no contexts, and so no objects and no page tables, no groups, and nothing under way; main
memory and the lofts are as after power-on, and the mailbox registers are zero (the model's choice); what the host
holds in its own memory stands; a malformed stage image halts it with the log as far as that stage. The power window
above the limit lowers every core clock by 125 MHz, not below 1,000 MHz; the junction events set and clear the
throttle of their die, which holds it at its lowest clock; a lost die is logged as a machine check and ends every
context whose map names it, with a notice, and no other; loss of coolant stops every die and ends every context, and
nothing goes on before a reset. The model's own choices and readings in it: assumptions 5, 7, 57 and 58 of the log
(R391, R442, R460, R463, R464, R465). -/
def Obligations.WholePart : Prop :=
  (∀ (failed : List QuadrantFail) (bad : Option (Nat × Nat)) (s : State),
    (∀ f ∈ failed, f.die < 8 ∧ f.core < 72 ∧ f.quadrant < 4) → (∀ p, bad = some p → p ∈ measuredStages) →
    ∃ t, exec (.reset ⟨failed, bad⟩) s = .next t ∧ t.ctxs = [] ∧ t.groups = [] ∧ t.lqs = [] ∧ t.ops = [] ∧ t.writes = []
      ∧ t.walks = [] ∧ t.hbm = [] ∧ t.loft = [] ∧ t.mailbox = Mailbox.reset ∧ t.halted = bad.isSome
      ∧ (bad = none → t.trust = Trust.reset)
      ∧ (∀ p, bad = some p → ∃ n, measuredStages[n]? = some p ∧ t.trust.log = (measuredStages.take (n + 1)).map measure)
      ∧ t.links = List.replicate 16 Link.reset ∧ t.dies.length = s.dies.length
      ∧ (∀ d ∈ t.dies, d.lost = false ∧ d.stopped = false ∧ d.throttled = false ∧ d.mhz = 4000 ∧ d.banks = []
        ∧ d.rings = [] ∧ d.tlb = [] ∧ ∀ k ∈ d.cores, k.queue = [] ∧ k.waiting = [] ∧ k.dtlb = [] ∧ k.itlb = [] ∧ k.objs = []
          ∧ (bad = none → k.mism = 0 ∧ k.accErr = false))
      ∧ t.agenda = s.agenda ∧ t.hostOut = s.hostOut ∧ t.hostMem = s.hostMem)
  ∧ (∀ (mw : Nat) (s : State),
    (s.limit < mw → exec (.powerAverageWindow mw) s = .next { s with dies := s.dies.map fun d => { d with
      mhz := if d.mhz < 1125 then 1000 else d.mhz - 125 } })
    ∧ (mw ≤ s.limit → exec (.powerAverageWindow mw) s = .next s))
  ∧ (∀ (d : Nat) (s : State) (x : Die), d < 8 → s.dies[d]? = some x →
    exec (.junctionThrottle d) s = .next { s with dies := s.dies.set d { x with throttled := true } }
    ∧ exec (.junctionRecover d) s = .next { s with dies := s.dies.set d { x with throttled := false } }
    ∧ ({ x with throttled := true } : Die).clock = 1000 ∧ ({ x with throttled := false } : Die).clock = x.mhz)
  ∧ (∀ (d : Nat) (s : State) (x : Die), d < 8 → s.dies[d]? = some x → x.lost = false → mapSorted none s.ctxs = true →
    ∃ t, exec (.dieLost d) s = .next t ∧ (t.die d).lost = true
      ∧ t.errLog = s.errLog ++ [.machineCheck d 0 0 (BitVec.ofNat 64 (4 + 256 * d))]
      ∧ (∀ c y, s.ctx c = some y → (some d ∈ y.map → t.ctx c = none ∧ .contextEnded c (some d) ∈ t.notices)
        ∧ (some d ∉ y.map → t.ctx c = some y))
      ∧ t.hbm = s.hbm ∧ t.loft = s.loft)
  ∧ ∀ s : State, mapSorted none s.ctxs = true → ∃ t, exec .coolantFlowLoss s = .next t ∧ (∀ d ∈ t.dies, d.stopped = true) ∧ t.halted = true
    ∧ t.ctxs = [] ∧ (∀ c y, s.ctx c = some y → .contextEnded c none ∈ t.notices) ∧ t.hbm = s.hbm
end

