-- ==== Sys2Proof/Laws/Map.lean ====
section
/-! SUPPORT. Keyed lists and memories: read after write, and the canonical form. -/

namespace Sys2Proof.Machine

/-! ## Reading after a change -/

@[simp] theorem mapGet_nil {β : Type} (i : Nat) : mapGet ([] : KMap β) i = none := rfl

theorem mapGet_mapSet {β : Type} (m : KMap β) (i j : Nat) (x : β) (h : mapSorted none m = true) :
    mapGet (mapSet m i x) j = if j = i then some x else mapGet m j := by
  suffices H : ∀ (m : KMap β) (lo : Option Nat), mapSorted lo m = true →
      mapGet (mapSet m i x) j = if j = i then some x else mapGet m j from H m none h
  intro m
  induction m with
  | nil => intro lo _; by_cases hj : j = i <;> simp [mapSet, mapGet, hj]
  | cons p m ih =>
    obtain ⟨k, v⟩ := p
    intro lo hs
    simp only [mapSorted, Bool.and_eq_true] at hs
    have := ih _ hs.2
    simp only [mapSet]
    split
    · subst_vars; by_cases hj : j = k <;> simp [mapGet, hj]
    · split
      · by_cases hj : j = i
        · subst hj; simp [mapGet]
        · by_cases hjk : j = k
          · subst hjk; simp [mapGet, hj]; omega
          · simp [mapGet, hj, hjk]
            intro h1; omega
      · by_cases hj : j = i
        · subst hj; simp only [mapGet, this]; simp_all
        · simp [mapGet, this, hj]

theorem mapGet_of_lt {β : Type} (m : KMap β) (lo i : Nat) (h : mapSorted (some lo) m = true) (hi : i ≤ lo) :
    mapGet m i = none := by
  cases m with
  | nil => rfl
  | cons p m =>
    obtain ⟨k, v⟩ := p
    simp only [mapSorted, Bool.and_eq_true, decide_eq_true_eq] at h
    simp only [mapGet]
    split
    · omega
    · split <;> [rfl; omega]

theorem mapGet_mapErase {β : Type} (m : KMap β) (i j : Nat) (h : mapSorted none m = true) :
    mapGet (mapErase m i) j = if j = i then none else mapGet m j := by
  suffices H : ∀ (m : KMap β) (lo : Option Nat), mapSorted lo m = true →
      mapGet (mapErase m i) j = if j = i then none else mapGet m j from H m none h
  intro m
  induction m with
  | nil => intro lo _; simp [mapErase]
  | cons p m ih =>
    obtain ⟨k, v⟩ := p
    intro lo hs
    simp only [mapSorted, Bool.and_eq_true] at hs
    have := ih _ hs.2
    simp only [mapErase]
    split
    · subst_vars
      by_cases hj : j = k
      · subst hj; simp; exact mapGet_of_lt m j j hs.2 (Nat.le_refl _)
      · by_cases hlt : j < k
        · simp [mapGet, hj, hlt, mapGet_of_lt m k j hs.2 (by omega)]
        · simp [mapGet, hj, hlt]
    · split
      · by_cases hj : j = i <;> simp_all [mapGet]
      · by_cases hj : j = i
        · subst hj; simp only [mapGet, this]; simp_all
        · simp [mapGet, this, hj]

/-- What a change at one key leaves at every key. -/
theorem mapGet_mapMod {β : Type} (m : KMap β) (i j : Nat) (f : β → β) :
    mapGet (mapMod m i f) j = if j = i then (mapGet m j).map f else mapGet m j := by
  induction m with
  | nil => simp [mapMod]
  | cons p m ih =>
    obtain ⟨k, v⟩ := p
    simp only [mapMod]
    split
    · subst_vars; by_cases hj : j = k <;> simp [mapGet, hj]
    · split
      · by_cases hj : j = i
        · subst hj; simp [mapGet, *]
        · simp [hj]
      · by_cases hj : j = i
        · subst hj; simp [mapGet, *]
        · simp only [mapGet, ih, if_neg hj]

@[simp] theorem mapGet_mapMod_same {β : Type} (m : KMap β) (i : Nat) (f : β → β) :
    mapGet (mapMod m i f) i = (mapGet m i).map f := by simp [mapGet_mapMod]

theorem mapGet_mapMod_ne {β : Type} (m : KMap β) (i j : Nat) (f : β → β) (h : j ≠ i) :
    mapGet (mapMod m i f) j = mapGet m j := by simp [mapGet_mapMod, h]

/-- Two changes at one key are one. -/
theorem mapMod_mapMod {β : Type} (m : KMap β) (i : Nat) (f g : β → β) :
    mapMod (mapMod m i f) i g = mapMod m i (fun x => g (f x)) := by
  induction m with
  | nil => rfl
  | cons p m ih =>
    obtain ⟨k, v⟩ := p
    simp only [mapMod]
    by_cases h : i = k
    · simp [h, mapMod]
    · by_cases h2 : i < k <;> simp [h, h2, mapMod, ih]

/-- A change that agrees with another at the value of the key is the same. -/
theorem mapMod_congr {β : Type} (m : KMap β) (i : Nat) (f g : β → β)
    (h : ∀ x, mapGet m i = some x → f x = g x) : mapMod m i f = mapMod m i g := by
  induction m with
  | nil => rfl
  | cons p m ih =>
    obtain ⟨k, v⟩ := p
    simp only [mapMod, mapGet] at *
    by_cases hk : i = k
    · simp [hk] at *; exact h
    · by_cases h2 : i < k
      · simp [hk, h2]
      · simp only [if_neg hk, if_neg h2] at *; rw [ih h]

/-! ## Canonical form -/

theorem mapSorted_mapSet {β : Type} (m : KMap β) (i : Nat) (x : β) :
    ∀ lo : Option Nat, mapSorted lo m = true → (∀ l, lo = some l → l < i) → mapSorted lo (mapSet m i x) = true := by
  induction m with
  | nil => intro lo _ h; cases lo <;> simp_all [mapSet, mapSorted]
  | cons p m ih =>
    obtain ⟨k, v⟩ := p
    intro lo h hl
    simp only [mapSorted, Bool.and_eq_true] at h
    simp only [mapSet]
    split
    · subst_vars; simp [mapSorted, h]
    · split
      · cases lo <;> simp_all [mapSorted]
      · simp only [mapSorted, Bool.and_eq_true]
        refine ⟨h.1, ih _ h.2 ?_⟩
        intro l hl2; cases hl2; omega

theorem mapSorted_weaken {β : Type} (m : KMap β) (lo : Option Nat) (k : Nat) (h : mapSorted (some k) m = true)
    (hl : ∀ l, lo = some l → l ≤ k) : mapSorted lo m = true := by
  cases m with
  | nil => rfl
  | cons p m =>
    obtain ⟨k2, v⟩ := p
    simp only [mapSorted, Bool.and_eq_true, decide_eq_true_eq] at *
    refine ⟨?_, h.2⟩
    cases lo with
    | none => rfl
    | some l => have := hl l rfl; simp; omega

theorem mapSorted_mapErase {β : Type} (m : KMap β) (i : Nat) :
    ∀ lo : Option Nat, mapSorted lo m = true → mapSorted lo (mapErase m i) = true := by
  induction m with
  | nil => intro lo _; rfl
  | cons p m ih =>
    obtain ⟨k, v⟩ := p
    intro lo h
    have h' := h
    simp only [mapSorted, Bool.and_eq_true] at h
    simp only [mapErase]
    split
    · refine mapSorted_weaken m lo k h.2 ?_
      intro l hl; subst hl; simp at h; omega
    · split
      · exact h'
      · simp only [mapSorted, Bool.and_eq_true]; exact ⟨h.1, ih _ h.2⟩

theorem mapSorted_mapMod {β : Type} (m : KMap β) (i : Nat) (f : β → β) :
    ∀ lo : Option Nat, mapSorted lo (mapMod m i f) = mapSorted lo m := by
  induction m with
  | nil => intro lo; rfl
  | cons p m ih =>
    obtain ⟨k, v⟩ := p
    intro lo
    simp only [mapMod]
    split
    · simp [mapSorted]
    · split <;> simp [mapSorted, ih]

theorem all_mapSet {β : Type} (m : KMap β) (i : Nat) (x : β) (p : Nat × β → Bool) (h : m.all p = true)
    (hx : p (i, x) = true) : (mapSet m i x).all p = true := by
  induction m with
  | nil => simp [mapSet, hx]
  | cons q m ih =>
    obtain ⟨k, v⟩ := q
    simp only [List.all_cons, Bool.and_eq_true] at h
    simp only [mapSet]
    split
    · subst_vars; simp only [List.all_cons, Bool.and_eq_true]; exact ⟨hx, h.2⟩
    · split
      · simp only [List.all_cons, Bool.and_eq_true]; exact ⟨hx, h⟩
      · simp only [List.all_cons, Bool.and_eq_true]; exact ⟨h.1, ih h.2⟩

theorem all_mapErase {β : Type} (m : KMap β) (i : Nat) (p : Nat × β → Bool) (h : m.all p = true) :
    (mapErase m i).all p = true := by
  induction m with
  | nil => rfl
  | cons q m ih =>
    obtain ⟨k, v⟩ := q
    simp only [List.all_cons, Bool.and_eq_true] at h
    simp only [mapErase]
    split
    · exact h.2
    · split <;> simp only [List.all_cons, Bool.and_eq_true]
      · exact h
      · exact ⟨h.1, ih h.2⟩

theorem all_mapMod {β : Type} (m : KMap β) (i : Nat) (f : β → β) (p : Nat × β → Bool) (h : m.all p = true)
    (hf : ∀ x, p (i, x) = true → p (i, f x) = true) : (mapMod m i f).all p = true := by
  induction m with
  | nil => rfl
  | cons q m ih =>
    obtain ⟨k, v⟩ := q
    simp only [List.all_cons, Bool.and_eq_true] at h
    simp only [mapMod]
    split
    · subst_vars; simp only [List.all_cons, Bool.and_eq_true]; exact ⟨hf _ h.1, h.2⟩
    · split <;> simp only [List.all_cons, Bool.and_eq_true]
      · exact h
      · exact ⟨h.1, ih h.2⟩

/-- Writing a word keeps the canonical form. -/
theorem zwf_zset {w : Nat} (m : ZMap w) (i : Nat) (x : BitVec w) (h : zwf m = true) : zwf (zset m i x) = true := by
  simp only [zwf, Bool.and_eq_true] at *
  simp only [zset]
  split
  · exact ⟨mapSorted_mapErase m i none h.1, all_mapErase m i _ h.2⟩
  · refine ⟨mapSorted_mapSet m i x none h.1 (by simp), all_mapSet m i x _ h.2 ?_⟩
    simpa using ‹¬x = 0›

/-- Writing bytes keeps the canonical form. -/
theorem Memory.wf_writeBytes (bs : List Byte) : ∀ (m : Memory) (a : Nat), Memory.wf m = true → Memory.wf (writeBytes m a bs) = true := by
  induction bs with
  | nil => intro m a h; exact h
  | cons b bs ih => intro m a h; exact ih _ _ (zwf_zset m a b h)

@[simp] theorem zwf_nil {w : Nat} : zwf ([] : ZMap w) = true := rfl

/-- A write is read back, and leaves every other key alone. -/
theorem zget_zset {w : Nat} (m : ZMap w) (i j : Nat) (x : BitVec w) (h : zwf m = true) :
    zget (zset m i x) j = if j = i then x else zget m j := by
  simp only [zwf, Bool.and_eq_true] at h
  simp only [zget, zset]
  split
  · rw [mapGet_mapErase m i j h.1]; split <;> simp_all
  · rw [mapGet_mapSet m i j x h.1]; split <;> simp_all

/-- What each byte reads after a write of bytes. -/
theorem readByte_writeBytes (bs : List Byte) : ∀ (m : Memory) (a j : Nat), Memory.wf m = true →
    readByte (writeBytes m a bs) j = if a ≤ j ∧ j < a + bs.length then bs.getD (j - a) 0 else readByte m j := by
  induction bs with
  | nil => intro m a j _; simp [writeBytes]
  | cons b bs ih =>
    intro m a j h
    simp only [writeBytes, List.length_cons]
    rw [ih _ _ _ (zwf_zset m a b h), readByte, readByte, zget_zset m a j b h]
    by_cases h1 : j = a
    · subst h1; simp
    · by_cases h2 : a + 1 ≤ j ∧ j < a + 1 + bs.length
      · have h3 : a ≤ j ∧ j < a + (bs.length + 1) := by omega
        obtain ⟨k, hk⟩ : ∃ k, j - a = k + 1 := ⟨j - a - 1, by omega⟩
        have hk2 : j - (a + 1) = k := by omega
        simp [h2, h3, hk, hk2]
      · have h3 : ¬(a ≤ j ∧ j < a + (bs.length + 1)) := by omega
        rw [if_neg h2, if_neg h1, if_neg h3]

/-! ## Lists -/

@[simp] theorem listMod_length {α : Type} (xs : List α) (i : Nat) (f : α → α) : (listMod xs i f).length = xs.length := by
  induction xs generalizing i with
  | nil => rfl
  | cons x xs ih => cases i <;> simp [listMod, ih]

theorem listMod_getD {α : Type} (xs : List α) (i j : Nat) (f : α → α) (d : α) :
    (listMod xs i f).getD j d = if j = i ∧ i < xs.length then f (xs.getD j d) else xs.getD j d := by
  induction xs generalizing i j with
  | nil => simp [listMod]
  | cons x xs ih =>
    cases i with
    | zero => cases j <;> simp [listMod]
    | succ i => cases j with
      | zero => simp [listMod]
      | succ j => simpa [listMod] using ih i j

@[simp] theorem mapFrom_length {α β : Type} (k : Nat) (f : Nat → α → β) (xs : List α) :
    (mapFrom k f xs).length = xs.length := by
  induction xs generalizing k with
  | nil => rfl
  | cons x xs ih => simp [mapFrom, ih]

theorem mapFrom_getD {α : Type} (k : Nat) (f : Nat → α → α) (xs : List α) (j : Nat) (d : α) :
    (mapFrom k f xs).getD j d = if j < xs.length then f (k + j) (xs.getD j d) else d := by
  induction xs generalizing k j with
  | nil => simp [mapFrom]
  | cons x xs ih =>
    cases j with
    | zero => simp [mapFrom]
    | succ j => simpa [mapFrom, Nat.add_assoc, Nat.add_comm 1] using ih (k + 1) j

theorem listMod_listMod {α : Type} (xs : List α) (i : Nat) (f g : α → α) :
    listMod (listMod xs i f) i g = listMod xs i (fun x => g (f x)) := by
  induction xs generalizing i with
  | nil => rfl
  | cons x xs ih => cases i <;> simp [listMod, ih]

end Sys2Proof.Machine
end

