-- ==== Sys2Proof/Laws/State.lean ====
section
/-! SUPPORT. What each update of the state leaves of each field, one lemma a field and update. -/

namespace Sys2Proof.Machine

/-! ## `nextStamp` -/

@[simp] theorem State.nextStamp_agenda (s : State) : (s.nextStamp).agenda = s.agenda := rfl
@[simp] theorem State.nextStamp_turn (s : State) : (s.nextStamp).turn = s.turn := rfl
@[simp] theorem State.nextStamp_issue (s : State) : (s.nextStamp).issue = s.issue := rfl
@[simp] theorem State.nextStamp_second (s : State) : (s.nextStamp).second = s.second := rfl
@[simp] theorem State.nextStamp_fresh (s : State) : (s.nextStamp).fresh = s.fresh := rfl
@[simp] theorem State.nextStamp_hbm (s : State) : (s.nextStamp).hbm = s.hbm := rfl
@[simp] theorem State.nextStamp_hbmKey (s : State) : (s.nextStamp).hbmKey = s.hbmKey := rfl
@[simp] theorem State.nextStamp_hbmErr (s : State) : (s.nextStamp).hbmErr = s.hbmErr := rfl
@[simp] theorem State.nextStamp_loft (s : State) : (s.nextStamp).loft = s.loft := rfl
@[simp] theorem State.nextStamp_loftErr (s : State) : (s.nextStamp).loftErr = s.loftErr := rfl
@[simp] theorem State.nextStamp_loftOwner (s : State) : (s.nextStamp).loftOwner = s.loftOwner := rfl
@[simp] theorem State.nextStamp_ctxs (s : State) : (s.nextStamp).ctxs = s.ctxs := rfl
@[simp] theorem State.nextStamp_nextKey (s : State) : (s.nextStamp).nextKey = s.nextKey := rfl
@[simp] theorem State.nextStamp_groups (s : State) : (s.nextStamp).groups = s.groups := rfl
@[simp] theorem State.nextStamp_nextGid (s : State) : (s.nextStamp).nextGid = s.nextGid := rfl
@[simp] theorem State.nextStamp_cbars (s : State) : (s.nextStamp).cbars = s.cbars := rfl
@[simp] theorem State.nextStamp_duets (s : State) : (s.nextStamp).duets = s.duets := rfl
@[simp] theorem State.nextStamp_streams (s : State) : (s.nextStamp).streams = s.streams := rfl
@[simp] theorem State.nextStamp_writes (s : State) : (s.nextStamp).writes = s.writes := rfl
@[simp] theorem State.nextStamp_recent (s : State) : (s.nextStamp).recent = s.recent := rfl
@[simp] theorem State.nextStamp_loads (s : State) : (s.nextStamp).loads = s.loads := rfl
@[simp] theorem State.nextStamp_fenced (s : State) : (s.nextStamp).fenced = s.fenced := rfl
@[simp] theorem State.nextStamp_met (s : State) : (s.nextStamp).met = s.met := rfl
@[simp] theorem State.nextStamp_stale (s : State) : (s.nextStamp).stale = s.stale := rfl
@[simp] theorem State.nextStamp_refetches (s : State) : (s.nextStamp).refetches = s.refetches := rfl
@[simp] theorem State.nextStamp_walks (s : State) : (s.nextStamp).walks = s.walks := rfl
@[simp] theorem State.nextStamp_ops (s : State) : (s.nextStamp).ops = s.ops := rfl
@[simp] theorem State.nextStamp_emits (s : State) : (s.nextStamp).emits = s.emits := rfl
@[simp] theorem State.nextStamp_signals (s : State) : (s.nextStamp).signals = s.signals := rfl
@[simp] theorem State.nextStamp_chunks (s : State) : (s.nextStamp).chunks = s.chunks := rfl
@[simp] theorem State.nextStamp_dies (s : State) : (s.nextStamp).dies = s.dies := rfl
@[simp] theorem State.nextStamp_lqs (s : State) : (s.nextStamp).lqs = s.lqs := rfl
@[simp] theorem State.nextStamp_mailbox (s : State) : (s.nextStamp).mailbox = s.mailbox := rfl
@[simp] theorem State.nextStamp_hostMem (s : State) : (s.nextStamp).hostMem = s.hostMem := rfl
@[simp] theorem State.nextStamp_errLog (s : State) : (s.nextStamp).errLog = s.errLog := rfl
@[simp] theorem State.nextStamp_aborts (s : State) : (s.nextStamp).aborts = s.aborts := rfl
@[simp] theorem State.nextStamp_nodeStatus (s : State) : (s.nextStamp).nodeStatus = s.nodeStatus := rfl
@[simp] theorem State.nextStamp_notices (s : State) : (s.nextStamp).notices = s.notices := rfl
@[simp] theorem State.nextStamp_links (s : State) : (s.nextStamp).links = s.links := rfl
@[simp] theorem State.nextStamp_limit (s : State) : (s.nextStamp).limit = s.limit := rfl
@[simp] theorem State.nextStamp_trust (s : State) : (s.nextStamp).trust = s.trust := rfl
@[simp] theorem State.nextStamp_hostOut (s : State) : (s.nextStamp).hostOut = s.hostOut := rfl
@[simp] theorem State.nextStamp_cxlOut (s : State) : (s.nextStamp).cxlOut = s.cxlOut := rfl
@[simp] theorem State.nextStamp_linkOut (s : State) : (s.nextStamp).linkOut = s.linkOut := rfl
@[simp] theorem State.nextStamp_halted (s : State) : (s.nextStamp).halted = s.halted := rfl

/-! ## `nextFresh` -/

@[simp] theorem State.nextFresh_agenda (s : State) : (s.nextFresh).agenda = s.agenda := rfl
@[simp] theorem State.nextFresh_turn (s : State) : (s.nextFresh).turn = s.turn := rfl
@[simp] theorem State.nextFresh_issue (s : State) : (s.nextFresh).issue = s.issue := rfl
@[simp] theorem State.nextFresh_second (s : State) : (s.nextFresh).second = s.second := rfl
@[simp] theorem State.nextFresh_stamp (s : State) : (s.nextFresh).stamp = s.stamp := rfl
@[simp] theorem State.nextFresh_hbm (s : State) : (s.nextFresh).hbm = s.hbm := rfl
@[simp] theorem State.nextFresh_hbmKey (s : State) : (s.nextFresh).hbmKey = s.hbmKey := rfl
@[simp] theorem State.nextFresh_hbmErr (s : State) : (s.nextFresh).hbmErr = s.hbmErr := rfl
@[simp] theorem State.nextFresh_loft (s : State) : (s.nextFresh).loft = s.loft := rfl
@[simp] theorem State.nextFresh_loftErr (s : State) : (s.nextFresh).loftErr = s.loftErr := rfl
@[simp] theorem State.nextFresh_loftOwner (s : State) : (s.nextFresh).loftOwner = s.loftOwner := rfl
@[simp] theorem State.nextFresh_ctxs (s : State) : (s.nextFresh).ctxs = s.ctxs := rfl
@[simp] theorem State.nextFresh_nextKey (s : State) : (s.nextFresh).nextKey = s.nextKey := rfl
@[simp] theorem State.nextFresh_groups (s : State) : (s.nextFresh).groups = s.groups := rfl
@[simp] theorem State.nextFresh_nextGid (s : State) : (s.nextFresh).nextGid = s.nextGid := rfl
@[simp] theorem State.nextFresh_cbars (s : State) : (s.nextFresh).cbars = s.cbars := rfl
@[simp] theorem State.nextFresh_duets (s : State) : (s.nextFresh).duets = s.duets := rfl
@[simp] theorem State.nextFresh_streams (s : State) : (s.nextFresh).streams = s.streams := rfl
@[simp] theorem State.nextFresh_writes (s : State) : (s.nextFresh).writes = s.writes := rfl
@[simp] theorem State.nextFresh_recent (s : State) : (s.nextFresh).recent = s.recent := rfl
@[simp] theorem State.nextFresh_loads (s : State) : (s.nextFresh).loads = s.loads := rfl
@[simp] theorem State.nextFresh_fenced (s : State) : (s.nextFresh).fenced = s.fenced := rfl
@[simp] theorem State.nextFresh_met (s : State) : (s.nextFresh).met = s.met := rfl
@[simp] theorem State.nextFresh_stale (s : State) : (s.nextFresh).stale = s.stale := rfl
@[simp] theorem State.nextFresh_refetches (s : State) : (s.nextFresh).refetches = s.refetches := rfl
@[simp] theorem State.nextFresh_walks (s : State) : (s.nextFresh).walks = s.walks := rfl
@[simp] theorem State.nextFresh_ops (s : State) : (s.nextFresh).ops = s.ops := rfl
@[simp] theorem State.nextFresh_emits (s : State) : (s.nextFresh).emits = s.emits := rfl
@[simp] theorem State.nextFresh_signals (s : State) : (s.nextFresh).signals = s.signals := rfl
@[simp] theorem State.nextFresh_chunks (s : State) : (s.nextFresh).chunks = s.chunks := rfl
@[simp] theorem State.nextFresh_dies (s : State) : (s.nextFresh).dies = s.dies := rfl
@[simp] theorem State.nextFresh_lqs (s : State) : (s.nextFresh).lqs = s.lqs := rfl
@[simp] theorem State.nextFresh_mailbox (s : State) : (s.nextFresh).mailbox = s.mailbox := rfl
@[simp] theorem State.nextFresh_hostMem (s : State) : (s.nextFresh).hostMem = s.hostMem := rfl
@[simp] theorem State.nextFresh_errLog (s : State) : (s.nextFresh).errLog = s.errLog := rfl
@[simp] theorem State.nextFresh_aborts (s : State) : (s.nextFresh).aborts = s.aborts := rfl
@[simp] theorem State.nextFresh_nodeStatus (s : State) : (s.nextFresh).nodeStatus = s.nodeStatus := rfl
@[simp] theorem State.nextFresh_notices (s : State) : (s.nextFresh).notices = s.notices := rfl
@[simp] theorem State.nextFresh_links (s : State) : (s.nextFresh).links = s.links := rfl
@[simp] theorem State.nextFresh_limit (s : State) : (s.nextFresh).limit = s.limit := rfl
@[simp] theorem State.nextFresh_trust (s : State) : (s.nextFresh).trust = s.trust := rfl
@[simp] theorem State.nextFresh_hostOut (s : State) : (s.nextFresh).hostOut = s.hostOut := rfl
@[simp] theorem State.nextFresh_cxlOut (s : State) : (s.nextFresh).cxlOut = s.cxlOut := rfl
@[simp] theorem State.nextFresh_linkOut (s : State) : (s.nextFresh).linkOut = s.linkOut := rfl
@[simp] theorem State.nextFresh_halted (s : State) : (s.nextFresh).halted = s.halted := rfl

/-! ## `modGroup` -/

@[simp] theorem State.modGroup_agenda (s : State) (gid : Nat) (f : Group → Group) :
    (s.modGroup gid f).agenda = s.agenda := rfl
@[simp] theorem State.modGroup_turn (s : State) (gid : Nat) (f : Group → Group) :
    (s.modGroup gid f).turn = s.turn := rfl
@[simp] theorem State.modGroup_issue (s : State) (gid : Nat) (f : Group → Group) :
    (s.modGroup gid f).issue = s.issue := rfl
@[simp] theorem State.modGroup_second (s : State) (gid : Nat) (f : Group → Group) :
    (s.modGroup gid f).second = s.second := rfl
@[simp] theorem State.modGroup_fresh (s : State) (gid : Nat) (f : Group → Group) :
    (s.modGroup gid f).fresh = s.fresh := rfl
@[simp] theorem State.modGroup_stamp (s : State) (gid : Nat) (f : Group → Group) :
    (s.modGroup gid f).stamp = s.stamp := rfl
@[simp] theorem State.modGroup_hbm (s : State) (gid : Nat) (f : Group → Group) :
    (s.modGroup gid f).hbm = s.hbm := rfl
@[simp] theorem State.modGroup_hbmKey (s : State) (gid : Nat) (f : Group → Group) :
    (s.modGroup gid f).hbmKey = s.hbmKey := rfl
@[simp] theorem State.modGroup_hbmErr (s : State) (gid : Nat) (f : Group → Group) :
    (s.modGroup gid f).hbmErr = s.hbmErr := rfl
@[simp] theorem State.modGroup_loft (s : State) (gid : Nat) (f : Group → Group) :
    (s.modGroup gid f).loft = s.loft := rfl
@[simp] theorem State.modGroup_loftErr (s : State) (gid : Nat) (f : Group → Group) :
    (s.modGroup gid f).loftErr = s.loftErr := rfl
@[simp] theorem State.modGroup_loftOwner (s : State) (gid : Nat) (f : Group → Group) :
    (s.modGroup gid f).loftOwner = s.loftOwner := rfl
@[simp] theorem State.modGroup_ctxs (s : State) (gid : Nat) (f : Group → Group) :
    (s.modGroup gid f).ctxs = s.ctxs := rfl
@[simp] theorem State.modGroup_nextKey (s : State) (gid : Nat) (f : Group → Group) :
    (s.modGroup gid f).nextKey = s.nextKey := rfl
@[simp] theorem State.modGroup_nextGid (s : State) (gid : Nat) (f : Group → Group) :
    (s.modGroup gid f).nextGid = s.nextGid := rfl
@[simp] theorem State.modGroup_cbars (s : State) (gid : Nat) (f : Group → Group) :
    (s.modGroup gid f).cbars = s.cbars := rfl
@[simp] theorem State.modGroup_duets (s : State) (gid : Nat) (f : Group → Group) :
    (s.modGroup gid f).duets = s.duets := rfl
@[simp] theorem State.modGroup_streams (s : State) (gid : Nat) (f : Group → Group) :
    (s.modGroup gid f).streams = s.streams := rfl
@[simp] theorem State.modGroup_writes (s : State) (gid : Nat) (f : Group → Group) :
    (s.modGroup gid f).writes = s.writes := rfl
@[simp] theorem State.modGroup_recent (s : State) (gid : Nat) (f : Group → Group) :
    (s.modGroup gid f).recent = s.recent := rfl
@[simp] theorem State.modGroup_loads (s : State) (gid : Nat) (f : Group → Group) :
    (s.modGroup gid f).loads = s.loads := rfl
@[simp] theorem State.modGroup_fenced (s : State) (gid : Nat) (f : Group → Group) :
    (s.modGroup gid f).fenced = s.fenced := rfl
@[simp] theorem State.modGroup_met (s : State) (gid : Nat) (f : Group → Group) :
    (s.modGroup gid f).met = s.met := rfl
@[simp] theorem State.modGroup_stale (s : State) (gid : Nat) (f : Group → Group) :
    (s.modGroup gid f).stale = s.stale := rfl
@[simp] theorem State.modGroup_refetches (s : State) (gid : Nat) (f : Group → Group) :
    (s.modGroup gid f).refetches = s.refetches := rfl
@[simp] theorem State.modGroup_walks (s : State) (gid : Nat) (f : Group → Group) :
    (s.modGroup gid f).walks = s.walks := rfl
@[simp] theorem State.modGroup_ops (s : State) (gid : Nat) (f : Group → Group) :
    (s.modGroup gid f).ops = s.ops := rfl
@[simp] theorem State.modGroup_emits (s : State) (gid : Nat) (f : Group → Group) :
    (s.modGroup gid f).emits = s.emits := rfl
@[simp] theorem State.modGroup_signals (s : State) (gid : Nat) (f : Group → Group) :
    (s.modGroup gid f).signals = s.signals := rfl
@[simp] theorem State.modGroup_chunks (s : State) (gid : Nat) (f : Group → Group) :
    (s.modGroup gid f).chunks = s.chunks := rfl
@[simp] theorem State.modGroup_dies (s : State) (gid : Nat) (f : Group → Group) :
    (s.modGroup gid f).dies = s.dies := rfl
@[simp] theorem State.modGroup_lqs (s : State) (gid : Nat) (f : Group → Group) :
    (s.modGroup gid f).lqs = s.lqs := rfl
@[simp] theorem State.modGroup_mailbox (s : State) (gid : Nat) (f : Group → Group) :
    (s.modGroup gid f).mailbox = s.mailbox := rfl
@[simp] theorem State.modGroup_hostMem (s : State) (gid : Nat) (f : Group → Group) :
    (s.modGroup gid f).hostMem = s.hostMem := rfl
@[simp] theorem State.modGroup_errLog (s : State) (gid : Nat) (f : Group → Group) :
    (s.modGroup gid f).errLog = s.errLog := rfl
@[simp] theorem State.modGroup_aborts (s : State) (gid : Nat) (f : Group → Group) :
    (s.modGroup gid f).aborts = s.aborts := rfl
@[simp] theorem State.modGroup_nodeStatus (s : State) (gid : Nat) (f : Group → Group) :
    (s.modGroup gid f).nodeStatus = s.nodeStatus := rfl
@[simp] theorem State.modGroup_notices (s : State) (gid : Nat) (f : Group → Group) :
    (s.modGroup gid f).notices = s.notices := rfl
@[simp] theorem State.modGroup_links (s : State) (gid : Nat) (f : Group → Group) :
    (s.modGroup gid f).links = s.links := rfl
@[simp] theorem State.modGroup_limit (s : State) (gid : Nat) (f : Group → Group) :
    (s.modGroup gid f).limit = s.limit := rfl
@[simp] theorem State.modGroup_trust (s : State) (gid : Nat) (f : Group → Group) :
    (s.modGroup gid f).trust = s.trust := rfl
@[simp] theorem State.modGroup_hostOut (s : State) (gid : Nat) (f : Group → Group) :
    (s.modGroup gid f).hostOut = s.hostOut := rfl
@[simp] theorem State.modGroup_cxlOut (s : State) (gid : Nat) (f : Group → Group) :
    (s.modGroup gid f).cxlOut = s.cxlOut := rfl
@[simp] theorem State.modGroup_linkOut (s : State) (gid : Nat) (f : Group → Group) :
    (s.modGroup gid f).linkOut = s.linkOut := rfl
@[simp] theorem State.modGroup_halted (s : State) (gid : Nat) (f : Group → Group) :
    (s.modGroup gid f).halted = s.halted := rfl

/-! ## `modWarp` -/

@[simp] theorem State.modWarp_agenda (s : State) (gid w : Nat) (f : Warp → Warp) :
    (s.modWarp gid w f).agenda = s.agenda := rfl
@[simp] theorem State.modWarp_turn (s : State) (gid w : Nat) (f : Warp → Warp) :
    (s.modWarp gid w f).turn = s.turn := rfl
@[simp] theorem State.modWarp_issue (s : State) (gid w : Nat) (f : Warp → Warp) :
    (s.modWarp gid w f).issue = s.issue := rfl
@[simp] theorem State.modWarp_second (s : State) (gid w : Nat) (f : Warp → Warp) :
    (s.modWarp gid w f).second = s.second := rfl
@[simp] theorem State.modWarp_fresh (s : State) (gid w : Nat) (f : Warp → Warp) :
    (s.modWarp gid w f).fresh = s.fresh := rfl
@[simp] theorem State.modWarp_stamp (s : State) (gid w : Nat) (f : Warp → Warp) :
    (s.modWarp gid w f).stamp = s.stamp := rfl
@[simp] theorem State.modWarp_hbm (s : State) (gid w : Nat) (f : Warp → Warp) :
    (s.modWarp gid w f).hbm = s.hbm := rfl
@[simp] theorem State.modWarp_hbmKey (s : State) (gid w : Nat) (f : Warp → Warp) :
    (s.modWarp gid w f).hbmKey = s.hbmKey := rfl
@[simp] theorem State.modWarp_hbmErr (s : State) (gid w : Nat) (f : Warp → Warp) :
    (s.modWarp gid w f).hbmErr = s.hbmErr := rfl
@[simp] theorem State.modWarp_loft (s : State) (gid w : Nat) (f : Warp → Warp) :
    (s.modWarp gid w f).loft = s.loft := rfl
@[simp] theorem State.modWarp_loftErr (s : State) (gid w : Nat) (f : Warp → Warp) :
    (s.modWarp gid w f).loftErr = s.loftErr := rfl
@[simp] theorem State.modWarp_loftOwner (s : State) (gid w : Nat) (f : Warp → Warp) :
    (s.modWarp gid w f).loftOwner = s.loftOwner := rfl
@[simp] theorem State.modWarp_ctxs (s : State) (gid w : Nat) (f : Warp → Warp) :
    (s.modWarp gid w f).ctxs = s.ctxs := rfl
@[simp] theorem State.modWarp_nextKey (s : State) (gid w : Nat) (f : Warp → Warp) :
    (s.modWarp gid w f).nextKey = s.nextKey := rfl
@[simp] theorem State.modWarp_nextGid (s : State) (gid w : Nat) (f : Warp → Warp) :
    (s.modWarp gid w f).nextGid = s.nextGid := rfl
@[simp] theorem State.modWarp_cbars (s : State) (gid w : Nat) (f : Warp → Warp) :
    (s.modWarp gid w f).cbars = s.cbars := rfl
@[simp] theorem State.modWarp_duets (s : State) (gid w : Nat) (f : Warp → Warp) :
    (s.modWarp gid w f).duets = s.duets := rfl
@[simp] theorem State.modWarp_streams (s : State) (gid w : Nat) (f : Warp → Warp) :
    (s.modWarp gid w f).streams = s.streams := rfl
@[simp] theorem State.modWarp_writes (s : State) (gid w : Nat) (f : Warp → Warp) :
    (s.modWarp gid w f).writes = s.writes := rfl
@[simp] theorem State.modWarp_recent (s : State) (gid w : Nat) (f : Warp → Warp) :
    (s.modWarp gid w f).recent = s.recent := rfl
@[simp] theorem State.modWarp_loads (s : State) (gid w : Nat) (f : Warp → Warp) :
    (s.modWarp gid w f).loads = s.loads := rfl
@[simp] theorem State.modWarp_fenced (s : State) (gid w : Nat) (f : Warp → Warp) :
    (s.modWarp gid w f).fenced = s.fenced := rfl
@[simp] theorem State.modWarp_met (s : State) (gid w : Nat) (f : Warp → Warp) :
    (s.modWarp gid w f).met = s.met := rfl
@[simp] theorem State.modWarp_stale (s : State) (gid w : Nat) (f : Warp → Warp) :
    (s.modWarp gid w f).stale = s.stale := rfl
@[simp] theorem State.modWarp_refetches (s : State) (gid w : Nat) (f : Warp → Warp) :
    (s.modWarp gid w f).refetches = s.refetches := rfl
@[simp] theorem State.modWarp_walks (s : State) (gid w : Nat) (f : Warp → Warp) :
    (s.modWarp gid w f).walks = s.walks := rfl
@[simp] theorem State.modWarp_ops (s : State) (gid w : Nat) (f : Warp → Warp) :
    (s.modWarp gid w f).ops = s.ops := rfl
@[simp] theorem State.modWarp_emits (s : State) (gid w : Nat) (f : Warp → Warp) :
    (s.modWarp gid w f).emits = s.emits := rfl
@[simp] theorem State.modWarp_signals (s : State) (gid w : Nat) (f : Warp → Warp) :
    (s.modWarp gid w f).signals = s.signals := rfl
@[simp] theorem State.modWarp_chunks (s : State) (gid w : Nat) (f : Warp → Warp) :
    (s.modWarp gid w f).chunks = s.chunks := rfl
@[simp] theorem State.modWarp_dies (s : State) (gid w : Nat) (f : Warp → Warp) :
    (s.modWarp gid w f).dies = s.dies := rfl
@[simp] theorem State.modWarp_lqs (s : State) (gid w : Nat) (f : Warp → Warp) :
    (s.modWarp gid w f).lqs = s.lqs := rfl
@[simp] theorem State.modWarp_mailbox (s : State) (gid w : Nat) (f : Warp → Warp) :
    (s.modWarp gid w f).mailbox = s.mailbox := rfl
@[simp] theorem State.modWarp_hostMem (s : State) (gid w : Nat) (f : Warp → Warp) :
    (s.modWarp gid w f).hostMem = s.hostMem := rfl
@[simp] theorem State.modWarp_errLog (s : State) (gid w : Nat) (f : Warp → Warp) :
    (s.modWarp gid w f).errLog = s.errLog := rfl
@[simp] theorem State.modWarp_aborts (s : State) (gid w : Nat) (f : Warp → Warp) :
    (s.modWarp gid w f).aborts = s.aborts := rfl
@[simp] theorem State.modWarp_nodeStatus (s : State) (gid w : Nat) (f : Warp → Warp) :
    (s.modWarp gid w f).nodeStatus = s.nodeStatus := rfl
@[simp] theorem State.modWarp_notices (s : State) (gid w : Nat) (f : Warp → Warp) :
    (s.modWarp gid w f).notices = s.notices := rfl
@[simp] theorem State.modWarp_links (s : State) (gid w : Nat) (f : Warp → Warp) :
    (s.modWarp gid w f).links = s.links := rfl
@[simp] theorem State.modWarp_limit (s : State) (gid w : Nat) (f : Warp → Warp) :
    (s.modWarp gid w f).limit = s.limit := rfl
@[simp] theorem State.modWarp_trust (s : State) (gid w : Nat) (f : Warp → Warp) :
    (s.modWarp gid w f).trust = s.trust := rfl
@[simp] theorem State.modWarp_hostOut (s : State) (gid w : Nat) (f : Warp → Warp) :
    (s.modWarp gid w f).hostOut = s.hostOut := rfl
@[simp] theorem State.modWarp_cxlOut (s : State) (gid w : Nat) (f : Warp → Warp) :
    (s.modWarp gid w f).cxlOut = s.cxlOut := rfl
@[simp] theorem State.modWarp_linkOut (s : State) (gid w : Nat) (f : Warp → Warp) :
    (s.modWarp gid w f).linkOut = s.linkOut := rfl
@[simp] theorem State.modWarp_halted (s : State) (gid w : Nat) (f : Warp → Warp) :
    (s.modWarp gid w f).halted = s.halted := rfl

/-! ## `modLane` -/

@[simp] theorem State.modLane_agenda (s : State) (gid w l : Nat) (f : Lane → Lane) :
    (s.modLane gid w l f).agenda = s.agenda := rfl
@[simp] theorem State.modLane_turn (s : State) (gid w l : Nat) (f : Lane → Lane) :
    (s.modLane gid w l f).turn = s.turn := rfl
@[simp] theorem State.modLane_issue (s : State) (gid w l : Nat) (f : Lane → Lane) :
    (s.modLane gid w l f).issue = s.issue := rfl
@[simp] theorem State.modLane_second (s : State) (gid w l : Nat) (f : Lane → Lane) :
    (s.modLane gid w l f).second = s.second := rfl
@[simp] theorem State.modLane_fresh (s : State) (gid w l : Nat) (f : Lane → Lane) :
    (s.modLane gid w l f).fresh = s.fresh := rfl
@[simp] theorem State.modLane_stamp (s : State) (gid w l : Nat) (f : Lane → Lane) :
    (s.modLane gid w l f).stamp = s.stamp := rfl
@[simp] theorem State.modLane_hbm (s : State) (gid w l : Nat) (f : Lane → Lane) :
    (s.modLane gid w l f).hbm = s.hbm := rfl
@[simp] theorem State.modLane_hbmKey (s : State) (gid w l : Nat) (f : Lane → Lane) :
    (s.modLane gid w l f).hbmKey = s.hbmKey := rfl
@[simp] theorem State.modLane_hbmErr (s : State) (gid w l : Nat) (f : Lane → Lane) :
    (s.modLane gid w l f).hbmErr = s.hbmErr := rfl
@[simp] theorem State.modLane_loft (s : State) (gid w l : Nat) (f : Lane → Lane) :
    (s.modLane gid w l f).loft = s.loft := rfl
@[simp] theorem State.modLane_loftErr (s : State) (gid w l : Nat) (f : Lane → Lane) :
    (s.modLane gid w l f).loftErr = s.loftErr := rfl
@[simp] theorem State.modLane_loftOwner (s : State) (gid w l : Nat) (f : Lane → Lane) :
    (s.modLane gid w l f).loftOwner = s.loftOwner := rfl
@[simp] theorem State.modLane_ctxs (s : State) (gid w l : Nat) (f : Lane → Lane) :
    (s.modLane gid w l f).ctxs = s.ctxs := rfl
@[simp] theorem State.modLane_nextKey (s : State) (gid w l : Nat) (f : Lane → Lane) :
    (s.modLane gid w l f).nextKey = s.nextKey := rfl
@[simp] theorem State.modLane_nextGid (s : State) (gid w l : Nat) (f : Lane → Lane) :
    (s.modLane gid w l f).nextGid = s.nextGid := rfl
@[simp] theorem State.modLane_cbars (s : State) (gid w l : Nat) (f : Lane → Lane) :
    (s.modLane gid w l f).cbars = s.cbars := rfl
@[simp] theorem State.modLane_duets (s : State) (gid w l : Nat) (f : Lane → Lane) :
    (s.modLane gid w l f).duets = s.duets := rfl
@[simp] theorem State.modLane_streams (s : State) (gid w l : Nat) (f : Lane → Lane) :
    (s.modLane gid w l f).streams = s.streams := rfl
@[simp] theorem State.modLane_writes (s : State) (gid w l : Nat) (f : Lane → Lane) :
    (s.modLane gid w l f).writes = s.writes := rfl
@[simp] theorem State.modLane_recent (s : State) (gid w l : Nat) (f : Lane → Lane) :
    (s.modLane gid w l f).recent = s.recent := rfl
@[simp] theorem State.modLane_loads (s : State) (gid w l : Nat) (f : Lane → Lane) :
    (s.modLane gid w l f).loads = s.loads := rfl
@[simp] theorem State.modLane_fenced (s : State) (gid w l : Nat) (f : Lane → Lane) :
    (s.modLane gid w l f).fenced = s.fenced := rfl
@[simp] theorem State.modLane_met (s : State) (gid w l : Nat) (f : Lane → Lane) :
    (s.modLane gid w l f).met = s.met := rfl
@[simp] theorem State.modLane_stale (s : State) (gid w l : Nat) (f : Lane → Lane) :
    (s.modLane gid w l f).stale = s.stale := rfl
@[simp] theorem State.modLane_refetches (s : State) (gid w l : Nat) (f : Lane → Lane) :
    (s.modLane gid w l f).refetches = s.refetches := rfl
@[simp] theorem State.modLane_walks (s : State) (gid w l : Nat) (f : Lane → Lane) :
    (s.modLane gid w l f).walks = s.walks := rfl
@[simp] theorem State.modLane_ops (s : State) (gid w l : Nat) (f : Lane → Lane) :
    (s.modLane gid w l f).ops = s.ops := rfl
@[simp] theorem State.modLane_emits (s : State) (gid w l : Nat) (f : Lane → Lane) :
    (s.modLane gid w l f).emits = s.emits := rfl
@[simp] theorem State.modLane_signals (s : State) (gid w l : Nat) (f : Lane → Lane) :
    (s.modLane gid w l f).signals = s.signals := rfl
@[simp] theorem State.modLane_chunks (s : State) (gid w l : Nat) (f : Lane → Lane) :
    (s.modLane gid w l f).chunks = s.chunks := rfl
@[simp] theorem State.modLane_dies (s : State) (gid w l : Nat) (f : Lane → Lane) :
    (s.modLane gid w l f).dies = s.dies := rfl
@[simp] theorem State.modLane_lqs (s : State) (gid w l : Nat) (f : Lane → Lane) :
    (s.modLane gid w l f).lqs = s.lqs := rfl
@[simp] theorem State.modLane_mailbox (s : State) (gid w l : Nat) (f : Lane → Lane) :
    (s.modLane gid w l f).mailbox = s.mailbox := rfl
@[simp] theorem State.modLane_hostMem (s : State) (gid w l : Nat) (f : Lane → Lane) :
    (s.modLane gid w l f).hostMem = s.hostMem := rfl
@[simp] theorem State.modLane_errLog (s : State) (gid w l : Nat) (f : Lane → Lane) :
    (s.modLane gid w l f).errLog = s.errLog := rfl
@[simp] theorem State.modLane_aborts (s : State) (gid w l : Nat) (f : Lane → Lane) :
    (s.modLane gid w l f).aborts = s.aborts := rfl
@[simp] theorem State.modLane_nodeStatus (s : State) (gid w l : Nat) (f : Lane → Lane) :
    (s.modLane gid w l f).nodeStatus = s.nodeStatus := rfl
@[simp] theorem State.modLane_notices (s : State) (gid w l : Nat) (f : Lane → Lane) :
    (s.modLane gid w l f).notices = s.notices := rfl
@[simp] theorem State.modLane_links (s : State) (gid w l : Nat) (f : Lane → Lane) :
    (s.modLane gid w l f).links = s.links := rfl
@[simp] theorem State.modLane_limit (s : State) (gid w l : Nat) (f : Lane → Lane) :
    (s.modLane gid w l f).limit = s.limit := rfl
@[simp] theorem State.modLane_trust (s : State) (gid w l : Nat) (f : Lane → Lane) :
    (s.modLane gid w l f).trust = s.trust := rfl
@[simp] theorem State.modLane_hostOut (s : State) (gid w l : Nat) (f : Lane → Lane) :
    (s.modLane gid w l f).hostOut = s.hostOut := rfl
@[simp] theorem State.modLane_cxlOut (s : State) (gid w l : Nat) (f : Lane → Lane) :
    (s.modLane gid w l f).cxlOut = s.cxlOut := rfl
@[simp] theorem State.modLane_linkOut (s : State) (gid w l : Nat) (f : Lane → Lane) :
    (s.modLane gid w l f).linkOut = s.linkOut := rfl
@[simp] theorem State.modLane_halted (s : State) (gid w l : Nat) (f : Lane → Lane) :
    (s.modLane gid w l f).halted = s.halted := rfl

/-! ## `modCtx` -/

@[simp] theorem State.modCtx_agenda (s : State) (c : Nat) (f : Ctx → Ctx) :
    (s.modCtx c f).agenda = s.agenda := rfl
@[simp] theorem State.modCtx_turn (s : State) (c : Nat) (f : Ctx → Ctx) :
    (s.modCtx c f).turn = s.turn := rfl
@[simp] theorem State.modCtx_issue (s : State) (c : Nat) (f : Ctx → Ctx) :
    (s.modCtx c f).issue = s.issue := rfl
@[simp] theorem State.modCtx_second (s : State) (c : Nat) (f : Ctx → Ctx) :
    (s.modCtx c f).second = s.second := rfl
@[simp] theorem State.modCtx_fresh (s : State) (c : Nat) (f : Ctx → Ctx) :
    (s.modCtx c f).fresh = s.fresh := rfl
@[simp] theorem State.modCtx_stamp (s : State) (c : Nat) (f : Ctx → Ctx) :
    (s.modCtx c f).stamp = s.stamp := rfl
@[simp] theorem State.modCtx_hbm (s : State) (c : Nat) (f : Ctx → Ctx) :
    (s.modCtx c f).hbm = s.hbm := rfl
@[simp] theorem State.modCtx_hbmKey (s : State) (c : Nat) (f : Ctx → Ctx) :
    (s.modCtx c f).hbmKey = s.hbmKey := rfl
@[simp] theorem State.modCtx_hbmErr (s : State) (c : Nat) (f : Ctx → Ctx) :
    (s.modCtx c f).hbmErr = s.hbmErr := rfl
@[simp] theorem State.modCtx_loft (s : State) (c : Nat) (f : Ctx → Ctx) :
    (s.modCtx c f).loft = s.loft := rfl
@[simp] theorem State.modCtx_loftErr (s : State) (c : Nat) (f : Ctx → Ctx) :
    (s.modCtx c f).loftErr = s.loftErr := rfl
@[simp] theorem State.modCtx_loftOwner (s : State) (c : Nat) (f : Ctx → Ctx) :
    (s.modCtx c f).loftOwner = s.loftOwner := rfl
@[simp] theorem State.modCtx_nextKey (s : State) (c : Nat) (f : Ctx → Ctx) :
    (s.modCtx c f).nextKey = s.nextKey := rfl
@[simp] theorem State.modCtx_groups (s : State) (c : Nat) (f : Ctx → Ctx) :
    (s.modCtx c f).groups = s.groups := rfl
@[simp] theorem State.modCtx_nextGid (s : State) (c : Nat) (f : Ctx → Ctx) :
    (s.modCtx c f).nextGid = s.nextGid := rfl
@[simp] theorem State.modCtx_cbars (s : State) (c : Nat) (f : Ctx → Ctx) :
    (s.modCtx c f).cbars = s.cbars := rfl
@[simp] theorem State.modCtx_duets (s : State) (c : Nat) (f : Ctx → Ctx) :
    (s.modCtx c f).duets = s.duets := rfl
@[simp] theorem State.modCtx_streams (s : State) (c : Nat) (f : Ctx → Ctx) :
    (s.modCtx c f).streams = s.streams := rfl
@[simp] theorem State.modCtx_writes (s : State) (c : Nat) (f : Ctx → Ctx) :
    (s.modCtx c f).writes = s.writes := rfl
@[simp] theorem State.modCtx_recent (s : State) (c : Nat) (f : Ctx → Ctx) :
    (s.modCtx c f).recent = s.recent := rfl
@[simp] theorem State.modCtx_loads (s : State) (c : Nat) (f : Ctx → Ctx) :
    (s.modCtx c f).loads = s.loads := rfl
@[simp] theorem State.modCtx_fenced (s : State) (c : Nat) (f : Ctx → Ctx) :
    (s.modCtx c f).fenced = s.fenced := rfl
@[simp] theorem State.modCtx_met (s : State) (c : Nat) (f : Ctx → Ctx) :
    (s.modCtx c f).met = s.met := rfl
@[simp] theorem State.modCtx_stale (s : State) (c : Nat) (f : Ctx → Ctx) :
    (s.modCtx c f).stale = s.stale := rfl
@[simp] theorem State.modCtx_refetches (s : State) (c : Nat) (f : Ctx → Ctx) :
    (s.modCtx c f).refetches = s.refetches := rfl
@[simp] theorem State.modCtx_walks (s : State) (c : Nat) (f : Ctx → Ctx) :
    (s.modCtx c f).walks = s.walks := rfl
@[simp] theorem State.modCtx_ops (s : State) (c : Nat) (f : Ctx → Ctx) :
    (s.modCtx c f).ops = s.ops := rfl
@[simp] theorem State.modCtx_emits (s : State) (c : Nat) (f : Ctx → Ctx) :
    (s.modCtx c f).emits = s.emits := rfl
@[simp] theorem State.modCtx_signals (s : State) (c : Nat) (f : Ctx → Ctx) :
    (s.modCtx c f).signals = s.signals := rfl
@[simp] theorem State.modCtx_chunks (s : State) (c : Nat) (f : Ctx → Ctx) :
    (s.modCtx c f).chunks = s.chunks := rfl
@[simp] theorem State.modCtx_dies (s : State) (c : Nat) (f : Ctx → Ctx) :
    (s.modCtx c f).dies = s.dies := rfl
@[simp] theorem State.modCtx_lqs (s : State) (c : Nat) (f : Ctx → Ctx) :
    (s.modCtx c f).lqs = s.lqs := rfl
@[simp] theorem State.modCtx_mailbox (s : State) (c : Nat) (f : Ctx → Ctx) :
    (s.modCtx c f).mailbox = s.mailbox := rfl
@[simp] theorem State.modCtx_hostMem (s : State) (c : Nat) (f : Ctx → Ctx) :
    (s.modCtx c f).hostMem = s.hostMem := rfl
@[simp] theorem State.modCtx_errLog (s : State) (c : Nat) (f : Ctx → Ctx) :
    (s.modCtx c f).errLog = s.errLog := rfl
@[simp] theorem State.modCtx_aborts (s : State) (c : Nat) (f : Ctx → Ctx) :
    (s.modCtx c f).aborts = s.aborts := rfl
@[simp] theorem State.modCtx_nodeStatus (s : State) (c : Nat) (f : Ctx → Ctx) :
    (s.modCtx c f).nodeStatus = s.nodeStatus := rfl
@[simp] theorem State.modCtx_notices (s : State) (c : Nat) (f : Ctx → Ctx) :
    (s.modCtx c f).notices = s.notices := rfl
@[simp] theorem State.modCtx_links (s : State) (c : Nat) (f : Ctx → Ctx) :
    (s.modCtx c f).links = s.links := rfl
@[simp] theorem State.modCtx_limit (s : State) (c : Nat) (f : Ctx → Ctx) :
    (s.modCtx c f).limit = s.limit := rfl
@[simp] theorem State.modCtx_trust (s : State) (c : Nat) (f : Ctx → Ctx) :
    (s.modCtx c f).trust = s.trust := rfl
@[simp] theorem State.modCtx_hostOut (s : State) (c : Nat) (f : Ctx → Ctx) :
    (s.modCtx c f).hostOut = s.hostOut := rfl
@[simp] theorem State.modCtx_cxlOut (s : State) (c : Nat) (f : Ctx → Ctx) :
    (s.modCtx c f).cxlOut = s.cxlOut := rfl
@[simp] theorem State.modCtx_linkOut (s : State) (c : Nat) (f : Ctx → Ctx) :
    (s.modCtx c f).linkOut = s.linkOut := rfl
@[simp] theorem State.modCtx_halted (s : State) (c : Nat) (f : Ctx → Ctx) :
    (s.modCtx c f).halted = s.halted := rfl

/-! ## `modNode` -/

@[simp] theorem State.modNode_agenda (s : State) (c n : Nat) (f : Node → Node) :
    (s.modNode c n f).agenda = s.agenda := rfl
@[simp] theorem State.modNode_turn (s : State) (c n : Nat) (f : Node → Node) :
    (s.modNode c n f).turn = s.turn := rfl
@[simp] theorem State.modNode_issue (s : State) (c n : Nat) (f : Node → Node) :
    (s.modNode c n f).issue = s.issue := rfl
@[simp] theorem State.modNode_second (s : State) (c n : Nat) (f : Node → Node) :
    (s.modNode c n f).second = s.second := rfl
@[simp] theorem State.modNode_fresh (s : State) (c n : Nat) (f : Node → Node) :
    (s.modNode c n f).fresh = s.fresh := rfl
@[simp] theorem State.modNode_stamp (s : State) (c n : Nat) (f : Node → Node) :
    (s.modNode c n f).stamp = s.stamp := rfl
@[simp] theorem State.modNode_hbm (s : State) (c n : Nat) (f : Node → Node) :
    (s.modNode c n f).hbm = s.hbm := rfl
@[simp] theorem State.modNode_hbmKey (s : State) (c n : Nat) (f : Node → Node) :
    (s.modNode c n f).hbmKey = s.hbmKey := rfl
@[simp] theorem State.modNode_hbmErr (s : State) (c n : Nat) (f : Node → Node) :
    (s.modNode c n f).hbmErr = s.hbmErr := rfl
@[simp] theorem State.modNode_loft (s : State) (c n : Nat) (f : Node → Node) :
    (s.modNode c n f).loft = s.loft := rfl
@[simp] theorem State.modNode_loftErr (s : State) (c n : Nat) (f : Node → Node) :
    (s.modNode c n f).loftErr = s.loftErr := rfl
@[simp] theorem State.modNode_loftOwner (s : State) (c n : Nat) (f : Node → Node) :
    (s.modNode c n f).loftOwner = s.loftOwner := rfl
@[simp] theorem State.modNode_nextKey (s : State) (c n : Nat) (f : Node → Node) :
    (s.modNode c n f).nextKey = s.nextKey := rfl
@[simp] theorem State.modNode_groups (s : State) (c n : Nat) (f : Node → Node) :
    (s.modNode c n f).groups = s.groups := rfl
@[simp] theorem State.modNode_nextGid (s : State) (c n : Nat) (f : Node → Node) :
    (s.modNode c n f).nextGid = s.nextGid := rfl
@[simp] theorem State.modNode_cbars (s : State) (c n : Nat) (f : Node → Node) :
    (s.modNode c n f).cbars = s.cbars := rfl
@[simp] theorem State.modNode_duets (s : State) (c n : Nat) (f : Node → Node) :
    (s.modNode c n f).duets = s.duets := rfl
@[simp] theorem State.modNode_streams (s : State) (c n : Nat) (f : Node → Node) :
    (s.modNode c n f).streams = s.streams := rfl
@[simp] theorem State.modNode_writes (s : State) (c n : Nat) (f : Node → Node) :
    (s.modNode c n f).writes = s.writes := rfl
@[simp] theorem State.modNode_recent (s : State) (c n : Nat) (f : Node → Node) :
    (s.modNode c n f).recent = s.recent := rfl
@[simp] theorem State.modNode_loads (s : State) (c n : Nat) (f : Node → Node) :
    (s.modNode c n f).loads = s.loads := rfl
@[simp] theorem State.modNode_fenced (s : State) (c n : Nat) (f : Node → Node) :
    (s.modNode c n f).fenced = s.fenced := rfl
@[simp] theorem State.modNode_met (s : State) (c n : Nat) (f : Node → Node) :
    (s.modNode c n f).met = s.met := rfl
@[simp] theorem State.modNode_stale (s : State) (c n : Nat) (f : Node → Node) :
    (s.modNode c n f).stale = s.stale := rfl
@[simp] theorem State.modNode_refetches (s : State) (c n : Nat) (f : Node → Node) :
    (s.modNode c n f).refetches = s.refetches := rfl
@[simp] theorem State.modNode_walks (s : State) (c n : Nat) (f : Node → Node) :
    (s.modNode c n f).walks = s.walks := rfl
@[simp] theorem State.modNode_ops (s : State) (c n : Nat) (f : Node → Node) :
    (s.modNode c n f).ops = s.ops := rfl
@[simp] theorem State.modNode_emits (s : State) (c n : Nat) (f : Node → Node) :
    (s.modNode c n f).emits = s.emits := rfl
@[simp] theorem State.modNode_signals (s : State) (c n : Nat) (f : Node → Node) :
    (s.modNode c n f).signals = s.signals := rfl
@[simp] theorem State.modNode_chunks (s : State) (c n : Nat) (f : Node → Node) :
    (s.modNode c n f).chunks = s.chunks := rfl
@[simp] theorem State.modNode_dies (s : State) (c n : Nat) (f : Node → Node) :
    (s.modNode c n f).dies = s.dies := rfl
@[simp] theorem State.modNode_lqs (s : State) (c n : Nat) (f : Node → Node) :
    (s.modNode c n f).lqs = s.lqs := rfl
@[simp] theorem State.modNode_mailbox (s : State) (c n : Nat) (f : Node → Node) :
    (s.modNode c n f).mailbox = s.mailbox := rfl
@[simp] theorem State.modNode_hostMem (s : State) (c n : Nat) (f : Node → Node) :
    (s.modNode c n f).hostMem = s.hostMem := rfl
@[simp] theorem State.modNode_errLog (s : State) (c n : Nat) (f : Node → Node) :
    (s.modNode c n f).errLog = s.errLog := rfl
@[simp] theorem State.modNode_aborts (s : State) (c n : Nat) (f : Node → Node) :
    (s.modNode c n f).aborts = s.aborts := rfl
@[simp] theorem State.modNode_nodeStatus (s : State) (c n : Nat) (f : Node → Node) :
    (s.modNode c n f).nodeStatus = s.nodeStatus := rfl
@[simp] theorem State.modNode_notices (s : State) (c n : Nat) (f : Node → Node) :
    (s.modNode c n f).notices = s.notices := rfl
@[simp] theorem State.modNode_links (s : State) (c n : Nat) (f : Node → Node) :
    (s.modNode c n f).links = s.links := rfl
@[simp] theorem State.modNode_limit (s : State) (c n : Nat) (f : Node → Node) :
    (s.modNode c n f).limit = s.limit := rfl
@[simp] theorem State.modNode_trust (s : State) (c n : Nat) (f : Node → Node) :
    (s.modNode c n f).trust = s.trust := rfl
@[simp] theorem State.modNode_hostOut (s : State) (c n : Nat) (f : Node → Node) :
    (s.modNode c n f).hostOut = s.hostOut := rfl
@[simp] theorem State.modNode_cxlOut (s : State) (c n : Nat) (f : Node → Node) :
    (s.modNode c n f).cxlOut = s.cxlOut := rfl
@[simp] theorem State.modNode_linkOut (s : State) (c n : Nat) (f : Node → Node) :
    (s.modNode c n f).linkOut = s.linkOut := rfl
@[simp] theorem State.modNode_halted (s : State) (c n : Nat) (f : Node → Node) :
    (s.modNode c n f).halted = s.halted := rfl

/-! ## `modDie` -/

@[simp] theorem State.modDie_agenda (s : State) (d : Nat) (f : Die → Die) :
    (s.modDie d f).agenda = s.agenda := rfl
@[simp] theorem State.modDie_turn (s : State) (d : Nat) (f : Die → Die) :
    (s.modDie d f).turn = s.turn := rfl
@[simp] theorem State.modDie_issue (s : State) (d : Nat) (f : Die → Die) :
    (s.modDie d f).issue = s.issue := rfl
@[simp] theorem State.modDie_second (s : State) (d : Nat) (f : Die → Die) :
    (s.modDie d f).second = s.second := rfl
@[simp] theorem State.modDie_fresh (s : State) (d : Nat) (f : Die → Die) :
    (s.modDie d f).fresh = s.fresh := rfl
@[simp] theorem State.modDie_stamp (s : State) (d : Nat) (f : Die → Die) :
    (s.modDie d f).stamp = s.stamp := rfl
@[simp] theorem State.modDie_hbm (s : State) (d : Nat) (f : Die → Die) :
    (s.modDie d f).hbm = s.hbm := rfl
@[simp] theorem State.modDie_hbmKey (s : State) (d : Nat) (f : Die → Die) :
    (s.modDie d f).hbmKey = s.hbmKey := rfl
@[simp] theorem State.modDie_hbmErr (s : State) (d : Nat) (f : Die → Die) :
    (s.modDie d f).hbmErr = s.hbmErr := rfl
@[simp] theorem State.modDie_loft (s : State) (d : Nat) (f : Die → Die) :
    (s.modDie d f).loft = s.loft := rfl
@[simp] theorem State.modDie_loftErr (s : State) (d : Nat) (f : Die → Die) :
    (s.modDie d f).loftErr = s.loftErr := rfl
@[simp] theorem State.modDie_loftOwner (s : State) (d : Nat) (f : Die → Die) :
    (s.modDie d f).loftOwner = s.loftOwner := rfl
@[simp] theorem State.modDie_ctxs (s : State) (d : Nat) (f : Die → Die) :
    (s.modDie d f).ctxs = s.ctxs := rfl
@[simp] theorem State.modDie_nextKey (s : State) (d : Nat) (f : Die → Die) :
    (s.modDie d f).nextKey = s.nextKey := rfl
@[simp] theorem State.modDie_groups (s : State) (d : Nat) (f : Die → Die) :
    (s.modDie d f).groups = s.groups := rfl
@[simp] theorem State.modDie_nextGid (s : State) (d : Nat) (f : Die → Die) :
    (s.modDie d f).nextGid = s.nextGid := rfl
@[simp] theorem State.modDie_cbars (s : State) (d : Nat) (f : Die → Die) :
    (s.modDie d f).cbars = s.cbars := rfl
@[simp] theorem State.modDie_duets (s : State) (d : Nat) (f : Die → Die) :
    (s.modDie d f).duets = s.duets := rfl
@[simp] theorem State.modDie_streams (s : State) (d : Nat) (f : Die → Die) :
    (s.modDie d f).streams = s.streams := rfl
@[simp] theorem State.modDie_writes (s : State) (d : Nat) (f : Die → Die) :
    (s.modDie d f).writes = s.writes := rfl
@[simp] theorem State.modDie_recent (s : State) (d : Nat) (f : Die → Die) :
    (s.modDie d f).recent = s.recent := rfl
@[simp] theorem State.modDie_loads (s : State) (d : Nat) (f : Die → Die) :
    (s.modDie d f).loads = s.loads := rfl
@[simp] theorem State.modDie_fenced (s : State) (d : Nat) (f : Die → Die) :
    (s.modDie d f).fenced = s.fenced := rfl
@[simp] theorem State.modDie_met (s : State) (d : Nat) (f : Die → Die) :
    (s.modDie d f).met = s.met := rfl
@[simp] theorem State.modDie_stale (s : State) (d : Nat) (f : Die → Die) :
    (s.modDie d f).stale = s.stale := rfl
@[simp] theorem State.modDie_refetches (s : State) (d : Nat) (f : Die → Die) :
    (s.modDie d f).refetches = s.refetches := rfl
@[simp] theorem State.modDie_walks (s : State) (d : Nat) (f : Die → Die) :
    (s.modDie d f).walks = s.walks := rfl
@[simp] theorem State.modDie_ops (s : State) (d : Nat) (f : Die → Die) :
    (s.modDie d f).ops = s.ops := rfl
@[simp] theorem State.modDie_emits (s : State) (d : Nat) (f : Die → Die) :
    (s.modDie d f).emits = s.emits := rfl
@[simp] theorem State.modDie_signals (s : State) (d : Nat) (f : Die → Die) :
    (s.modDie d f).signals = s.signals := rfl
@[simp] theorem State.modDie_chunks (s : State) (d : Nat) (f : Die → Die) :
    (s.modDie d f).chunks = s.chunks := rfl
@[simp] theorem State.modDie_lqs (s : State) (d : Nat) (f : Die → Die) :
    (s.modDie d f).lqs = s.lqs := rfl
@[simp] theorem State.modDie_mailbox (s : State) (d : Nat) (f : Die → Die) :
    (s.modDie d f).mailbox = s.mailbox := rfl
@[simp] theorem State.modDie_hostMem (s : State) (d : Nat) (f : Die → Die) :
    (s.modDie d f).hostMem = s.hostMem := rfl
@[simp] theorem State.modDie_errLog (s : State) (d : Nat) (f : Die → Die) :
    (s.modDie d f).errLog = s.errLog := rfl
@[simp] theorem State.modDie_aborts (s : State) (d : Nat) (f : Die → Die) :
    (s.modDie d f).aborts = s.aborts := rfl
@[simp] theorem State.modDie_nodeStatus (s : State) (d : Nat) (f : Die → Die) :
    (s.modDie d f).nodeStatus = s.nodeStatus := rfl
@[simp] theorem State.modDie_notices (s : State) (d : Nat) (f : Die → Die) :
    (s.modDie d f).notices = s.notices := rfl
@[simp] theorem State.modDie_links (s : State) (d : Nat) (f : Die → Die) :
    (s.modDie d f).links = s.links := rfl
@[simp] theorem State.modDie_limit (s : State) (d : Nat) (f : Die → Die) :
    (s.modDie d f).limit = s.limit := rfl
@[simp] theorem State.modDie_trust (s : State) (d : Nat) (f : Die → Die) :
    (s.modDie d f).trust = s.trust := rfl
@[simp] theorem State.modDie_hostOut (s : State) (d : Nat) (f : Die → Die) :
    (s.modDie d f).hostOut = s.hostOut := rfl
@[simp] theorem State.modDie_cxlOut (s : State) (d : Nat) (f : Die → Die) :
    (s.modDie d f).cxlOut = s.cxlOut := rfl
@[simp] theorem State.modDie_linkOut (s : State) (d : Nat) (f : Die → Die) :
    (s.modDie d f).linkOut = s.linkOut := rfl
@[simp] theorem State.modDie_halted (s : State) (d : Nat) (f : Die → Die) :
    (s.modDie d f).halted = s.halted := rfl

/-! ## `modCore` -/

@[simp] theorem State.modCore_agenda (s : State) (d c : Nat) (f : Core → Core) :
    (s.modCore d c f).agenda = s.agenda := rfl
@[simp] theorem State.modCore_turn (s : State) (d c : Nat) (f : Core → Core) :
    (s.modCore d c f).turn = s.turn := rfl
@[simp] theorem State.modCore_issue (s : State) (d c : Nat) (f : Core → Core) :
    (s.modCore d c f).issue = s.issue := rfl
@[simp] theorem State.modCore_second (s : State) (d c : Nat) (f : Core → Core) :
    (s.modCore d c f).second = s.second := rfl
@[simp] theorem State.modCore_fresh (s : State) (d c : Nat) (f : Core → Core) :
    (s.modCore d c f).fresh = s.fresh := rfl
@[simp] theorem State.modCore_stamp (s : State) (d c : Nat) (f : Core → Core) :
    (s.modCore d c f).stamp = s.stamp := rfl
@[simp] theorem State.modCore_hbm (s : State) (d c : Nat) (f : Core → Core) :
    (s.modCore d c f).hbm = s.hbm := rfl
@[simp] theorem State.modCore_hbmKey (s : State) (d c : Nat) (f : Core → Core) :
    (s.modCore d c f).hbmKey = s.hbmKey := rfl
@[simp] theorem State.modCore_hbmErr (s : State) (d c : Nat) (f : Core → Core) :
    (s.modCore d c f).hbmErr = s.hbmErr := rfl
@[simp] theorem State.modCore_loft (s : State) (d c : Nat) (f : Core → Core) :
    (s.modCore d c f).loft = s.loft := rfl
@[simp] theorem State.modCore_loftErr (s : State) (d c : Nat) (f : Core → Core) :
    (s.modCore d c f).loftErr = s.loftErr := rfl
@[simp] theorem State.modCore_loftOwner (s : State) (d c : Nat) (f : Core → Core) :
    (s.modCore d c f).loftOwner = s.loftOwner := rfl
@[simp] theorem State.modCore_ctxs (s : State) (d c : Nat) (f : Core → Core) :
    (s.modCore d c f).ctxs = s.ctxs := rfl
@[simp] theorem State.modCore_nextKey (s : State) (d c : Nat) (f : Core → Core) :
    (s.modCore d c f).nextKey = s.nextKey := rfl
@[simp] theorem State.modCore_groups (s : State) (d c : Nat) (f : Core → Core) :
    (s.modCore d c f).groups = s.groups := rfl
@[simp] theorem State.modCore_nextGid (s : State) (d c : Nat) (f : Core → Core) :
    (s.modCore d c f).nextGid = s.nextGid := rfl
@[simp] theorem State.modCore_cbars (s : State) (d c : Nat) (f : Core → Core) :
    (s.modCore d c f).cbars = s.cbars := rfl
@[simp] theorem State.modCore_duets (s : State) (d c : Nat) (f : Core → Core) :
    (s.modCore d c f).duets = s.duets := rfl
@[simp] theorem State.modCore_streams (s : State) (d c : Nat) (f : Core → Core) :
    (s.modCore d c f).streams = s.streams := rfl
@[simp] theorem State.modCore_writes (s : State) (d c : Nat) (f : Core → Core) :
    (s.modCore d c f).writes = s.writes := rfl
@[simp] theorem State.modCore_recent (s : State) (d c : Nat) (f : Core → Core) :
    (s.modCore d c f).recent = s.recent := rfl
@[simp] theorem State.modCore_loads (s : State) (d c : Nat) (f : Core → Core) :
    (s.modCore d c f).loads = s.loads := rfl
@[simp] theorem State.modCore_fenced (s : State) (d c : Nat) (f : Core → Core) :
    (s.modCore d c f).fenced = s.fenced := rfl
@[simp] theorem State.modCore_met (s : State) (d c : Nat) (f : Core → Core) :
    (s.modCore d c f).met = s.met := rfl
@[simp] theorem State.modCore_stale (s : State) (d c : Nat) (f : Core → Core) :
    (s.modCore d c f).stale = s.stale := rfl
@[simp] theorem State.modCore_refetches (s : State) (d c : Nat) (f : Core → Core) :
    (s.modCore d c f).refetches = s.refetches := rfl
@[simp] theorem State.modCore_walks (s : State) (d c : Nat) (f : Core → Core) :
    (s.modCore d c f).walks = s.walks := rfl
@[simp] theorem State.modCore_ops (s : State) (d c : Nat) (f : Core → Core) :
    (s.modCore d c f).ops = s.ops := rfl
@[simp] theorem State.modCore_emits (s : State) (d c : Nat) (f : Core → Core) :
    (s.modCore d c f).emits = s.emits := rfl
@[simp] theorem State.modCore_signals (s : State) (d c : Nat) (f : Core → Core) :
    (s.modCore d c f).signals = s.signals := rfl
@[simp] theorem State.modCore_chunks (s : State) (d c : Nat) (f : Core → Core) :
    (s.modCore d c f).chunks = s.chunks := rfl
@[simp] theorem State.modCore_lqs (s : State) (d c : Nat) (f : Core → Core) :
    (s.modCore d c f).lqs = s.lqs := rfl
@[simp] theorem State.modCore_mailbox (s : State) (d c : Nat) (f : Core → Core) :
    (s.modCore d c f).mailbox = s.mailbox := rfl
@[simp] theorem State.modCore_hostMem (s : State) (d c : Nat) (f : Core → Core) :
    (s.modCore d c f).hostMem = s.hostMem := rfl
@[simp] theorem State.modCore_errLog (s : State) (d c : Nat) (f : Core → Core) :
    (s.modCore d c f).errLog = s.errLog := rfl
@[simp] theorem State.modCore_aborts (s : State) (d c : Nat) (f : Core → Core) :
    (s.modCore d c f).aborts = s.aborts := rfl
@[simp] theorem State.modCore_nodeStatus (s : State) (d c : Nat) (f : Core → Core) :
    (s.modCore d c f).nodeStatus = s.nodeStatus := rfl
@[simp] theorem State.modCore_notices (s : State) (d c : Nat) (f : Core → Core) :
    (s.modCore d c f).notices = s.notices := rfl
@[simp] theorem State.modCore_links (s : State) (d c : Nat) (f : Core → Core) :
    (s.modCore d c f).links = s.links := rfl
@[simp] theorem State.modCore_limit (s : State) (d c : Nat) (f : Core → Core) :
    (s.modCore d c f).limit = s.limit := rfl
@[simp] theorem State.modCore_trust (s : State) (d c : Nat) (f : Core → Core) :
    (s.modCore d c f).trust = s.trust := rfl
@[simp] theorem State.modCore_hostOut (s : State) (d c : Nat) (f : Core → Core) :
    (s.modCore d c f).hostOut = s.hostOut := rfl
@[simp] theorem State.modCore_cxlOut (s : State) (d c : Nat) (f : Core → Core) :
    (s.modCore d c f).cxlOut = s.cxlOut := rfl
@[simp] theorem State.modCore_linkOut (s : State) (d c : Nat) (f : Core → Core) :
    (s.modCore d c f).linkOut = s.linkOut := rfl
@[simp] theorem State.modCore_halted (s : State) (d c : Nat) (f : Core → Core) :
    (s.modCore d c f).halted = s.halted := rfl

/-! ## The field that each update changes -/

@[simp] theorem State.nextStamp_stamp (s : State) : s.nextStamp.stamp = s.stamp + 1 := rfl
@[simp] theorem State.nextFresh_fresh (s : State) : s.nextFresh.fresh = s.fresh + 1 := rfl
@[simp] theorem State.modGroup_groups (s : State) (gid : Nat) (f : Group → Group) :
    (s.modGroup gid f).groups = mapMod s.groups gid f := rfl
@[simp] theorem State.modWarp_groups (s : State) (gid w : Nat) (f : Warp → Warp) :
    (s.modWarp gid w f).groups = mapMod s.groups gid (·.modWarp w f) := rfl
@[simp] theorem State.modCtx_ctxs (s : State) (c : Nat) (f : Ctx → Ctx) :
    (s.modCtx c f).ctxs = mapMod s.ctxs c f := rfl
@[simp] theorem State.modDie_dies (s : State) (d : Nat) (f : Die → Die) :
    (s.modDie d f).dies = listMod s.dies d f := rfl

end Sys2Proof.Machine
end

