-- ==== Sys2Proof/Laws/Ops.lean ====
section
/-! SUPPORT. The parts of the state: reading one after a change. -/

namespace Sys2Proof.Machine

/-! ## Groups and warps -/

theorem State.group_modGroup (s : State) (i j : Nat) (f : Group → Group) :
    (s.modGroup i f).group j = if j = i then (s.group j).map f else s.group j := by
  simp [State.group, State.modGroup, mapGet_mapMod]

@[simp] theorem Group.modWarp_warps_length (g : Group) (w : Nat) (f : Warp → Warp) :
    (g.modWarp w f).warps.length = g.warps.length := by simp [Group.modWarp]

theorem Group.warp_modWarp (g : Group) (w v : Nat) (f : Warp → Warp) :
    (g.modWarp w f).warp v = if v = w ∧ w < g.warps.length then f (g.warp v) else g.warp v := by
  simp only [Group.warp, Group.modWarp, listMod_getD]

theorem Group.modWarp_modWarp (g : Group) (w : Nat) (f h : Warp → Warp) :
    (g.modWarp w f).modWarp w h = g.modWarp w (fun x => h (f x)) := by
  simp [Group.modWarp, listMod_listMod]

theorem State.modWarp_modWarp (s : State) (gid w : Nat) (f h : Warp → Warp) :
    (s.modWarp gid w f).modWarp gid w h = s.modWarp gid w (fun x => h (f x)) := by
  simp [State.modWarp, State.modGroup, mapMod_mapMod, Group.modWarp_modWarp]

/-- The warp that a changed state holds. -/
theorem State.warp_modWarp (s : State) (gid w : Nat) (f : Warp → Warp) {g : Group} (hg : s.group gid = some g)
    (hw : w < g.warps.length) : (s.modWarp gid w f).warp gid w = f (s.warp gid w) := by
  simp [State.warp, State.modWarp, State.group_modGroup, hg, Group.warp_modWarp, hw]

/-- Another warp is as it was. -/
theorem State.warp_modWarp_ne (s : State) (gid w i v : Nat) (f : Warp → Warp) (h : ¬(i = gid ∧ v = w)) :
    (s.modWarp gid w f).warp i v = s.warp i v := by
  simp only [State.warp, State.modWarp, State.group_modGroup]
  by_cases hi : i = gid
  · have hv : ¬(v = w) := fun hv => h ⟨hi, hv⟩
    rw [if_pos hi]
    cases s.group i with
    | none => rfl
    | some g => simp [Group.warp_modWarp, hv]
  · rw [if_neg hi]

theorem listMod_congr {α : Type} (xs : List α) (i : Nat) (f g : α → α) (d : α)
    (h : i < xs.length → f (xs.getD i d) = g (xs.getD i d)) : listMod xs i f = listMod xs i g := by
  induction xs generalizing i with
  | nil => rfl
  | cons x xs ih =>
    cases i with
    | zero => simpa [listMod] using h (by simp)
    | succ i => simp only [listMod]; rw [ih i (by simpa using h)]

theorem listMod_id {α : Type} (xs : List α) (i : Nat) (f : α → α) (d : α)
    (h : i < xs.length → f (xs.getD i d) = xs.getD i d) : listMod xs i f = xs := by
  induction xs generalizing i with
  | nil => rfl
  | cons x xs ih =>
    cases i with
    | zero => simpa [listMod] using h (by simp)
    | succ i => simp only [listMod]; rw [ih i (by simpa using h)]

theorem mapMod_id {β : Type} (m : KMap β) (i : Nat) (f : β → β) (h : ∀ x, mapGet m i = some x → f x = x) :
    mapMod m i f = m := by
  have := mapMod_congr m i f id (by simpa using h)
  rw [this]
  clear this h
  induction m with
  | nil => rfl
  | cons p m ih =>
    obtain ⟨k, v⟩ := p
    simp only [mapMod]
    split
    · simp
    · split <;> simp [ih]

/-- A warp set to what it becomes is a warp changed. -/
theorem State.modWarp_const (s : State) (gid w : Nat) (f : Warp → Warp) :
    s.modWarp gid w (fun _ => f (s.warp gid w)) = s.modWarp gid w f := by
  simp only [State.modWarp, State.modGroup]
  congr 1
  refine mapMod_congr _ _ _ _ ?_
  intro g hg
  have hg : s.group gid = some g := hg
  simp only [Group.modWarp]
  congr 1
  refine listMod_congr _ _ _ _ Warp.empty ?_
  intro _
  simp [State.warp, hg, Group.warp]

/-- A change that is none. -/
theorem State.modWarp_id (s : State) (gid w : Nat) (f : Warp → Warp) (h : f (s.warp gid w) = s.warp gid w) :
    s.modWarp gid w f = s := by
  simp only [State.modWarp, State.modGroup]
  rw [mapMod_id]
  intro g hg
  have hg : s.group gid = some g := hg
  simp only [Group.modWarp]
  rw [listMod_id _ _ _ Warp.empty]
  intro _
  simpa [State.warp, hg, Group.warp] using h

/-- A change that agrees with another on the warp. -/
theorem State.modWarp_congr (s : State) (gid w : Nat) (f h : Warp → Warp) (e : f (s.warp gid w) = h (s.warp gid w)) :
    s.modWarp gid w f = s.modWarp gid w h := by
  rw [← State.modWarp_const s gid w f, ← State.modWarp_const s gid w h, e]

@[simp] theorem State.modWarp_nextStamp (s : State) (gid w : Nat) (f : Warp → Warp) :
    s.nextStamp.modWarp gid w f = (s.modWarp gid w f).nextStamp := rfl

/-! ## Masks -/

@[simp] theorem mem_lanesIn (m : W64) (l : Nat) : l ∈ lanesIn m ↔ m.getLsbD l = true := by
  simp only [lanesIn, List.mem_filter, List.mem_range, and_iff_right_iff_imp]
  intro h
  by_contra hl
  rw [BitVec.getLsbD_of_ge m l (by omega)] at h
  cases h

theorem lanesIn_nodup (m : W64) : (lanesIn m).Nodup := List.Nodup.filter _ List.nodup_range

theorem getLsbD_foldl_oneLane (ls : List Nat) (m : W64) (l : Nat) :
    (ls.foldl (fun m l => m ||| oneLane l) m).getLsbD l = (m.getLsbD l || (decide (l < 64) && ls.contains l)) := by
  induction ls generalizing m with
  | nil => simp
  | cons k ls ih =>
    rw [List.foldl_cons, ih]
    simp only [BitVec.getLsbD_or, oneLane, List.contains_cons]
    by_cases hl : l < 64
    · by_cases hk : l = k
      · subst hk; simp [hl]
      · have hb : (l == k) = false := by simpa using hk
        by_cases h2 : l < k
        · simp [hl, hb, h2]
        · have h3 : l - k ≠ 0 := by omega
          simp [hl, hb, h3]
    · simp [hl]

/-- The lanes of a mask made from a list. -/
@[simp] theorem getLsbD_maskOf (ls : List Nat) (l : Nat) :
    (maskOf ls).getLsbD l = (decide (l < 64) && ls.contains l) := by
  simp [maskOf, getLsbD_foldl_oneLane]

theorem lanesIn_lt {m : W64} {l : Nat} (h : l ∈ lanesIn m) : l < 64 := by
  simp only [lanesIn, List.mem_filter, List.mem_range] at h
  exact h.1

/-! ## Lanes -/

theorem Warp.lane_modLane (w : Warp) (l k : Nat) (f : Lane → Lane) :
    (w.modLane l f).lane k = if k = l ∧ l < w.lanes.length then f (w.lane k) else w.lane k := by
  simp only [Warp.lane, Warp.modLane, listMod_getD]

theorem Warp.lane_modLanes (w : Warp) (m : W64) (f : Nat → Lane → Lane) (l : Nat) :
    (w.modLanes m f).lane l = if l < w.lanes.length ∧ m.getLsbD l = true then f l (w.lane l) else w.lane l := by
  simp only [Warp.lane, Warp.modLanes, mapFrom_getD, Nat.zero_add]
  by_cases hl : l < w.lanes.length
  · simp [hl]
  · simp [hl]

@[simp] theorem Warp.modLanes_length (w : Warp) (m : W64) (f : Nat → Lane → Lane) :
    (w.modLanes m f).lanes.length = w.lanes.length := by simp [Warp.modLanes]

@[simp] theorem Warp.modLane_length (w : Warp) (l : Nat) (f : Lane → Lane) :
    (w.modLane l f).lanes.length = w.lanes.length := by simp [Warp.modLane]

/-- A lane that is live stands in the warp. -/
theorem Warp.lt_of_isLive (w : Warp) (l : Nat) (h : (w.lane l).isLive = true) : l < w.lanes.length := by
  by_contra hl
  rw [Warp.lane, List.getD_eq_default _ _ (Nat.le_of_not_lt hl)] at h
  cases h

theorem Warp.modLane_id (w : Warp) (l : Nat) (f : Lane → Lane) (h : f (w.lane l) = w.lane l) : w.modLane l f = w := by
  simp only [Warp.modLane]
  rw [listMod_id _ _ _ Lane.empty (fun _ => h)]

/-! ## Windows -/

/-- A change that leaves each of its lanes as it is. -/
theorem Warp.modLanes_id (w : Warp) (m : W64) (f : Nat → Lane → Lane)
    (h : ∀ l, m.getLsbD l = true → f l (w.lane l) = w.lane l) : w.modLanes m f = w := by
  have key : (w.modLanes m f).lanes = w.lanes := by
    apply List.ext_getElem (by simp)
    intro l h1 h2
    have := Warp.lane_modLanes w m f l
    simp only [Warp.lane, List.getD_eq_getElem?_getD, List.getElem?_eq_getElem h1, List.getElem?_eq_getElem h2,
      Option.getD_some] at this
    rw [this]
    split
    · rename_i hm
      simpa only [Warp.lane, List.getD_eq_getElem?_getD, List.getElem?_eq_getElem h2, Option.getD_some] using h l hm.2
    · rfl
  calc w.modLanes m f = { w with lanes := (w.modLanes m f).lanes } := rfl
    _ = w := by rw [key]

/-- Windows of which none passes the test: nothing lands. -/
theorem Warp.land_none (w : Warp) (ls : List Nat) (p : Nat → Window → Bool)
    (h : ∀ l ∈ ls, ∀ y ∈ (w.lane l).windows, p l y = false) : w.land ls p = (w, []) := by
  have h1 : w.windowsOf ls p = [] := by
    have : (ls.flatMap fun l => ((w.lane l).windows.filter (p l)).map fun x => (l, x)) = [] := by
      simp only [List.flatMap_eq_nil_iff, List.map_eq_nil_iff, List.filter_eq_nil_iff]
      intro l hl y hy
      simp [h l hl y hy]
    rw [Warp.windowsOf, this]
    rfl
  have h2 : w.modLanes (maskOf ls) (fun l x => { x with windows := x.windows.filter fun y => !p l y }) = w := by
    apply Warp.modLanes_id
    intro l hm
    have hl : l ∈ ls := by
      rw [getLsbD_maskOf] at hm
      simpa using (Bool.and_eq_true_iff.1 hm).2
    have : ((w.lane l).windows.filter fun y => !p l y) = (w.lane l).windows := by
      rw [List.filter_eq_self]
      intro y hy
      simp [h l hl y hy]
    rw [this]
  rw [Warp.land, h1, h2]
  rfl

/-- Lanes whose windows are not due: nothing lands. -/
theorem State.landDue_none (s : State) (gid w : Nat) (m : W64)
    (h : ∀ l ∈ lanesIn m, ∀ y ∈ ((s.warp gid w).lane l).windows, y.left = 0 → y.done = false) :
    s.landDue gid w m = s := by
  have hd : (s.warp gid w).due (lanesIn m) = [] := by
    have hn : (lanesIn m).filter (fun l => !((s.warp gid w).lane l).standing.isEmpty
        && ((s.warp gid w).lane l).standing.all (·.done)) = [] := by
      rw [List.filter_eq_nil_iff]
      intro l hl hx
      simp only [Bool.and_eq_true, Bool.not_eq_true', List.all_eq_true] at hx
      cases hs : ((s.warp gid w).lane l).standing with
      | nil => simp [hs] at hx
      | cons y ys =>
        have hy : y ∈ ((s.warp gid w).lane l).standing := by simp [hs]
        have hz := List.mem_filter.1 hy
        have := hx.2 y hy
        rw [h l hl y hz.1 (by simpa using hz.2)] at this
        cases this
    rw [Warp.due, hn]
    rfl
  unfold State.landDue
  split
  · rfl
  · rw [hd, Warp.land_none]
    · simp only [State.raiseEach, List.map_nil]
      exact State.modWarp_id s gid w _ rfl
    · simp

end Sys2Proof.Machine
end

