-- ==== Sys2Proof/Laws/Canon.lean ====
section
/-! SUPPORT. Every memory and register operation keeps the canonical form (`State.canon`): one lemma for each operation
that the meanings share, down to `issued`, `finish` and `raise`. -/

namespace Sys2Proof.Machine

/-! ## States that differ elsewhere -/

/-- The canonical form depends on main memory, the lofts and the groups only. -/
theorem State.canon_congr {s t : State} (h : s.canon = true) (h1 : t.hbm = s.hbm) (h2 : t.loft = s.loft)
    (h3 : t.groups = s.groups) : t.canon = true := by
  simpa [State.canon, h1, h2, h3] using h

/-- A fold of operations each of which keeps the canonical form keeps it. -/
theorem State.canon_foldl {α : Type} {f : State → α → State} (hf : ∀ s x, s.canon = true → (f s x).canon = true) (xs : List α) :
    ∀ s : State, s.canon = true → (xs.foldl f s).canon = true := by
  induction xs with
  | nil => exact fun _ h => h
  | cons x xs ih => exact fun s h => ih _ (hf s x h)

theorem State.canon_modGroup {s : State} (h : s.canon = true) (gid : Nat) {f : Group → Group}
    (hf : ∀ g : Group, g.canon = true → (f g).canon = true) : (s.modGroup gid f).canon = true := by
  simp only [State.canon, State.modGroup, Bool.and_eq_true] at *
  exact ⟨h.1, all_mapMod _ _ _ _ h.2 fun g hg => hf g hg⟩

/-- The groups that stay when some are dropped. -/
theorem State.canon_groups {s : State} (h : s.canon = true) {gs : KMap Group} (hg : ∀ p ∈ gs, p.2.canon = true) :
    State.canon { s with groups := gs } = true := by
  simp only [State.canon, Bool.and_eq_true, List.all_eq_true] at *
  exact ⟨h.1, hg⟩

theorem State.canon_group {s : State} (h : s.canon = true) {gid : Nat} {g : Group} (hg : s.group gid = some g) :
    g.canon = true := by
  simp only [State.canon, Bool.and_eq_true, List.all_eq_true] at h
  have key : ∀ m : KMap Group, (∀ p ∈ m, p.2.canon = true) → mapGet m gid = some g → g.canon = true := by
    intro m
    induction m with
    | nil => intro _ h; cases h
    | cons q m ih =>
      intro hm hq
      simp only [mapGet] at hq
      split at hq
      · cases hq; exact hm q (List.mem_cons_self ..)
      · split at hq
        · cases hq
        · exact ih (fun p hp => hm p (List.mem_cons_of_mem _ hp)) hq
  exact key _ h.2 hg

theorem Group.canon_modWarp {g : Group} (h : g.canon = true) (w : Nat) {f : Warp → Warp}
    (hf : ∀ x : Warp, x.canon = true → (f x).canon = true) : (g.modWarp w f).canon = true := by
  simp only [Group.canon, Group.modWarp, Bool.and_eq_true, List.all_eq_true] at *
  refine ⟨h.1, ?_⟩
  have key : ∀ (ws : List Warp) (w : Nat), (∀ x ∈ ws, x.canon = true) → ∀ x ∈ listMod ws w f, x.canon = true := by
    intro ws
    induction ws with
    | nil => intro w _ x hx; cases w <;> cases hx
    | cons y ws ih =>
      intro w hw x hx
      cases w with
      | zero =>
        rcases List.mem_cons.mp hx with rfl | hx
        · exact hf y (hw y (List.mem_cons_self ..))
        · exact hw x (List.mem_cons_of_mem _ hx)
      | succ w =>
        rcases List.mem_cons.mp hx with rfl | hx
        · exact hw _ (List.mem_cons_self ..)
        · exact ih w (fun z hz => hw z (List.mem_cons_of_mem _ hz)) x hx
  exact key _ _ h.2

theorem State.canon_modWarp {s : State} (h : s.canon = true) (gid w : Nat) {f : Warp → Warp}
    (hf : ∀ x : Warp, x.canon = true → (f x).canon = true) : (s.modWarp gid w f).canon = true :=
  State.canon_modGroup h gid fun _ hg => Group.canon_modWarp hg w hf

theorem Group.canon_warp {g : Group} (h : g.canon = true) (w : Nat) : (g.warp w).canon = true := by
  simp only [Group.canon, Bool.and_eq_true, List.all_eq_true] at h
  unfold Group.warp
  rw [List.getD_eq_getElem?_getD]
  cases e : g.warps[w]? with
  | none => rfl
  | some x => exact h.2 x (List.mem_of_getElem? e)

theorem State.canon_warp {s : State} (h : s.canon = true) (gid w : Nat) : (s.warp gid w).canon = true := by
  unfold State.warp
  cases e : s.group gid with
  | none => rfl
  | some g => exact Group.canon_warp (State.canon_group h e) w

/-! ## Warps and lanes -/

theorem Warp.canon_of {x y : Warp} (h : x.canon = true) (h1 : y.stack = x.stack) (h2 : y.s = x.s)
    (h3 : y.lanes.map (·.v) = x.lanes.map (·.v)) : y.canon = true := by
  have e : ∀ z : Warp, z.canon = (Memory.wf z.stack && zwf z.s && (z.lanes.map (·.v)).all fun v => zwf v) := by
    intro z; simp only [Warp.canon, List.all_map]; rfl
  rw [e] at h ⊢; rw [h1, h2, h3]; exact h

theorem Warp.canon_modLane {x : Warp} (h : x.canon = true) (l : Nat) {f : Lane → Lane}
    (hf : ∀ y : Lane, zwf y.v = true → zwf (f y).v = true) : (x.modLane l f).canon = true := by
  simp only [Warp.canon, Warp.modLane, Bool.and_eq_true, List.all_eq_true] at *
  refine ⟨h.1, ?_⟩
  have key : ∀ (ys : List Lane) (l : Nat), (∀ y ∈ ys, zwf y.v = true) → ∀ y ∈ listMod ys l f, zwf y.v = true := by
    intro ys
    induction ys with
    | nil => intro l _ y hy; cases l <;> cases hy
    | cons z ys ih =>
      intro l hz y hy
      cases l with
      | zero =>
        rcases List.mem_cons.mp hy with rfl | hy
        · exact hf z (hz z (List.mem_cons_self ..))
        · exact hz y (List.mem_cons_of_mem _ hy)
      | succ l =>
        rcases List.mem_cons.mp hy with rfl | hy
        · exact hz _ (List.mem_cons_self ..)
        · exact ih l (fun a ha => hz a (List.mem_cons_of_mem _ ha)) y hy
  exact key _ _ h.2

theorem Warp.canon_modLanes {x : Warp} (h : x.canon = true) (m : W64) {f : Nat → Lane → Lane}
    (hf : ∀ l (y : Lane), zwf y.v = true → zwf (f l y).v = true) : (x.modLanes m f).canon = true := by
  simp only [Warp.canon, Warp.modLanes, Bool.and_eq_true, List.all_eq_true] at *
  refine ⟨h.1, ?_⟩
  have key : ∀ (g : Nat → Lane → Lane), (∀ l (y : Lane), zwf y.v = true → zwf (g l y).v = true) →
      ∀ (ys : List Lane) (k : Nat), (∀ y ∈ ys, zwf y.v = true) → ∀ y ∈ mapFrom k g ys, zwf y.v = true := by
    intro g hg ys
    induction ys with
    | nil => intro k _ y hy; cases hy
    | cons z ys ih =>
      intro k hz y hy
      rcases List.mem_cons.mp hy with rfl | hy
      · exact hg k z (hz z (List.mem_cons_self ..))
      · exact ih (k + 1) (fun a ha => hz a (List.mem_cons_of_mem _ ha)) y hy
  exact key _ (fun l y hy => by split <;> [exact hf l y hy; exact hy]) _ _ h.2

theorem Warp.canon_setS {x : Warp} (h : x.canon = true) (r : Nat) (v : W64) (tag : Bool) : (x.setS r v tag).canon = true := by
  simp only [Warp.canon, Warp.setS, Bool.and_eq_true] at *
  exact ⟨⟨h.1.1, zwf_zset _ _ _ h.1.2⟩, h.2⟩

theorem Lane.canon_setV {y : Lane} (h : zwf y.v = true) (r : Nat) (v : W32) : zwf (y.setV r v).v = true :=
  zwf_zset _ _ _ h

theorem Lane.canon_setV64 {y : Lane} (h : zwf y.v = true) (r : Nat) (v : W64) : zwf (y.setV64 r v).v = true :=
  zwf_zset _ _ _ (zwf_zset _ _ _ h)

theorem Lane.canon_setP {y : Lane} (h : zwf y.v = true) (p : Nat) (b : Bool) : zwf (y.setP p b).v = true := by
  unfold Lane.setP; split <;> exact h

theorem Warp.canon_clearErr {x : Warp} (h : x.canon = true) (p : Nat × Nat → Bool) : (x.clearErr p).canon = true := h

theorem Warp.canon_put {x : Warp} (h : x.canon = true) (l : Nat) (d : Dst) (v : W64) (tag : Bool) :
    (x.put l d v tag).canon = true := by
  cases d with
  | none => exact h
  | v32 r => exact Warp.canon_modLane h l fun y hy => Lane.canon_setV hy r _
  | v64 r => exact Warp.canon_modLane h l fun y hy => Lane.canon_setV64 hy r _
  | s r => exact Warp.canon_setS h r v tag
  | sHi r => exact Warp.canon_setS h r _ false
  | pred p => exact Warp.canon_modLane h l fun y hy => Lane.canon_setP hy p _

theorem Warp.canon_orFlags {x : Warp} (h : x.canon = true) (f : W32) : (x.orFlags f).canon = true := h

theorem Warp.canon_setRecord {x : Warp} (h : x.canon = true) (r : Record) : (x.setRecord r).canon = true :=
  Warp.canon_clearErr (Warp.canon_setS (Warp.canon_setS (Warp.canon_setS (Warp.canon_setS h 44 r.s44 false)
    45 r.s45 false) 46 r.s46 false) 47 r.s47 false) _

theorem Warp.canon_landAll (ws : List (Nat × Window)) : ∀ x : Warp, x.canon = true → (landAll ws x).1.canon = true := by
  induction ws with
  | nil => exact fun _ h => h
  | cons p ws ih =>
    obtain ⟨l, y⟩ := p
    intro x h
    simp only [landAll]
    split
    · exact ih _ (Warp.canon_put h l _ _ _)
    · exact ih _ h

theorem Warp.canon_land {x : Warp} (h : x.canon = true) (ls : List Nat) (p : Nat → Window → Bool) :
    (x.land ls p).1.canon = true :=
  Warp.canon_landAll _ _ (Warp.canon_modLanes h _ fun _ _ hy => (by exact hy))

theorem Warp.canon_closeWindows (ls : List Nat) {x : Warp} (h : x.canon = true) : (closeWindows ls x).1.canon = true :=
  Warp.canon_land h ls _

theorem Warp.canon_write {x : Warp} (h : x.canon = true) (d : Dst) (res : List (Nat × Res)) : (x.write d res).canon = true := by
  have key : ∀ (e : Dst) (res : List (Nat × Res)) (x : Warp), x.canon = true →
      (res.foldl (fun w p => (w.put p.1 e p.2.val false).orFlags p.2.flags) x).canon = true := by
    intro e res
    induction res with
    | nil => exact fun _ h => h
    | cons p res ih => exact fun x h => ih _ (Warp.canon_orFlags (Warp.canon_put h _ _ _ _) _)
  unfold Warp.write
  split
  · split
    · exact h
    · exact Warp.canon_orFlags (Warp.canon_put h _ _ _ _) _
  · exact key _ _ _ h

theorem Warp.canon_openWindows {x : Warp} (h : x.canon = true) (stamp cycle la : Nat) (pc : W64) (d : Dst) (tag : Bool)
    (res : List (Nat × Res)) : (x.openWindows stamp cycle la pc d tag res).canon = true := by
  unfold Warp.openWindows
  extract_lets low
  clear_value low
  induction res generalizing x with
  | nil => exact h
  | cons p res ih =>
    rw [List.foldl_cons]
    exact ih (Warp.canon_modLane h _ fun y hy => by exact hy)

/-! ## Memory -/

theorem State.canon_poke {s : State} (h : s.canon = true) (key : Nat) (sp : Space) (a : Nat) (bs : List Byte) :
    (s.poke key sp a bs).canon = true := by
  cases sp with
  | shared gid =>
    refine State.canon_modGroup h gid fun g hg => ?_
    simp only [Group.canon, Bool.and_eq_true] at *
    exact ⟨Memory.wf_writeBytes _ _ _ hg.1, hg.2⟩
  | loft d =>
    simp only [State.canon, State.poke, Bool.and_eq_true] at *
    exact ⟨⟨h.1.1, Memory.wf_writeBytes _ _ _ h.1.2⟩, h.2⟩
  | hbm =>
    simp only [State.canon, State.poke, Bool.and_eq_true] at *
    exact ⟨⟨Memory.wf_writeBytes _ _ _ h.1.1, h.1.2⟩, h.2⟩

theorem State.canon_setErrUnits {s : State} (h : s.canon = true) (sp : Space) (us : List Nat) :
    (s.setErrUnits sp us).canon = true := by
  cases sp with
  | shared gid => exact State.canon_modGroup h gid fun _ hg => (by exact hg)
  | loft d => exact h
  | hbm => exact h

/-- Every write at a home, of errors or not, keeps the canonical form. -/
theorem State.canon_putHome {s : State} (h : s.canon = true) (key : Nat) (sp : Space) (a : Nat) (bs : List Byte) :
    (s.putHome key sp a bs).1.canon = true := by
  unfold State.putHome
  dsimp only
  split
  · exact State.canon_poke h ..
  · split
    · exact State.canon_foldl (fun s p hs => by
        split <;> [exact hs; exact State.canon_poke hs ..]) _ _ (State.canon_setErrUnits h ..)
    · refine State.canon_congr (s := List.foldl _ _ _) ?_ rfl rfl rfl
      exact State.canon_foldl (fun s p hs => by
        split <;> [exact hs; exact State.canon_poke hs ..]) _ _ (State.canon_setErrUnits h ..)

theorem State.canon_writeHome {s : State} (h : s.canon = true) (key : Nat) (sp : Space) (a : Nat) (bs : List Byte) :
    (s.writeHome key sp a bs).1.canon = true :=
  State.canon_congr (State.canon_putHome h key sp a bs) rfl rfl rfl

theorem State.canon_commit {s : State} (h : s.canon = true) (e : Recent) (bs : List Byte) :
    (s.commit e bs).1.canon = true := by
  unfold State.commit
  exact State.canon_congr (State.canon_putHome h _ e.space e.addr bs) rfl rfl rfl

theorem State.canon_releaseGen {s : State} (h : s.canon = true) (w : PWrite) : (s.releaseGen w).canon = true := by
  unfold State.releaseGen
  split <;> exact h

theorem State.canon_landPlain {s : State} (h : s.canon = true) (w : PWrite) : (s.landPlain w).canon = true := by
  unfold State.landPlain
  refine State.canon_releaseGen ?_ w
  generalize e : s.commit _ _ = r
  have hr : r.1.canon = true := e ▸ State.canon_commit h _ _
  have hf : (r.1.failWrite w.op).canon = true := hr
  split <;> assumption

/-- A read that returns changes what its agent knows, and no memory. -/
theorem State.canon_noteFrom {s : State} (h : s.canon = true) (a : Agent) (es : List Recent) (sp : Space) (i n : Nat)
    (acq : Option Scope) : (s.noteFrom a es sp i n acq).canon = true := by
  unfold State.noteFrom
  cases acq <;> exact h

theorem State.canon_noteRead {s : State} (h : s.canon = true) (a : Agent) (sp : Space) (i n : Nat) (acq : Option Scope) :
    (s.noteRead a sp i n acq).canon = true := State.canon_congr (State.canon_noteFrom h ..) rfl rfl rfl

theorem State.canon_atomicHome {s : State} (h : s.canon = true) (w : PWrite) (m : Rmw) (acq : Option Scope) :
    (s.atomicHome w m acq).1.canon = true := by
  unfold State.atomicHome
  extract_lets n old seen es u t
  by_cases hb : s.badRead w.space w.addr n
  · rw [if_pos hb]; exact h
  · rw [if_neg hb]
    have ht : t.canon = true := State.canon_congr (State.canon_noteFrom (s := seen) h w.agent es w.space w.addr n acq)
      rfl rfl rfl
    clear_value t es
    cases m.fn.new (8 * n) old m.c with
    | none => exact ht
    | some x => exact State.canon_releaseGen (State.canon_commit ht _ _) w

theorem State.canon_giveWindows {s : State} (h : s.canon = true) (w : PWrite) (m : Rmw) (x : AtomRes) :
    (s.giveWindows w m x).canon = true :=
  State.canon_modWarp h _ _ fun _ hx => Warp.canon_modLanes hx _ fun _ _ hy => (by exact hy)

theorem State.canon_land1 {s : State} (h : s.canon = true) (w : PWrite) : (s.land1 w).canon = true := by
  unfold State.land1
  split
  · exact State.canon_landPlain h w
  · exact State.canon_giveWindows (State.canon_atomicHome h ..) ..

theorem State.canon_drain {s : State} (h : s.canon = true) (p : PWrite → Bool) : (s.drain p).canon = true := by
  unfold State.drain
  exact State.canon_foldl (fun _ w hs => State.canon_land1 hs w) _ _ h

theorem State.canon_drainLane {s : State} (h : s.canon = true) (gid w l : Nat) : (s.drainLane gid w l).canon = true :=
  State.canon_drain h _

theorem State.canon_drainSo {s : State} (h : s.canon = true) (gid w l : Nat) : (s.drainSo gid w l).canon = true :=
  State.canon_drain h _

theorem State.canon_drainMask {s : State} (h : s.canon = true) (gid w : Nat) (m : W64) : (s.drainMask gid w m).canon = true :=
  State.canon_congr (State.canon_drain h _) rfl rfl rfl

/-- The reads of lanes return, or their windows are about to close. -/
theorem State.canon_settleReads {s : State} (h : s.canon = true) (gid w : Nat) (m : W64) : (s.settleReads gid w m).canon = true :=
  State.canon_congr (State.canon_drain h _) rfl rfl rfl

theorem State.canon_settleWindows {s : State} (h : s.canon = true) (gid w : Nat) (m : W64) :
    (s.settleWindows gid w m).canon = true := State.canon_congr (State.canon_settleReads h ..) rfl rfl rfl

/-! ## What agents know -/

theorem State.canon_teach {s : State} (h : s.canon = true) (p : Recent → Bool) (bs : List Agent) :
    (s.teach p bs).canon = true := h

theorem State.canon_learn {s : State} (h : s.canon = true) (a : Agent) (bs : List Agent) : (s.learn a bs).canon = true := h

theorem State.canon_observe {s : State} (h : s.canon = true) (g : Group) (c q gid w : Nat) (ls : List Nat) :
    (s.observe g c q gid w ls).canon = true := h

/-! ## Groups that go -/

theorem State.canon_freeCtxs {s : State} (h : s.canon = true) (gid : Nat) : (s.freeCtxs gid).canon = true := by
  unfold State.freeCtxs
  split
  · exact h
  · split
    · exact h
    · exact State.canon_modGroup (State.canon_congr h rfl rfl rfl) gid fun _ hg => (by exact hg)

theorem State.canon_drained {s : State} (h : s.canon = true) (gid : Nat) : (s.drained gid).canon = true := by
  unfold State.drained
  split
  · exact h
  · split
    · exact h
    · dsimp only
      split
      · exact State.canon_freeCtxs h gid
      · have := State.canon_freeCtxs h gid
        simp only [State.canon, Bool.and_eq_true] at this ⊢
        exact ⟨this.1, all_mapErase _ _ _ this.2⟩

theorem State.canon_removeGroup {s : State} (h : s.canon = true) (gid : Nat) : (s.removeGroup gid).canon = true := by
  unfold State.removeGroup
  split
  · exact h
  · dsimp only
    refine State.canon_drained (State.canon_modGroup ?_ gid fun g hg => ?_) gid
    · exact State.canon_congr h rfl rfl rfl
    · simp only [Group.canon, Bool.and_eq_true] at *
      exact ⟨hg.1, rfl⟩

theorem State.canon_discard {s : State} (h : s.canon = true) (gid : Nat) : (s.discard gid).canon = true := by
  unfold State.discard
  split
  · exact h
  · refine State.canon_removeGroup ?_ gid
    unfold State.freePlaces State.freeFrame
    dsimp only
    split <;> split <;> exact State.canon_congr h rfl rfl rfl

theorem State.canon_abortNode {s : State} (h : s.canon = true) (c n : Nat) : (s.abortNode c n).canon = true := by
  have := State.canon_foldl (f := State.discard) (fun s i hs => State.canon_discard hs i) (s.groupsOf c n) s h
  exact State.canon_congr this rfl rfl rfl

theorem State.canon_abortGrid {s : State} (h : s.canon = true) (gid w : Nat) (rec_ : Record) (e : Option Record) :
    (s.abortGrid gid w rec_ e).canon = true := by
  unfold State.abortGrid
  split
  · exact h
  · refine State.canon_abortNode ?_ _ _
    exact State.canon_congr h rfl rfl rfl

/-! ## Faults and landings -/

theorem State.canon_holdFaults {s : State} (h : s.canon = true) (gid w : Nat) (pc : W64) (fs : List LFlt) :
    (s.holdFaults gid w pc fs).canon = true :=
  State.canon_modWarp h gid w fun _ hx => Warp.canon_modLanes hx _ fun _ _ hy => (by exact hy)

theorem State.canon_logChecks {s : State} (h : s.canon = true) (g : Group) (w : Nat) (fs : List LFlt) :
    (s.logChecks g w fs).canon = true := h

/-- Entering the handler: the record, and where the lanes go. -/
theorem Warp.canon_enter {x : Warp} (h : x.canon = true) (r : Record) (set hs : W64) (hr : Option Record) (pc : W64) :
    (Warp.modLanes { x.setRecord r with hset := hs, hrec := hr } set fun _ y => y.jump pc true).canon = true := by
  have h1 : Warp.canon { x.setRecord r with hset := hs, hrec := hr } = true := Warp.canon_setRecord h r
  exact Warp.canon_modLanes h1 set fun _ _ hy => (by exact hy)

theorem State.canon_deliver {s : State} (h : s.canon = true) (gid w : Nat) (d : Desc) (f : Flt) (pc set : W64) :
    (s.deliver gid w d f pc set).canon = true := by
  unfold State.deliver
  dsimp only
  replace h := State.canon_settleWindows h gid w set
  generalize s.settleWindows gid w set = s at h ⊢
  have hc := Warp.canon_closeWindows (lanesIn set) (State.canon_warp h gid w)
  generalize closeWindows (lanesIn set) (s.warp gid w) = c at hc ⊢
  have hs := State.canon_modWarp h gid w fun _ _ =>
    Warp.canon_enter hc (mkRecord f pc set) set set (some (mkRecord f pc set)) d.handler
  generalize State.modWarp s gid w _ = t at hs ⊢
  split
  · exact State.canon_abortGrid (State.canon_logChecks hs ..) ..
  · exact hs

theorem State.canon_takeFaults {s : State} (h : s.canon = true) (gid w : Nat) (pc : W64) (fs : List LFlt) :
    (s.takeFaults gid w pc fs).canon = true := by
  cases fs with
  | nil => exact h
  | cons p fs =>
    cases hg : s.group gid with
    | none => simp only [State.takeFaults, hg]; exact h
    | some g =>
      have hs := State.canon_modWarp h gid w (f := fun x =>
        { x with arrivals := x.arrivals.filter fun (a : Arrival) => a.ghost || !((p :: fs).any fun q => q.1 == a.lane) })
        fun _ hx => (by exact hx)
      simp only [State.takeFaults, hg]
      generalize State.modWarp s gid w _ = t at hs ⊢
      split
      · exact State.canon_abortGrid hs ..
      · split
        · exact State.canon_abortGrid hs ..
        · split
          · exact State.canon_holdFaults hs ..
          · exact State.canon_holdFaults (State.canon_deliver hs ..) ..

/-- Taking a fault keeps the canonical form, however it ends. -/
theorem State.canon_raise {s : State} (h : s.canon = true) (gid w : Nat) (pc : W64) (fs : List LFlt) :
    (s.raise gid w pc fs).canon = true := by
  cases fs with
  | nil => exact h
  | cons p fs =>
    cases hg : s.group gid with
    | none => simp only [State.raise, hg]; exact h
    | some g => simp only [State.raise, hg]; exact State.canon_takeFaults (State.canon_logChecks h ..) ..

theorem State.canon_setPre {s : State} (h : s.canon = true) (fs : List LFlt) : (s.setPre fs).canon = true := h

theorem State.canon_raiseRun {s : State} (h : s.canon = true) (r : Run) (fs : List LFlt) : (s.raiseRun r fs).canon = true := by
  unfold State.raiseRun
  dsimp only
  split
  · exact State.canon_raise h ..
  · exact State.canon_raise (State.canon_setPre h _) ..

theorem State.canon_raiseAll {s : State} (h : s.canon = true) (r : Run) (ls : List Nat) (c : FCode) (v : W64) :
    (s.raiseAll r ls c v).canon = true := State.canon_raiseRun h ..

theorem State.canon_raiseEach {s : State} (h : s.canon = true) (gid w : Nat) (fs : List (W64 × LFlt)) :
    (s.raiseEach gid w fs).canon = true :=
  State.canon_foldl (fun _ _ hs => State.canon_raise hs ..) _ _ h

/-- Lanes go somewhere: no register changes. -/
theorem State.canon_place {s : State} (h : s.canon = true) (gid w : Nat) (m : W64) {f : Nat → Lane → Lane}
    (hf : ∀ l (y : Lane), (f l y).v = y.v) : (s.modWarp gid w fun x => x.modLanes m f).canon = true :=
  State.canon_modWarp h gid w fun _ hx => Warp.canon_modLanes hx m fun l y hy => (by rw [hf]; exact hy)

theorem State.canon_releaseSet {s : State} (h : s.canon = true) (gid w : Nat) : (s.releaseSet gid w).canon = true := by
  have h1 := State.canon_modWarp h gid w (f := fun x => { x with hrec := none }) fun _ hx => (by exact hx)
  simp only [State.releaseSet]
  split
  · exact h
  · generalize State.modWarp s gid w _ = t at h1 ⊢
    split
    · exact h1
    · next p _ =>
      generalize List.filter _ _ = same
      refine State.canon_takeFaults ?_ ..
      refine State.canon_modWarp h1 gid w fun x hx => ?_
      have h2 := Warp.canon_modLanes hx (maskOf (same.map (·.lane))) (f := fun _ y => { y with wait := .none })
        fun _ _ hy => (by exact hy)
      exact h2

theorem State.canon_returnFrom {s : State} (h : s.canon = true) (gid w : Nat) (ls t : W64) :
    (s.returnFrom gid w ls t).canon = true := by
  unfold State.returnFrom
  refine State.canon_releaseSet (State.canon_modWarp h gid w fun x hx => ?_) gid w
  have h2 := Warp.canon_modLanes hx ls (f := fun _ y => y.jump t false)
    fun _ _ hy => (by exact hy)
  exact h2

theorem State.canon_leaveSet {s : State} (h : s.canon = true) (gid w : Nat) (ls : W64) : (s.leaveSet gid w ls).canon = true := by
  unfold State.leaveSet
  split
  · exact State.canon_modWarp h gid w fun _ hx => (by exact hx)
  · exact State.canon_releaseSet (State.canon_modWarp h gid w fun _ hx => (by exact hx)) gid w

theorem State.canon_landDue {s : State} (h : s.canon = true) (gid w : Nat) (ls : W64) : (s.landDue gid w ls).canon = true := by
  unfold State.landDue
  split
  · exact h
  · exact State.canon_raiseEach (State.canon_modWarp h gid w fun _ _ =>
      Warp.canon_land (State.canon_warp h gid w) ..) ..

theorem State.canon_close {s : State} (h : s.canon = true) (gid w : Nat) (ls : W64) : (s.close gid w ls).canon = true :=
  have h1 := State.canon_settleWindows h gid w ls
  State.canon_raiseEach (State.canon_modWarp h1 gid w fun _ _ =>
    Warp.canon_closeWindows _ (State.canon_warp h1 gid w)) ..

theorem State.canon_completeNow {s : State} (h : s.canon = true) (gid w : Nat) (ls : W64) :
    (s.completeNow gid w ls).canon = true :=
  State.canon_landDue (State.canon_modWarp (State.canon_settleReads h gid w ls) gid w fun _ hx =>
    Warp.canon_modLanes hx _ fun _ _ hy => (by exact hy)) ..

/-! ## What every issued instruction shares -/

theorem State.canon_hold {s : State} (h : s.canon = true) (r : Run) (ls : List Nat) (x : Wait) : (s.hold r ls x).canon = true :=
  State.canon_modWarp h _ _ fun _ hx => Warp.canon_modLanes hx _ fun _ _ hy => (by exact hy)

theorem State.canon_leave {s : State} (h : s.canon = true) (gid w : Nat) (ls : W64) : (s.leave gid w ls).canon = true :=
  State.canon_landDue (State.canon_modWarp h _ _ fun _ hx => Warp.canon_modLanes hx _ fun _ _ hy => (by exact hy)) ..

theorem State.canon_releaseEntry {s : State} (h : s.canon = true) (gid : Nat) (g : Group) (e : MEntry) (x : Rdv) :
    (s.releaseEntry gid g e x).canon = true := by
  have h1 : (s.modEntry g e.id fun y => { y with rdv := x }).canon = true := State.canon_congr h rfl rfl rfl
  unfold State.releaseEntry
  dsimp only
  split
  · exact State.canon_leave h1 ..
  · exact State.canon_place h1 gid e.warp _ fun _ _ => rfl

theorem State.canon_partCheck {s : State} (h : s.canon = true) (gid w : Nat) : (s.partCheck gid w).canon = true := by
  unfold State.partCheck
  split
  · exact h
  · split
    · exact h
    · split
      · exact h
      · have h2 : ∀ (t : State) (g : Group), t.canon = true → (t.setSplit g true).canon = true := fun _ _ ht => ht
        exact State.canon_foldl (fun _ _ hs => h2 _ _ (State.canon_releaseEntry hs ..)) _ _ h

theorem State.canon_block {s : State} (h : s.canon = true) (r : Run) (ls : List Nat) (x : Wait) : (s.block r ls x).canon = true :=
  State.canon_partCheck (State.canon_hold h ..) ..

theorem State.canon_moveTo {s : State} (h : s.canon = true) (r : Run) (ls : List Nat) (dest : Nat → W64) :
    (s.moveTo r ls dest).canon = true := by
  have h1 := State.canon_place h r.gid r.w (maskOf ls)
    (f := fun l y => y.goOn s.stamp (dest l)) fun _ _ => rfl
  exact State.canon_landDue h1 ..

theorem State.canon_advance {s : State} (h : s.canon = true) (r : Run) (ls : List Nat) : (s.advance r ls).canon = true :=
  State.canon_moveTo h ..

theorem State.canon_tagWait (r : Run) (ws rs ns : List Nat) : ∀ {s : State}, s.canon = true → (s.tagWait r ws rs ns).1.canon = true := by
  induction ns with
  | nil => exact fun h => h
  | cons n ns ih =>
    intro s h
    have hu := State.canon_modWarp h r.gid r.w (f := fun x => x.untag n) fun _ hx => (by exact hx)
    simp only [State.tagWait]
    split
    · exact ih h
    · split
      · exact State.canon_raiseAll hu ..
      · split
        · exact State.canon_block h ..
        · split
          · exact State.canon_raiseAll (State.canon_observe hu ..) ..
          · exact ih (State.canon_observe hu ..)

theorem State.canon_understudy {s : State} (h : s.canon = true) (r : Run) (ls : List Nat) : (s.understudy r ls).1.canon = true := by
  unfold State.understudy
  split
  · exact h
  · have h1 := State.canon_modWarp h r.gid r.w (f := fun x => { x with
        checked := x.checked + BitVec.ofNat 64 ls.length
        shadowed := x.shadowed + BitVec.ofNat 64 (ls.filter fun l => (r.shadow l).isSome).length
        soft := x.soft &&& ~~~(maskOf ((r.mismatched ls).map (·.1))) }) fun _ hx => (by exact hx)
    have h2 : ∀ t : State, t.canon = true → (t.countMism r.g).canon = true := fun t ht => ht
    exact State.canon_foldl (fun t _ ht => h2 t ht) _ _ h1

/-- The end of every instruction with one result a lane. -/
theorem State.canon_finish {s : State} (h : s.canon = true) (r : Run) (long tag chk : Bool) (d : Dst) (res : List (Nat × Res)) :
    (s.finish r long tag chk d res).canon = true := by
  have hu : ∀ ls, (if chk then s.understudy r ls else (s, [])).1.canon = true := by
    intro ls; split <;> [exact State.canon_understudy h r ls; exact h]
  unfold State.finish
  dsimp only
  refine State.canon_raiseRun (s := State.nextStamp _) (State.canon_congr (State.canon_advance (State.canon_modWarp (hu _) _ _ fun x hx => ?_) r _) rfl rfl rfl) ..
  split
  · exact Warp.canon_openWindows hx ..
  · exact Warp.canon_write hx ..

theorem issuedRun_canon {i : Instr} {t : Tags} {body : Run → State → State} {s : State} (h : s.canon = true)
    (hb : ∀ r v, v.canon = true → (body r v).canon = true) (r : Run) : (issuedRun i t body r s).canon = true := by
  unfold issuedRun
  extract_lets readers
  clear_value readers
  split <;> [exact hb _ _ h; exact hb _ _ (State.canon_tagWait _ _ _ _ h)]

theorem State.canon_raisePre {s : State} (h : s.canon = true) : s.raisePre.canon = true := by
  unfold State.raisePre
  split
  · exact h
  · exact State.canon_raise (State.canon_setPre h _) ..

/-- An issued instruction keeps the canonical form when what it does to its run keeps it. -/
theorem issued_canon {i : Instr} {t : Tags} {body : Run → State → State} {s u : State} (h : s.canon = true)
    (hb : ∀ r v, v.canon = true → (body r v).canon = true) (e : issued i t body s = .next u) : u.canon = true := by
  unfold issued at e
  injection e with e
  subst e
  split
  · exact h
  · split
    · exact State.canon_raise h ..
    · split
      · exact issuedRun_canon h hb _
      · exact State.canon_raisePre (issuedRun_canon (State.canon_setPre h _) hb _)

theorem State.canon_closeIssue {s : State} (h : s.canon = true) : s.closeIssue.canon = true := by
  unfold State.closeIssue
  cases s.issue with
  | none => exact h
  | some iss => exact State.canon_congr (State.canon_close h ..) rfl rfl rfl

theorem issuedClosing_canon {i : Instr} {t : Tags} {body : Run → State → State} {s u : State} (h : s.canon = true)
    (hb : ∀ r v, v.canon = true → (body r v).canon = true) (e : issuedClosing i t body s = .next u) : u.canon = true :=
  issued_canon (State.canon_closeIssue h) hb e

/-- Every instruction whose result a lane is a function of its operands keeps the canonical form. -/
theorem alu_canon {i : Instr} {chk : Bool} {g : Run → Nat → Res} {s u : State} (h : s.canon = true)
    (e : alu i chk g s = .next u) : u.canon = true :=
  issued_canon h (fun r _ hv => State.canon_finish hv r _ _ _ _ _) e

end Sys2Proof.Machine
end

