-- ==== Sys2Proof/Laws/Issue.lean ====
section
/-! SUPPORT. What the shared parts of an issue do: the checks before an instruction, results, windows, and the lanes
moving on. -/

namespace Sys2Proof.Machine

/-! ## The run -/

theorem Run.of_runOf {s : State} {o : Ops} {r : Run} (h : s.runOf o = some r) :
    s.issue = some r.iss ∧ s.group r.gid = some r.g ∧ r.o = o ∧ r.d = s.desc r.g ∧ r.gid = r.iss.gid ∧ r.w = r.iss.warp
    ∧ r.ls = lanesIn (r.iss.lanes &&& ~~~r.iss.out) ∧ r.act = r.ls.filter (fun l => guardOf o.g (r.iss.snap.lane l)) := by
  unfold State.runOf at h
  split at h
  · cases h
  · rename_i iss hi
    split at h
    · cases h
    · rename_i g hg
      cases h
      exact ⟨hi, hg, rfl, rfl, rfl, rfl, rfl, rfl⟩

theorem Run.act_sub {s : State} {o : Ops} {r : Run} (h : s.runOf o = some r) {l : Nat} (hl : l ∈ r.act) : l ∈ r.ls := by
  obtain ⟨_, _, _, _, _, _, _, ha⟩ := Run.of_runOf h
  rw [ha, List.mem_filter] at hl
  exact hl.1

theorem Run.ls_lt {s : State} {o : Ops} {r : Run} (h : s.runOf o = some r) {l : Nat} (hl : l ∈ r.ls) : l < 64 := by
  obtain ⟨_, _, _, _, _, _, hs, _⟩ := Run.of_runOf h
  rw [hs] at hl
  exact lanesIn_lt hl

theorem Run.act_nodup {s : State} {o : Ops} {r : Run} (h : s.runOf o = some r) : r.act.Nodup := by
  obtain ⟨_, _, _, _, _, _, hs, ha⟩ := Run.of_runOf h
  rw [ha, hs]
  exact (lanesIn_nodup _).filter _

/-- Where a live lane stands, the warp stands. -/
theorem State.warp_lt {s : State} {gid w l : Nat} {g : Group} (hg : s.group gid = some g)
    (h : ((s.warp gid w).lane l).isLive = true) : w < g.warps.length ∧ l < (s.warp gid w).lanes.length := by
  refine ⟨?_, Warp.lt_of_isLive _ _ h⟩
  by_contra hw
  have : s.warp gid w = Warp.empty := by
    simp only [State.warp, hg, Option.map_some, Option.getD_some, Group.warp]
    exact List.getD_eq_default _ _ (Nat.le_of_not_lt hw)
  rw [this] at h
  have h2 : (Warp.empty.lane l).isLive = false := by
    simp only [Warp.lane, Warp.empty]
    rw [List.getD_eq_getElem?_getD, List.getElem?_replicate]
    split <;> rfl
  rw [h2] at h
  cases h

theorem Issues.warp_lt {i : Instr} {s : State} {r : Run} (h : Issues i s r) : r.w < r.g.warps.length := by
  obtain ⟨l, hl⟩ := List.exists_mem_of_ne_nil _ h.lanes
  exact (State.warp_lt (Run.of_runOf h.run).2.1 (h.live l hl)).1

/-- The run stands in the state: its warp exists, its lanes are among the warp's, and the registers are in canonical
form. -/
structure Stands (s : State) (r : Run) : Prop where
  group : ∃ g, s.group r.gid = some g ∧ r.w < g.warps.length
  len : ∀ l ∈ r.ls, l < (s.warp r.gid r.w).lanes.length
  lt : ∀ l ∈ r.ls, l < 64
  sub : ∀ l ∈ r.act, l ∈ r.ls
  nodup : r.act.Nodup
  canon : (s.warp r.gid r.w).canon = true

theorem Issues.stands {i : Instr} {s : State} {r : Run} (h : Issues i s r) : Stands s r where
  group := ⟨_, (Run.of_runOf h.run).2.1, h.warp_lt⟩
  len := fun l hl => (State.warp_lt (Run.of_runOf h.run).2.1 (h.live l hl)).2
  lt := fun _ hl => Run.ls_lt h.run hl
  sub := fun _ hl => Run.act_sub h.run hl
  nodup := Run.act_nodup h.run
  canon := h.canon

/-- A change of the warp that keeps its lanes and its canonical form. -/
theorem Stands.modWarp {s : State} {r : Run} (h : Stands s r) (f : Warp → Warp)
    (hl : (f (s.warp r.gid r.w)).lanes.length = (s.warp r.gid r.w).lanes.length)
    (hc : (f (s.warp r.gid r.w)).canon = true) : Stands (s.modWarp r.gid r.w f) r := by
  obtain ⟨g, hg, hw⟩ := h.group
  have he := State.warp_modWarp s r.gid r.w f hg hw
  refine ⟨⟨g.modWarp r.w f, ?_, by simpa using hw⟩, ?_, h.lt, h.sub, h.nodup, by rw [he]; exact hc⟩
  · rw [State.modWarp, State.group_modGroup, if_pos rfl, hg]; rfl
  · intro l hm; rw [he, hl]; exact h.len l hm

/-- A state with the same groups. -/
theorem Stands.of_groups {s t : State} {r : Run} (h : Stands s r) (e : t.groups = s.groups) : Stands t r := by
  have hg : ∀ i, t.group i = s.group i := fun i => by simp only [State.group, e]
  have hw : t.warp r.gid r.w = s.warp r.gid r.w := by simp only [State.warp, hg]
  exact ⟨by simpa only [hg] using h.group, by simpa only [hw] using h.len, h.lt, h.sub, h.nodup,
    by simpa only [hw] using h.canon⟩

/-! ## Before the instruction acts -/

theorem State.tagWait_none (s : State) (r : Run) (ws rs : List Nat) (ns : List Nat)
    (h : ∀ n ∈ ns, r.snap.tagged n = false) : s.tagWait r ws rs ns = (s, []) := by
  induction ns with
  | nil => rfl
  | cons n ns ih =>
    have h1 := h n (by simp)
    simp only [State.tagWait, h1, Bool.not_false, if_true]
    exact ih fun k hk => h k (by simp [hk])

@[simp] theorem Run.without_nil (r : Run) : r.without [] = r := by
  simp only [Run.without, List.contains_nil, Bool.not_false, List.filter_true]

/-- Everything that comes before an instruction acts, when nothing stops it. -/
theorem issued_next {i : Instr} {s : State} {r : Run} (h : Issues i s r) (t : Tags) (body : Run → State → State) :
    issued i t body s = .next (body r s) := by
  have ho : r.o = opsOf i := (Run.of_runOf h.run).2.2.1
  simp only [issued, h.run, h.legal, h.noErr, ho, h.limits, Bool.and_self, Bool.not_true, Bool.false_eq_true, if_false]
  simp only [issuedRun, State.tagWait_none s r _ _ _ h.noTag, Run.without_nil, ite_self]

/-! ## Results -/

/-- One write of a result to a lane's own destination. -/
def Lane.putDst (x : Lane) (d : Dst) (v : W64) : Lane :=
  match d with
  | .v32 n => x.setV n (v.extractLsb' 0 32)
  | .v64 n => x.setV64 n v
  | .pred p => x.setP p (v.getLsbD 0)
  | _ => x

@[simp] theorem Lane.putDst_windows (x : Lane) (d : Dst) (v : W64) : (x.putDst d v).windows = x.windows := by
  cases d <;> simp only [Lane.putDst, Lane.setV, Lane.setV64, Lane.setP] <;> split <;> rfl

theorem Lane.putDst_frame (x : Lane) (d : Dst) (v : W64) :
    x.putDst d v = { x with v := (x.putDst d v).v, p := (x.putDst d v).p } := by
  cases d <;> simp only [Lane.putDst, Lane.setV, Lane.setV64, Lane.setP] <;> split <;> rfl

theorem Lane.putDst_canon (x : Lane) (d : Dst) (v : W64) (h : zwf x.v = true) : zwf (x.putDst d v).v = true := by
  cases d <;> simp only [Lane.putDst, Lane.setV, Lane.setV64, Lane.setP] <;> (try split) <;>
    first | exact h | exact zwf_zset _ _ _ h | exact zwf_zset _ _ _ (zwf_zset _ _ _ h)

theorem Lane.putDst_getV (x : Lane) (d : Dst) (v : W64) (n : Nat) (h : zwf x.v = true) :
    (x.putDst d v).getV n = d.newV v n (x.getV n) := by
  cases d with
  | v64 k =>
    simp only [Lane.putDst, Lane.setV64, Lane.setV, Lane.getV, Dst.newV]
    rw [zget_zset _ _ _ _ (zwf_zset _ _ _ h), zget_zset _ _ _ _ h]
    by_cases h1 : n = k + 1
    · subst h1; simp
    · simp [h1]
  | v32 k => simp only [Lane.putDst, Lane.setV, Lane.getV, Dst.newV, zget_zset _ _ _ _ h]
  | pred k => simp only [Lane.putDst, Lane.setP]; split <;> rfl
  | none => rfl
  | s k => rfl
  | sHi k => rfl

theorem Lane.getP_setP (x : Lane) (k n : Nat) (b : Bool) :
    (x.setP k b).getP n = if n = k ∧ k < 15 then b else x.getP n := by
  simp only [Lane.setP, Lane.getP]
  by_cases hk : 15 ≤ k
  · have : ¬(n = k ∧ k < 15) := by omega
    rw [if_pos hk, if_neg this]
  · rw [if_neg hk]
    by_cases hn : n = 15
    · have : ¬(n = k ∧ k < 15) := by omega
      rw [if_pos hn, if_neg this, if_pos hn]
    · rw [if_neg hn, if_neg hn]
      by_cases hnk : n = k
      · subst hnk
        have : n < 15 := by omega
        cases b <;> simp [this]
      · have : ¬(n = k ∧ k < 15) := by omega
        rw [if_neg this]
        have hb : (1#15 <<< k).getLsbD n = false := by
          rw [BitVec.getLsbD_shiftLeft]
          by_cases h1 : n < k
          · simp [h1]
          · have h2 : n - k ≠ 0 := by omega
            simp [h2]
        by_cases hlt : n < 15
        · simp only [BitVec.getLsbD_or, BitVec.getLsbD_and, BitVec.getLsbD_not, hb, hlt, decide_true,
            Bool.not_false, Bool.and_true]
          cases b
          · simp
          · simp [hb]
        · rw [BitVec.getLsbD_of_ge _ _ (by omega), BitVec.getLsbD_of_ge _ _ (by omega)]

theorem Lane.putDst_getP (x : Lane) (d : Dst) (v : W64) (n : Nat) :
    (x.putDst d v).getP n = d.newP v n (x.getP n) := by
  cases d with
  | pred k => simp only [Lane.putDst, Dst.newP, Lane.getP_setP]
  | v64 k => rfl
  | v32 k => rfl
  | none => rfl
  | s k => rfl
  | sHi k => rfl

/-- A result for a destination of a lane's own. -/
theorem Warp.put_own (w : Warp) (l : Nat) (d : Dst) (v : W64) (tag : Bool) (hd : d.shared = false) :
    (w.put l d v tag) = { w.modLane l (·.putDst d v) with regErr := (w.put l d v tag).regErr } := by
  cases d with
  | s n => cases hd
  | sHi n => cases hd
  | none =>
    have : w.modLane l (·.putDst .none v) = w := Warp.modLane_id _ _ _ rfl
    rw [this]
    rfl
  | v32 n => rfl
  | v64 n => rfl
  | pred p => rfl

theorem Warp.put_regErr (w : Warp) (l : Nat) (d : Dst) (v : W64) (tag : Bool) (e : Nat × Nat) :
    e ∈ (w.put l d v tag).regErr ↔ e ∈ w.regErr ∧ ¬d.covers [l] e := by
  obtain ⟨e1, e2⟩ := e
  cases d <;> simp [Warp.put, Warp.clearErr, Warp.modLane, Warp.setS, Dst.covers] <;> intros <;> omega

/-- Results for destinations of the lanes' own. -/
theorem Warp.write_own (d : Dst) (hd : d.shared = false) (ls : List Nat) (res : Nat → Res) :
    ∀ w : Warp, (∀ l ∈ ls, l < w.lanes.length) → ls.Nodup →
    let b := (ls.map fun l => (l, res l)).foldl (fun w p => (w.put p.1 d p.2.val false).orFlags p.2.flags) w
    b = { w with lanes := b.lanes, flags := b.flags, regErr := b.regErr }
    ∧ b.lanes.length = w.lanes.length
    ∧ (∀ l, b.lane l = if l ∈ ls then (w.lane l).putDst d (res l).val else w.lane l)
    ∧ b.flags = ls.foldl (fun f l => f ||| (res l).flags) w.flags
    ∧ (∀ e, e ∈ b.regErr ↔ e ∈ w.regErr ∧ ¬d.covers ls e) := by
  induction ls with
  | nil =>
    intro w _ _
    refine ⟨rfl, rfl, by simp, rfl, ?_⟩
    intro e
    cases d <;> simp [Dst.covers]
  | cons k ls ih =>
    intro w hlt hnd
    simp only [List.map_cons, List.foldl_cons]
    have hk : k < w.lanes.length := hlt k (by simp)
    have hp := Warp.put_own w k d (res k).val false hd
    have hlen : ((w.put k d (res k).val false).orFlags (res k).flags).lanes.length = w.lanes.length := by
      rw [hp]; simp [Warp.orFlags]
    have hlane : ∀ l, ((w.put k d (res k).val false).orFlags (res k).flags).lane l
        = if l = k then (w.lane l).putDst d (res l).val else w.lane l := by
      intro l
      rw [hp]
      show (w.modLane k (·.putDst d (res k).val)).lane l = _
      rw [Warp.lane_modLane]
      by_cases hl : l = k
      · subst hl; simp [hk]
      · simp [hl]
    obtain ⟨h1, h2, h3, h4, h5⟩ := ih ((w.put k d (res k).val false).orFlags (res k).flags)
      (by intro l hl; rw [hlen]; exact hlt l (by simp [hl])) (List.nodup_cons.1 hnd).2
    refine ⟨?_, by rw [h2, hlen], ?_, ?_, ?_⟩
    · rw [h1, hp]; rfl
    · intro l
      rw [h3, hlane]
      by_cases hl : l = k
      · subst hl
        have : l ∉ ls := (List.nodup_cons.1 hnd).1
        simp [this]
      · simp [hl]
    · rw [h4, hp]; rfl
    · intro e
      rw [h5]
      show e ∈ (w.put k d (res k).val false).regErr ∧ _ ↔ _
      rw [Warp.put_regErr]
      obtain ⟨e1, e2⟩ := e
      cases d with
      | s n => cases hd
      | sHi n => cases hd
      | none => simp [Dst.covers]
      | pred p => simp [Dst.covers]
      | v32 n => simp only [Dst.covers, List.mem_cons, List.not_mem_nil, or_false]; tauto
      | v64 n => simp only [Dst.covers, List.mem_cons, List.not_mem_nil, or_false]; tauto

/-! ## The end of an instruction -/

/-- What understudy checking does to the warp when no soft error is met. -/
def Warp.countChecks (r : Run) (chk : Bool) (x : Warp) : Warp :=
  if chk && r.snap.use then
    { x with checked := x.checked + BitVec.ofNat 64 r.act.length
             shadowed := x.shadowed + BitVec.ofNat 64 (r.act.filter fun l => (r.shadow l).isSome).length }
  else x

theorem State.understudy_calm (s : State) (r : Run) (h : r.snap.soft = 0) :
    s.understudy r r.act = (s.modWarp r.gid r.w (Warp.countChecks r true), []) := by
  have hm : r.mismatched r.act = [] := by
    simp [Run.mismatched, h]
  simp only [State.understudy, hm]
  by_cases hu : r.snap.use = true
  · simp only [hu, Bool.not_true, Bool.false_eq_true, if_false, List.map_nil, List.foldl_nil]
    congr 1
    apply State.modWarp_congr
    have hall : ∀ x : W64, x &&& ~~~(maskOf []) = x := fun x => by
      show x &&& ~~~0#64 = x
      rw [BitVec.not_zero, BitVec.and_allOnes]
    simp only [Warp.countChecks, hu, Bool.and_self, if_true, hall]
  · have hu : r.snap.use = false := by simpa using hu
    simp only [hu, Bool.not_false, if_true]
    rw [State.modWarp_id]
    simp [Warp.countChecks, hu]

theorem State.moveTo_none (s : State) (r : Run) (ls : List Nat) (dest : Nat → W64) {g : Group}
    (hg : s.group r.gid = some g) (hw : r.w < g.warps.length)
    (h : ∀ l ∈ ls, ∀ y ∈ ((s.warp r.gid r.w).lane l).windows, y.done = true → 1 ≤ y.left ∧ (y.stamp < s.stamp → 2 ≤ y.left)) :
    s.moveTo r ls dest = s.modWarp r.gid r.w (Warp.moved s.stamp ls dest) := by
  simp only [State.moveTo]
  show (s.modWarp r.gid r.w (Warp.moved s.stamp ls dest)).landDue r.gid r.w (maskOf ls) = _
  apply State.landDue_none
  intro l hl y hy h0
  rw [State.warp_modWarp s _ _ _ hg hw, Warp.moved, Warp.lane_modLanes] at hy
  rw [mem_lanesIn, getLsbD_maskOf] at hl
  simp only [Bool.and_eq_true, decide_eq_true_eq, List.contains_iff_mem] at hl
  have hm : (maskOf ls).getLsbD l = true := by rw [getLsbD_maskOf]; simp [hl]
  have key : ∀ z ∈ ((s.warp r.gid r.w).lane l).windows, z.done = true → 1 ≤ z.left ∧ (z.stamp < s.stamp → 2 ≤ z.left) :=
    h l hl.2
  by_contra hd
  have hd : y.done = true := by simpa using hd
  split at hy
  · simp only [Lane.goOn, Lane.count, List.mem_map] at hy
    obtain ⟨z, hz, rfl⟩ := hy
    split at hd
    · rename_i hst
      have hk := (key z hz hd).2 hst
      rw [if_pos hst] at h0
      simp only at h0
      omega
    · rename_i hst
      have hk := (key z hz hd).1
      rw [if_neg hst] at h0
      omega
  · have hk := (key y hy hd).1
    omega

@[simp] theorem State.raiseRun_nil (s : State) (r : Run) : s.raiseRun r [] = s := by
  simp only [State.raiseRun, List.isEmpty_nil, Bool.true_or, if_true, State.raise]

/-- The end of an instruction no lane of which faults. -/
theorem State.finish_calm {s : State} {r : Run} (c : Calm s r) (long tag chk : Bool)
    (d : Dst) (res : Nat → Res) (hf : ∀ l ∈ r.act, (res l).flt = none) :
    s.finish r long tag chk d (r.act.map fun l => (l, res l))
      = (((s.modWarp r.gid r.w (Warp.countChecks r chk)).modWarp r.gid r.w (fun w =>
          if long then w.openWindows s.stamp r.iss.cycle r.o.la.toNat r.pc d tag (r.act.map fun l => (l, res l))
          else w.write d (r.act.map fun l => (l, res l)))).advance r r.ls).nextStamp := by
  have hgood : (r.act.map fun l => (l, res l)).filter (fun p => p.2.flt.isNone) = r.act.map fun l => (l, res l) := by
    rw [List.filter_eq_self]
    intro p hp
    obtain ⟨l, hl, rfl⟩ := List.mem_map.1 hp
    simp [hf l hl]
  have hmap : (r.act.map fun l => (l, res l)).map (·.1) = r.act := by simp [Function.comp_def]
  have hu : (if chk = true then s.understudy r r.act else (s, []))
      = (s.modWarp r.gid r.w (Warp.countChecks r chk), []) := by
    cases chk with
    | true => exact State.understudy_calm s r c.soft
    | false =>
      rw [State.modWarp_id]
      · rfl
      · rfl
  have hbad : (r.act.filterMap fun l =>
      ((r.act.map fun l => (l, res l)).find? fun p => p.1 == l).bind fun p => p.2.flt.map fun f => (l, f)) = [] := by
    rw [List.filterMap_eq_nil_iff]
    intro l hl
    cases hfd : (r.act.map fun l => (l, res l)).find? fun p => p.1 == l with
    | none => rfl
    | some p =>
      have hp := List.mem_of_find?_eq_some hfd
      obtain ⟨k, hk, rfl⟩ := List.mem_map.1 hp
      simp [hf k hk]
  simp only [State.finish, hgood, hmap, hu, List.find?_nil, hbad]
  simp only [List.any_nil, Bool.not_false, List.filter_true, State.raiseRun_nil, State.modWarp_stamp]

/-- The lanes of a run and the warp, while the registers change. -/
theorem Calm.moves {s : State} {r : Run} (c : Calm s r) {l : Nat} (hl : l ∈ r.ls) {y : Window}
    (hy : y ∈ ((s.warp r.gid r.w).lane l).windows) (hd : y.done = true) :
    1 ≤ y.left ∧ (y.stamp < s.stamp → 2 ≤ y.left) := by
  have := c.windows l hl y hy hd
  omega

@[simp] theorem Warp.countChecks_lanes (r : Run) (chk : Bool) (x : Warp) : (x.countChecks r chk).lanes = x.lanes := by
  simp only [Warp.countChecks]; split <;> rfl

@[simp] theorem Warp.countChecks_lane (r : Run) (chk : Bool) (x : Warp) (l : Nat) :
    (x.countChecks r chk).lane l = x.lane l := by simp [Warp.lane]

theorem Warp.countChecks_frame (r : Run) (chk : Bool) (x : Warp) :
    x.countChecks r chk = { x with checked := (x.countChecks r chk).checked, shadowed := (x.countChecks r chk).shadowed } := by
  simp only [Warp.countChecks]; split <;> rfl

theorem Warp.countChecks_counted (r : Run) (chk : Bool) (x : Warp) : Counted x (x.countChecks r chk) r chk := by
  simp only [Warp.countChecks, Counted]; split <;> exact ⟨rfl, rfl⟩

theorem Warp.lane_canon {w : Warp} (h : w.canon = true) (l : Nat) : zwf (w.lane l).v = true := by
  simp only [Warp.canon, Bool.and_eq_true] at h
  simp only [Warp.lane, List.getD_eq_getElem?_getD]
  cases hl : w.lanes[l]? with
  | none => rfl
  | some x =>
    simp only [Option.getD_some]
    exact List.all_eq_true.1 h.2 x (List.mem_of_getElem? hl)

/-- The tags after the write of an untagged s-register (R239). -/
theorem tags_clear (g : BitVec 48) (n k : Nat) : (g &&& ~~~(1#48 <<< n)).getLsbD k = (g.getLsbD k && !decide (n = k)) := by
  simp only [BitVec.getLsbD_and, BitVec.getLsbD_not, BitVec.getLsbD_shiftLeft]
  by_cases hk : k < 48
  · by_cases hkn : k = n
    · subst hkn; simp
    · by_cases h2 : k < n
      · have : ¬(n = k) := by omega
        simp [hk, h2, this]
      · have h3 : k - n ≠ 0 := by omega
        have : ¬(n = k) := by omega
        simp [hk, h3, this]
  · rw [BitVec.getLsbD_of_ge _ _ (by omega)]; simp

/-- One write of a result to a register that the lanes share. -/
theorem Warp.put_shared (a : Warp) (ha : zwf a.s = true) (d : Dst) (hd : d.shared = true) (l : Nat) (v : W64) :
    let b := a.put l d v false
    b = { a with s := b.s, tags := b.tags, regErr := b.regErr }
    ∧ (∀ n, b.getS n = d.newS v n (a.getS n))
    ∧ (∀ n, b.tagged n = (a.tagged n && !decide (d = .s n ∨ d = .sHi n)))
    ∧ (∀ e ls, ls ≠ [] → (e ∈ b.regErr ↔ e ∈ a.regErr ∧ ¬d.covers ls e)) := by
  cases d with
  | none => cases hd
  | v32 n => cases hd
  | v64 n => cases hd
  | pred n => cases hd
  | s n =>
    refine ⟨rfl, fun k => zget_zset _ _ _ _ ha, fun k => ?_, fun e ls h => ?_⟩
    · exact (tags_clear _ _ _).trans (by simp [Warp.tagged])
    · obtain ⟨e1, e2⟩ := e
      simp [Warp.put, Warp.clearErr, Warp.setS, Dst.covers, h]
  | sHi n =>
    refine ⟨rfl, fun k => ?_, fun k => ?_, fun e ls h => ?_⟩
    · refine (zget_zset _ _ _ _ ha).trans ?_
      show _ = if k = n then _ else _
      by_cases hk : k = n
      · rw [if_pos hk, if_pos hk, hk]
      · rw [if_neg hk, if_neg hk]; rfl
    · exact (tags_clear _ _ _).trans (by simp [Warp.tagged])
    · obtain ⟨e1, e2⟩ := e
      simp [Warp.put, Warp.clearErr, Warp.setS, Dst.covers, h]

/-- Results for a register that the lanes share: that of the lowest lane, and the flags of all. -/
theorem Warp.write_shared (a : Warp) (d : Dst) (hd : d.shared = true) (l : Nat) (ls : List Nat) (res : Nat → Res) :
    a.write d ((l :: ls).map fun l => (l, res l))
      = (a.put l d (res l).val false).orFlags ((l :: ls).foldl (fun f l => f ||| (res l).flags) 0) := by
  have : (((l :: ls).map fun l => (l, res l)).foldl (fun f p => f ||| p.2.flags) (0 : W32))
      = (l :: ls).foldl (fun f l => f ||| (res l).flags) 0 := by rw [List.foldl_map]
  rw [← this]
  simp only [Warp.write, hd, if_true, List.map_cons]

theorem foldl_or_flags (res : Nat → Res) : ∀ (xs : List Nat) (f g : W32),
    xs.foldl (fun f l => f ||| (res l).flags) (f ||| g) = f ||| xs.foldl (fun f l => f ||| (res l).flags) g
  | [], _, _ => rfl
  | x :: xs, f, g => by simp only [List.foldl_cons]; rw [BitVec.or_assoc, foldl_or_flags]

theorem Warp.write_nil (a : Warp) (d : Dst) : a.write d [] = a := by
  simp [Warp.write]

/-- What writing results to a warp does (R29, R78, R177). -/
theorem Warp.write_spec (a : Warp) (ha : a.canon = true) (d : Dst) (ls : List Nat) (res : Nat → Res)
    (hlt : ∀ l ∈ ls, l < a.lanes.length) (hnd : ls.Nodup) :
    let b := a.write d (ls.map fun l => (l, res l))
    b = { a with lanes := b.lanes, s := b.s, tags := b.tags, flags := b.flags, regErr := b.regErr }
    ∧ b.lanes.length = a.lanes.length
    ∧ (∀ l, b.lane l = if l ∈ ls then (a.lane l).putDst d (res l).val else a.lane l)
    ∧ (∀ n, b.getS n = if ls = [] then a.getS n else d.newS (res (ls.headD 0)).val n (a.getS n))
    ∧ (∀ n, b.tagged n = (a.tagged n && !decide ((d = .s n ∨ d = .sHi n) ∧ ls ≠ [])))
    ∧ b.flags = ls.foldl (fun f l => f ||| (res l).flags) a.flags
    ∧ (∀ e, e ∈ b.regErr ↔ e ∈ a.regErr ∧ ¬d.covers ls e) := by
  cases hd : d.shared with
  | true =>
    cases ls with
    | nil =>
      simp only [List.map_nil, Warp.write_nil]
      refine ⟨trivial, trivial, by simp, by simp, by simp, by simp, ?_⟩
      intro e
      cases d <;> simp [Dst.covers]
    | cons l ls =>
      have hs : zwf a.s = true := by
        simp only [Warp.canon, Bool.and_eq_true] at ha
        exact ha.1.2
      obtain ⟨h1, h2, h3, h4⟩ := Warp.put_shared a hs d hd l (res l).val
      simp only [Warp.write_shared a d hd]
      generalize a.put l d (res l).val false = b at *
      refine ⟨by rw [h1]; rfl, by rw [h1]; rfl, ?_, ?_, ?_, ?_, ?_⟩
      · intro k
        have : (a.lane k).putDst d (res k).val = a.lane k := by cases d <;> first | rfl | cases hd
        rw [this, ite_self, h1]; rfl
      · intro k
        rw [if_neg (List.cons_ne_nil l ls)]
        exact h2 k
      · intro k
        have : (l :: ls) ≠ [] := List.cons_ne_nil l ls
        simp only [this, ne_eq, not_false_eq_true, and_true]
        exact h3 k
      · rw [← show a.flags ||| (0 : W32) = a.flags from BitVec.or_zero, foldl_or_flags]
        show b.flags ||| _ = _
        rw [h1]
      · exact fun e => h4 e _ (List.cons_ne_nil l ls)
  | false =>
    have hw : ∀ rs, a.write d rs = rs.foldl (fun w p => (w.put p.1 d p.2.val false).orFlags p.2.flags) a := by
      intro rs; simp only [Warp.write, hd, Bool.false_eq_true, if_false]
    obtain ⟨h1, h2, h3, h4, h5⟩ := Warp.write_own d hd ls res a hlt hnd
    simp only [hw]
    refine ⟨by rw [h1], h2, h3, ?_, ?_, h4, h5⟩
    · intro n
      rw [h1]
      have : ∀ v n x, d.newS v n x = x := by intro v n x; cases d <;> first | rfl | cases hd
      simp only [this, ite_self]
      rfl
    · intro n
      rw [h1]
      have : d ≠ .s n ∧ d ≠ .sHi n := by
        constructor <;> (rintro rfl; cases hd)
      simp [this.1, this.2, Warp.tagged]

theorem Warp.moved_lane (stamp : Nat) (ls : List Nat) (dest : Nat → W64) (x : Warp) (l : Nat) (hlt : ∀ k ∈ ls, k < 64)
    (hlen : ∀ k ∈ ls, k < x.lanes.length) :
    (x.moved stamp ls dest).lane l = if l ∈ ls then
      (x.lane l).goOn stamp (dest l) else x.lane l := by
  rw [Warp.moved, Warp.lane_modLanes, getLsbD_maskOf]
  by_cases hl : l ∈ ls
  · simp [hl, hlt l hl, hlen l hl]
  · simp [hl]

/-- A short-latency instruction completes. -/
theorem State.finish_short {s : State} {r : Run} (h : Stands s r) (c : Calm s r) (tag chk : Bool)
    (d : Dst) (res : Nat → Res) (hf : ∀ l ∈ r.act, (res l).flt = none) :
    Completes s (s.finish r false tag chk d (r.act.map fun l => (l, res l))) r chk d res := by
  obtain ⟨g, hg, hw⟩ := h.group
  have hsub := h.sub
  have hlen := h.len
  have hlt := h.lt
  set a := s.warp r.gid r.w with ha
  let c1 := a.countChecks r chk
  have hc1 : c1.canon = true := by
    rw [show c1 = _ from Warp.countChecks_frame r chk a]
    exact h.canon
  obtain ⟨w1, w2, w3, w4, w5, w6, w7⟩ := Warp.write_spec c1 hc1 d r.act res
    (by intro l hl; rw [Warp.countChecks_lanes]; exact hlen l (hsub l hl)) h.nodup
  set b1 := c1.write d (r.act.map fun l => (l, res l)) with hb1
  have hwin : ∀ l, (b1.lane l).windows = (a.lane l).windows := by
    intro l; rw [w3, Warp.countChecks_lane]; split <;> simp
  -- the state after everything but the moving
  have hs1 : ((s.modWarp r.gid r.w (Warp.countChecks r chk)).modWarp r.gid r.w fun w =>
      if false then w.openWindows s.stamp r.iss.cycle r.o.la.toNat r.pc d tag (r.act.map fun l => (l, res l))
      else w.write d (r.act.map fun l => (l, res l)))
      = s.modWarp r.gid r.w fun x => (x.countChecks r chk).write d (r.act.map fun l => (l, res l)) := by
    rw [State.modWarp_modWarp]; rfl
  rw [State.finish_calm c false tag chk d res hf, hs1, State.advance]
  set s1 := s.modWarp r.gid r.w fun x => (x.countChecks r chk).write d (r.act.map fun l => (l, res l)) with hs1d
  have hw1 : s1.warp r.gid r.w = b1 := State.warp_modWarp s _ _ _ hg hw
  have hg1 : s1.group r.gid = some (g.modWarp r.w fun x => (x.countChecks r chk).write d (r.act.map fun l => (l, res l))) := by
    rw [hs1d, State.modWarp, State.group_modGroup, if_pos rfl, hg]; rfl
  rw [State.moveTo_none s1 r r.ls _ hg1 (by simpa using hw) (by
    intro l hl y hy hd
    rw [hw1, hwin] at hy
    exact c.moves hl hy hd)]
  have hstamp : s1.stamp = s.stamp := rfl
  rw [hstamp]
  set t := (s1.modWarp r.gid r.w (Warp.moved s.stamp r.ls fun _ => nextSlot r.pc)).nextStamp with ht
  have htw : t.warp r.gid r.w = b1.moved s.stamp r.ls fun _ => nextSlot r.pc := by
    show (s1.modWarp r.gid r.w _).warp r.gid r.w = _
    rw [State.warp_modWarp s1 _ _ _ hg1 (by simpa using hw), hw1]
  have hlane : ∀ l, (t.warp r.gid r.w).lane l = if l ∈ r.ls then
      (b1.lane l).goOn s.stamp (nextSlot r.pc) else b1.lane l := by
    intro l
    rw [htw]
    exact Warp.moved_lane _ _ _ _ _ hlt (by intro k hk; rw [w2, Warp.countChecks_lanes]; exact hlen k hk)
  have hreg : ∀ l, ((t.warp r.gid r.w).lane l).v = (b1.lane l).v ∧ ((t.warp r.gid r.w).lane l).p = (b1.lane l).p := by
    intro l; rw [hlane]; split <;> exact ⟨rfl, rfl⟩
  have hb1l : ∀ l, b1.lane l = if l ∈ r.act then (a.lane l).putDst d (res l).val else a.lane l := by
    intro l; rw [w3, Warp.countChecks_lane]
  have hcf := Warp.countChecks_frame r chk a
  have hwf : t.warp r.gid r.w = { b1 with lanes := (t.warp r.gid r.w).lanes } := by rw [htw]; rfl
  refine { rest := ?_, warp := ?_, counts := ?_, lanes := ?_, windows := ?_, vregs := ?_, preds := ?_, sregs := ?_,
           tags := ?_, flags := ?_, errors := ?_ }
  · have hconst := State.modWarp_const s r.gid r.w (fun x =>
      ((x.countChecks r chk).write d (r.act.map fun l => (l, res l))).moved s.stamp r.ls fun _ => nextSlot r.pc)
    have hst : s1.modWarp r.gid r.w (Warp.moved s.stamp r.ls fun _ => nextSlot r.pc) = s.modWarp r.gid r.w (fun x =>
      ((x.countChecks r chk).write d (r.act.map fun l => (l, res l))).moved s.stamp r.ls fun _ => nextSlot r.pc) := by
      rw [hs1d, State.modWarp_modWarp]
    unfold OnlyWarp
    rw [htw]
    show (s1.modWarp r.gid r.w _).nextStamp = _
    rw [hst, ← hconst]
    rfl
  · rw [hwf, w1]
    show ({ c1 with lanes := _, s := _, tags := _, flags := _, regErr := _ } : Warp) = _
    rw [show c1 = _ from hcf]
  · have hk := Warp.countChecks_counted r chk a
    rw [hwf, w1]
    exact hk
  · intro l
    rw [hlane]
    by_cases hl : l ∈ r.ls
    · rw [if_pos hl, if_pos hl, hb1l]
      split
      · rw [Lane.putDst_frame]; rfl
      · rfl
    · rw [if_neg hl, if_neg hl, hb1l, if_neg (fun ha => hl (hsub l ha))]
  · intro l hl
    rw [hlane, if_pos hl]
    show ((b1.lane l).windows.map fun y => if y.stamp < s.stamp then { y with left := y.left - 1 } else y) = _
    rw [hwin]
    rfl
  · intro l n
    have : ((t.warp r.gid r.w).lane l).getV n = (b1.lane l).getV n := by simp only [Lane.getV, (hreg l).1]
    rw [this, hb1l]
    split
    · exact Lane.putDst_getV _ _ _ _ (Warp.lane_canon h.canon l)
    · rfl
  · intro l n
    have : ((t.warp r.gid r.w).lane l).getP n = (b1.lane l).getP n := by simp only [Lane.getP, (hreg l).2]
    rw [this, hb1l]
    split
    · exact Lane.putDst_getP _ _ _ _
    · rfl
  · intro n
    have : (t.warp r.gid r.w).getS n = b1.getS n := by rw [htw]; rfl
    have h2 : c1.getS n = a.getS n := by rw [show c1 = _ from hcf]; rfl
    rw [this, w4, h2]
  · intro n
    have : (t.warp r.gid r.w).tagged n = b1.tagged n := by rw [htw]; rfl
    have h2 : c1.tagged n = a.tagged n := by rw [show c1 = _ from hcf]; rfl
    rw [this, w5, h2]
  · have : (t.warp r.gid r.w).flags = b1.flags := by rw [htw]; rfl
    have h2 : c1.flags = a.flags := by rw [show c1 = _ from hcf]
    rw [this, w6, h2]
  · intro e
    have : (t.warp r.gid r.w).regErr = b1.regErr := by rw [htw]; rfl
    have h2 : c1.regErr = a.regErr := by rw [show c1 = _ from hcf]
    rw [this, w7, h2]

/-- Opening one window for each lane of a list. -/
theorem Warp.insertWindows (win : Nat → Res → Window) (res : Nat → Res) (ls : List Nat) :
    ∀ a : Warp, (∀ l ∈ ls, l < a.lanes.length) → ls.Nodup →
    let b := (ls.map fun l => (l, res l)).foldl (fun w p => w.modLane p.1 fun x =>
      { x with windows := insertWindow (win p.1 p.2) x.windows }) a
    b = { a with lanes := b.lanes } ∧ b.lanes.length = a.lanes.length
    ∧ ∀ l, b.lane l = if l ∈ ls then
        { a.lane l with windows := insertWindow (win l (res l)) (a.lane l).windows } else a.lane l := by
  induction ls with
  | nil => intro a _ _; exact ⟨rfl, rfl, by simp⟩
  | cons k ls ih =>
    intro a hlt hnd
    simp only [List.map_cons, List.foldl_cons]
    have hk : k < a.lanes.length := hlt k (by simp)
    obtain ⟨h1, h2, h3⟩ := ih (a.modLane k fun x => { x with windows := insertWindow (win k (res k)) x.windows })
      (by intro l hl; rw [Warp.modLane_length]; exact hlt l (by simp [hl])) (List.nodup_cons.1 hnd).2
    refine ⟨by rw [h1]; rfl, by rw [h2, Warp.modLane_length], ?_⟩
    intro l
    rw [h3, Warp.lane_modLane]
    by_cases hl : l = k
    · subst hl
      have : l ∉ ls := (List.nodup_cons.1 hnd).1
      simp [this, hk]
    · simp [hl]

/-- What opening windows does to a warp (R178). -/
theorem Warp.openWindows_spec (s : State) (r : Run) (d : Dst) (tag : Bool) (res : Nat → Res) (a : Warp)
    (hlt : ∀ l ∈ r.act, l < a.lanes.length) (hnd : r.act.Nodup) :
    let b := a.openWindows s.stamp r.iss.cycle r.o.la.toNat r.pc d tag (r.act.map fun l => (l, res l))
    b = { a with lanes := b.lanes } ∧ b.lanes.length = a.lanes.length
    ∧ ∀ l, b.lane l = if l ∈ r.act then
        { a.lane l with windows := insertWindow (newWindow s r d tag l (res l)) (a.lane l).windows } else a.lane l := by
  have hlow : (((r.act.map fun l => (l, res l)).head?).map (·.1)).getD 64 = r.act.headD 64 := by
    cases r.act <;> rfl
  simp only [Warp.openWindows, hlow]
  exact Warp.insertWindows (newWindow s r d tag) res r.act a hlt hnd

theorem mem_insertWindow (x y : Window) (ws : List Window) : y ∈ insertWindow x ws ↔ y = x ∨ y ∈ ws := by
  induction ws with
  | nil => simp [insertWindow]
  | cons z ws ih =>
    simp only [insertWindow]
    split
    · simp
    · simp only [List.mem_cons, ih]; tauto

/-- A long-latency instruction issues. -/
theorem State.finish_long {s : State} {r : Run} (h : Stands s r) (c : Calm s r) (tag chk : Bool)
    (d : Dst) (res : Nat → Res) (hf : ∀ l ∈ r.act, (res l).flt = none) :
    Opens s (s.finish r true tag chk d (r.act.map fun l => (l, res l))) r chk d tag res := by
  obtain ⟨g, hg, hw⟩ := h.group
  have hsub := h.sub
  have hlen := h.len
  have hlt := h.lt
  set a := s.warp r.gid r.w with ha
  let c1 := a.countChecks r chk
  obtain ⟨w1, w2, w3⟩ := Warp.openWindows_spec s r d tag res c1
    (by intro l hl; rw [Warp.countChecks_lanes]; exact hlen l (hsub l hl)) h.nodup
  set b1 := c1.openWindows s.stamp r.iss.cycle r.o.la.toNat r.pc d tag (r.act.map fun l => (l, res l)) with hb1
  have hb1l : ∀ l, b1.lane l = if l ∈ r.act then
      { a.lane l with windows := insertWindow (newWindow s r d tag l (res l)) (a.lane l).windows } else a.lane l := by
    intro l; rw [w3, Warp.countChecks_lane]
  have hs1 : ((s.modWarp r.gid r.w (Warp.countChecks r chk)).modWarp r.gid r.w fun w =>
      if true then w.openWindows s.stamp r.iss.cycle r.o.la.toNat r.pc d tag (r.act.map fun l => (l, res l))
      else w.write d (r.act.map fun l => (l, res l)))
      = s.modWarp r.gid r.w fun x =>
        (x.countChecks r chk).openWindows s.stamp r.iss.cycle r.o.la.toNat r.pc d tag (r.act.map fun l => (l, res l)) := by
    rw [State.modWarp_modWarp]; rfl
  rw [State.finish_calm c true tag chk d res hf, hs1, State.advance]
  set s1 := s.modWarp r.gid r.w fun x =>
    (x.countChecks r chk).openWindows s.stamp r.iss.cycle r.o.la.toNat r.pc d tag (r.act.map fun l => (l, res l)) with hs1d
  have hw1 : s1.warp r.gid r.w = b1 := State.warp_modWarp s _ _ _ hg hw
  have hg1 : s1.group r.gid = some (g.modWarp r.w fun x =>
      (x.countChecks r chk).openWindows s.stamp r.iss.cycle r.o.la.toNat r.pc d tag (r.act.map fun l => (l, res l))) := by
    rw [hs1d, State.modWarp, State.group_modGroup, if_pos rfl, hg]; rfl
  rw [State.moveTo_none s1 r r.ls _ hg1 (by simpa using hw) (by
    intro l hl y hy hd
    rw [hw1, hb1l] at hy
    split at hy
    · rcases (mem_insertWindow _ _ _).1 hy with rfl | hy
      · cases hd
      · exact c.moves hl hy hd
    · exact c.moves hl hy hd)]
  have hstamp : s1.stamp = s.stamp := rfl
  rw [hstamp]
  set t := (s1.modWarp r.gid r.w (Warp.moved s.stamp r.ls fun _ => nextSlot r.pc)).nextStamp with ht
  have htw : t.warp r.gid r.w = b1.moved s.stamp r.ls fun _ => nextSlot r.pc := by
    show (s1.modWarp r.gid r.w _).warp r.gid r.w = _
    rw [State.warp_modWarp s1 _ _ _ hg1 (by simpa using hw), hw1]
  have hlane : ∀ l, (t.warp r.gid r.w).lane l = if l ∈ r.ls then
      (b1.lane l).goOn s.stamp (nextSlot r.pc) else b1.lane l := by
    intro l
    rw [htw]
    exact Warp.moved_lane _ _ _ _ _ hlt (by intro k hk; rw [w2, Warp.countChecks_lanes]; exact hlen k hk)
  have hcf := Warp.countChecks_frame r chk a
  have hwf : t.warp r.gid r.w = { b1 with lanes := (t.warp r.gid r.w).lanes } := by rw [htw]; rfl
  refine { rest := ?_, warp := ?_, counts := ?_, lanes := ?_, windows := ?_, regs := ?_ }
  · have hconst := State.modWarp_const s r.gid r.w (fun x =>
      ((x.countChecks r chk).openWindows s.stamp r.iss.cycle r.o.la.toNat r.pc d tag (r.act.map fun l => (l, res l))).moved
        s.stamp r.ls fun _ => nextSlot r.pc)
    have hst : s1.modWarp r.gid r.w (Warp.moved s.stamp r.ls fun _ => nextSlot r.pc) = s.modWarp r.gid r.w (fun x =>
      ((x.countChecks r chk).openWindows s.stamp r.iss.cycle r.o.la.toNat r.pc d tag (r.act.map fun l => (l, res l))).moved
        s.stamp r.ls fun _ => nextSlot r.pc) := by
      rw [hs1d, State.modWarp_modWarp]
    unfold OnlyWarp
    rw [htw]
    show (s1.modWarp r.gid r.w _).nextStamp = _
    rw [hst, ← hconst]
    rfl
  · rw [hwf, w1]
    show ({ c1 with lanes := _ } : Warp) = _
    rw [show c1 = _ from hcf]
  · have hk := Warp.countChecks_counted r chk a
    rw [hwf, w1]
    exact hk
  · intro l
    rw [hlane]
    by_cases hl : l ∈ r.ls
    · rw [if_pos hl, if_pos hl, hb1l]
      split <;> rfl
    · rw [if_neg hl, if_neg hl, hb1l, if_neg (fun ha => hl (hsub l ha))]
  · intro l
    rw [hlane]
    by_cases hl : l ∈ r.act
    · rw [if_pos (hsub l hl), if_pos hl, hb1l, if_pos hl]; rfl
    · rw [if_neg hl]
      by_cases hl2 : l ∈ r.ls
      · rw [if_pos hl2, if_pos hl2, hb1l, if_neg hl]; rfl
      · rw [if_neg hl2, if_neg hl2, hb1l, if_neg hl]
  · intro l
    rw [hlane]
    by_cases hl2 : l ∈ r.ls
    · rw [if_pos hl2, hb1l]; split <;> exact ⟨rfl, rfl⟩
    · rw [if_neg hl2, hb1l]; split <;> exact ⟨rfl, rfl⟩

/-- A run without a soft error computes its results with all its lanes. -/
theorem Calm.computing {s : State} {r : Run} (c : Calm s r) (chk : Bool) : r.computing chk = r := by
  have hm : r.mismatched r.act = [] := by simp [Run.mismatched, c.soft]
  have hw : r.without [] = r := by simp [Run.without]
  rw [Run.computing, hm, List.map_nil, hw, ite_self]

/-- A short-latency instruction whose results are functions of its operands. -/
theorem alu_short {i : Instr} {s : State} {r : Run} (h : Issues i s r) (c : Calm s r) (chk : Bool) (g : Run → Nat → Res)
    (hl : (formOf i).long = false) (hf : ∀ l ∈ r.act, (g r l).flt = none) :
    ∃ t, alu i chk g s = .next t ∧ Completes s t r chk (r.dst (formOf i).d) (g r) :=
  ⟨_, issued_next h _ _, by rw [hl, c.computing]; exact State.finish_short h.stands c false chk _ _ hf⟩

/-- A long-latency one. -/
theorem alu_long {i : Instr} {s : State} {r : Run} (h : Issues i s r) (c : Calm s r) (chk : Bool) (g : Run → Nat → Res)
    (hl : (formOf i).long = true) (hf : ∀ l ∈ r.act, (g r l).flt = none) :
    ∃ t, alu i chk g s = .next t ∧ Opens s t r chk (r.dst (formOf i).d) false (g r) :=
  ⟨_, issued_next h _ _, by rw [hl, c.computing]; exact State.finish_long h.stands c false chk _ _ hf⟩

end Sys2Proof.Machine
end

