-- ==== Sys2Proof/Laws/Control.lean ====
section
/-! SUPPORT. What transfers, stores and other changes of the lanes do when nothing stops them. -/

namespace Sys2Proof.Machine

theorem mapFrom_mapFrom {α β γ : Type} (f : Nat → β → γ) (g : Nat → α → β) (xs : List α) :
    ∀ k, mapFrom k f (mapFrom k g xs) = mapFrom k (fun i x => f i (g i x)) xs := by
  induction xs with
  | nil => intro k; rfl
  | cons x xs ih => intro k; simp only [mapFrom, ih]

theorem mapFrom_congr {α β : Type} (f g : Nat → α → β) (xs : List α) :
    ∀ k, (∀ i x, f i x = g i x) → mapFrom k f xs = mapFrom k g xs := by
  induction xs with
  | nil => intro k _; rfl
  | cons x xs ih => intro k h; simp only [mapFrom, h, ih _ h]

theorem mapFrom_id {α : Type} (f : Nat → α → α) (xs : List α) : ∀ k, (∀ i x, f i x = x) → mapFrom k f xs = xs := by
  induction xs with
  | nil => intro k _; rfl
  | cons x xs ih => intro k h; simp only [mapFrom, h, ih _ h]

/-- No lane moves: nothing happens. -/
@[simp] theorem State.moveTo_nil (s : State) (r : Run) (dest : Nat → W64) : s.moveTo r [] dest = s := by
  have h1 : (s.modWarp r.gid r.w fun x => x.modLanes (maskOf []) fun l y =>
      y.goOn s.stamp (dest l)) = s := by
    apply State.modWarp_id
    simp only [Warp.modLanes]
    have : ∀ i, (maskOf []).getLsbD i = false := by intro i; simp
    rw [mapFrom_id]
    intro i x
    rw [this]; rfl
  rw [State.moveTo, h1]
  apply State.landDue_none
  intro l hl
  simp at hl

@[simp] theorem State.advance_nil (s : State) (r : Run) : s.advance r [] = s := State.moveTo_nil s r _

/-- The lanes of one list move, then those of another. -/
theorem Warp.moved_moved (stamp : Nat) (as bs : List Nat) (p q : Nat → W64) (x : Warp)
    (hd : ∀ l ∈ as, l ∉ bs) (ls : List Nat) (hl : ∀ l, l ∈ ls ↔ l ∈ as ∨ l ∈ bs) :
    (x.moved stamp as p).moved stamp bs q = x.moved stamp ls (fun l => if l ∈ as then p l else q l) := by
  simp only [Warp.moved, Warp.modLanes, mapFrom_mapFrom]
  congr 1
  apply mapFrom_congr
  intro i y
  simp only [getLsbD_maskOf]
  by_cases h64 : i < 64
  · by_cases ha : i ∈ as
    · have hb : i ∉ bs := hd i ha
      have hi : i ∈ ls := (hl i).2 (.inl ha)
      simp [h64, ha, hb, hi]
    · by_cases hb : i ∈ bs
      · have hi : i ∈ ls := (hl i).2 (.inr hb)
        simp [h64, ha, hb, hi]
      · have hi : i ∉ ls := fun h => ((hl i).1 h).elim ha hb
        simp [ha, hb, hi]
  · simp [h64]

/-- The lanes of a run move on when nothing lands. -/
theorem State.advance_calm {s : State} {r : Run} (h : Stands s r) (c : Calm s r) :
    s.advance r r.ls = s.moved r fun _ => nextSlot r.pc := by
  obtain ⟨g, hg, hw⟩ := h.group
  exact State.moveTo_none s r r.ls _ hg hw fun l hl y hy hd => c.moves hl hy hd

/-- Some lanes of the run go to their targets and the others to the next slot. -/
theorem State.move_calm {s : State} {r : Run} (h : Stands s r) (c : Calm s r) (dest : Nat → W64)
    (others : List Nat) (ho : ∀ l, l ∈ others ↔ l ∈ r.ls ∧ l ∉ r.act) :
    (s.moveTo r r.act dest).advance r others
      = s.moved r fun l => if l ∈ r.act then dest l else nextSlot r.pc := by
  obtain ⟨g, hg, hw⟩ := h.group
  have h1 : s.moveTo r r.act dest = s.modWarp r.gid r.w (Warp.moved s.stamp r.act dest) :=
    State.moveTo_none s r r.act _ hg hw fun l hl y hy hd => c.moves (h.sub l hl) hy hd
  rw [h1, State.advance]
  set s1 := s.modWarp r.gid r.w (Warp.moved s.stamp r.act dest) with hs1
  have hg1 : s1.group r.gid = some (g.modWarp r.w (Warp.moved s.stamp r.act dest)) := by
    rw [hs1, State.modWarp, State.group_modGroup, if_pos rfl, hg]; rfl
  have hw1 : s1.warp r.gid r.w = (s.warp r.gid r.w).moved s.stamp r.act dest := State.warp_modWarp s _ _ _ hg hw
  rw [State.moveTo_none s1 r others _ hg1 (by simpa using hw) (by
    intro l hl y hy hd
    rw [hw1, Warp.moved_lane _ _ _ _ _ (fun k hk => h.lt k (h.sub k hk)) (fun k hk => h.len k (h.sub k hk)),
      if_neg ((ho l).1 hl).2] at hy
    exact c.moves ((ho l).1 hl).1 hy hd)]
  have hst : s1.stamp = s.stamp := rfl
  rw [hst, hs1, State.modWarp_modWarp, State.moved]
  apply State.modWarp_congr
  exact Warp.moved_moved _ _ _ _ _ _ (fun l ha hb => ((ho l).1 hb).2 ha) _ (fun l => by
    rw [ho]
    constructor
    · intro hl
      by_cases ha : l ∈ r.act
      · exact .inl ha
      · exact .inr ⟨hl, ha⟩
    · rintro (ha | hb)
      · exact h.sub l ha
      · exact hb.1)

theorem Run.mem_others (r : Run) (l : Nat) : (l ∈ r.ls.filter fun l => !r.isAct l) ↔ l ∈ r.ls ∧ l ∉ r.act := by
  simp [Run.isAct]

/-- The lanes' state but for their waits. -/
@[simp] theorem Warp.linked_length (w : Warp) (ids : List Nat) : (w.linked ids).lanes.length = w.lanes.length := by
  simp [Warp.linked]

theorem Warp.linked_lane (w : Warp) (ids : List Nat) (l : Nat) :
    (w.linked ids).lane l = { w.lane l with wait := ((w.linked ids).lane l).wait } := by
  simp only [Warp.linked, Warp.lane_modLanes]
  split <;> rfl

theorem Warp.linked_canon {w : Warp} (ids : List Nat) (h : w.canon = true) : (w.linked ids).canon = true := by
  simp only [Warp.canon, Bool.and_eq_true, List.all_eq_true] at h ⊢
  refine ⟨h.1, fun x hx => ?_⟩
  obtain ⟨l, hl, rfl⟩ := List.mem_iff_getElem.1 hx
  have e : (w.linked ids).lanes[l] = (w.linked ids).lane l := by
    simp [Warp.lane, List.getD_eq_getElem?_getD, List.getElem?_eq_getElem hl]
  rw [e, Warp.linked_lane]
  have hl2 : l < w.lanes.length := by simpa using hl
  have e2 : w.lane l = w.lanes[l] := by simp [Warp.lane, List.getD_eq_getElem?_getD, List.getElem?_eq_getElem hl2]
  show zwf (w.lane l).v = true
  rw [e2]
  exact h.2 _ (List.getElem_mem hl2)

/-- The number of one call, however many of its lanes go. -/
theorem Warp.linked_same (w : Warp) (n : Nat) (ids : List Nat) (h : ∀ k ∈ ids, k = n) (h0 : ids ≠ []) :
    w.linked ids = w.linked [n] := by
  have : ids.contains = [n].contains := by
    funext k
    by_cases hk : k = n
    · subst hk
      obtain ⟨j, hj⟩ := List.exists_mem_of_ne_nil _ h0
      have := h j hj
      subst this
      simp [hj]
    · have : k ∉ ids := fun hm => hk (h k hm)
      simp [hk, this]
  simp only [Warp.linked, this]

/-- The link of a call whose lanes are new to it, when they go. -/
theorem State.linked_eq {s : State} {r : Run} (hf : Fresh r) (f : Warp → Warp)
    (e : f = fun w => w.put 0 (.s 43) (nextSlot r.pc) false) :
    (if (r.act.filterMap (s.callOf r true)).isEmpty then s.nextStamp
      else s.nextStamp.modWarp r.gid r.w fun w => (f w).linked (r.act.filterMap (s.callOf r true))) = s.linked r := by
  have hc : ∀ l ∈ r.act, s.callOf r true l = some s.stamp := by
    intro l hl
    simp [State.callOf, hf l hl]
  have hm : ∀ k ∈ r.act.filterMap (s.callOf r true), k = s.stamp := by
    intro k hk
    obtain ⟨l, hl, h2⟩ := List.mem_filterMap.1 hk
    rw [hc l hl] at h2
    exact (Option.some.inj h2).symm
  unfold State.linked
  by_cases h0 : r.act = []
  · simp [h0]
  · have hne : r.act.filterMap (s.callOf r true) ≠ [] := by
      obtain ⟨l, hl⟩ := List.exists_mem_of_ne_nil _ h0
      exact List.ne_nil_of_mem (List.mem_filterMap.2 ⟨l, hl, hc l hl⟩)
    rw [if_neg h0, if_neg (by simpa using hne)]
    apply State.modWarp_congr
    rw [e]
    exact Warp.linked_same _ _ _ hm hne

/-- A transfer all of whose lanes go. -/
theorem State.transfer_go {s : State} {r : Run} (h : Stands s r) (c : Calm s r) (hf : Fresh r) (link : Bool)
    (dest : Nat → W64) :
    s.transfer r link (r.act.map fun l => (l, .go (dest l)))
      = (if link then s.linked r else s).moved r fun l => if l ∈ r.act then dest l else nextSlot r.pc := by
  have hwent : ∀ ls : List Nat, ls.filterMap (fun l => some (l, dest l)) = ls.map fun l => (l, dest l) := by
    intro ls; induction ls <;> simp_all
  have hbad : ∀ ls : List Nat, ls.filterMap (fun _ => (none : Option LFlt)) = [] := by
    intro ls; induction ls <;> simp_all
  have hwait : ∀ (ls : List Nat) (s : State), ls.foldl (fun s _ => s) s = s := by
    intro ls; induction ls <;> simp_all
  have hfind : ∀ l ∈ r.act, ((r.act.map fun l => (l, dest l)).find? fun p => p.1 == l).map (·.2) = some (dest l) := by
    intro l hl
    have : ∀ ls : List Nat, l ∈ ls →
        ((ls.map fun l => (l, dest l)).find? fun p => p.1 == l).map (·.2) = some (dest l) := by
      intro ls
      induction ls with
      | nil => intro h; simp at h
      | cons k ls ih =>
        intro hm
        by_cases hk : k = l
        · subst hk; simp
        · have : l ∈ ls := by simpa [Ne.symm hk] using hm
          simpa [hk] using ih this
    exact this r.act hl
  have hs1 : (if (r.act.filterMap (s.callOf r link)).isEmpty then (if link then s.nextStamp else s)
      else (if link then s.nextStamp else s).modWarp r.gid r.w fun w =>
        (w.put 0 (.s 43) (nextSlot r.pc) false).linked (r.act.filterMap (s.callOf r link)))
      = if link then s.linked r else s := by
    cases link with
    | true => exact State.linked_eq hf _ rfl
    | false =>
      have : r.act.filterMap (s.callOf r false) = [] := by
        rw [List.filterMap_eq_nil_iff]
        intro l hl
        simp [State.callOf, hf l hl]
      simp [this]
  simp only [State.transfer, List.filterMap_map, Function.comp_def, List.foldl_map, hwent, hbad, hwait,
    State.raiseRun_nil, hs1]
  have hmap : (r.act.map fun l => (l, dest l)).map (·.1) = r.act := by simp [Function.comp_def]
  rw [hmap]
  set s1 := (if link then s.linked r else s) with hs1d
  obtain ⟨g, hg, hw⟩ := h.group
  have hst1 : Stands s1 r := by
    rw [hs1d]
    split
    · unfold State.linked
      split
      · exact h.of_groups rfl
      · refine (h.of_groups (t := s.nextStamp) rfl).modWarp _ (by rw [Warp.linked_length]; rfl) ?_
        apply Warp.linked_canon
        have := h.canon
        simp only [Warp.canon, Bool.and_eq_true] at this ⊢
        exact ⟨⟨this.1.1, zwf_zset _ _ _ this.1.2⟩, this.2⟩
    · exact h
  have hwin : ∀ l, ((s1.warp r.gid r.w).lane l).windows = ((s.warp r.gid r.w).lane l).windows := by
    intro l
    rw [hs1d]
    split
    · unfold State.linked
      split
      · rfl
      · rw [State.warp_modWarp s.nextStamp _ _ _ hg hw, Warp.linked_lane]
        rfl
    · rfl
  have hc1 : Calm s1 r := ⟨fun l hl y hy => c.windows l hl y (hwin l ▸ hy), c.soft⟩
  have key := State.move_calm hst1 hc1 dest _ (Run.mem_others r)
  have hdest : s1.moveTo r r.act (fun l => (((r.act.map fun l => (l, dest l)).find? fun p => p.1 == l).map (·.2)).getD r.pc)
      = s1.moveTo r r.act dest := by
    simp only [State.moveTo]
    congr 1
    apply State.modWarp_congr
    simp only [Warp.modLanes]
    congr 1
    apply mapFrom_congr
    intro i x
    simp only [getLsbD_maskOf]
    by_cases hi : i ∈ r.act
    · rw [hfind i hi]; rfl
    · simp [hi]
  rw [hdest, key]

end Sys2Proof.Machine
end

