-- ==== Sys2Proof/Laws/Encoding.lean ====
section
/-! SUPPORT. Encoding and decoding the fields of a word: each code and each modifier layout decodes to what was
encoded. -/

namespace Sys2Proof

theorem bit_getLsbD (b : Bool) : (bit b).getLsbD 0 = b := by cases b <;> rfl

theorem NumType.ofCode_code (x : NumType) : NumType.ofCode x.code = x := by cases x <;> rfl
theorem Rnd.ofCode_code (x : Rnd) : Rnd.ofCode x.code = some x := by cases x <;> rfl
theorem Cmp.ofCode_code (x : Cmp) : Cmp.ofCode x.code = x := by cases x <;> rfl
theorem Comb.ofCode_code (x : Comb) : Comb.ofCode x.code = x := by cases x <;> rfl
theorem Scope.ofCode_code (x : Scope) : Scope.ofCode x.code = some x := by cases x <;> rfl
theorem OrdKind.ofCode_code (x : OrdKind) : OrdKind.ofCode x.code = x := by cases x <;> rfl
theorem AtomOp.ofCode_code (x : AtomOp) : AtomOp.ofCode x.code = some x := by cases x <;> rfl
theorem RedOp.ofCode_code (x : RedOp) : RedOp.ofCode x.code = some x := by cases x <;> rfl
theorem NarrowFmt.ofCode_code (x : NarrowFmt) : NarrowFmt.ofCode x.code = some x := by cases x <;> rfl

theorem StdMod.decode_encode (m : StdMod) : StdMod.decode m.encode = some m := by
  have h_ty : m.encode.extractLsb' 9 4 = m.ty.code := by
    apply BitVec.eq_of_getLsbD_eq
    intro i hi
    interval_cases i <;> simp only [StdMod.encode, BitVec.getLsbD_extractLsb', BitVec.getLsbD_append] <;> rfl
  have h_rnd : m.encode.extractLsb' 6 3 = m.rnd.code := by
    apply BitVec.eq_of_getLsbD_eq
    intro i hi
    interval_cases i <;> simp only [StdMod.encode, BitVec.getLsbD_extractLsb', BitVec.getLsbD_append] <;> rfl
  have h_na : m.encode.getLsbD 5 = m.na := by
    simp only [StdMod.encode, BitVec.getLsbD_append]; exact bit_getLsbD _
  have h_nb : m.encode.getLsbD 4 = m.nb := by
    simp only [StdMod.encode, BitVec.getLsbD_append]; exact bit_getLsbD _
  have h_aa : m.encode.getLsbD 3 = m.aa := by
    simp only [StdMod.encode, BitVec.getLsbD_append]; exact bit_getLsbD _
  have h_ab : m.encode.getLsbD 2 = m.ab := by
    simp only [StdMod.encode, BitVec.getLsbD_append]; exact bit_getLsbD _
  have h_sat : m.encode.getLsbD 1 = m.sat := by
    simp only [StdMod.encode, BitVec.getLsbD_append]; exact bit_getLsbD _
  have h_w : m.encode.getLsbD 0 = m.w := by
    simp only [StdMod.encode, BitVec.getLsbD_append]; exact bit_getLsbD _
  simp only [StdMod.decode, h_ty, h_rnd, h_na, h_nb, h_aa, h_ab, h_sat, h_w, NumType.ofCode_code, Rnd.ofCode_code, Option.map_some, beq_self_eq_true, if_true]

theorem CmpMod.decode_encode (m : CmpMod) : CmpMod.decode m.encode = some m := by
  have h_ty : m.encode.extractLsb' 9 4 = m.ty.code := by
    apply BitVec.eq_of_getLsbD_eq
    intro i hi
    interval_cases i <;> simp only [CmpMod.encode, BitVec.getLsbD_extractLsb', BitVec.getLsbD_append] <;> rfl
  have h_cmp : m.encode.extractLsb' 6 3 = m.cmp.code := by
    apply BitVec.eq_of_getLsbD_eq
    intro i hi
    interval_cases i <;> simp only [CmpMod.encode, BitVec.getLsbD_extractLsb', BitVec.getLsbD_append] <;> rfl
  have h_na : m.encode.getLsbD 5 = m.na := by
    simp only [CmpMod.encode, BitVec.getLsbD_append]; exact bit_getLsbD _
  have h_nb : m.encode.getLsbD 4 = m.nb := by
    simp only [CmpMod.encode, BitVec.getLsbD_append]; exact bit_getLsbD _
  have h_aa : m.encode.getLsbD 3 = m.aa := by
    simp only [CmpMod.encode, BitVec.getLsbD_append]; exact bit_getLsbD _
  have h_ab : m.encode.getLsbD 2 = m.ab := by
    simp only [CmpMod.encode, BitVec.getLsbD_append]; exact bit_getLsbD _
  have h_comb : m.encode.extractLsb' 0 2 = m.comb.code := by
    apply BitVec.eq_of_getLsbD_eq
    intro i hi
    interval_cases i <;> simp only [CmpMod.encode, BitVec.getLsbD_extractLsb', BitVec.getLsbD_append] <;> rfl
  simp only [CmpMod.decode, h_ty, h_cmp, h_na, h_nb, h_aa, h_ab, h_comb, Cmp.ofCode_code, Comb.ofCode_code, NumType.ofCode_code, Option.map_some, beq_self_eq_true, if_true]

theorem CapMod.decode_encode (m : CapMod) : CapMod.decode m.encode = some m := by
  have hz : m.encode.extractLsb' 4 9 = (0 : BitVec 9) := by
    apply BitVec.eq_of_getLsbD_eq
    intro i hi
    interval_cases i <;> simp only [CapMod.encode, BitVec.getLsbD_extractLsb', BitVec.getLsbD_append] <;> rfl
  have h_mask : m.encode.extractLsb' 0 4 = m.mask := by
    apply BitVec.eq_of_getLsbD_eq
    intro i hi
    interval_cases i <;> simp only [CapMod.encode, BitVec.getLsbD_extractLsb', BitVec.getLsbD_append] <;> rfl
  simp only [CapMod.decode, hz, h_mask, Option.map_some, beq_self_eq_true, if_true]

theorem TableMod.decode_encode (m : TableMod) : TableMod.decode m.encode = some m := by
  have hz : m.encode.extractLsb' 8 5 = (0 : BitVec 5) := by
    apply BitVec.eq_of_getLsbD_eq
    intro i hi
    interval_cases i <;> simp only [TableMod.encode, BitVec.getLsbD_extractLsb', BitVec.getLsbD_append] <;> rfl
  have h_n : m.encode.extractLsb' 0 8 = m.n := by
    apply BitVec.eq_of_getLsbD_eq
    intro i hi
    interval_cases i <;> simp only [TableMod.encode, BitVec.getLsbD_extractLsb', BitVec.getLsbD_append] <;> rfl
  simp only [TableMod.decode, hz, h_n, Option.map_some, beq_self_eq_true, if_true]

theorem BarMod.decode_encode (m : BarMod) : BarMod.decode m.encode = some m := by
  have hz : m.encode.extractLsb' 4 9 = (0 : BitVec 9) := by
    apply BitVec.eq_of_getLsbD_eq
    intro i hi
    interval_cases i <;> simp only [BarMod.encode, BitVec.getLsbD_extractLsb', BitVec.getLsbD_append] <;> rfl
  have h_i : m.encode.extractLsb' 0 4 = m.i := by
    apply BitVec.eq_of_getLsbD_eq
    intro i hi
    interval_cases i <;> simp only [BarMod.encode, BitVec.getLsbD_extractLsb', BitVec.getLsbD_append] <;> rfl
  simp only [BarMod.decode, hz, h_i, Option.map_some, beq_self_eq_true, if_true]

theorem FlagMod.decode_encode (m : FlagMod) : FlagMod.decode m.encode = some m := by
  have hz : m.encode.extractLsb' 1 12 = (0 : BitVec 12) := by
    apply BitVec.eq_of_getLsbD_eq
    intro i hi
    interval_cases i <;> simp only [FlagMod.encode, BitVec.getLsbD_extractLsb', BitVec.getLsbD_append] <;> rfl
  have h_b : m.encode.getLsbD 0 = m.b := by
    simp only [FlagMod.encode, BitVec.getLsbD_append]; exact bit_getLsbD _
  simp only [FlagMod.decode, hz, h_b, Option.map_some, beq_self_eq_true, if_true]

theorem MemMod.decode_encode (m : MemMod) : MemMod.decode m.encode = some m := by
  have h_scope : m.encode.extractLsb' 10 3 = m.scope.code := by
    apply BitVec.eq_of_getLsbD_eq
    intro i hi
    interval_cases i <;> simp only [MemMod.encode, BitVec.getLsbD_extractLsb', BitVec.getLsbD_append] <;> rfl
  have h_kind : m.encode.extractLsb' 8 2 = m.kind.code := by
    apply BitVec.eq_of_getLsbD_eq
    intro i hi
    interval_cases i <;> simp only [MemMod.encode, BitVec.getLsbD_extractLsb', BitVec.getLsbD_append] <;> rfl
  have h_size : m.encode.extractLsb' 6 2 = m.size := by
    apply BitVec.eq_of_getLsbD_eq
    intro i hi
    interval_cases i <;> simp only [MemMod.encode, BitVec.getLsbD_extractLsb', BitVec.getLsbD_append] <;> rfl
  have h_sx : m.encode.getLsbD 5 = m.sx := by
    simp only [MemMod.encode, BitVec.getLsbD_append]; exact bit_getLsbD _
  have h_op : m.encode.extractLsb' 1 4 = m.op.code := by
    apply BitVec.eq_of_getLsbD_eq
    intro i hi
    interval_cases i <;> simp only [MemMod.encode, BitVec.getLsbD_extractLsb', BitVec.getLsbD_append] <;> rfl
  have hz : m.encode.getLsbD 0 = false := by
    simp only [MemMod.encode, BitVec.getLsbD_append]; rfl
  simp only [MemMod.decode, h_scope, h_kind, h_size, h_sx, h_op, hz, AtomOp.ofCode_code, OrdKind.ofCode_code, Scope.ofCode_code, Option.map_some, beq_self_eq_true, if_true]

theorem FenceMod.decode_encode (m : FenceMod) : FenceMod.decode m.encode = some m := by
  have h_scope : m.encode.extractLsb' 10 3 = m.scope.code := by
    apply BitVec.eq_of_getLsbD_eq
    intro i hi
    interval_cases i <;> simp only [FenceMod.encode, BitVec.getLsbD_extractLsb', BitVec.getLsbD_append] <;> rfl
  have h_kind : m.encode.extractLsb' 8 2 = m.kind.code := by
    apply BitVec.eq_of_getLsbD_eq
    intro i hi
    interval_cases i <;> simp only [FenceMod.encode, BitVec.getLsbD_extractLsb', BitVec.getLsbD_append] <;> rfl
  have hz : m.encode.extractLsb' 0 8 = (0 : BitVec 8) := by
    apply BitVec.eq_of_getLsbD_eq
    intro i hi
    interval_cases i <;> simp only [FenceMod.encode, BitVec.getLsbD_extractLsb', BitVec.getLsbD_append] <;> rfl
  simp only [FenceMod.decode, h_scope, h_kind, hz, OrdKind.ofCode_code, Scope.ofCode_code, Option.map_some, beq_self_eq_true, if_true]

theorem RingwMod.decode_encode (m : RingwMod) : RingwMod.decode m.encode = some m := by
  have hz : m.encode.extractLsb' 4 9 = (0 : BitVec 9) := by
    apply BitVec.eq_of_getLsbD_eq
    intro i hi
    interval_cases i <;> simp only [RingwMod.encode, BitVec.getLsbD_extractLsb', BitVec.getLsbD_append] <;> rfl
  have h_k : m.encode.extractLsb' 0 4 = m.k := by
    apply BitVec.eq_of_getLsbD_eq
    intro i hi
    interval_cases i <;> simp only [RingwMod.encode, BitVec.getLsbD_extractLsb', BitVec.getLsbD_append] <;> rfl
  simp only [RingwMod.decode, hz, h_k, Option.map_some, beq_self_eq_true, if_true]

theorem ShflMod.decode_encode (m : ShflMod) : ShflMod.decode m.encode = some m := by
  have h_mode : m.encode.extractLsb' 11 2 = m.mode := by
    apply BitVec.eq_of_getLsbD_eq
    intro i hi
    interval_cases i <;> simp only [ShflMod.encode, BitVec.getLsbD_extractLsb', BitVec.getLsbD_append] <;> rfl
  have h_wrel : m.encode.getLsbD 10 = m.wrel := by
    simp only [ShflMod.encode, BitVec.getLsbD_append]; exact bit_getLsbD _
  have h_b64 : m.encode.getLsbD 9 = m.b64 := by
    simp only [ShflMod.encode, BitVec.getLsbD_append]; exact bit_getLsbD _
  have hz : m.encode.extractLsb' 0 9 = (0 : BitVec 9) := by
    apply BitVec.eq_of_getLsbD_eq
    intro i hi
    interval_cases i <;> simp only [ShflMod.encode, BitVec.getLsbD_extractLsb', BitVec.getLsbD_append] <;> rfl
  simp only [ShflMod.decode, h_mode, h_wrel, h_b64, hz, Option.map_some, beq_self_eq_true, if_true]

theorem VoteMod.decode_encode (m : VoteMod) : VoteMod.decode m.encode = some m := by
  have h_mode : m.encode.extractLsb' 11 2 = m.mode := by
    apply BitVec.eq_of_getLsbD_eq
    intro i hi
    interval_cases i <;> simp only [VoteMod.encode, BitVec.getLsbD_extractLsb', BitVec.getLsbD_append] <;> rfl
  have h_np : m.encode.getLsbD 10 = m.np := by
    simp only [VoteMod.encode, BitVec.getLsbD_append]; exact bit_getLsbD _
  have h_b64 : m.encode.getLsbD 9 = m.b64 := by
    simp only [VoteMod.encode, BitVec.getLsbD_append]; exact bit_getLsbD _
  have hz : m.encode.extractLsb' 0 9 = (0 : BitVec 9) := by
    apply BitVec.eq_of_getLsbD_eq
    intro i hi
    interval_cases i <;> simp only [VoteMod.encode, BitVec.getLsbD_extractLsb', BitVec.getLsbD_append] <;> rfl
  simp only [VoteMod.decode, h_mode, h_np, h_b64, hz, Option.map_some, beq_self_eq_true, if_true]

theorem RedMod.decode_encode (m : RedMod) : RedMod.decode m.encode = some m := by
  have h_ty : m.encode.extractLsb' 9 4 = m.ty.code := by
    apply BitVec.eq_of_getLsbD_eq
    intro i hi
    interval_cases i <;> simp only [RedMod.encode, BitVec.getLsbD_extractLsb', BitVec.getLsbD_append] <;> rfl
  have h_op : m.encode.extractLsb' 6 3 = m.op.code := by
    apply BitVec.eq_of_getLsbD_eq
    intro i hi
    interval_cases i <;> simp only [RedMod.encode, BitVec.getLsbD_extractLsb', BitVec.getLsbD_append] <;> rfl
  have h_excl : m.encode.getLsbD 5 = m.excl := by
    simp only [RedMod.encode, BitVec.getLsbD_append]; exact bit_getLsbD _
  have hz : m.encode.extractLsb' 0 5 = (0 : BitVec 5) := by
    apply BitVec.eq_of_getLsbD_eq
    intro i hi
    interval_cases i <;> simp only [RedMod.encode, BitVec.getLsbD_extractLsb', BitVec.getLsbD_append] <;> rfl
  simp only [RedMod.decode, h_ty, h_op, h_excl, hz, NumType.ofCode_code, RedOp.ofCode_code, Option.map_some, beq_self_eq_true, if_true]

theorem RegroupMod.decode_encode (m : RegroupMod) : RegroupMod.decode m.encode = some m := by
  have hz : m.encode.extractLsb' 3 10 = (0 : BitVec 10) := by
    apply BitVec.eq_of_getLsbD_eq
    intro i hi
    interval_cases i <;> simp only [RegroupMod.encode, BitVec.getLsbD_extractLsb', BitVec.getLsbD_append] <;> rfl
  have h_c : m.encode.extractLsb' 0 3 = m.c := by
    apply BitVec.eq_of_getLsbD_eq
    intro i hi
    interval_cases i <;> simp only [RegroupMod.encode, BitVec.getLsbD_extractLsb', BitVec.getLsbD_append] <;> rfl
  simp only [RegroupMod.decode, hz, h_c, Option.map_some, beq_self_eq_true, if_true]

theorem LaneMaskMod.decode_encode (m : LaneMaskMod) : LaneMaskMod.decode m.encode = some m := by
  have h_sel : m.encode.extractLsb' 10 3 = m.sel := by
    apply BitVec.eq_of_getLsbD_eq
    intro i hi
    interval_cases i <;> simp only [LaneMaskMod.encode, BitVec.getLsbD_extractLsb', BitVec.getLsbD_append] <;> rfl
  have hz : m.encode.extractLsb' 0 10 = (0 : BitVec 10) := by
    apply BitVec.eq_of_getLsbD_eq
    intro i hi
    interval_cases i <;> simp only [LaneMaskMod.encode, BitVec.getLsbD_extractLsb', BitVec.getLsbD_append] <;> rfl
  simp only [LaneMaskMod.decode, h_sel, hz, Option.map_some, beq_self_eq_true, if_true]

theorem CvtMod.decode_encode (m : CvtMod) : CvtMod.decode m.encode = some m := by
  have h_dty : m.encode.extractLsb' 9 4 = m.dty.code := by
    apply BitVec.eq_of_getLsbD_eq
    intro i hi
    interval_cases i <;> simp only [CvtMod.encode, BitVec.getLsbD_extractLsb', BitVec.getLsbD_append] <;> rfl
  have h_rnd : m.encode.extractLsb' 6 3 = m.rnd.code := by
    apply BitVec.eq_of_getLsbD_eq
    intro i hi
    interval_cases i <;> simp only [CvtMod.encode, BitVec.getLsbD_extractLsb', BitVec.getLsbD_append] <;> rfl
  have h_sty : m.encode.extractLsb' 2 4 = m.sty.code := by
    apply BitVec.eq_of_getLsbD_eq
    intro i hi
    interval_cases i <;> simp only [CvtMod.encode, BitVec.getLsbD_extractLsb', BitVec.getLsbD_append] <;> rfl
  have h_sat : m.encode.getLsbD 1 = m.sat := by
    simp only [CvtMod.encode, BitVec.getLsbD_append]; exact bit_getLsbD _
  have h_w : m.encode.getLsbD 0 = m.w := by
    simp only [CvtMod.encode, BitVec.getLsbD_append]; exact bit_getLsbD _
  simp only [CvtMod.decode, h_dty, h_rnd, h_sty, h_sat, h_w, NumType.ofCode_code, Rnd.ofCode_code, Option.map_some, beq_self_eq_true, if_true]

theorem CvtnMod.decode_encode (m : CvtnMod) : CvtnMod.decode m.encode = some m := by
  have h_fmt : m.encode.extractLsb' 10 3 = m.fmt.code := by
    apply BitVec.eq_of_getLsbD_eq
    intro i hi
    interval_cases i <;> simp only [CvtnMod.encode, BitVec.getLsbD_extractLsb', BitVec.getLsbD_append] <;> rfl
  have h_expand : m.encode.getLsbD 9 = m.expand := by
    simp only [CvtnMod.encode, BitVec.getLsbD_append]; exact bit_getLsbD _
  have h_rnd : m.encode.extractLsb' 6 3 = m.rnd.code := by
    apply BitVec.eq_of_getLsbD_eq
    intro i hi
    interval_cases i <;> simp only [CvtnMod.encode, BitVec.getLsbD_extractLsb', BitVec.getLsbD_append] <;> rfl
  have h_sel : m.encode.extractLsb' 3 3 = m.sel := by
    apply BitVec.eq_of_getLsbD_eq
    intro i hi
    interval_cases i <;> simp only [CvtnMod.encode, BitVec.getLsbD_extractLsb', BitVec.getLsbD_append] <;> rfl
  have h_sc : m.encode.getLsbD 2 = m.sc := by
    simp only [CvtnMod.encode, BitVec.getLsbD_append]; exact bit_getLsbD _
  have hz : m.encode.extractLsb' 0 2 = (0 : BitVec 2) := by
    apply BitVec.eq_of_getLsbD_eq
    intro i hi
    interval_cases i <;> simp only [CvtnMod.encode, BitVec.getLsbD_extractLsb', BitVec.getLsbD_append] <;> rfl
  simp only [CvtnMod.decode, h_fmt, h_expand, h_rnd, h_sel, h_sc, hz, NarrowFmt.ofCode_code, Rnd.ofCode_code, Option.map_some, beq_self_eq_true, if_true]

theorem QscaleMod.decode_encode (m : QscaleMod) : QscaleMod.decode m.encode = some m := by
  have h_fmt : m.encode.extractLsb' 10 3 = m.fmt.code := by
    apply BitVec.eq_of_getLsbD_eq
    intro i hi
    interval_cases i <;> simp only [QscaleMod.encode, BitVec.getLsbD_extractLsb', BitVec.getLsbD_append] <;> rfl
  have hz : m.encode.extractLsb' 0 10 = (0 : BitVec 10) := by
    apply BitVec.eq_of_getLsbD_eq
    intro i hi
    interval_cases i <;> simp only [QscaleMod.encode, BitVec.getLsbD_extractLsb', BitVec.getLsbD_append] <;> rfl
  simp only [QscaleMod.decode, h_fmt, hz, NarrowFmt.ofCode_code, Option.map_some, beq_self_eq_true, if_true]

theorem CopyMod.decode_encode (m : CopyMod) : CopyMod.decode m.encode = some m := by
  have h_ctx : m.encode.extractLsb' 7 6 = m.ctx := by
    apply BitVec.eq_of_getLsbD_eq
    intro i hi
    interval_cases i <;> simp only [CopyMod.encode, BitVec.getLsbD_extractLsb', BitVec.getLsbD_append] <;> rfl
  have h_recGen : m.encode.getLsbD 6 = m.recGen := by
    simp only [CopyMod.encode, BitVec.getLsbD_append]; exact bit_getLsbD _
  have h_sameGen : m.encode.getLsbD 5 = m.sameGen := by
    simp only [CopyMod.encode, BitVec.getLsbD_append]; exact bit_getLsbD _
  have hz : m.encode.extractLsb' 0 5 = (0 : BitVec 5) := by
    apply BitVec.eq_of_getLsbD_eq
    intro i hi
    interval_cases i <;> simp only [CopyMod.encode, BitVec.getLsbD_extractLsb', BitVec.getLsbD_append] <;> rfl
  simp only [CopyMod.decode, h_ctx, h_recGen, h_sameGen, hz, Option.map_some, beq_self_eq_true, if_true]

theorem RedstMod.decode_encode (m : RedstMod) (h : [RedOp.add, .min, .max].contains m.op = true) : RedstMod.decode m.encode = some m := by
  have h_ctx : m.encode.extractLsb' 7 6 = m.ctx := by
    apply BitVec.eq_of_getLsbD_eq
    intro i hi
    interval_cases i <;> simp only [RedstMod.encode, BitVec.getLsbD_extractLsb', BitVec.getLsbD_append] <;> rfl
  have h_tag : m.encode.getLsbD 6 = m.tag := by
    simp only [RedstMod.encode, BitVec.getLsbD_append]; exact bit_getLsbD _
  have h_ty : m.encode.extractLsb' 2 4 = m.ty.code := by
    apply BitVec.eq_of_getLsbD_eq
    intro i hi
    interval_cases i <;> simp only [RedstMod.encode, BitVec.getLsbD_extractLsb', BitVec.getLsbD_append] <;> rfl
  have h_op : m.encode.extractLsb' 0 2 = m.op.code.extractLsb' 0 2 := by
    apply BitVec.eq_of_getLsbD_eq
    intro i hi
    interval_cases i <;> simp only [RedstMod.encode, BitVec.getLsbD_extractLsb', BitVec.getLsbD_append] <;> rfl
  have h_op2 : RedOp.ofCode ((0 : BitVec 1) ++ m.op.code.extractLsb' 0 2) = some m.op := by
    revert h; cases m.op <;> decide
  simp only [RedstMod.decode, h_ctx, h_tag, h_ty, h_op, h_op2, NumType.ofCode_code, RedOp.ofCode_code, Option.map_some, beq_self_eq_true, if_true]

theorem CrossMod.decode_encode (m : CrossMod) : CrossMod.decode m.encode = some m := by
  have h_ctx : m.encode.extractLsb' 7 6 = m.ctx := by
    apply BitVec.eq_of_getLsbD_eq
    intro i hi
    interval_cases i <;> simp only [CrossMod.encode, BitVec.getLsbD_extractLsb', BitVec.getLsbD_append] <;> rfl
  have h_loft : m.encode.getLsbD 6 = m.loft := by
    simp only [CrossMod.encode, BitVec.getLsbD_append]; exact bit_getLsbD _
  have h_keepy : m.encode.getLsbD 5 = m.keepy := by
    simp only [CrossMod.encode, BitVec.getLsbD_append]; exact bit_getLsbD _
  have hz : m.encode.extractLsb' 0 5 = (0 : BitVec 5) := by
    apply BitVec.eq_of_getLsbD_eq
    intro i hi
    interval_cases i <;> simp only [CrossMod.encode, BitVec.getLsbD_extractLsb', BitVec.getLsbD_append] <;> rfl
  simp only [CrossMod.decode, h_ctx, h_loft, h_keepy, hz, Option.map_some, beq_self_eq_true, if_true]

theorem XbankMod.decode_encode (m : XbankMod) : XbankMod.decode m.encode = some m := by
  have h_ctx : m.encode.extractLsb' 7 6 = m.ctx := by
    apply BitVec.eq_of_getLsbD_eq
    intro i hi
    interval_cases i <;> simp only [XbankMod.encode, BitVec.getLsbD_extractLsb', BitVec.getLsbD_append] <;> rfl
  have hz : m.encode.extractLsb' 0 7 = (0 : BitVec 7) := by
    apply BitVec.eq_of_getLsbD_eq
    intro i hi
    interval_cases i <;> simp only [XbankMod.encode, BitVec.getLsbD_extractLsb', BitVec.getLsbD_append] <;> rfl
  simp only [XbankMod.decode, h_ctx, hz, Option.map_some, beq_self_eq_true, if_true]

theorem XstatMod.decode_encode (m : XstatMod) : XstatMod.decode m.encode = some m := by
  have h_sel : m.encode.extractLsb' 9 4 = m.sel := by
    apply BitVec.eq_of_getLsbD_eq
    intro i hi
    interval_cases i <;> simp only [XstatMod.encode, BitVec.getLsbD_extractLsb', BitVec.getLsbD_append] <;> rfl
  have h_clr : m.encode.getLsbD 8 = m.clr := by
    simp only [XstatMod.encode, BitVec.getLsbD_append]; exact bit_getLsbD _
  have hz : m.encode.extractLsb' 0 8 = (0 : BitVec 8) := by
    apply BitVec.eq_of_getLsbD_eq
    intro i hi
    interval_cases i <;> simp only [XstatMod.encode, BitVec.getLsbD_extractLsb', BitVec.getLsbD_append] <;> rfl
  simp only [XstatMod.decode, h_sel, h_clr, hz, Option.map_some, beq_self_eq_true, if_true]

theorem CoverMod.decode_encode (m : CoverMod) : CoverMod.decode m.encode = some m := by
  have hz : m.encode.extractLsb' 2 11 = (0 : BitVec 11) := by
    apply BitVec.eq_of_getLsbD_eq
    intro i hi
    interval_cases i <;> simp only [CoverMod.encode, BitVec.getLsbD_extractLsb', BitVec.getLsbD_append] <;> rfl
  have h_all : m.encode.getLsbD 1 = m.all := by
    simp only [CoverMod.encode, BitVec.getLsbD_append]; exact bit_getLsbD _
  have h_clr : m.encode.getLsbD 0 = m.clr := by
    simp only [CoverMod.encode, BitVec.getLsbD_append]; exact bit_getLsbD _
  simp only [CoverMod.decode, hz, h_all, h_clr, Option.map_some, beq_self_eq_true, if_true]

/-! ## The word -/

theorem packWord_op (op : BitVec 10) (o : Ops) (m : BitVec 13) : (packWord op o m).extractLsb' 86 10 = op := by
  apply BitVec.eq_of_getLsbD_eq
  intro i hi
  interval_cases i <;> simp only [packWord, BitVec.getLsbD_extractLsb', BitVec.getLsbD_append] <;> rfl

theorem packWord_la (op : BitVec 10) (o : Ops) (m : BitVec 13) : (packWord op o m).extractLsb' 82 4 = o.la := by
  apply BitVec.eq_of_getLsbD_eq
  intro i hi
  interval_cases i <;> simp only [packWord, BitVec.getLsbD_extractLsb', BitVec.getLsbD_append] <;> rfl

theorem packWord_p (op : BitVec 10) (o : Ops) (m : BitVec 13) : (packWord op o m).extractLsb' 77 4 = o.g.p := by
  apply BitVec.eq_of_getLsbD_eq
  intro i hi
  interval_cases i <;> simp only [packWord, BitVec.getLsbD_extractLsb', BitVec.getLsbD_append] <;> rfl

theorem packWord_d (op : BitVec 10) (o : Ops) (m : BitVec 13) : (packWord op o m).extractLsb' 69 8 = o.d := by
  apply BitVec.eq_of_getLsbD_eq
  intro i hi
  interval_cases i <;> simp only [packWord, BitVec.getLsbD_extractLsb', BitVec.getLsbD_append] <;> rfl

theorem packWord_a (op : BitVec 10) (o : Ops) (m : BitVec 13) : (packWord op o m).extractLsb' 61 8 = o.a := by
  apply BitVec.eq_of_getLsbD_eq
  intro i hi
  interval_cases i <;> simp only [packWord, BitVec.getLsbD_extractLsb', BitVec.getLsbD_append] <;> rfl

theorem packWord_b (op : BitVec 10) (o : Ops) (m : BitVec 13) : (packWord op o m).extractLsb' 53 8 = o.b := by
  apply BitVec.eq_of_getLsbD_eq
  intro i hi
  interval_cases i <;> simp only [packWord, BitVec.getLsbD_extractLsb', BitVec.getLsbD_append] <;> rfl

theorem packWord_c (op : BitVec 10) (o : Ops) (m : BitVec 13) : (packWord op o m).extractLsb' 45 8 = o.c := by
  apply BitVec.eq_of_getLsbD_eq
  intro i hi
  interval_cases i <;> simp only [packWord, BitVec.getLsbD_extractLsb', BitVec.getLsbD_append] <;> rfl

theorem packWord_mod (op : BitVec 10) (o : Ops) (m : BitVec 13) : (packWord op o m).extractLsb' 32 13 = m := by
  apply BitVec.eq_of_getLsbD_eq
  intro i hi
  interval_cases i <;> simp only [packWord, BitVec.getLsbD_extractLsb', BitVec.getLsbD_append] <;> rfl

theorem packWord_imm (op : BitVec 10) (o : Ops) (m : BitVec 13) : (packWord op o m).extractLsb' 0 32 = o.imm := by
  apply BitVec.eq_of_getLsbD_eq
  intro i hi
  interval_cases i <;> simp only [packWord, BitVec.getLsbD_extractLsb', BitVec.getLsbD_append] <;> rfl

theorem packWord_neg (op : BitVec 10) (o : Ops) (m : BitVec 13) : (packWord op o m).getLsbD 81 = o.g.neg := by
  simp only [packWord, BitVec.getLsbD_append]; exact bit_getLsbD _

/-- The fields of a packed word are those packed. -/
theorem wordOps_packWord (op : BitVec 10) (o : Ops) (m : BitVec 13) : wordOps (packWord op o m) = o := by
  simp only [wordOps, packWord_la, packWord_p, packWord_d, packWord_a, packWord_b, packWord_c, packWord_imm,
    packWord_neg]

/-- A word built from an opcode, fields and a modifier decodes to what they stand for. -/
theorem decodeWord_packWord {op : BitVec 10} {o : Ops} {m : BitVec 13} {i : Instr} (h : buildInstr op o m = some i)
    (hw : i.wf = true) : decodeWord (packWord op o m) = .ok i := by
  simp only [decodeWord, packWord_op, packWord_mod, wordOps_packWord, h, hw, if_true]

end Sys2Proof
end

