-- ==== Sys2Proof/Laws/PerInstr.lean ====
section
/-! SUPPORT. For every instruction: its word, if it has one, decodes to it. -/

namespace Sys2Proof.Laws.RoundTrip

/-- The word of a well-formed instruction decodes to that instruction. -/
def Statement (i : Instr) : Prop := i.wf = true → ∀ w, encode i = some w → decodeWord w = .ok i

/-- An event has no word. -/
theorem of_none {i : Instr} (h : encode i = none) : Statement i := by
  intro _ w hw
  rw [h] at hw
  cases hw

/-- An instruction that its opcode, its fields and its modifier give back. -/
theorem of_build {i : Instr} {op : BitVec 10} {o : Ops} (h1 : i.opcode = some op) (h2 : i.ops = some o)
    (h : i.wf = true → buildInstr op o i.modBits = some i) : Statement i := by
  intro hw w he
  simp only [encode, h1, h2, Option.some.injEq] at he
  rw [← he]
  exact decodeWord_packWord (h hw) hw

theorem buildInstr_unassigned (op : BitVec 10) (h : assigned op = false) (o : Ops) (m : BitVec 13) :
    buildInstr op o m = some (.unassignedOpcode op) := by
  simp [buildInstr, h]

theorem bareMod_zero (f : Bool → Instr) : bareMod 0 f = some (f false) := by
  simp [bareMod]

theorem bareMod_one (f : Bool → Instr) : bareMod 1 f = some (f true) := by
  simp [bareMod]

theorem build_ringp (o : Ops) (m : BitVec 13) :
    buildInstr 0x30E o m = bareMod m fun b => if b then .ringpFill o else .ringpTake o := rfl

theorem build_tlrd (o : Ops) (m : BitVec 13) :
    buildInstr 0x30B o m = bareMod m fun b => if b then .tlrdName o else .tlrdCnt o := rfl

theorem nop (o : Ops) : Statement (.nop o) := of_build rfl rfl fun _ => rfl

theorem bra (o : Ops) : Statement (.bra o) := of_build rfl rfl fun _ => rfl

theorem brx (o : Ops) (m : TableMod) : Statement (.brx o m) := of_build rfl rfl fun _ => by
  show (TableMod.decode m.encode).map _ = _
  rw [TableMod.decode_encode]; rfl

theorem call (o : Ops) : Statement (.call o) := of_build rfl rfl fun _ => rfl

theorem callx (o : Ops) (m : TableMod) : Statement (.callx o m) := of_build rfl rfl fun _ => by
  show (TableMod.decode m.encode).map _ = _
  rw [TableMod.decode_encode]; rfl

theorem ret (o : Ops) : Statement (.ret o) := of_build rfl rfl fun _ => rfl

theorem exit (o : Ops) : Statement (.exit o) := of_build rfl rfl fun _ => rfl

theorem reconv (o : Ops) : Statement (.reconv o) := of_build rfl rfl fun _ => rfl

theorem yield (o : Ops) : Statement (.yield o) := of_build rfl rfl fun _ => rfl

theorem bar (o : Ops) (m : BarMod) : Statement (.bar o m) := of_build rfl rfl fun _ => by
  show (BarMod.decode m.encode).map _ = _
  rw [BarMod.decode_encode]; rfl

theorem cbar (o : Ops) (m : BarMod) : Statement (.cbar o m) := of_build rfl rfl fun _ => by
  show (BarMod.decode m.encode).map _ = _
  rw [BarMod.decode_encode]; rfl

theorem trap (o : Ops) : Statement (.trap o) := of_build rfl rfl fun _ => rfl

theorem bkpt (o : Ops) : Statement (.bkpt o) := of_build rfl rfl fun _ => rfl

theorem elect (o : Ops) : Statement (.elect o) := of_build rfl rfl fun _ => rfl

theorem hret (o : Ops) (m : FlagMod) : Statement (.hret o m) := of_build rfl rfl fun _ => by
  show (FlagMod.decode m.encode).map _ = _
  rw [FlagMod.decode_encode]; rfl

theorem unassignedOpcode (op : BitVec 10) : Statement (.unassignedOpcode op) := by
  intro hw w he
  have he : op ++ (0 : BitVec 86) = w := Option.some.inj he
  have h1 : w.extractLsb' 86 10 = op := by
    rw [← he]
    apply BitVec.eq_of_getLsbD_eq
    intro i hi
    interval_cases i <;> simp only [BitVec.getLsbD_extractLsb', BitVec.getLsbD_append] <;> rfl
  have hu : assigned op = false := by
    have h : (!assigned op) = true := hw
    simpa using h
  simp only [decodeWord, h1, buildInstr_unassigned op hu, hw, if_true]

theorem iadd (o : Ops) (m : StdMod) : Statement (.iadd o m) := of_build rfl rfl fun _ => by
  show (StdMod.decode m.encode).map _ = _
  rw [StdMod.decode_encode]; rfl

theorem isub (o : Ops) (m : StdMod) : Statement (.isub o m) := of_build rfl rfl fun _ => by
  show (StdMod.decode m.encode).map _ = _
  rw [StdMod.decode_encode]; rfl

theorem imul (o : Ops) (m : StdMod) : Statement (.imul o m) := of_build rfl rfl fun _ => by
  show (StdMod.decode m.encode).map _ = _
  rw [StdMod.decode_encode]; rfl

theorem imulh (o : Ops) (m : StdMod) : Statement (.imulh o m) := of_build rfl rfl fun _ => by
  show (StdMod.decode m.encode).map _ = _
  rw [StdMod.decode_encode]; rfl

theorem imad (o : Ops) (m : StdMod) : Statement (.imad o m) := of_build rfl rfl fun _ => by
  show (StdMod.decode m.encode).map _ = _
  rw [StdMod.decode_encode]; rfl

theorem imadw (o : Ops) (m : StdMod) : Statement (.imadw o m) := of_build rfl rfl fun _ => by
  show (StdMod.decode m.encode).map _ = _
  rw [StdMod.decode_encode]; rfl

theorem idiv (o : Ops) (m : StdMod) : Statement (.idiv o m) := of_build rfl rfl fun _ => by
  show (StdMod.decode m.encode).map _ = _
  rw [StdMod.decode_encode]; rfl

theorem irem (o : Ops) (m : StdMod) : Statement (.irem o m) := of_build rfl rfl fun _ => by
  show (StdMod.decode m.encode).map _ = _
  rw [StdMod.decode_encode]; rfl

theorem iabs (o : Ops) (m : StdMod) : Statement (.iabs o m) := of_build rfl rfl fun _ => by
  show (StdMod.decode m.encode).map _ = _
  rw [StdMod.decode_encode]; rfl

theorem ineg (o : Ops) (m : StdMod) : Statement (.ineg o m) := of_build rfl rfl fun _ => by
  show (StdMod.decode m.encode).map _ = _
  rw [StdMod.decode_encode]; rfl

theorem imin (o : Ops) (m : StdMod) : Statement (.imin o m) := of_build rfl rfl fun _ => by
  show (StdMod.decode m.encode).map _ = _
  rw [StdMod.decode_encode]; rfl

theorem imax (o : Ops) (m : StdMod) : Statement (.imax o m) := of_build rfl rfl fun _ => by
  show (StdMod.decode m.encode).map _ = _
  rw [StdMod.decode_encode]; rfl

theorem icmp (o : Ops) (m : CmpMod) : Statement (.icmp o m) := of_build rfl rfl fun _ => by
  show (CmpMod.decode m.encode).map _ = _
  rw [CmpMod.decode_encode]; rfl

theorem isel (o : Ops) (m : StdMod) : Statement (.isel o m) := of_build rfl rfl fun _ => by
  show (StdMod.decode m.encode).map _ = _
  rw [StdMod.decode_encode]; rfl

theorem idp4 (o : Ops) (m : StdMod) : Statement (.idp4 o m) := of_build rfl rfl fun _ => by
  show (StdMod.decode m.encode).map _ = _
  rw [StdMod.decode_encode]; rfl

theorem andB (o : Ops) (m : StdMod) : Statement (.andB o m) := of_build rfl rfl fun _ => by
  show (StdMod.decode m.encode).map _ = _
  rw [StdMod.decode_encode]; rfl

theorem orB (o : Ops) (m : StdMod) : Statement (.orB o m) := of_build rfl rfl fun _ => by
  show (StdMod.decode m.encode).map _ = _
  rw [StdMod.decode_encode]; rfl

theorem xorB (o : Ops) (m : StdMod) : Statement (.xorB o m) := of_build rfl rfl fun _ => by
  show (StdMod.decode m.encode).map _ = _
  rw [StdMod.decode_encode]; rfl

theorem notB (o : Ops) (m : StdMod) : Statement (.notB o m) := of_build rfl rfl fun _ => by
  show (StdMod.decode m.encode).map _ = _
  rw [StdMod.decode_encode]; rfl

theorem lop3 (o : Ops) (m : StdMod) : Statement (.lop3 o m) := of_build rfl rfl fun _ => by
  show (StdMod.decode m.encode).map _ = _
  rw [StdMod.decode_encode]; rfl

theorem shl (o : Ops) (m : StdMod) : Statement (.shl o m) := of_build rfl rfl fun _ => by
  show (StdMod.decode m.encode).map _ = _
  rw [StdMod.decode_encode]; rfl

theorem shr (o : Ops) (m : StdMod) : Statement (.shr o m) := of_build rfl rfl fun _ => by
  show (StdMod.decode m.encode).map _ = _
  rw [StdMod.decode_encode]; rfl

theorem sar (o : Ops) (m : StdMod) : Statement (.sar o m) := of_build rfl rfl fun _ => by
  show (StdMod.decode m.encode).map _ = _
  rw [StdMod.decode_encode]; rfl

theorem rot (o : Ops) (m : StdMod) : Statement (.rot o m) := of_build rfl rfl fun _ => by
  show (StdMod.decode m.encode).map _ = _
  rw [StdMod.decode_encode]; rfl

theorem fshf (o : Ops) (m : StdMod) : Statement (.fshf o m) := of_build rfl rfl fun _ => by
  show (StdMod.decode m.encode).map _ = _
  rw [StdMod.decode_encode]; rfl

theorem popc (o : Ops) (m : StdMod) : Statement (.popc o m) := of_build rfl rfl fun _ => by
  show (StdMod.decode m.encode).map _ = _
  rw [StdMod.decode_encode]; rfl

theorem clz (o : Ops) (m : StdMod) : Statement (.clz o m) := of_build rfl rfl fun _ => by
  show (StdMod.decode m.encode).map _ = _
  rw [StdMod.decode_encode]; rfl

theorem brev (o : Ops) (m : StdMod) : Statement (.brev o m) := of_build rfl rfl fun _ => by
  show (StdMod.decode m.encode).map _ = _
  rw [StdMod.decode_encode]; rfl

theorem bfe (o : Ops) (m : StdMod) : Statement (.bfe o m) := of_build rfl rfl fun _ => by
  show (StdMod.decode m.encode).map _ = _
  rw [StdMod.decode_encode]; rfl

theorem bfi (o : Ops) (m : StdMod) : Statement (.bfi o m) := of_build rfl rfl fun _ => by
  show (StdMod.decode m.encode).map _ = _
  rw [StdMod.decode_encode]; rfl

theorem prmt (o : Ops) (m : StdMod) : Statement (.prmt o m) := of_build rfl rfl fun _ => by
  show (StdMod.decode m.encode).map _ = _
  rw [StdMod.decode_encode]; rfl

theorem mov (o : Ops) (m : StdMod) : Statement (.mov o m) := of_build rfl rfl fun _ => by
  show (StdMod.decode m.encode).map _ = _
  rw [StdMod.decode_encode]; rfl

theorem movi (o : Ops) (m : StdMod) : Statement (.movi o m) := of_build rfl rfl fun _ => by
  show (StdMod.decode m.encode).map _ = _
  rw [StdMod.decode_encode]; rfl

theorem movs (o : Ops) (m : StdMod) : Statement (.movs o m) := of_build rfl rfl fun _ => by
  show (StdMod.decode m.encode).map _ = _
  rw [StdMod.decode_encode]; rfl

theorem pset (o : Ops) (m : StdMod) : Statement (.pset o m) := of_build rfl rfl fun _ => by
  show (StdMod.decode m.encode).map _ = _
  rw [StdMod.decode_encode]; rfl

theorem plop (o : Ops) : Statement (.plop o) := of_build rfl rfl fun _ => rfl

theorem ptov (o : Ops) : Statement (.ptov o) := of_build rfl rfl fun _ => rfl

theorem vtop (o : Ops) : Statement (.vtop o) := of_build rfl rfl fun _ => rfl

theorem capadd (o : Ops) (m : CapMod) : Statement (.capadd o m) := of_build rfl rfl fun _ => by
  show (CapMod.decode m.encode).map _ = _
  rw [CapMod.decode_encode]; rfl

theorem capnar (o : Ops) (m : CapMod) : Statement (.capnar o m) := of_build rfl rfl fun _ => by
  show (CapMod.decode m.encode).map _ = _
  rw [CapMod.decode_encode]; rfl

theorem capoff (o : Ops) (m : CapMod) : Statement (.capoff o m) := of_build rfl rfl fun _ => by
  show (CapMod.decode m.encode).map _ = _
  rw [CapMod.decode_encode]; rfl

theorem capobj (o : Ops) (m : CapMod) : Statement (.capobj o m) := of_build rfl rfl fun _ => by
  show (CapMod.decode m.encode).map _ = _
  rw [CapMod.decode_encode]; rfl

theorem capchk (o : Ops) (m : CapMod) : Statement (.capchk o m) := of_build rfl rfl fun _ => by
  show (CapMod.decode m.encode).map _ = _
  rw [CapMod.decode_encode]; rfl

theorem fadd (o : Ops) (m : StdMod) : Statement (.fadd o m) := of_build rfl rfl fun _ => by
  show (StdMod.decode m.encode).map _ = _
  rw [StdMod.decode_encode]; rfl

theorem fsub (o : Ops) (m : StdMod) : Statement (.fsub o m) := of_build rfl rfl fun _ => by
  show (StdMod.decode m.encode).map _ = _
  rw [StdMod.decode_encode]; rfl

theorem fmul (o : Ops) (m : StdMod) : Statement (.fmul o m) := of_build rfl rfl fun _ => by
  show (StdMod.decode m.encode).map _ = _
  rw [StdMod.decode_encode]; rfl

theorem ffma (o : Ops) (m : StdMod) : Statement (.ffma o m) := of_build rfl rfl fun _ => by
  show (StdMod.decode m.encode).map _ = _
  rw [StdMod.decode_encode]; rfl

theorem fmin (o : Ops) (m : StdMod) : Statement (.fmin o m) := of_build rfl rfl fun _ => by
  show (StdMod.decode m.encode).map _ = _
  rw [StdMod.decode_encode]; rfl

theorem fmax (o : Ops) (m : StdMod) : Statement (.fmax o m) := of_build rfl rfl fun _ => by
  show (StdMod.decode m.encode).map _ = _
  rw [StdMod.decode_encode]; rfl

theorem fcmp (o : Ops) (m : CmpMod) : Statement (.fcmp o m) := of_build rfl rfl fun _ => by
  show (CmpMod.decode m.encode).map _ = _
  rw [CmpMod.decode_encode]; rfl

theorem frnd (o : Ops) (m : StdMod) : Statement (.frnd o m) := of_build rfl rfl fun _ => by
  show (StdMod.decode m.encode).map _ = _
  rw [StdMod.decode_encode]; rfl

theorem fclass (o : Ops) (m : StdMod) : Statement (.fclass o m) := of_build rfl rfl fun _ => by
  show (StdMod.decode m.encode).map _ = _
  rw [StdMod.decode_encode]; rfl

theorem fscale (o : Ops) (m : StdMod) : Statement (.fscale o m) := of_build rfl rfl fun _ => by
  show (StdMod.decode m.encode).map _ = _
  rw [StdMod.decode_encode]; rfl

theorem hadd2 (o : Ops) (m : StdMod) : Statement (.hadd2 o m) := of_build rfl rfl fun _ => by
  show (StdMod.decode m.encode).map _ = _
  rw [StdMod.decode_encode]; rfl

theorem hmul2 (o : Ops) (m : StdMod) : Statement (.hmul2 o m) := of_build rfl rfl fun _ => by
  show (StdMod.decode m.encode).map _ = _
  rw [StdMod.decode_encode]; rfl

theorem hfma2 (o : Ops) (m : StdMod) : Statement (.hfma2 o m) := of_build rfl rfl fun _ => by
  show (StdMod.decode m.encode).map _ = _
  rw [StdMod.decode_encode]; rfl

theorem dadd (o : Ops) (m : StdMod) : Statement (.dadd o m) := of_build rfl rfl fun _ => by
  show (StdMod.decode m.encode).map _ = _
  rw [StdMod.decode_encode]; rfl

theorem dmul (o : Ops) (m : StdMod) : Statement (.dmul o m) := of_build rfl rfl fun _ => by
  show (StdMod.decode m.encode).map _ = _
  rw [StdMod.decode_encode]; rfl

theorem dfma (o : Ops) (m : StdMod) : Statement (.dfma o m) := of_build rfl rfl fun _ => by
  show (StdMod.decode m.encode).map _ = _
  rw [StdMod.decode_encode]; rfl

theorem cvt (o : Ops) (m : CvtMod) : Statement (.cvt o m) := of_build rfl rfl fun _ => by
  show (CvtMod.decode m.encode).map _ = _
  rw [CvtMod.decode_encode]; rfl

theorem cvtn (o : Ops) (m : CvtnMod) : Statement (.cvtn o m) := of_build rfl rfl fun _ => by
  show (CvtnMod.decode m.encode).map _ = _
  rw [CvtnMod.decode_encode]; rfl

theorem cvtw (o : Ops) (m : CvtMod) : Statement (.cvtw o m) := of_build rfl rfl fun _ => by
  show (CvtMod.decode m.encode).map _ = _
  rw [CvtMod.decode_encode]; rfl

theorem qscale (o : Ops) (m : QscaleMod) : Statement (.qscale o m) := of_build rfl rfl fun _ => by
  show (QscaleMod.decode m.encode).map _ = _
  rw [QscaleMod.decode_encode]; rfl

theorem rcp (o : Ops) (m : StdMod) : Statement (.rcp o m) := of_build rfl rfl fun _ => by
  show (StdMod.decode m.encode).map _ = _
  rw [StdMod.decode_encode]; rfl

theorem rsq (o : Ops) (m : StdMod) : Statement (.rsq o m) := of_build rfl rfl fun _ => by
  show (StdMod.decode m.encode).map _ = _
  rw [StdMod.decode_encode]; rfl

theorem sqrt (o : Ops) (m : StdMod) : Statement (.sqrt o m) := of_build rfl rfl fun _ => by
  show (StdMod.decode m.encode).map _ = _
  rw [StdMod.decode_encode]; rfl

theorem ex2 (o : Ops) (m : StdMod) : Statement (.ex2 o m) := of_build rfl rfl fun _ => by
  show (StdMod.decode m.encode).map _ = _
  rw [StdMod.decode_encode]; rfl

theorem lg2 (o : Ops) (m : StdMod) : Statement (.lg2 o m) := of_build rfl rfl fun _ => by
  show (StdMod.decode m.encode).map _ = _
  rw [StdMod.decode_encode]; rfl

theorem sin (o : Ops) (m : StdMod) : Statement (.sin o m) := of_build rfl rfl fun _ => by
  show (StdMod.decode m.encode).map _ = _
  rw [StdMod.decode_encode]; rfl

theorem cos (o : Ops) (m : StdMod) : Statement (.cos o m) := of_build rfl rfl fun _ => by
  show (StdMod.decode m.encode).map _ = _
  rw [StdMod.decode_encode]; rfl

theorem fdiv (o : Ops) (m : StdMod) : Statement (.fdiv o m) := of_build rfl rfl fun _ => by
  show (StdMod.decode m.encode).map _ = _
  rw [StdMod.decode_encode]; rfl

theorem flagr (o : Ops) : Statement (.flagr o) := of_build rfl rfl fun _ => rfl

theorem flagc (o : Ops) : Statement (.flagc o) := of_build rfl rfl fun _ => rfl

theorem liadd (o : Ops) (m : StdMod) : Statement (.liadd o m) := of_build rfl rfl fun _ => by
  show (StdMod.decode m.encode).map _ = _
  rw [StdMod.decode_encode]; rfl

theorem lisub (o : Ops) (m : StdMod) : Statement (.lisub o m) := of_build rfl rfl fun _ => by
  show (StdMod.decode m.encode).map _ = _
  rw [StdMod.decode_encode]; rfl

theorem limul (o : Ops) (m : StdMod) : Statement (.limul o m) := of_build rfl rfl fun _ => by
  show (StdMod.decode m.encode).map _ = _
  rw [StdMod.decode_encode]; rfl

theorem lidiv (o : Ops) (m : StdMod) : Statement (.lidiv o m) := of_build rfl rfl fun _ => by
  show (StdMod.decode m.encode).map _ = _
  rw [StdMod.decode_encode]; rfl

theorem licmp (o : Ops) (m : CmpMod) : Statement (.licmp o m) := of_build rfl rfl fun _ => by
  show (CmpMod.decode m.encode).map _ = _
  rw [CmpMod.decode_encode]; rfl

theorem lircp (o : Ops) (m : StdMod) : Statement (.lircp o m) := of_build rfl rfl fun _ => by
  show (StdMod.decode m.encode).map _ = _
  rw [StdMod.decode_encode]; rfl

theorem liexp (o : Ops) (m : StdMod) : Statement (.liexp o m) := of_build rfl rfl fun _ => by
  show (StdMod.decode m.encode).map _ = _
  rw [StdMod.decode_encode]; rfl

theorem liln (o : Ops) (m : StdMod) : Statement (.liln o m) := of_build rfl rfl fun _ => by
  show (StdMod.decode m.encode).map _ = _
  rw [StdMod.decode_encode]; rfl

theorem licvt (o : Ops) (m : CvtMod) : Statement (.licvt o m) := of_build rfl rfl fun _ => by
  show (CvtMod.decode m.encode).map _ = _
  rw [CvtMod.decode_encode]; rfl

theorem lilvl (o : Ops) (m : StdMod) : Statement (.lilvl o m) := of_build rfl rfl fun _ => by
  show (StdMod.decode m.encode).map _ = _
  rw [StdMod.decode_encode]; rfl

theorem shfl (o : Ops) (m : ShflMod) : Statement (.shfl o m) := of_build rfl rfl fun _ => by
  show (ShflMod.decode m.encode).map _ = _
  rw [ShflMod.decode_encode]; rfl

theorem qxch (o : Ops) (m : ShflMod) : Statement (.qxch o m) := of_build rfl rfl fun _ => by
  show (ShflMod.decode m.encode).map _ = _
  rw [ShflMod.decode_encode]; rfl

theorem qbc (o : Ops) (m : ShflMod) : Statement (.qbc o m) := of_build rfl rfl fun _ => by
  show (ShflMod.decode m.encode).map _ = _
  rw [ShflMod.decode_encode]; rfl

theorem vote (o : Ops) (m : VoteMod) : Statement (.vote o m) := of_build rfl rfl fun _ => by
  show (VoteMod.decode m.encode).map _ = _
  rw [VoteMod.decode_encode]; rfl

theorem matchB (o : Ops) (m : VoteMod) : Statement (.matchB o m) := of_build rfl rfl fun _ => by
  show (VoteMod.decode m.encode).map _ = _
  rw [VoteMod.decode_encode]; rfl

theorem red (o : Ops) (m : RedMod) : Statement (.red o m) := of_build rfl rfl fun _ => by
  show (RedMod.decode m.encode).map _ = _
  rw [RedMod.decode_encode]; rfl

theorem scan (o : Ops) (m : RedMod) : Statement (.scan o m) := of_build rfl rfl fun _ => by
  show (RedMod.decode m.encode).map _ = _
  rw [RedMod.decode_encode]; rfl

theorem regroup (o : Ops) (m : RegroupMod) : Statement (.regroup o m) := of_build rfl rfl fun _ => by
  show (RegroupMod.decode m.encode).map _ = _
  rw [RegroupMod.decode_encode]; rfl

theorem lanemask (o : Ops) (m : LaneMaskMod) : Statement (.lanemask o m) := of_build rfl rfl fun _ => by
  show (LaneMaskMod.decode m.encode).map _ = _
  rw [LaneMaskMod.decode_encode]; rfl

theorem lds (o : Ops) (m : MemMod) : Statement (.lds o m) := of_build rfl rfl fun _ => by
  show (MemMod.decode m.encode).map _ = _
  rw [MemMod.decode_encode]; rfl

theorem sts (o : Ops) (m : MemMod) : Statement (.sts o m) := of_build rfl rfl fun _ => by
  show (MemMod.decode m.encode).map _ = _
  rw [MemMod.decode_encode]; rfl

theorem ldl (o : Ops) (m : MemMod) : Statement (.ldl o m) := of_build rfl rfl fun _ => by
  show (MemMod.decode m.encode).map _ = _
  rw [MemMod.decode_encode]; rfl

theorem stl (o : Ops) (m : MemMod) : Statement (.stl o m) := of_build rfl rfl fun _ => by
  show (MemMod.decode m.encode).map _ = _
  rw [MemMod.decode_encode]; rfl

theorem ldk (o : Ops) (m : MemMod) : Statement (.ldk o m) := of_build rfl rfl fun _ => by
  show (MemMod.decode m.encode).map _ = _
  rw [MemMod.decode_encode]; rfl

theorem stk (o : Ops) (m : MemMod) : Statement (.stk o m) := of_build rfl rfl fun _ => by
  show (MemMod.decode m.encode).map _ = _
  rw [MemMod.decode_encode]; rfl

theorem atms (o : Ops) (m : MemMod) : Statement (.atms o m) := of_build rfl rfl fun _ => by
  show (MemMod.decode m.encode).map _ = _
  rw [MemMod.decode_encode]; rfl

theorem atml (o : Ops) (m : MemMod) : Statement (.atml o m) := of_build rfl rfl fun _ => by
  show (MemMod.decode m.encode).map _ = _
  rw [MemMod.decode_encode]; rfl

theorem cass (o : Ops) (m : MemMod) : Statement (.cass o m) := of_build rfl rfl fun _ => by
  show (MemMod.decode m.encode).map _ = _
  rw [MemMod.decode_encode]; rfl

theorem casl (o : Ops) (m : MemMod) : Statement (.casl o m) := of_build rfl rfl fun _ => by
  show (MemMod.decode m.encode).map _ = _
  rw [MemMod.decode_encode]; rfl

theorem fence (o : Ops) (m : FenceMod) : Statement (.fence o m) := of_build rfl rfl fun _ => by
  show (FenceMod.decode m.encode).map _ = _
  rw [FenceMod.decode_encode]; rfl

theorem cpy (o : Ops) (m : CopyMod) : Statement (.cpy o m) := of_build rfl rfl fun _ => by
  show (CopyMod.decode m.encode).map _ = _
  rw [CopyMod.decode_encode]; rfl

theorem cpyg (o : Ops) (m : CopyMod) : Statement (.cpyg o m) := of_build rfl rfl fun _ => by
  show (CopyMod.decode m.encode).map _ = _
  rw [CopyMod.decode_encode]; rfl

theorem cpyx (o : Ops) (m : CopyMod) : Statement (.cpyx o m) := of_build rfl rfl fun _ => by
  show (CopyMod.decode m.encode).map _ = _
  rw [CopyMod.decode_encode]; rfl

theorem redst (o : Ops) (m : RedstMod) : Statement (.redst o m) := by
  refine of_build rfl rfl fun h => ?_
  have h1 : (_ && (_ && [RedOp.add, .min, .max].contains m.op && _)) = true := h
  simp only [Bool.and_eq_true] at h1
  show (RedstMod.decode m.encode).map (Instr.redst o) = _
  rw [RedstMod.decode_encode m h1.2.1.2]; rfl

theorem cueb (o : Ops) (m : FlagMod) : Statement (.cueb o m) := of_build rfl rfl fun _ => by
  show (FlagMod.decode m.encode).map _ = _
  rw [FlagMod.decode_encode]; rfl

theorem cuef (o : Ops) : Statement (.cuef o) := of_build rfl rfl fun _ => rfl

theorem ringi (o : Ops) : Statement (.ringi o) := of_build rfl rfl fun _ => rfl

theorem ringpTake (o : Ops) : Statement (.ringpTake o) := of_build rfl rfl fun _ => by
  rw [build_ringp]; exact bareMod_zero _

theorem ringpFill (o : Ops) : Statement (.ringpFill o) := of_build rfl rfl fun _ => by
  rw [build_ringp]; exact bareMod_one _

theorem ringw (o : Ops) (m : RingwMod) : Statement (.ringw o m) := of_build rfl rfl fun _ => by
  show (RingwMod.decode m.encode).map _ = _
  rw [RingwMod.decode_encode]; rfl

theorem ringr (o : Ops) : Statement (.ringr o) := of_build rfl rfl fun _ => rfl

theorem fwait (o : Ops) : Statement (.fwait o) := of_build rfl rfl fun _ => rfl

theorem ftest (o : Ops) (m : FlagMod) : Statement (.ftest o m) := of_build rfl rfl fun _ => by
  show (FlagMod.decode m.encode).map _ = _
  rw [FlagMod.decode_encode]; rfl

theorem fcancel (o : Ops) : Statement (.fcancel o) := of_build rfl rfl fun _ => rfl

theorem tlrdCnt (o : Ops) : Statement (.tlrdCnt o) := of_build rfl rfl fun _ => by
  rw [build_tlrd]; exact bareMod_zero _

theorem tlrdName (o : Ops) : Statement (.tlrdName o) := of_build rfl rfl fun _ => by
  rw [build_tlrd]; exact bareMod_one _

theorem tlwait (o : Ops) : Statement (.tlwait o) := of_build rfl rfl fun _ => rfl

theorem signal (o : Ops) : Statement (.signal o) := of_build rfl rfl fun _ => rfl

theorem mma (o : Ops) : Statement (.mma o) := of_build rfl rfl fun _ => rfl

theorem mmab (o : Ops) : Statement (.mmab o) := of_build rfl rfl fun _ => rfl

theorem mmad (o : Ops) : Statement (.mmad o) := of_build rfl rfl fun _ => rfl

theorem accz (o : Ops) : Statement (.accz o) := of_build rfl rfl fun _ => rfl

theorem acco (o : Ops) (m : StdMod) : Statement (.acco o m) := of_build rfl rfl fun _ => by
  show (StdMod.decode m.encode).map _ = _
  rw [StdMod.decode_encode]; rfl

theorem acci (o : Ops) (m : StdMod) : Statement (.acci o m) := of_build rfl rfl fun _ => by
  show (StdMod.decode m.encode).map _ = _
  rw [StdMod.decode_encode]; rfl

theorem accg (o : Ops) (m : StdMod) : Statement (.accg o m) := of_build rfl rfl fun _ => by
  show (StdMod.decode m.encode).map _ = _
  rw [StdMod.decode_encode]; rfl

theorem cross (o : Ops) (m : CrossMod) : Statement (.cross o m) := of_build rfl rfl fun _ => by
  show (CrossMod.decode m.encode).map _ = _
  rw [CrossMod.decode_encode]; rfl

theorem crossb (o : Ops) (m : CrossMod) : Statement (.crossb o m) := of_build rfl rfl fun _ => by
  show (CrossMod.decode m.encode).map _ = _
  rw [CrossMod.decode_encode]; rfl

theorem xbank (o : Ops) (m : XbankMod) : Statement (.xbank o m) := of_build rfl rfl fun _ => by
  show (XbankMod.decode m.encode).map _ = _
  rw [XbankMod.decode_encode]; rfl

theorem xstat (o : Ops) (m : XstatMod) : Statement (.xstat o m) := of_build rfl rfl fun _ => by
  show (XstatMod.decode m.encode).map _ = _
  rw [XstatMod.decode_encode]; rfl

theorem emit (o : Ops) : Statement (.emit o) := of_build rfl rfl fun _ => rfl

theorem rand (o : Ops) : Statement (.rand o) := of_build rfl rfl fun _ => rfl

theorem mode (o : Ops) : Statement (.mode o) := of_build rfl rfl fun _ => rfl

theorem cover (o : Ops) (m : CoverMod) : Statement (.cover o m) := of_build rfl rfl fun _ => by
  show (CoverMod.decode m.encode).map _ = _
  rw [CoverMod.decode_encode]; rfl

theorem clock (o : Ops) : Statement (.clock o) := of_build rfl rfl fun _ => rfl

theorem writeReachesHome (x : Landing) : Statement (.writeReachesHome x) := of_none rfl

theorem longLatencyComplete (x : Completion) : Statement (.longLatencyComplete x) := of_none rfl

theorem copyStart (x : CopyRun) : Statement (.copyStart x) := of_none rfl

theorem copyComplete (id : Nat) : Statement (.copyComplete id) := of_none rfl

theorem engineRingClaim (id : Nat) : Statement (.engineRingClaim id) := of_none rfl

theorem signalApply (k : Nat) : Statement (.signalApply k) := of_none rfl

theorem matrixEntryExecute (die : Nat) (core : Nat) : Statement (.matrixEntryExecute die core) := of_none rfl

theorem duetBoundExpiry (gid : Nat) (warp : Nat) : Statement (.duetBoundExpiry gid warp) := of_none rfl

theorem crossingStart (id : Nat) : Statement (.crossingStart id) := of_none rfl

theorem crossingDelivery (id : Nat) : Statement (.crossingDelivery id) := of_none rfl

theorem xbankLoadComplete (id : Nat) : Statement (.xbankLoadComplete id) := of_none rfl

theorem emitRecordsArrive (k : Nat) : Statement (.emitRecordsArrive k) := of_none rfl

theorem lineFetchComplete (k : Nat) (flips : List Nat) : Statement (.lineFetchComplete k flips) := of_none rfl

theorem lineRefetchComplete (k : Nat) (flips : List Nat) : Statement (.lineRefetchComplete k flips) := of_none rfl

theorem pageWalkComplete (k : Nat) : Statement (.pageWalkComplete k) := of_none rfl

theorem swapOut (gid : Nat) : Statement (.swapOut gid) := of_none rfl

theorem restore (gid : Nat) (cores : List Nat) : Statement (.restore gid cores) := of_none rfl

theorem callboardDispatch (die : Nat) (cores : List Nat) : Statement (.callboardDispatch die cores) := of_none rfl

theorem nodeComplete (ctx : Nat) (node : Nat) : Statement (.nodeComplete ctx node) := of_none rfl

theorem toHost (ctx : Nat) (node : Nat) : Statement (.toHost ctx node) := of_none rfl

theorem toDevice (ctx : Nat) (node : Nat) : Statement (.toDevice ctx node) := of_none rfl

theorem joinNode (ctx : Nat) (node : Nat) : Statement (.joinNode ctx node) := of_none rfl

theorem gridCopyLocalComplete (id : Nat) : Statement (.gridCopyLocalComplete id) := of_none rfl

theorem chunkArrival (k : Nat) : Statement (.chunkArrival k) := of_none rfl

theorem ctxCreate (c : CtxCreateArgs) : Statement (.ctxCreate c) := of_none rfl

theorem ctxDestroy (ctx : Nat) : Statement (.ctxDestroy ctx) := of_none rfl

theorem objInstall (c : ObjInstallArgs) : Statement (.objInstall c) := of_none rfl

theorem objRemove (ctx : Nat) (idx : Nat) : Statement (.objRemove ctx idx) := of_none rfl

theorem load (c : LoadArgs) : Statement (.load c) := of_none rfl

theorem l3Write (ctx : Nat) (index : Nat) (entry : W64) : Statement (.l3Write ctx index entry) := of_none rfl

theorem pteWrite (ctx : Nat) (entries : List PteArgs) : Statement (.pteWrite ctx entries) := of_none rfl

theorem pageState (ctx : Nat) (va : Nat) (present : Bool) : Statement (.pageState ctx va present) := of_none rfl

theorem dieMap (ctx : Nat) (map : List (Option Nat)) : Statement (.dieMap ctx map) := of_none rfl

theorem framePool (ctx : Nat) (ranges : List (Nat × Nat)) : Statement (.framePool ctx ranges) := of_none rfl

theorem nodeWrite (ctx : Nat) (idx : Nat) (desc : List Byte) : Statement (.nodeWrite ctx idx desc) := of_none rfl

theorem lqCreate (c : LqCreateArgs) : Statement (.lqCreate c) := of_none rfl

theorem bind (ctx : Nat) (obj : Nat) (node : Nat) : Statement (.bind ctx obj node) := of_none rfl

theorem peer (c : PeerArgs) : Statement (.peer c) := of_none rfl

theorem preempt (ctx : Nat) (t : Target) : Statement (.preempt ctx t) := of_none rfl

theorem resume (ctx : Nat) (t : ResumeArgs) : Statement (.resume ctx t) := of_none rfl

theorem stat (ctx : Nat) (what : StatSel) : Statement (.stat ctx what) := of_none rfl

theorem attest (nonce : List Byte) (opt : Nat) (addr : W64) : Statement (.attest nonce opt addr) := of_none rfl

theorem debug (ctx : Nat) : Statement (.debug ctx) := of_none rfl

theorem power (mw : Nat) : Statement (.power mw) := of_none rfl

theorem mbTailWrite (tail : W64) (cmds : List CmdSlot) : Statement (.mbTailWrite tail cmds) := of_none rfl

theorem doorbellWrite (d : Nat) (tail : W64) (entries : List LqEntry) : Statement (.doorbellWrite d tail entries) := of_none rfl

theorem registerWrite (off : W64) (v : W64) : Statement (.registerWrite off v) := of_none rfl

theorem submit (q : LqName) : Statement (.submit q) := of_none rfl

theorem cxlMemRead (addr : Nat) : Statement (.cxlMemRead addr) := of_none rfl

theorem cxlMemWrite (addr : Nat) (data : List Byte) : Statement (.cxlMemWrite addr data) := of_none rfl

theorem flitReceive (flit : FlitIn) (crcOk : Bool) (chunk : Option ChunkArgs) : Statement (.flitReceive flit crcOk chunk) := of_none rfl

theorem flitAck (link : Nat) (n : Nat) : Statement (.flitAck link n) := of_none rfl

theorem flitNak (link : Nat) (n : Nat) : Statement (.flitNak link n) := of_none rfl

theorem resendTimeout (link : Nat) (n : Nat) : Statement (.resendTimeout link n) := of_none rfl

theorem linkRetrain (link : Nat) : Statement (.linkRetrain link) := of_none rfl

theorem linkRetrainComplete (link : Nat) (ok : Bool) (within : Bool) : Statement (.linkRetrainComplete link ok within) := of_none rfl

theorem reset (b : BringUp) : Statement (.reset b) := of_none rfl

theorem powerAverageWindow (mw : Nat) : Statement (.powerAverageWindow mw) := of_none rfl

theorem junctionThrottle (die : Nat) : Statement (.junctionThrottle die) := of_none rfl

theorem junctionRecover (die : Nat) : Statement (.junctionRecover die) := of_none rfl

theorem dieLost (die : Nat) : Statement (.dieLost die) := of_none rfl

theorem coolantFlowLoss  : Statement .coolantFlowLoss := of_none rfl

end Sys2Proof.Laws.RoundTrip
end

