-- ==== Sys2Proof/Tests/Slice0.lean ====
section
/-! SUPPORT. The model's own tests: words of the spec and words written out from its encoding tables, ill-formed words,
single steps, and a witness for the hypotheses of each statement. -/

namespace Sys2Proof.Machine

set_option Elab.async false

/-! ## Decoding (R165 to R173, and the layout of each instruction) -/

/-- Fields under the guard `(p15)`. -/
def o (la : BitVec 4) (d a b c : BitVec 8) (imm : BitVec 32) : Ops :=
  { g := { neg := false, p := 15 }, la := la, d := d, a := a, b := b, c := c, imm := imm }

/-- Fields under another guard. -/
def og (neg : Bool) (p : BitVec 4) (la : BitVec 4) (d a b c : BitVec 8) (imm : BitVec 32) : Ops :=
  { o la d a b c imm with g := { neg := neg, p := p } }

/-- The standard modifier with every field 0. -/
def m0 : StdMod := { ty := .s32, rnd := .rn, na := false, nb := false, aa := false, ab := false, sat := false, w := false }

/-- The words decode to these instructions, which are well formed. -/
def decodes (xs : List (Nat × Instr)) : Bool :=
  xs.all fun x => decodeTableWord 96 x.1 == some x.2 && x.2.wf

/-- Words of the control family. -/
def words_control : List (Nat × Instr) := [
    (0x0001FE1E1E1E000000000000, .nop (o 0 0xF0 0xF0 0xF0 0xF0 0x0)),
    (0x0041FE1E1E1E000000000002, .bra (o 0 0xF0 0xF0 0xF0 0xF0 0x2)),
    (0x0081FE007E1E000300000140, .brx (o 0 0xF0 0x03 0xF0 0xF0 0x140) { n := 3 }),
    (0x00C1FE1E1E1E0000FFFFFFF0, .call (o 0 0xF0 0xF0 0xF0 0xF0 0xFFFFFFF0)),
    (0x0101FE185E1E00FF00000080, .callx (o 0 0xF0 0xC2 0xF0 0xF0 0x80) { n := 255 }),
    (0x0141FE1D7E1E000000000000, .ret (o 0 0xF0 0xEB 0xF0 0xF0 0x0)),
    (0x01805E1E1E1E000000000000, .exit (og false 2 0 0xF0 0xF0 0xF0 0xF0 0x0)),
    (0x01C1FE189E1E000000000000, .reconv (o 0 0xF0 0xC4 0xF0 0xF0 0x0)),
    (0x02023E1E1E1E000000000000, .yield (og true 1 0 0xF0 0xF0 0xF0 0xF0 0x0)),
    (0x0241FE1FFE1E000200000080, .bar (o 0 0xF0 0xFF 0xF0 0xF0 0x80) { i := 2 }),
    (0x0281FE18BE1E000300000000, .cbar (o 0 0xF0 0xC5 0xF0 0xF0 0x0) { i := 3 }),
    (0x02C1FE1E1E1E000000000007, .trap (o 0 0xF0 0xF0 0xF0 0xF0 0x7)),
    (0x0301FE1E1E1E000000000001, .bkpt (o 0 0xF0 0xF0 0xF0 0xF0 0x1)),
    (0x0341E01E1E1E000000000000, .elect (o 0 0x00 0xF0 0xF0 0xF0 0x0)),
    (0x0381FE1E1E1E000100000000, .hret (o 0 0xF0 0xF0 0xF0 0xF0 0x0) { b := true })]

theorem test_decode_control : decodes words_control = true := by decide +kernel

/-- Words of the integer family. -/
def words_integer : List (Nat × Instr) := [
    (0x100040205FFE000000000007, .iadd (og false 2 0 0x01 0x02 0xFF 0xF0 0x7) m0),
    (0x1041E04080DE041200000000, .isub (o 0 0x02 0x04 0x06 0xF0 0x0) { m0 with ty := .s64, nb := true, sat := true }),
    (0x1081E0E0207E000000000000, .imul (o 0 0x07 0x01 0x03 0xF0 0x0) m0),
    (0x10C1E038407E020000000000, .imulh (o 0 0x01 0xC2 0x03 0xF0 0x0) { m0 with ty := .ui32 }),
    (0x1101E0204060942000000000, .imad (o 0 0x01 0x02 0x03 0x04 0x0) { m0 with ty := .s16, na := true }),
    (0x1141E2802040C20000000000, .imadw (o 0 0x14 0x01 0x02 0x06 0x0) { m0 with ty := .ui32 }),
    (0x1189E060205E000000000000, .idiv (o 2 0x03 0x01 0x02 0xF0 0x0) m0),
    (0x11FDE060205E020000000000, .irem (o 15 0x03 0x01 0x02 0xF0 0x0) { m0 with ty := .ui32 }),
    (0x1201E0205E1E180000000000, .iabs (o 0 0x01 0x02 0xF0 0xF0 0x0) { m0 with ty := .s8 }),
    (0x1241F8385E1E040000000000, .ineg (o 0 0xC1 0xC2 0xF0 0xF0 0x0) { m0 with ty := .s64 }),
    (0x1281E020407E1A0000000000, .imin (o 0 0x01 0x02 0x03 0xF0 0x0) { m0 with ty := .ui8 }),
    (0x12C1E0205FFE0000FFFFFFFF, .imax (o 0 0x01 0x02 0xFF 0xF0 0xFFFFFFFF) m0),
    (0x1301E020407E008000000000, .icmp (o 0 0x01 0x02 0x03 0xF0 0x0) { ty := .s32, cmp := .lt, na := false, nb := false, aa := false, ab := false, comb := .none }),
    (0x1301E040BFE0200300000000, .icmp (o 0 0x02 0x05 0xFF 0x01 0x0) { ty := .s32, cmp := .eq, na := false, nb := false, aa := false, ab := false, comb := .xor }),
    (0x1341E0204060820000000000, .isel (o 0 0x01 0x02 0x03 0x04 0x0) { m0 with ty := .ui32 }),
    (0x1381E0204060980000000000, .idp4 (o 0 0x01 0x02 0x03 0x04 0x0) { m0 with ty := .s8 })]

theorem test_decode_integer : decodes words_integer = true := by decide +kernel

/-- Words of the logic family. -/
def words_logic : List (Nat × Instr) := [
    (0x1401E020407E020000000000, .andB (o 0 0x01 0x02 0x03 0xF0 0x0) { m0 with ty := .ui32 }),
    (0x1441E020407E020000000000, .orB (o 0 0x01 0x02 0x03 0xF0 0x0) { m0 with ty := .ui32 }),
    (0x1481E020407E020000000000, .xorB (o 0 0x01 0x02 0x03 0xF0 0x0) { m0 with ty := .ui32 }),
    (0x14C1E0409E1E060000000000, .notB (o 0 0x02 0x04 0xF0 0xF0 0x0) { m0 with ty := .ui64 }),
    (0x1501E02040608200000000E8, .lop3 (o 0 0x01 0x02 0x03 0x04 0xE8) { m0 with ty := .ui32 }),
    (0x1541E0205FFE020000000005, .shl (o 0 0x01 0x02 0xFF 0xF0 0x5) { m0 with ty := .ui32 }),
    (0x1581E0205FFE020000000005, .shr (o 0 0x01 0x02 0xFF 0xF0 0x5) { m0 with ty := .ui32 }),
    (0x15C1E0205FFE000000000005, .sar (o 0 0x01 0x02 0xFF 0xF0 0x5) m0),
    (0x1601E0205FFE020000000005, .rot (o 0 0x01 0x02 0xFF 0xF0 0x5) { m0 with ty := .ui32 }),
    (0x1641E0204078820000000000, .fshf (o 0 0x01 0x02 0x03 0xC4 0x0) { m0 with ty := .ui32 }),
    (0x1681E0205E1E020000000000, .popc (o 0 0x01 0x02 0xF0 0xF0 0x0) { m0 with ty := .ui32 }),
    (0x16C1E0409E1E060000000000, .clz (o 0 0x02 0x04 0xF0 0xF0 0x0) { m0 with ty := .ui64 }),
    (0x1701F8385E1E020000000000, .brev (o 0 0xC1 0xC2 0xF0 0xF0 0x0) { m0 with ty := .ui32 }),
    (0x1741E0205FFE000000000804, .bfe (o 0 0x01 0x02 0xFF 0xF0 0x804) m0),
    (0x1781E020407FE20000000804, .bfi (o 0 0x01 0x02 0x03 0xFF 0x804) { m0 with ty := .ui32 }),
    (0x17C1E020407FE20000003210, .prmt (o 0 0x01 0x02 0x03 0xFF 0x3210) { m0 with ty := .ui32 })]

theorem test_decode_logic : decodes words_logic = true := by decide +kernel

/-- Words of the moves family. -/
def words_moves : List (Nat × Instr) := [
    (0x1801E0589E1E060000000000, .mov (o 0 0x02 0xC4 0xF0 0xF0 0x0) { m0 with ty := .ui64 }),
    (0x1841F83E1E1E0601093D5803, .movi (o 0 0xC1 0xF0 0xF0 0xF0 0x93D5803) { m0 with ty := .ui64, w := true }),
    (0x1881F8609FFE020000000005, .movs (o 0 0xC3 0x04 0xFF 0xF0 0x5) { m0 with ty := .ui32 }),
    (0x18C06038FE1E020000000000, .pset (og false 3 0 0x01 0xC7 0xF0 0xF0 0x0) { m0 with ty := .ui32 }),
    (0x1901E0204060800000000096, .plop (o 0 0x01 0x02 0x03 0x04 0x96)),
    (0x1941E03E1E1E000000000000, .ptov (o 0 0x01 0xF0 0xF0 0xF0 0x0)),
    (0x1981FE005E1E000000007FFF, .vtop (o 0 0xF0 0x02 0xF0 0xF0 0x7FFF)),
    (0x1C01F97858FE000000000000, .capadd (o 0 0xCB 0xC2 0xC7 0xF0 0x0) { mask := 0 }),
    (0x1C41F8785E1E000300000000, .capnar (o 0 0xC3 0xC2 0xF0 0xF0 0x0) { mask := 3 }),
    (0x1C81E09840DE000000000000, .capoff (o 0 0x04 0xC2 0x06 0xF0 0x0) { mask := 0 }),
    (0x1CC1F8B81E1E000000000000, .capobj (o 0 0xC5 0xC0 0xF0 0xF0 0x0) { mask := 0 }),
    (0x1D01E0205FFE000900000040, .capchk (o 0 0x01 0x02 0xFF 0xF0 0x40) { mask := 9 })]

theorem test_decode_moves : decodes words_moves = true := by decide +kernel

/-- Words of the float family. -/
def words_float : List (Nat × Instr) := [
    (0x4001E080A0DE084000000000, .fadd (o 0 0x04 0x05 0x06 0xF0 0x0) { m0 with ty := .f32, rnd := .rz }),
    (0x4041E080A0DE088400000000, .fsub (o 0 0x04 0x05 0x06 0xF0 0x0) { m0 with ty := .f32, rnd := .ru, ab := true }),
    (0x4081E100809E080000000000, .fmul (o 0 0x08 0x04 0x04 0xF0 0x0) { m0 with ty := .f32 }),
    (0x40C1E080A0C0E80000000000, .ffma (o 0 0x04 0x05 0x06 0x07 0x0) { m0 with ty := .f32 }),
    (0x4101E080A0DE080000000000, .fmin (o 0 0x04 0x05 0x06 0xF0 0x0) { m0 with ty := .f32 }),
    (0x4141E080BFFE08083F800000, .fmax (o 0 0x04 0x05 0xFF 0xF0 0x3F800000) { m0 with ty := .f32, aa := true }),
    (0x4181E020407E088000000000, .fcmp (o 0 0x01 0x02 0x03 0xF0 0x0) { ty := .f32, cmp := .lt, na := false, nb := false, aa := false, ab := false, comb := .none }),
    (0x4181E020406069E100000000, .fcmp (o 0 0x01 0x02 0x03 0x03 0x0) { ty := .f32, cmp := .ord, na := true, nb := false, aa := false, ab := false, comb := .and }),
    (0x41C1E0205E1E08C000000000, .frnd (o 0 0x01 0x02 0xF0 0xF0 0x0) { m0 with ty := .f32, rnd := .rd }),
    (0x4201E0205E1E080000000000, .fclass (o 0 0x01 0x02 0xF0 0xF0 0x0) { m0 with ty := .f32 }),
    (0x4241E020407E080000000000, .fscale (o 0 0x01 0x02 0x03 0xF0 0x0) { m0 with ty := .f32 }),
    (0x4401E060205E0C0000000000, .hadd2 (o 0 0x03 0x01 0x02 0xF0 0x0) { m0 with ty := .bf16 }),
    (0x4441E060205E0A0200000000, .hmul2 (o 0 0x03 0x01 0x02 0xF0 0x0) { m0 with ty := .f16, sat := true }),
    (0x4481E06020408A0000000000, .hfma2 (o 0 0x03 0x01 0x02 0x04 0x0) { m0 with ty := .f16 }),
    (0x4601E04080DE0E0000000000, .dadd (o 0 0x02 0x04 0x06 0xF0 0x0) { m0 with ty := .f64 }),
    (0x4641E04080DE0E2000000000, .dmul (o 0 0x02 0x04 0x06 0xF0 0x0) { m0 with ty := .f64, na := true }),
    (0x4681E14181C20E0000000000, .dfma (o 0 0x0A 0x0C 0x0E 0x10 0x0) { m0 with ty := .f64 }),
    (0x4801E0403E1E0A1000000000, .cvt (o 0 0x02 0x01 0xF0 0xF0 0x0) { dty := .f16, rnd := .rn, sty := .f32, sat := false, w := false }),
    (0x4849E0C0A0E0C01400000000, .cvtn (o 2 0x06 0x05 0x07 0x06 0x0) { fmt := .e4m3, expand := false, rnd := .rn, sel := 2, sc := true }),
    (0x4881E080407E0C5200000000, .cvtw (o 0 0x04 0x02 0x03 0xF0 0x0) { dty := .bf16, rnd := .rz, sty := .f32, sat := true, w := false }),
    (0x48C5E0E09E1E000000000000, .qscale (o 1 0x07 0x04 0xF0 0xF0 0x0) { fmt := .e4m3 }),
    (0x500DE1211E1E080000000000, .rcp (o 3 0x09 0x08 0xF0 0xF0 0x0) { m0 with ty := .f32 }),
    (0x504DE1211E1E080000000000, .rsq (o 3 0x09 0x08 0xF0 0xF0 0x0) { m0 with ty := .f32 }),
    (0x508DE1211E1E080000000000, .sqrt (o 3 0x09 0x08 0xF0 0xF0 0x0) { m0 with ty := .f32 }),
    (0x50CDE1211E1E080000000000, .ex2 (o 3 0x09 0x08 0xF0 0xF0 0x0) { m0 with ty := .f32 }),
    (0x510DE1211E1E080000000000, .lg2 (o 3 0x09 0x08 0xF0 0xF0 0x0) { m0 with ty := .f32 }),
    (0x514DE1211E1E080000000000, .sin (o 3 0x09 0x08 0xF0 0xF0 0x0) { m0 with ty := .f32 }),
    (0x518DE1211E1E080000000000, .cos (o 3 0x09 0x08 0xF0 0xF0 0x0) { m0 with ty := .f32 }),
    (0x51C1E020407E081000000000, .fdiv (o 0 0x01 0x02 0x03 0xF0 0x0) { m0 with ty := .f32, nb := true }),
    (0x5801E07E1E1E000000000000, .flagr (o 0 0x03 0xF0 0xF0 0xF0 0x0)),
    (0x5841FE1FFE1E0000000001FF, .flagc (o 0 0xF0 0xFF 0xF0 0xF0 0x1FF))]

theorem test_decode_float : decodes words_float = true := by decide +kernel

/-- Words of the sli family. -/
def words_sli : List (Nat × Instr) := [
    (0x6011E060205E100000000000, .liadd (o 4 0x03 0x01 0x02 0xF0 0x0) { m0 with ty := .sli32 }),
    (0x6051E060205E100000000000, .lisub (o 4 0x03 0x01 0x02 0xF0 0x0) { m0 with ty := .sli32 }),
    (0x6091E060205E100000000000, .limul (o 4 0x03 0x01 0x02 0xF0 0x0) { m0 with ty := .sli32 }),
    (0x60D1E060205E100000000000, .lidiv (o 4 0x03 0x01 0x02 0xF0 0x0) { m0 with ty := .sli32 }),
    (0x6101E060205E134000000000, .licmp (o 0 0x03 0x01 0x02 0xF0 0x0) { ty := .sli16, cmp := .ge, na := false, nb := false, aa := false, ab := false, comb := .none }),
    (0x6181E0203E1E100000000000, .lircp (o 0 0x01 0x01 0xF0 0xF0 0x0) { m0 with ty := .sli32 }),
    (0x61C1E0203E1E100000000000, .liexp (o 0 0x01 0x01 0xF0 0xF0 0x0) { m0 with ty := .sli32 }),
    (0x6201E0203E1E100000000000, .liln (o 0 0x01 0x01 0xF0 0xF0 0x0) { m0 with ty := .sli32 }),
    (0x6241E0A09E1E082000000000, .licvt (o 0 0x05 0x04 0xF0 0xF0 0x0) { dty := .f32, rnd := .rn, sty := .sli32, sat := false, w := false }),
    (0x6241E03FFE1E10104447C000, .licvt (o 0 0x01 0xFF 0xF0 0xF0 0x4447C000) { dty := .sli32, rnd := .rn, sty := .f32, sat := false, w := false }),
    (0x6281E0205E1E100000000000, .lilvl (o 0 0x01 0x02 0xF0 0xF0 0x0) { m0 with ty := .sli32 })]

theorem test_decode_sli : decodes words_sli = true := by decide +kernel

/-- Words of the crosslane family. -/
def words_crosslane : List (Nat × Instr) := [
    (0x8001E0A09FF8980000000001, .shfl (o 0 0x05 0x04 0xFF 0xC4 0x1) { mode := 3, wrel := false, b64 := false }),
    (0x8001E0A09FF8940000000001, .shfl (o 0 0x05 0x04 0xFF 0xC4 0x1) { mode := 2, wrel := true, b64 := false }),
    (0x8041E1211E18880000000000, .qxch (o 0 0x09 0x08 0xF0 0xC4 0x0) { mode := 1, wrel := false, b64 := false }),
    (0x8081E1211FF8800000000002, .qbc (o 0 0x09 0x08 0xFF 0xC4 0x2) { mode := 0, wrel := false, b64 := false }),
    (0x80C1F8C03E18980000000000, .vote (o 0 0xC6 0x01 0xF0 0xC4 0x0) { mode := 3, np := false, b64 := false }),
    (0x8101E1405E18800000000000, .matchB (o 0 0x0A 0x02 0xF0 0xC4 0x0) { mode := 0, np := false, b64 := false }),
    (0x8151E0E0DE18880000000000, .red (o 4 0x07 0x06 0xF0 0xC4 0x0) { ty := .f32, op := .add, excl := false }),
    (0x8181E0605E18802000000000, .scan (o 0 0x03 0x02 0xF0 0xC4 0x0) { ty := .s32, op := .add, excl := true }),
    (0x81C1E2005E1E000100000000, .regroup (o 0 0x10 0x02 0xF0 0xF0 0x0) { c := 1 }),
    (0x8201F8FE1E1E040000000000, .lanemask (o 0 0xC7 0xF0 0xF0 0xF0 0x0) { sel := 1 })]

theorem test_decode_crosslane : decodes words_crosslane = true := by decide +kernel

/-- Words of the memory family. -/
def words_memory : List (Nat × Instr) := [
    (0xA001E0403E1E006000000006, .lds (o 0 0x02 0x01 0xF0 0xF0 0x6) { scope := .lane, kind := .plain, size := 1, sx := true, op := .add }),
    (0xA041FE00204080C000000008, .sts (o 0 0xF0 0x01 0x02 0x04 0x8) { scope := .lane, kind := .plain, size := 3, sx := false, op := .add }),
    (0xA089E118C13E008000000000, .ldl (o 2 0x08 0xC6 0x09 0xF0 0x0) { scope := .lane, kind := .plain, size := 2, sx := false, op := .add }),
    (0xA0C1FE18DE00968000000000, .stl (o 0 0xF0 0xC6 0xF0 0x04 0x0) { scope := .device, kind := .release, size := 2, sx := false, op := .add }),
    (0xA101E0403E1E008000000004, .ldk (o 0 0x02 0x01 0xF0 0xF0 0x4) { scope := .lane, kind := .plain, size := 2, sx := false, op := .add }),
    (0xA141FE003E0040C000000000, .stk (o 0 0xF0 0x01 0xF0 0x02 0x0) { scope := .lane, kind := .plain, size := 3, sx := false, op := .add }),
    (0xA201E0403E00688000000004, .atms (o 0 0x02 0x01 0xF0 0x03 0x4) { scope := .group, kind := .plain, size := 2, sx := false, op := .add }),
    (0xA241E058C0209BD000000000, .atml (o 0 0x02 0xC6 0x01 0x04 0x0) { scope := .system, kind := .acqRel, size := 3, sx := false, op := .exch }),
    (0xA281E0402060898000000000, .cass (o 0 0x02 0x01 0x03 0x04 0x0) { scope := .group, kind := .acquire, size := 2, sx := false, op := .add }),
    (0xA2C5E0D8C080B48000000000, .casl (o 1 0x06 0xC6 0x04 0x05 0x0) { scope := .device, kind := .plain, size := 2, sx := false, op := .add }),
    (0xA301FE1E1E1E160000000000, .fence (o 0 0xF0 0xF0 0xF0 0xF0 0x0) { scope := .device, kind := .release })]

theorem test_decode_memory : decodes words_memory = true := by decide +kernel

/-- Words of the engines family. -/
def words_engines : List (Nat × Instr) := [
    (0xC001F958D8F9000000000000, .cpy (o 0 0xCA 0xC6 0xC7 0xC8 0x0) { ctx := 0, recGen := false, sameGen := false }),
    (0xC041F998D8FFE1C000000005, .cpyg (o 0 0xCC 0xC6 0xC7 0xFF 0x5) { ctx := 3, recGen := true, sameGen := false }),
    (0xC081F998D8FFFFA000000005, .cpyx (o 0 0xCC 0xC6 0xC7 0xFF 0x5) { ctx := 63, recGen := false, sameGen := true }),
    (0xC0C1F918BE1E000000000060, .cueb (o 0 0xC8 0xC5 0xF0 0xF0 0x60) { b := false }),
    (0xC101FE191E1E000000000000, .cuef (o 0 0xF0 0xC8 0xF0 0xF0 0x0)),
    (0xC141FE18DFF8E00000000040, .ringi (o 0 0xF0 0xC6 0xFF 0xC7 0x40)),
    (0xC181E099015E000300000000, .ringw (o 0 0x04 0xC8 0x0A 0xF0 0x0) { k := 3 }),
    (0xC1C1FE19015E000000000000, .ringr (o 0 0xF0 0xC8 0x0A 0xF0 0x0)),
    (0xC201FE195E1E000000000000, .fwait (o 0 0xF0 0xCA 0xF0 0xF0 0x0)),
    (0xC241E0595E1E000100000000, .ftest (o 0 0x02 0xCA 0xF0 0xF0 0x0) { b := true }),
    (0xC281E0395E1E000000000000, .fcancel (o 0 0x01 0xCA 0xF0 0xF0 0x0)),
    (0xC2C1E058DE1E000000000000, .tlrdCnt (o 0 0x02 0xC6 0xF0 0xF0 0x0)),
    (0xC2C1E058DE1E000100000000, .tlrdName (o 0 0x02 0xC6 0xF0 0xF0 0x0)),
    (0xC301FE18D8FE000000000000, .tlwait (o 0 0xF0 0xC6 0xC7 0xF0 0x0)),
    (0xC341F958D8F9005000000000, .redst (o 0 0xCA 0xC6 0xC7 0xC8 0x0) { ctx := 0, tag := true, ty := .f32, op := .add }),
    (0xC381E0591E1E000000000000, .ringpTake (o 0 0x02 0xC8 0xF0 0xF0 0x0)),
    (0xC381FE19005E000100000000, .ringpFill (o 0 0xF0 0xC8 0x02 0xF0 0x0)),
    (0xC3C1FE1FFE1E00000000000C, .signal (o 0 0xF0 0xFF 0xF0 0xF0 0xC))]

theorem test_decode_engines : decodes words_engines = true := by decide +kernel

/-- Words of the matrix family. -/
def words_matrix : List (Nat × Instr) := [
    (0xE0000078BE1E000000000000, .mma (og false 0 0 0x03 0xC5 0xF0 0xF0 0x0)),
    (0xE0400018BE1E000000000040, .mmab (og false 0 0 0x00 0xC5 0xF0 0xF0 0x40)),
    (0xE0800058BE1E000000000000, .mmad (og false 0 0 0x02 0xC5 0xF0 0xF0 0x0)),
    (0xE0C1E07E1E1E000000000000, .accz (o 0 0x03 0xF0 0xF0 0xF0 0x0)),
    (0xE101E41E1E1E080000000003, .acco (o 0 0x20 0xF0 0xF0 0xF0 0x3) { m0 with ty := .f32 }),
    (0xE141E0641E1E080000000000, .acci (o 0 0x03 0x20 0xF0 0xF0 0x0) { m0 with ty := .f32 }),
    (0xE181E418DE1E0C0100000003, .accg (o 0 0x20 0xC6 0xF0 0xF0 0x3) { m0 with ty := .bf16, w := true }),
    (0xF001F958D8FE004000000000, .cross (o 0 0xCA 0xC6 0xC7 0xF0 0x0) { ctx := 0, loft := true, keepy := false }),
    (0xF041F958B8FE088000000000, .crossb (o 0 0xCA 0xC5 0xC7 0xF0 0x0) { ctx := 17, loft := false, keepy := false }),
    (0xF081F998DFFE000000000005, .xbank (o 0 0xCC 0xC6 0xFF 0xF0 0x5) { ctx := 0 }),
    (0xF0C1F93E1E1E010000000000, .xstat (o 0 0xC9 0xF0 0xF0 0xF0 0x0) { sel := 0, clr := true }),
    (0xF801F9205FF8C00000000004, .emit (o 0 0xC9 0x02 0xFF 0xC6 0x4)),
    (0xF881E0BE1E1E000000000000, .rand (o 0 0x05 0xF0 0xF0 0xF0 0x0)),
    (0xF8C1F938BE1E000000000003, .mode (o 0 0xC9 0xC5 0xF0 0xF0 0x3)),
    (0xF901F93E1E1E000300000000, .cover (o 0 0xC9 0xF0 0xF0 0xF0 0x0) { all := true, clr := true }),
    (0xF941E09E1E1E000000000000, .clock (o 0 0x04 0xF0 0xF0 0xF0 0x0))]

theorem test_decode_matrix : decodes words_matrix = true := by decide +kernel

/-! ## Ill-formed words and events: one for each check of WellFormed (R166 to R178) -/

/-- A memory modifier of lane scope, plain and of 4 bytes. -/
def mm : MemMod := { scope := .lane, kind := .plain, size := 2, sx := false, op := .add }

/-- A comparison for equality without COMB. -/
def mc : CmpMod := { ty := .s32, cmp := .eq, na := false, nb := false, aa := false, ab := false, comb := .none }

/-- Register fields that their kind refuses, lookahead and immediates out of place. -/
theorem test_fields_refused : [
    .nop (o 0 0 0xF0 0xF0 0xF0 0), .iadd (o 0 0xFA 1 2 0xF0 0) m0, .iadd (o 0 1 0xFA 2 0xF0 0) m0,
    .iadd (o 0 1 3 2 0xF0 0) { m0 with ty := .s64 }, .lop3 (o 0 1 0xFF 2 3 0) { m0 with ty := .ui32 },
    .lop3 (o 0 2 4 6 5 0) { m0 with ty := .ui64 }, .ret (o 0 0xF0 3 0xF0 0xF0 0), .ret (o 0 0xF0 0xFF 0xF0 0xF0 0),
    .imadw (o 0 4 1 2 0xF1 0) m0, .cpy (o 0 0xC1 3 0xC2 0xC3 0) { ctx := 0, recGen := false, sameGen := false },
    .reconv (o 0 0xF0 4 0xF0 0xF0 0), .cuef (o 0 0xF0 4 0xF0 0xF0 0), .bar (o 0 0xF0 4 0xF0 0xF0 0) { i := 0 },
    .mode (o 0 1 4 0xF0 0xF0 0), .movs (o 0 0xC1 0xC2 0xC3 0xF0 0) { m0 with ty := .ui32 },
    .movs (o 0 0xC1 3 0xC3 0xF0 0) { m0 with ty := .ui64 }, .sts (o 0 0xF0 1 0xF0 0xFF 0) mm,
    .elect (o 0 16 0xF0 0xF0 0xF0 0), .qbc (o 0 1 2 3 0xC4 0) { mode := 0, wrel := false, b64 := false },
    .iadd (o 0 0xFF 1 2 0xF0 0) m0, .dadd (o 0 3 4 6 0xF0 0) { m0 with ty := .f64 }, .rand (o 0 0xC1 0xF0 0xF0 0xF0 0),
    .red (o 0 3 4 0xF0 0xC4 0) { ty := .s64, op := .add, excl := false }, .cueb (o 0 1 2 0xF0 0xF0 0) { b := false },
    .emit (o 0 1 2 3 0xF0 0), .regroup (o 0 0xBF 2 0xF0 0xF0 0) { c := 1 }, .acci (o 0 0 0xB1 0xF0 0xF0 0) { m0 with ty := .f32 },
    .redst (o 0 0xEF 0xC1 0xC2 0xC3 0) { ctx := 0, tag := true, ty := .f32, op := .add }, .accz (o 0 32 0xF0 0xF0 0xF0 0),
    .iadd (o 1 1 2 3 0xF0 0) m0, .iadd (o 0 1 2 3 0xF0 7) m0, .trap (o 0 0xF0 0xF0 0xF0 0xF0 0x10000),
    .exit (o 0 0xF0 0xF0 0xF0 0xF0 1), .vtop (o 0 0xF0 2 0xF0 0xF0 0x10000)].all (fun i : Instr => !i.wf) = true := by
  decide +kernel

/-- Modifiers that an instruction does not take. -/
theorem test_modifiers_refused : [
    .brx (o 0 0xF0 3 0xF0 0xF0 0x40) { n := 0 }, .callx (o 0 0xF0 3 0xF0 0xF0 1) { n := 1 }, .cbar (o 0 0xF0 0xF0 0xF0 0xF0 0) { i := 4 },
    .iadd (o 0 1 2 3 0xF0 0) { m0 with ty := .f32 }, .imulh (o 0 1 2 3 0xF0 0) { m0 with sat := true },
    .imadw (o 0 2 3 4 6 0) { m0 with na := true }, .idiv (o 0 1 2 3 0xF0 0) { m0 with ty := .s16 }, .irem (o 0 1 2 3 0xF0 0) { m0 with sat := true },
    .iabs (o 0 1 2 0xF0 0xF0 0) { m0 with ty := .ui32 }, .ineg (o 0 1 2 0xF0 0xF0 0) { m0 with na := true },
    .imin (o 0 1 2 3 0xF0 0) { m0 with sat := true }, .icmp (o 0 1 2 3 0xF0 0) { mc with cmp := .un }, .isel (o 0 1 2 3 4 0) { m0 with na := true },
    .idp4 (o 0 1 2 3 4 0) m0, .andB (o 0 1 2 3 0xF0 0) m0, .sar (o 0 1 2 3 0xF0 0) { m0 with ty := .ui32 },
    .rot (o 0 1 2 3 0xF0 0) m0, .bfe (o 0 1 2 3 0xF0 0) { m0 with w := true }, .prmt (o 0 1 2 3 4 0) m0, .mov (o 0 1 2 0xF0 0xF0 0) { m0 with rnd := .rz },
    .movi (o 0 1 0xF0 0xF0 0xF0 0) { m0 with w := true }, .pset (o 0 1 2 0xF0 0xF0 0) m0, .capadd (o 0 0xC1 0xC2 0xC3 0xF0 0) { mask := 1 },
    .fadd (o 0 1 2 3 0xF0 0) m0, .fmin (o 0 1 2 3 0xF0 0) { m0 with ty := .f32, rnd := .rz }, .fcmp (o 0 1 2 3 0xF0 0) mc,
    .frnd (o 0 1 2 0xF0 0xF0 0) { m0 with ty := .f32, sat := true }, .fscale (o 0 1 2 3 0xF0 0) { m0 with ty := .f32, nb := true },
    .fclass (o 0 1 2 0xF0 0xF0 0) { m0 with ty := .f32, w := true }, .hadd2 (o 0 1 2 3 0xF0 0) { m0 with ty := .f32 },
    .dadd (o 0 2 4 6 0xF0 0) { m0 with ty := .f32 }, .cvt (o 0 1 2 0xF0 0xF0 0) { dty := .sli32, rnd := .rn, sty := .f32, sat := false, w := false },
    .cvtw (o 0 1 2 3 0xF0 0) { dty := .f32, rnd := .rn, sty := .f32, sat := false, w := false },
    .cvtn (o 0 1 2 0xF0 4 0) { fmt := .e4m3, expand := false, rnd := .rn, sel := 4, sc := false },
    .sin (o 0 1 2 0xF0 0xF0 0) { m0 with ty := .f32, rnd := .rz }, .fdiv (o 0 1 2 3 0xF0 0) { m0 with ty := .f32, rnd := .rz },
    .liadd (o 0 1 2 3 0xF0 0) { m0 with ty := .f32 }, .licmp (o 0 1 2 3 0xF0 0) mc, .liexp (o 0 1 2 0xF0 0xF0 0) { m0 with ty := .sli32, sat := true },
    .licvt (o 0 1 2 0xF0 0xF0 0) { dty := .f32, rnd := .rn, sty := .f16, sat := false, w := false },
    .shfl (o 0 1 2 0xFF 0xC4 0) { mode := 0, wrel := true, b64 := false }, .qxch (o 0 1 2 0xF0 0xC4 0) { mode := 0, wrel := false, b64 := false },
    .qbc (o 0 1 2 0xFF 0xC4 0) { mode := 1, wrel := false, b64 := false }, .vote (o 0 1 2 0xF0 0xC4 0) { mode := 0, np := false, b64 := true },
    .matchB (o 0 2 2 0xF0 0xC4 0) { mode := 2, np := false, b64 := false }, .red (o 0 1 2 0xF0 0xC4 0) { ty := .f32, op := .xor, excl := false },
    .scan (o 0 1 2 0xF0 0xC4 0) { ty := .f16, op := .add, excl := false }, .lanemask (o 0 0xC1 0xF0 0xF0 0xF0 0) { sel := 7 }].all (fun i : Instr => !i.wf) = true := by
  decide +kernel

/-- Modifiers of memory, engine and matrix instructions, an assigned opcode, and events of parts that do not exist. -/
theorem test_more_refused : [
    .lds (o 0 1 2 0xF0 0xF0 0) { mm with kind := .release }, .lds (o 0 1 2 0xF0 0xF0 0) { mm with scope := .group },
    .ldl (o 0 2 0xC1 0xF0 0xF0 0) { mm with size := 3, sx := true }, .stl (o 0 0xF0 0xC1 0xF0 2 0) { mm with kind := .acquire },
    .sts (o 0 0xF0 1 0xF0 2 0) { mm with sx := true }, .ldk (o 0 1 2 0xF0 0xF0 0) { mm with size := 1 },
    .stk (o 0 0xF0 1 0xF0 2 0) { mm with kind := .release }, .atms (o 0 1 2 0xF0 3 0) { mm with size := 0 },
    .casl (o 0 1 0xC2 3 4 0) { mm with op := .xor }, .fence (o 0 0xF0 0xF0 0xF0 0xF0 0) { scope := .group, kind := .plain },
    .cpy (o 0 0xC1 0xC2 0xC3 0xFF 256) { ctx := 0, recGen := false, sameGen := false },
    .redst (o 0 0xC1 0xC2 0xC3 0xC4 0) { ctx := 0, tag := false, ty := .f16, op := .add }, .signal (o 0 0xF0 0xFF 0xF0 0xF0 0x10000),
    .acco (o 0 1 0xF0 0xF0 0xF0 0) { m0 with ty := .f32, w := true }, .acci (o 0 1 2 0xF0 0xF0 0) { m0 with ty := .f32, sat := true },
    .accg (o 0 1 0xC2 0xF0 0xF0 0) m0, .crossb (o 0 0xC1 2 0xC3 0xF0 0) { ctx := 0, loft := false, keepy := true },
    .xbank (o 0 0xC1 0xC2 0xFF 0xF0 0x800) { ctx := 0 }, .xstat (o 0 0xC1 0xFF 0xF0 0xF0 0) { sel := 7, clr := false },
    .xstat (o 0 0xC1 0xF0 0xF0 0xF0 0) { sel := 4, clr := true }, .unassignedOpcode 0x040,
    .matrixEntryExecute 8 0, .callboardDispatch 0 [72], .restore 0 [72], .doorbellWrite 1024 0 [], .submit ⟨1, 256⟩, .cxlMemRead (2 ^ 41),
    .cxlMemWrite 0 [], .flitAck 16 0, .lineFetchComplete 0 [512], .reset ⟨[{ die := 0, core := 0, quadrant := 4 }], none⟩,
    .dieLost 8].all (fun i : Instr => !i.wf) = true := by
  decide +kernel

/-- Words whose modifier codes name nothing are refused by the decoder: rounding 5, scope 7, a reserved bit, operation
12 of an atomic, comparison and reduction codes. -/
theorem test_codes_refused : [0x4001E080A0DE094000000000, 0xA301FE1E1E1E1E0000000000, 0x0001FE1E1E1E000100000000,
    0xA201E0403E00689800000004, 0x8141E0E0DE18818000000000].all (fun w => (decodeTableWord 96 w).isNone) = true := by
  decide +kernel

/-- A kernel's limits: v-registers from `.vregs` on, a pair across it, s-registers from `.sregs` to s42 (R168). -/
theorem test_limits_refused : [o 0 8 1 2 0xF0 0, o 0 1 0xC4 2 0xF0 0, o 0 1 0xEA 2 0xF0 0].all
      (fun x => !x.inRange (formOf (.iadd x m0)) 8 4) = true
    ∧ (o 0 6 0xEB 2 0xF0 0).inRange (formOf (.iadd (o 0 6 0xEB 2 0xF0 0) m0)) 8 4 = true
    ∧ (o 0 6 4 2 0xF0 0).inRange (formOf (.dadd (o 0 6 4 2 0xF0 0) m0)) 7 4 = false := by
  decide +kernel

/-! ## Small states -/

/-- A kernel of one group of one warp, 64 real lanes at PC 0, after changes to its warp, group, context and
descriptor; the instruction issues to the lanes of `m`. -/
def at_ (wf : Warp → Warp) (gf : Group → Group := id) (cf : Ctx → Ctx := id) (df : Desc → Desc := id) (m : W64 := 0x8000000000000225) :
    State :=
  let s := State.reset.withFetchWord 96 0
  let s := (s.modGroup 0 fun g => gf (g.modWarp 0 wf)).modCtx 1 fun c => cf { c with nodes := mapMod c.nodes 0 fun n =>
    { n with desc := df n.desc } }
  { s with agenda := [], issue := some { gid := 0, warp := 0, lanes := m, pc := 0, snap := s.warp 0 0, busy := m, cycle := 0, out := 0, pre := [] } }

/-- The state with nothing changed. -/
def start : State := at_ id

/-- The state with v-registers set in every lane: register and value, which may depend on the lane. -/
def withV (rs : List (Nat × (Nat → W32))) (w : Warp) : Warp :=
  w.modLanes (BitVec.allOnes 64) fun l x => rs.foldl (fun x r => x.setV r.1 (r.2 l)) x

/-- S-registers set. -/
def withS (rs : List (Nat × W64)) (w : Warp) : Warp := rs.foldl (fun w r => w.put 0 (.s r.1) r.2 false) w

/-- What is tested of the next state. -/
def gives (i : Instr) (s : State) (p : State → Bool) : Bool :=
  match exec i s with
  | .next t => p t
  | _ => false

/-- A v-register of a lane, and an s-register, after an instruction. -/
def givesV (i : Instr) (s : State) (l n : Nat) (v : W32) : Bool := gives i s fun t => ((t.warp 0 0).lane l).getV n == v
def givesS (i : Instr) (s : State) (n : Nat) (v : W64) : Bool := gives i s fun t => (t.warp 0 0).getS n == v
def givesP (i : Instr) (s : State) (l n : Nat) (v : Bool) : Bool := gives i s fun t => ((t.warp 0 0).lane l).getP n == v

/-- The value in the newest window of a lane. -/
def opensV (i : Instr) (s : State) (l : Nat) (v : W64) : Bool :=
  gives i s fun t => (((t.warp 0 0).lane l).windows.getLast?.map (·.val)) == some v

/-- The instruction ends the grid with this code in `s44`, there being no handler. -/
def aborts (i : Instr) (s : State) (c : FCode) (s45 : W64) : Bool :=
  gives i s fun t => t.aborts.any fun a => a.record.s44 == c.code && a.record.s45 == s45

/-- A PC of a lane. -/
def movesTo (i : Instr) (s : State) (l : Nat) (pc : W64) : Bool := gives i s fun t => ((t.warp 0 0).lane l).pc == pc

/-! ## Steps of scalar and vector instructions -/

theorem test_integer_steps :
    [givesV (.iadd (o 0 1 2 0xFF 0xF0 7) m0) (at_ (withV [(2, fun _ => 0xFFFFFFFC)])) 63 1 3,
     givesV (.isub (o 0 1 2 3 0xF0 0) { m0 with sat := true }) (at_ (withV [(2, fun _ => 0x80000000), (3, fun _ => 1)])) 0 1 0x80000000,
     givesV (.imul (o 0 1 2 3 0xF0 0) m0) (at_ (withV [(2, fun _ => 0xFFFFFFFF), (3, fun l => BitVec.ofNat 32 l)])) 5 1 0xFFFFFFFB,
     givesV (.imulh (o 0 1 2 3 0xF0 0) m0) (at_ (withV [(2, fun _ => 0x80000000), (3, fun _ => 2)])) 0 1 0xFFFFFFFF,
     givesV (.imad (o 0 1 2 2 0xFF 9) { m0 with na := true }) (at_ (withV [(2, fun _ => 3)])) 0 1 0,
     givesV (.imadw (o 0 20 1 2 6 0) { m0 with ty := .ui32 }) (at_ (withV [(1, fun _ => 0xFFFFFFFF), (2, fun _ => 2), (6, fun _ => 2)])) 0 21 2,
     opensV (.idiv (o 2 3 1 2 0xF0 0) m0) (at_ (withV [(1, fun _ => 20), (2, fun _ => 3)])) 0 6,
     opensV (.irem (o 2 3 1 2 0xF0 0) m0) (at_ (withV [(1, fun _ => 0xFFFFFFF9), (2, fun _ => 3)])) 0 0xFFFFFFFFFFFFFFFF,
     givesV (.iabs (o 0 1 2 0xF0 0xF0 0) m0) (at_ (withV [(2, fun _ => 0xFFFFFFF6)])) 0 1 10,
     givesV (.ineg (o 0 1 2 0xF0 0xF0 0) { m0 with ty := .ui8 }) (at_ (withV [(2, fun _ => 1)])) 0 1 0xFF,
     givesV (.imin (o 0 1 2 0xFF 0xF0 0xFFFFFFFF) m0) (at_ id) 0 1 0xFFFFFFFF,
     givesV (.imax (o 0 1 2 0xFF 0xF0 0xFFFFFFFF) { m0 with ty := .ui32 }) (at_ id) 0 1 0xFFFFFFFF,
     givesP (.icmp (o 0 1 2 3 0xF0 0) { mc with cmp := .lt }) (at_ (withV [(2, fun _ => 0xFFFFFFFF)])) 0 1 true,
     givesV (.isel (o 0 1 2 3 15 0) m0) (at_ (withV [(2, fun _ => 5), (3, fun _ => 6)])) 0 1 5,
     givesV (.idp4 (o 0 1 2 3 4 0) { m0 with ty := .s8 }) (at_ (withV [(2, fun _ => 0x010203FF), (3, fun _ => 0x01010102), (4, fun _ => 10)])) 0 1 14].all id
      = true := by decide +kernel

theorem test_logic_steps :
    let u : StdMod := { m0 with ty := .ui32 }
    let s := at_ (withV [(2, fun _ => 0x0000F0F1), (3, fun _ => 0x00000FF0), (4, fun _ => 0x55)])
    [givesV (.andB (o 0 1 2 3 0xF0 0) u) s 0 1 0xF0, givesV (.orB (o 0 1 2 3 0xF0 0) u) s 0 1 0xFFF1, givesV (.xorB (o 0 1 2 3 0xF0 0) u) s 0 1 0xFF01,
     givesV (.notB (o 0 1 2 0xF0 0xF0 0) u) s 0 1 0xFFFF0F0E, givesV (.lop3 (o 0 1 2 3 4 0x96) u) s 0 1 0xFF54,
     givesV (.shl (o 0 1 2 0xFF 0xF0 32) u) s 0 1 0, givesV (.shr (o 0 1 2 0xFF 0xF0 4) u) s 0 1 0xF0F,
     givesV (.sar (o 0 1 2 0xFF 0xF0 40) m0) (at_ (withV [(2, fun _ => 0x80000000)])) 0 1 0xFFFFFFFF,
     givesV (.rot (o 0 1 2 0xFF 0xF0 33) { u with w := true }) s 0 1 0x80007878, givesV (.fshf (o 0 1 2 3 0xFF 4) u) s 0 1 0xF0F10,
     givesV (.popc (o 0 1 2 0xF0 0xF0 0) u) s 0 1 9, givesV (.clz (o 0 1 2 0xF0 0xF0 0) u) s 0 1 16, givesV (.brev (o 0 1 2 0xF0 0xF0 0) u) s 0 1 0x8F0F0000,
     givesV (.bfe (o 0 1 2 0xFF 0xF0 0x040C) m0) s 0 1 0xFFFFFFFF, givesV (.bfi (o 0 1 2 3 0xFF 0x0804) u) s 0 1 0xFF01,
     givesV (.prmt (o 0 1 2 3 0xFF 0x5410) u) s 0 1 0x0FF0F0F1].all id = true := by decide +kernel

theorem test_move_steps :
    let u : StdMod := { m0 with ty := .ui32 }
    let s := at_ (fun w => withS [(2, 0x0000130000000010)] (withV [(2, fun l => BitVec.ofNat 32 (l + 1))] w))
    [givesV (.mov (o 0 1 0xF1 0xF0 0xF0 0) m0) s 9 1 9, givesS (.movi (o 0 0xC2 0xF0 0xF0 0xF0 7) { m0 with ty := .ui64, w := true }) s 2 0x0000000700000010,
     givesS (.movs (o 0 0xC1 2 0xFF 0xF0 63) u) s 1 64, givesP (.pset (o 0 1 2 0xF0 0xF0 0) u) s 0 1 true,
     givesP (.plop (o 0 1 15 0 15 0x20)) s 0 1 true, givesV (.ptov (o 0 1 0xF0 0xF0 0xF0 0)) s 0 1 0x8000,
     givesP (.vtop (o 0 0xF0 2 0xF0 0xF0 2)) s 2 1 true, givesS (.capadd (o 0 0xC1 0xC2 0xFF 0xF0 0xFFFFFFF0) { mask := 0 }) s 1 0x0000130000000000,
     givesS (.capnar (o 0 0xC1 0xC2 0xF0 0xF0 0) { mask := 1 }) s 1 0x0000120000000010, givesS (.capoff (o 0 0xC1 0xC2 0xFF 0xF0 4) { mask := 0 }) s 1 0x0000130000000004,
     givesS (.capobj (o 0 0xC1 0xC2 0xF0 0xF0 0) { mask := 0 }) s 1 64, givesP (.capchk (o 0 1 0xC2 0xFF 0xF0 48) { mask := 2 }) s 0 1 true,
     givesP (.capchk (o 0 1 0xC2 0xFF 0xF0 49) { mask := 2 }) s 0 1 false].all id = true := by decide +kernel

theorem test_float_steps :
    let f : StdMod := { m0 with ty := .f32 }
    let s := at_ (withV [(2, fun _ => 0x3F800000), (3, fun _ => 0x40000000), (4, fun _ => 0x40400000), (6, fun _ => 0), (7, fun _ => 0x3FF00000),
      (8, fun _ => 0), (9, fun _ => 0x40000000), (10, fun _ => 0x3C004000), (11, fun _ => 0x40003C00)])
    [givesV (.fadd (o 0 1 2 3 0xF0 0) f) s 0 1 0x40400000, givesV (.fsub (o 0 1 2 3 0xF0 0) f) s 0 1 0xBF800000,
     givesV (.fmul (o 0 1 3 4 0xF0 0) f) s 0 1 0x40C00000, givesV (.ffma (o 0 1 3 4 2 0) f) s 0 1 0x40E00000,
     givesV (.fmin (o 0 1 2 3 0xF0 0) f) s 0 1 0x3F800000, givesV (.fmax (o 0 1 2 0xFF 0xF0 0x7FC00000) f) s 0 1 0x3F800000,
     givesP (.fcmp (o 0 1 2 3 0xF0 0) { mc with ty := .f32, cmp := .lt }) s 0 1 true, givesV (.frnd (o 0 1 0xFF 0xF0 0xF0 0x40200000) f) s 0 1 0x40000000,
     givesV (.fscale (o 0 1 2 0xFF 0xF0 3) f) s 0 1 0x41000000, givesV (.hadd2 (o 0 1 10 11 0xF0 0) { f with ty := .f16 }) s 0 1 0x42004200,
     givesV (.hmul2 (o 0 1 10 11 0xF0 0) { f with ty := .f16 }) s 0 1 0x40004000, givesV (.hfma2 (o 0 1 10 10 11 0) { f with ty := .f16 }) s 0 1 0x42004500,
     givesV (.dadd (o 0 0 6 8 0xF0 0) { f with ty := .f64 }) s 0 1 0x40080000, givesV (.dmul (o 0 0 8 8 0xF0 0) { f with ty := .f64 }) s 0 1 0x40100000,
     givesV (.dfma (o 0 0 8 8 6 0) { f with ty := .f64 }) s 0 1 0x40140000,
     givesV (.cvt (o 0 1 3 0xF0 0xF0 0) { dty := .s32, rnd := .rn, sty := .f32, sat := false, w := false }) s 0 1 2,
     givesV (.cvtw (o 0 1 2 3 0xF0 0) { dty := .f16, rnd := .rn, sty := .f32, sat := false, w := false }) s 0 1 0x40003C00].all id = true := by
  decide +kernel

theorem test_special_steps :
    let f : StdMod := { m0 with ty := .f32 }
    let s := at_ (withV [(2, fun _ => 0x3F800000), (3, fun _ => 0x40800000), (4, fun _ => 0)])
    [opensV (.rcp (o 3 9 3 0xF0 0xF0 0) f) s 0 0x3E800000, opensV (.rcp (o 3 9 4 0xF0 0xF0 0) f) s 0 0x7F800000, opensV (.rsq (o 3 9 3 0xF0 0xF0 0) f) s 0 0x3F000000,
     opensV (.sqrt (o 3 9 3 0xF0 0xF0 0) f) s 0 0x40000000, opensV (.ex2 (o 3 9 4 0xF0 0xF0 0) f) s 0 0x3F800000, opensV (.lg2 (o 3 9 3 0xF0 0xF0 0) f) s 0 0x40000000,
     opensV (.sin (o 3 9 4 0xF0 0xF0 0) f) s 0 0, opensV (.cos (o 3 9 4 0xF0 0xF0 0) f) s 0 0x3F800000, opensV (.fdiv (o 3 9 2 3 0xF0 0) f) s 0 0x3E800000,
     givesV (.flagr (o 0 3 0xF0 0xF0 0xF0 0)) (at_ (fun w => { w with flags := 0x11 }) (m := BitVec.allOnes 64)) 0 3 0x11,
     gives (.flagc (o 0 0xF0 0xFF 0xF0 0xF0 0x1)) (at_ (fun w => { w with flags := 0x11 }) (m := BitVec.allOnes 64)) (fun t => (t.warp 0 0).flags == 0x10),
     opensV (.liadd (o 4 3 4 4 0xF0 0) { m0 with ty := .sli32 }) s 0 0].all id = true := by decide +kernel

/-! ## Witnesses: states and operands that meet the hypotheses of the statements

Where a statement speaks of every lane number, a witness shows it of the 64 there are: a lane beyond them is empty. -/

/-- `Begins`, as a test. -/
def beginsB (i : Instr) (s : State) (r : Run) : Bool :=
  i.wf && (opsOf i).inRange (formOf i) r.d.vregs r.d.sregs && decide (r.badLanes i (formOf i) = []) && decide (r.ls ≠ [])
  && r.ls.all (fun l => ((s.warp r.gid r.w).lane l).isLive) && decide (r.iss.pre = []) && (s.warp r.gid r.w).canon

/-- `Calm`, as a test. -/
def calmB (s : State) (r : Run) : Bool :=
  r.ls.all (fun l => ((s.warp r.gid r.w).lane l).windows.all fun y => !y.done || decide (2 ≤ y.left))
  && decide (r.snap.soft = 0)

/-- `Issues` and `Calm` with a further condition on the run, as a test. -/
def issuesB (i : Instr) (s : State) (p : Run → Bool) : Bool :=
  match s.runOf (opsOf i) with
  | none => false
  | some r => beginsB i s r && calmB s r && (r.sReads i (formOf i)).all (fun n => !r.snap.tagged n) && p r

theorem begins_of {i : Instr} {s : State} {r : Run} (hr : s.runOf (opsOf i) = some r) (h : beginsB i s r = true) :
    Begins i s r := by
  simp only [beginsB, Bool.and_eq_true, decide_eq_true_eq, List.all_eq_true] at h
  obtain ⟨⟨⟨⟨⟨⟨h1, h2⟩, h3⟩, h4⟩, h5⟩, h6⟩, h7⟩ := h
  exact ⟨hr, h1, h2, h3, h4, h5, h6, h7⟩

theorem calm_of {s : State} {r : Run} (h : calmB s r = true) : Calm s r := by
  simp only [calmB, Bool.and_eq_true, decide_eq_true_eq, List.all_eq_true, Bool.or_eq_true, Bool.not_eq_true'] at h
  refine ⟨fun l hl y hy hd => ?_, h.2⟩
  rcases h.1 l hl y hy with h | h
  · rw [hd] at h; cases h
  · exact h

/-- The test gives a run with the hypotheses of a statement. -/
theorem issues_of {i : Instr} {s : State} {P : Run → Prop} [DecidablePred P]
    (h : issuesB i s (fun r => decide (P r)) = true) : ∃ r, Issues i s r ∧ Calm s r ∧ P r := by
  unfold issuesB at h
  split at h
  · cases h
  · next r hr =>
    simp only [Bool.and_eq_true, decide_eq_true_eq, List.all_eq_true, Bool.not_eq_true'] at h
    obtain ⟨⟨⟨hb, hc⟩, ht⟩, hp⟩ := h
    exact ⟨r, ⟨begins_of hr hb, ht⟩, calm_of hc, hp⟩

/-- Every instruction of a list issues at the start with nothing in its way. -/
theorem all_issue {xs : List (Nat × Instr)} (h : xs.all (fun x => issuesB x.2 start fun _ => decide True) = true) :
    ∀ x ∈ xs, ∃ r, Issues x.2 start r ∧ Calm start r := fun x hx => by
  obtain ⟨r, h1, h2, -⟩ := issues_of (P := fun _ => True) (List.all_eq_true.mp h x hx)
  exact ⟨r, h1, h2⟩

/-- For `IntegerResults` and `Division`. -/
theorem witness_integer : ∀ x ∈ words_integer, ∃ r, Issues x.2 start r ∧ Calm start r := all_issue (by decide +kernel)
/-- For `Shifts`, `TruthTables` and `LogicResults`. -/
theorem witness_logic : ∀ x ∈ words_logic, ∃ r, Issues x.2 start r ∧ Calm start r := all_issue (by decide +kernel)
/-- For `MoveResults` and `CapabilityResults`. -/
theorem witness_moves : ∀ x ∈ words_moves, ∃ r, Issues x.2 start r ∧ Calm start r := all_issue (by decide +kernel)
/-- For `FloatResults`, `ConversionResults` and `SpecialFunctionResults`. -/
theorem witness_float : ∀ x ∈ words_float, ∃ r, Issues x.2 start r ∧ Calm start r := all_issue (by decide +kernel)
/-- For `SliResults`. -/
theorem witness_sli : ∀ x ∈ words_sli, ∃ r, Issues x.2 start r ∧ Calm start r := all_issue (by decide +kernel)
/-- For `NopAndYield`, `ElectedLane` and the issue of the other control instructions. -/
theorem witness_control : ∀ x ∈ words_control, ∃ r, Issues x.2 start r ∧ Calm start r := all_issue (by decide +kernel)
/-- For the issue of cross-lane instructions. -/
theorem witness_crosslane : ∀ x ∈ words_crosslane, ∃ r, Issues x.2 start r ∧ Calm start r := all_issue (by decide +kernel)
/-- For the issue of memory instructions. -/
theorem witness_memory : ∀ x ∈ words_memory, ∃ r, Issues x.2 start r ∧ Calm start r := all_issue (by decide +kernel)
/-- For the issue of engine and ring instructions. -/
theorem witness_engines : ∀ x ∈ words_engines, ∃ r, Issues x.2 start r ∧ Calm start r := all_issue (by decide +kernel)
/-- For the issue of matrix, scrim and scheduling instructions (`ClockAndRand`, `ModeAndCover`). -/
theorem witness_matrix : ∀ x ∈ words_matrix, ∃ r, Issues x.2 start r ∧ Calm start r := all_issue (by decide +kernel)

/-- For `DecodeOfEncode`, `EncodeOfDecode`, `UnassignedOpcodesFault`, `PredicateFields`, `IntegerRange`, `Division`,
`TruthTables` and `ProgramCounterSlots`: the premises on words, fields, numbers and PCs. -/
theorem witness_encoding :
    ((Instr.trap (o 0 0xF0 0xF0 0xF0 0xF0 7)).wf = true ∧ encode (.trap (o 0 0xF0 0xF0 0xF0 0xF0 7)) = some 0x02C1FE1E1E1E000000000007)
    ∧ (decodeWord 0x02C1FE1E1E1E000000000007 = .ok (.trap (o 0 0xF0 0xF0 0xF0 0xF0 7)) ∧ assigned 0x00B = true)
    ∧ (assigned 0x3FF = false ∧ (start.runOf (opsOf (.unassignedOpcode 0x3FF))).isSome = true)
    ∧ ((formOf (.elect (o 0 16 0xF0 0xF0 0xF0 0))).d = .pred ∧ 16 ≤ (o 0 16 0xF0 0xF0 0xF0 0).d.toNat)
    ∧ ((start.runOf (opsOf (.elect (o 0 16 0xF0 0xF0 0xF0 0)))).isSome = true ∧ (Instr.elect (o 0 16 0xF0 0xF0 0xF0 0)).wf = false)
    ∧ NumType.ui8.isInt = true
    ∧ (NumType.s32 ∈ wideInt ∧ (-(2 ^ 31) : Int) ≤ -(2 ^ 31) ∧ (-(2 ^ 31) : Int) ≤ 2 ^ 31 - 1 ∧ (-(2 ^ 31) : Int) ≤ -1)
    ∧ (256 ≤ (o 0 1 2 3 4 256).imm.toNat ∧ (32 : Nat) ≤ 32 ∧ 2 ^ 58 - 2 + 1 < 2 ^ 58 ∧ 4 < 5) := by
  decide +kernel

/-- For `FloatResults`: pairs of codes with two NaNs, one, and none, in order and out of it, zeros of two signs among them; and values
between two integers, at 1.5, at the smallest subnormal and at the largest that has a fraction. -/
theorem witness_float_values :
    ((fdecode fmtF32 0x7FC00000).isNaN = true ∧ (fdecode fmtF32 0xFF800001).isNaN = true ∧ (fdecode fmtF32 0x3F800000).isNaN = false)
    ∧ ((fdecode fmtF32 0x80000000) = .fin true 0 (-149) ∧ (fdecode fmtF32 0) = .fin false 0 (-149)
      ∧ ¬(FV.fin true 0 (-149)).below (.fin false 0 (-149)) ∧ ¬(FV.fin false 0 (-149)).below (.fin true 0 (-149))
      ∧ (FV.inf true).below (.fin true 0 (-149)) ∧ ¬(FV.inf false).below (.fin true 0 (-149)))
    ∧ (∀ p ∈ ([(0x3FC00000, 0xC00000, -23, 1), (1, 1, -149, 0), (0x4AFFFFFF, 0xFFFFFF, -1, 8388607)] : List (Nat × Nat × Int × Nat)),
      p.1 < 2 ^ 32 ∧ fdecode fmtF32 p.1 = .fin false p.2.1 p.2.2.1 ∧ 0 < p.2.1 ∧ (p.2.2.2 : ℚ) ≤ p.2.1 * 2 ^ p.2.2.1
        ∧ (p.2.1 : ℚ) * 2 ^ p.2.2.1 < p.2.2.2 + 1) := by
  refine ⟨by decide +kernel, ⟨by decide +kernel, by decide +kernel, ?_, ?_, rfl, by simp [FV.below]⟩, ?_⟩
  · simp [FV.below, FV.value, signed]
  · simp [FV.below, FV.value, signed]
  · intro p hp
    simp only [List.mem_cons, List.not_mem_nil, or_false] at hp
    rcases hp with rfl | rfl | rfl
    · exact ⟨by norm_num, by decide +kernel, by norm_num, by norm_num, by norm_num⟩
    · exact ⟨by norm_num, by decide +kernel, by norm_num, by norm_num, by norm_num⟩
    · exact ⟨by norm_num, by decide +kernel, by norm_num, by norm_num, by norm_num⟩

/-- An instruction issues in a state with nothing in its way, and the run meets a further condition. -/
abbrev W (i : Instr) (s : State) (P : Run → Prop) : Prop := ∃ r, Issues i s r ∧ Calm s r ∧ P r

/-- A line of zero words, each slot a target. -/
def targets : List Byte := List.replicate 60 0 ++ [0x1F, 0, 0, 0]

/-- Lines 0 and 1 stand in the buffers, and their slots are targets. -/
def withLines (w : Warp) : Warp := { w with lines := [(0, targets), (1, targets)] }

/-- The code object is 128 bytes long. -/
def longCode (c : Ctx) : Ctx := { c with objs := mapMod c.objs 1 fun o => { o with len := 128 } }

/-- The code object can be read, with a table of one entry, the PC of slot 1, at offset 64. -/
def withTable (s : State) : State :=
  { s.modDie 0 fun d => { d with tlb := [{ ctx := 1, page := 0, bits := 16, leaf := 0x1FF }] } with
    hbm := [(72, 1)], hbmKey := [(0, { key := 1, known := BitVec.allOnes 256 })] }

theorem target_of {s : State} {r : Run} {pc : W64} (h : pcLine pc * 64 < s.codeLen r.g.ctx r.d ∧ pcLegal pc = true
    ∧ ((mapGet (s.warp r.gid r.w).lines (pcLine pc)).any fun b => tgtBit b (pcSlot pc)) = true) : IsTarget s r pc := by
  obtain ⟨h1, h2, h3⟩ := h
  cases hb : mapGet (s.warp r.gid r.w).lines (pcLine pc) with
  | none => rw [hb] at h3; cases h3
  | some b => rw [hb] at h3; exact ⟨h1, h2, b, hb, h3⟩

/-- The condition of `target_of`. -/
abbrev TargetB (s : State) (r : Run) (pc : W64) : Prop := pcLine pc * 64 < s.codeLen r.g.ctx r.d ∧ pcLegal pc = true
    ∧ ((mapGet (s.warp r.gid r.w).lines (pcLine pc)).any fun b => tgtBit b (pcSlot pc)) = true

/-- `Fresh`, written out. -/
abbrev FreshB (r : Run) : Prop := ∀ l ∈ r.act, (r.snap.lane l).wait = .none

/-- For `Transfers`: a branch to slot 1, one before the code and one beyond it, one whose target bit is clear, calls,
table branches, and a return. -/
theorem witness_transfers :
    (let s := at_ withLines; W (.bra (o 0 0xF0 0xF0 0xF0 0xF0 1)) s fun r => FreshB r ∧ (pcIndex r.pc : Int) + (1 : W32).toInt = (1 : Nat)
      ∧ TargetB s r (pcOfIndex 1))
    ∧ (W (.bra (o 0 0xF0 0xF0 0xF0 0xF0 0xFFFFFFFF)) start fun r => FreshB r ∧ r.act = r.ls ∧ (pcIndex r.pc : Int) + (-1) < 0)
    ∧ (W (.bra (o 0 0xF0 0xF0 0xF0 0xF0 5)) start fun r => FreshB r ∧ r.act = r.ls
        ∧ start.codeLen r.g.ctx r.d ≤ pcLine (pcOfIndex (pcIndex r.pc + 5)) * 64)
    ∧ (W (.bra (o 0 0xF0 0xF0 0xF0 0xF0 2)) start fun r => FreshB r ∧ r.act = r.ls
        ∧ pcLine (pcOfIndex (pcIndex r.pc + 2)) * 64 < start.codeLen r.g.ctx r.d
        ∧ (mapGet (start.warp r.gid r.w).lines (pcLine (pcOfIndex (pcIndex r.pc + 2)))).any
            (fun b => !tgtBit b (pcSlot (pcOfIndex (pcIndex r.pc + 2)))) = true)
    ∧ (let s := (at_ withLines id longCode).closeIssue; W (.call (o 0 0xF0 0xF0 0xF0 0xF0 9)) s fun r => FreshB r
        ∧ (pcIndex r.pc : Int) + (9 : W32).toInt = (9 : Nat) ∧ TargetB s r (pcOfIndex 9))
    ∧ (let s := withTable (at_ withLines id longCode); W (.brx (o 0 0xF0 3 0xF0 0xF0 64) { n := 1 }) s fun r => FreshB r
        ∧ 64 + 8 * (1 + 1) ≤ s.codeLen r.g.ctx r.d ∧ ∀ l ∈ r.act, (r.rd32 l 3).toNat < 1 ∧ TargetB s r 1
          ∧ s.readCode r.g.ctx r.g.die r.g.core r.d (64 + 8 * ((r.rd32 l 3).toNat + 1)) 8 = .ok [1, 0, 0, 0, 0, 0, 0, 0])
    ∧ (let s := (withTable (at_ withLines id longCode)).closeIssue; W (.callx (o 0 0xF0 3 0xF0 0xF0 64) { n := 1 }) s fun r => FreshB r
        ∧ 64 + 8 * (1 + 1) ≤ s.codeLen r.g.ctx r.d ∧ ∀ l ∈ r.act, (r.rd32 l 3).toNat < 1 ∧ TargetB s r 1
          ∧ s.readCode r.g.ctx r.g.die r.g.core r.d (64 + 8 * ((r.rd32 l 3).toNat + 1)) 8 = .ok [1, 0, 0, 0, 0, 0, 0, 0])
    ∧ (let s := (at_ (fun w => withS [(43, 4)] (withLines w))).closeIssue; W (.ret (o 0 0xF0 0xEB 0xF0 0xF0 0)) s fun r => FreshB r
        ∧ ∀ l ∈ r.act, TargetB s r (r.rd64 .zero l 0xEB)) :=
  ⟨issues_of (by decide +kernel), issues_of (by decide +kernel), issues_of (by decide +kernel), issues_of (by decide +kernel),
   issues_of (by decide +kernel), issues_of (by decide +kernel), issues_of (by decide +kernel), issues_of (by decide +kernel)⟩

/-- The steps themselves. -/
theorem test_control_steps :
    [movesTo (.bra (o 0 0xF0 0xF0 0xF0 0xF0 1)) (at_ withLines) 0 1, aborts (.bra (o 0 0xF0 0xF0 0xF0 0xF0 0xFFFFFFFF)) start .bounds 0xFFFFFFFFFFFFFFC0,
     aborts (.bra (o 0 0xF0 0xF0 0xF0 0xF0 2)) start .badTarget 2, givesS (.call (o 0 0xF0 0xF0 0xF0 0xF0 9)) (at_ withLines id longCode) 43 1,
     movesTo (.brx (o 0 0xF0 3 0xF0 0xF0 64) { n := 1 }) (withTable (at_ withLines id longCode)) 5 1,
     movesTo (.ret (o 0 0xF0 0xEB 0xF0 0xF0 0)) (at_ (fun w => withS [(43, 4)] (withLines w))) 0 4,
     movesTo (.nop (o 0 0xF0 0xF0 0xF0 0xF0 0)) start 63 1, givesP (.elect (o 0 3 0xF0 0xF0 0xF0 0)) start 0 3 true,
     gives (.exit (o 0 0xF0 0xF0 0xF0 0xF0 0)) start (fun t => ((t.warp 0 0).lane 0).st == .exited && ((t.warp 0 0).lane 1).st == .real),
     aborts (.trap (o 0 0xF0 0xF0 0xF0 0xF0 7)) start .trap 7, aborts (.unassignedOpcode 0x3FF) start .illegalOpcode 0,
     movesTo (.bkpt (o 0 0xF0 0xF0 0xF0 0xF0 1)) (at_ fun w => { w with mode := 0 }) 0 1,
     aborts (.hret (o 0 0xF0 0xF0 0xF0 0xF0 0) { b := false }) start .illegalOpcode 0,
     gives (.bar (o 0 0xF0 0xF0 0xF0 0xF0 0) { i := 2 }) start (fun t => ((t.warp 0 0).lane 0).wait == .bar 2),
     gives (.cbar (o 0 0xF0 0xF0 0xF0 0xF0 0) { i := 2 }) start (fun t => ((t.warp 0 0).lane 0).wait == .cbar 2)].all id = true := by decide +kernel

/-- Capability 0 of s3 names no object; s2 names the code object with the rights RD, EX and AT (for
`CapabilityResults`). -/
def caps : State := at_ (withS [(2, 0x0000130000000010), (4, 0xFFFFFFFFFFFFFFF0), (5, 0xFFFFFFFFFF), (6, 0x10000000000)])

theorem witness_capability :
    (W (.capadd (o 0 0xC1 0xC2 0xC4 0xF0 0) { mask := 0 }) caps fun r =>
      ∀ l ∈ r.act, 0 ≤ (capOff (r.rd64 .zero l 0xC2) : Int) + (r.rd64 .sign l 0xC4).toInt
        ∧ (capOff (r.rd64 .zero l 0xC2) : Int) + (r.rd64 .sign l 0xC4).toInt < 2 ^ 40)
    ∧ (W (.capadd (o 0 0xC1 0xC2 0xC5 0xF0 0) { mask := 0 }) caps fun r => r.act = r.ls
      ∧ ∀ l ∈ r.ls, (capOff (r.rd64 .zero l 0xC2) : Int) + (r.rd64 .sign l 0xC5).toInt < 0
        ∨ 2 ^ 40 ≤ (capOff (r.rd64 .zero l 0xC2) : Int) + (r.rd64 .sign l 0xC5).toInt)
    ∧ (W (.capoff (o 0 0xC1 0xC2 0xC5 0xF0 0) { mask := 0 }) caps fun r => ∀ l ∈ r.act, (r.rd64 .zero l 0xC5).toNat < 2 ^ 40)
    ∧ (W (.capoff (o 0 0xC1 0xC2 0xC6 0xF0 0) { mask := 0 }) caps fun r => r.act = r.ls ∧ ∀ l ∈ r.ls, 2 ^ 40 ≤ (r.rd64 .zero l 0xC6).toNat)
    ∧ (W (.capobj (o 0 0xC1 0xC2 0xF0 0xF0 0) { mask := 0 }) caps fun r =>
      ∀ l ∈ r.act, (caps.capEntry r.g.ctx (r.rd64 .zero l 0xC2) [.loft, .mem, .host]).isSome = true)
    ∧ (W (.capobj (o 0 0xC1 0xC3 0xF0 0xF0 0) { mask := 0 }) caps fun r => r.act = r.ls
      ∧ ∀ l ∈ r.ls, caps.capEntry r.g.ctx (r.rd64 .zero l 0xC3) [.loft, .mem, .host] = none) :=
  ⟨issues_of (by decide +kernel), issues_of (by decide +kernel), issues_of (by decide +kernel), issues_of (by decide +kernel),
   issues_of (by decide +kernel), issues_of (by decide +kernel)⟩

/-! ## Lanes that meet -/

/-- The lanes of the run, as the value of s4. -/
def mask5 : W64 := 0x8000000000000225

/-- A membership mask in s4, and a value in v4. -/
def meeting : State := at_ (fun w => withS [(4, mask5)] (withV [(4, fun l => BitVec.ofNat 32 (100 + l))] w))

theorem meets_of {s : State} {r : Run} {m : W64} (h : m ≠ 0 ∧ ((List.range 64).all fun l => !m.getLsbD l || r.ls.contains l) = true
    ∧ (∀ l ∈ r.act, m.getLsbD l = true) ∧ (s.warp r.gid r.w).arrivals = []
    ∧ ∀ l ∈ r.ls, ((s.warp r.gid r.w).lane l).pc = r.pc) : Meets s r m where
  some := h.1
  named l hl := by
    have hlt : l < 64 := by
      by_contra hc
      rw [BitVec.getLsbD_of_ge m l (by omega)] at hl; cases hl
    have := List.all_eq_true.mp h.2.1 l (List.mem_range.mpr hlt)
    rw [hl] at this
    simpa using this
  act := h.2.2.1
  alone := h.2.2.2.1
  pcs := h.2.2.2.2

/-- For `MeetingResults` and `ReductionResults`: runs that bring the lanes of their mask. -/
theorem witness_meeting : ∀ i ∈ ([.reconv (o 0 0xF0 0xC4 0xF0 0xF0 0), .shfl (o 0 5 4 0xFF 0xC4 1) { mode := 3, wrel := false, b64 := false },
      .qxch (o 0 5 4 0xF0 0xC4 0) { mode := 1, wrel := false, b64 := false }, .qbc (o 0 5 4 0xFF 0xC4 1) { mode := 0, wrel := false, b64 := false },
      .vote (o 0 1 15 0xF0 0xC4 0) { mode := 1, np := false, b64 := false }, .matchB (o 0 6 4 0xF0 0xC4 0) { mode := 0, np := false, b64 := false },
      .red (o 0 5 4 0xF0 0xC4 0) { ty := .s32, op := .add, excl := false }, .scan (o 0 5 4 0xF0 0xC4 0) { ty := .s32, op := .add, excl := true }] : List Instr),
    ∃ r, Issues i meeting.closeIssue r ∧ Calm meeting.closeIssue r ∧ Meets meeting.closeIssue r mask5 ∧ r.snap.getS 4 = mask5 := by
  have h : ∀ i ∈ ([.reconv (o 0 0xF0 0xC4 0xF0 0xF0 0), .shfl (o 0 5 4 0xFF 0xC4 1) { mode := 3, wrel := false, b64 := false },
      .qxch (o 0 5 4 0xF0 0xC4 0) { mode := 1, wrel := false, b64 := false }, .qbc (o 0 5 4 0xFF 0xC4 1) { mode := 0, wrel := false, b64 := false },
      .vote (o 0 1 15 0xF0 0xC4 0) { mode := 1, np := false, b64 := false }, .matchB (o 0 6 4 0xF0 0xC4 0) { mode := 0, np := false, b64 := false },
      .red (o 0 5 4 0xF0 0xC4 0) { ty := .s32, op := .add, excl := false }, .scan (o 0 5 4 0xF0 0xC4 0) { ty := .s32, op := .add, excl := true }] : List Instr),
      issuesB i meeting.closeIssue (fun r => decide ((mask5 ≠ 0 ∧ ((List.range 64).all fun l => !mask5.getLsbD l || r.ls.contains l) = true
        ∧ (∀ l ∈ r.act, mask5.getLsbD l = true) ∧ (meeting.closeIssue.warp r.gid r.w).arrivals = []
        ∧ ∀ l ∈ r.ls, ((meeting.closeIssue.warp r.gid r.w).lane l).pc = r.pc) ∧ r.snap.getS 4 = mask5)) = true := by
    decide +kernel
  intro i hi
  obtain ⟨r, h1, h2, h3, h4⟩ := issues_of (h i hi)
  exact ⟨r, h1, h2, meets_of h3, h4⟩

theorem test_crosslane_steps :
    [givesV (.shfl (o 0 5 4 0xFF 0xC4 5) { mode := 3, wrel := false, b64 := false }) meeting 0 5 105,
     givesV (.qxch (o 0 5 4 0xF0 0xC4 0) { mode := 2, wrel := false, b64 := false }) meeting 0 5 102,
     givesV (.qbc (o 0 5 4 0xFF 0xC4 2) { mode := 0, wrel := false, b64 := false }) meeting 0 5 102,
     givesP (.vote (o 0 1 15 0xF0 0xC4 0) { mode := 1, np := true, b64 := false }) meeting 0 1 false,
     givesV (.matchB (o 0 6 4 0xF0 0xC4 0) { mode := 0, np := false, b64 := false }) meeting 5 6 0x20,
     opensV (.red (o 0 5 4 0xF0 0xC4 0) { ty := .s32, op := .add, excl := false }) meeting 0 579,
     opensV (.scan (o 0 5 4 0xF0 0xC4 0) { ty := .s32, op := .add, excl := true }) meeting 5 202,
     gives (.regroup (o 0 4 4 0xF0 0xF0 0) { c := 0 }) meeting (fun t => ((t.warp 0 0).lane 0).wait == .regroup),
     givesS (.lanemask (o 0 0xC7 0xF0 0xF0 0xF0 0) { sel := 0 }) meeting 7 mask5,
     aborts (.shfl (o 0 5 4 0xFF 0xC6 5) { mode := 3, wrel := false, b64 := false }) meeting .maskMismatch 0].all id = true := by
  decide +kernel

/-- Lane 1 waits at the instruction with mask `m`, which the run reads in s4, and lane 7 is changed. -/
def meeting7 (m : W64) (seven : Lane → Lane) : State := at_ fun w => withS [(4, 0x80000000000002A7)]
  { w.modLane 7 seven with
    arrivals := [{ lane := 1, pc := 0, mask := m, guard := true, a := 0, b := 0, pred := false, ghost := false }] }

/-- The conditions of `MembershipFaults` on the run of a shuffle and the lanes that wait. -/
abbrev MemberB (s : State) (r : Run) : Prop := (∀ a ∈ (s.warp r.gid r.w).arrivals, a.pc = r.pc)
  ∧ (∀ l ∈ r.ls, l ∈ r.act ∨ (r.snap.getS 4).getLsbD l = true)

/-- For `MembershipFaults`: a lane that its mask does not name, a waiting lane with another mask, a named lane that has
exited, and one that waits elsewhere. -/
theorem witness_membership :
    let i := Instr.shfl (o 0 5 4 0xFF 0xC4 5) { mode := 3, wrel := false, b64 := false }
    let named : W64 := 0x80000000000002A7
    let same := fun (s : State) (r : Run) => (∀ l ∈ r.act, (r.snap.getS 4).getLsbD l = true)
      ∧ ∀ a ∈ (s.warp r.gid r.w).arrivals, a.mask = r.snap.getS 4
    (W i (at_ id) fun r => MemberB (at_ id) r ∧ ∃ l ∈ r.act, (r.snap.getS 4).getLsbD l = false)
    ∧ (let s := meeting7 1 id; W i s fun r => MemberB s r ∧ ((s.warp r.gid r.w).arrivals.map (·.lane)).Nodup
      ∧ ∃ a ∈ (s.warp r.gid r.w).arrivals, a.lane < 64 ∧ a.mask ≠ r.snap.getS 4)
    ∧ (let s := meeting7 named fun x => { x with st := .exited }; W i s fun r => MemberB s r ∧ same s r
      ∧ r.snap.getS 4 &&& (s.warp r.gid r.w).where (fun x => x.st == .exited || x.st == .never) ≠ 0)
    ∧ (let s := meeting7 named fun x => { x with wait := .bar 0 }; W i s fun r => MemberB s r ∧ same s r
      ∧ r.snap.getS 4 &&& (s.warp r.gid r.w).where (fun x => x.st == .exited || x.st == .never) = 0
      ∧ r.snap.getS 4 &&& ~~~(maskOf (1 :: r.ls)) = 0x80 ∧ ((s.warp r.gid r.w).lane 7).wait.isSync = true) :=
  ⟨issues_of (by decide +kernel), issues_of (by decide +kernel), issues_of (by decide +kernel), issues_of (by decide +kernel)⟩

/-- For `FlagWord` and `ModeAndCover`: a run of all lanes, and one that misses some. -/
theorem witness_whole_warp :
    (∀ i ∈ ([.flagr (o 0 3 0xF0 0xF0 0xF0 0), .flagc (o 0 0xF0 0xFF 0xF0 0xF0 1), .mode (o 0 3 0xC5 0xF0 0xF0 3)] : List Instr),
      issuesB i (at_ id (m := BitVec.allOnes 64)) (fun r => decide (r.snap.live &&& ~~~r.iss.lanes = 0 ∧ r.act ≠ [])) = true)
    ∧ (∀ i ∈ ([.flagr (o 0 3 0xF0 0xF0 0xF0 0), .flagc (o 0 0xF0 0xFF 0xF0 0xF0 1), .mode (o 0 3 0xC5 0xF0 0xF0 3)] : List Instr),
      issuesB i start (fun r => decide (r.snap.live &&& ~~~r.iss.lanes ≠ 0)) = true)
    ∧ W (.clock (o 0 4 0xF0 0xF0 0xF0 0)) start fun r => r.g.die < start.dies.length ∧ r.g.core < (start.die r.g.die).cores.length :=
  ⟨by decide +kernel, by decide +kernel, issues_of (by decide +kernel)⟩

/-- The conditions of `ExitEndsLanes`; the run is all lanes or only some. -/
def exitB (u : State) (r : Run) : Bool :=
  let w := u.warp r.gid r.w
  r.act ≠ [] && !r.d.isDuet && w.arrivals = [] && w.hset = 0 && w.pend = [] && r.g.barriers = [] && r.g.regroup = none && u.cbars = []
  && mapSorted none u.groups && u.ops = []

/-- A group of a launch with helpers, the lanes of `m` issuing; those of `hs` are helpers. -/
def helping (m : W64) (hs : List Nat) : State :=
  (at_ (fun w => hs.foldl (fun w l => w.modLane l fun x => { x with st := .helper }) w) (df := fun d => { d with flags := 8 }) (m := m)).closeIssue

/-- For `ExitEndsLanes`: some lanes stay; all lanes of the group leave; lanes that become helpers; the last real lane of a quad. -/
theorem witness_exit :
    (∀ all : Bool, let s := (at_ id (m := if all then BitVec.allOnes 64 else mask5)).closeIssue
      issuesB (.exit (o 0 0xF0 0xF0 0xF0 0xF0 0)) s (fun r => exitB s r && !r.d.hasHelpers
        && (List.range 64).all (fun l => ((s.warp r.gid r.w).lane l).st != .helper)
        && ((List.range 64).any fun l => ((r.g.warp 0).lane l).st == .real && !(r.act.contains l)) == !all) = true)
    ∧ (let s := helping mask5 []; issuesB (.exit (o 0 0xF0 0xF0 0xF0 0xF0 0)) s (fun r => exitB s r && r.d.hasHelpers
      && r.act.all fun l => (List.range 64).any fun k => k / 4 == l / 4 && !r.act.contains k && ((s.warp r.gid r.w).lane k).st == .real) = true)
    ∧ (let s := helping 1 [1, 2, 3]; issuesB (.exit (o 0 0xF0 0xF0 0xF0 0xF0 0)) s (fun r => exitB s r && r.d.hasHelpers && r.act == [0]
      && [1, 2, 3].all (fun k => ((s.warp r.gid r.w).lane k).st == .helper && ((s.warp r.gid r.w).lane k).windows == [])
      && ((r.g.warp 0).lane 4).st == .real) = true) :=
  ⟨by decide +kernel, by decide +kernel, by decide +kernel⟩

/-- The conditions of `GroupBarriers`, `ClusterBarriers` and `RegroupedPayloads`; the run is all lanes or only some. -/
def barrierB (u : State) (all : Bool) (r : Run) : Bool :=
  r.act = r.ls && r.ls.all (fun l => (r.snap.lane l).st == .real && ((r.g.warp r.w).lane l).st == .real
    && ((u.warp r.gid r.w).lane l).pc == r.pc) && (r.g.warp r.w).arrivals = [] && !r.d.isDuet && mapSorted none r.g.barriers
  && r.g.regroup = none && r.g.warps.length == 1 && u.clusterOf r.g == [r.gid]
  && (List.range 64).all (fun l => ((r.g.warp r.w).lane l).st != .helper && ((r.g.warp r.w).lane l).wait == .none)
  && if all then r.act.length == r.g.reals else decide (r.act.length < r.g.reals)

/-- For `GroupBarriers`, `ClusterBarriers` and `RegroupedPayloads`: the first arrivals, the completing ones, and another
count. -/
theorem witness_barriers :
    (∀ all : Bool, let s := (at_ id (m := if all then BitVec.allOnes 64 else mask5)).closeIssue
      ∀ i ∈ ([.bar (o 0 0xF0 0xF0 0xF0 0xF0 0) { i := 15 }, .cbar (o 0 0xF0 0xF0 0xF0 0xF0 0) { i := 3 },
        .regroup (o 0 4 4 0xF0 0xF0 0) { c := 7 }] : List Instr), issuesB i s (barrierB s all) = true)
    ∧ (let s := (at_ id (fun g => { g with barriers := [(2, { count := 9, arrived := 1 })] })).closeIssue
       W (.bar (o 0 0xF0 0xFF 0xF0 0xF0 10) { i := 2 }) s fun r => r.act = r.ls
        ∧ (mapGet r.g.barriers 2).any (fun b => b.count ≠ r.rd64 .zero (r.act.headD 0) 0xFF) = true) :=
  ⟨by decide +kernel, issues_of (by decide +kernel)⟩

/-! ## Faults -/

/-- A kernel with a handler, HEN and BKEN set. -/
def handled : State := at_ (fun w => { w with mode := 5 }) (df := fun d => { d with handler := 0x40 })

theorem can_deliver_of {s : State} {gid w : Nat} {g : Group} {f : Flt} {ls : List Nat}
    (h : s.group gid = some g ∧ w < g.warps.length ∧ (s.desc g).handler ≠ 0 ∧ (s.warp gid w).mode.getLsbD 0 = true
      ∧ (f.code = .machineCheck → (s.warp gid w).mode.getLsbD 1 = true) ∧ (s.warp gid w).hset = 0 ∧ ls ≠ []
      ∧ (∀ l ∈ ls, l < 64 ∧ l < (s.warp gid w).lanes.length)
      ∧ (s.warp gid w).arrivals = [] ∧ (s.warp gid w).canon = true) : CanDeliver s gid w g f ls :=
  ⟨⟨h.1, h.2.1⟩, h.2.2.1, h.2.2.2.1, h.2.2.2.2.1, h.2.2.2.2.2.1, ⟨h.2.2.2.2.2.2.1, h.2.2.2.2.2.2.2.1⟩,
    h.2.2.2.2.2.2.2.2.1, h.2.2.2.2.2.2.2.2.2⟩

theorem delivers_of {s : State} {gid w : Nat} {g : Group} {f : Flt} {ls : List Nat}
    (h : s.group gid = some g ∧ w < g.warps.length ∧ (s.desc g).handler ≠ 0 ∧ (s.warp gid w).mode.getLsbD 0 = true
      ∧ (f.code = .machineCheck → (s.warp gid w).mode.getLsbD 1 = true) ∧ (s.warp gid w).hset = 0 ∧ ls ≠ []
      ∧ (∀ l ∈ ls, l < 64 ∧ l < (s.warp gid w).lanes.length)
      ∧ (s.warp gid w).arrivals = [] ∧ (s.warp gid w).canon = true)
    (h' : (∀ l ∈ ls, ((s.warp gid w).lane l).windows = []) ∧ s.loads = [] ∧ s.writes = []) : Delivers s gid w g f ls :=
  ⟨can_deliver_of h, h'.1, fun d hd => by simp [h'.2.1] at hd, fun x hx => by simp [h'.2.2] at hx⟩

/-- Lane 2 has a result under way for v3. -/
def handledLate : State := handled.modWarp 0 0 fun w => w.modLane 2 fun x => { x with windows :=
  [{ stamp := 0, cycle := 0, left := 1, pc := 0, dst := .v32 3, val := 7, tag := false, flags := 1, done := false, flt := none }] }

/-- For `FaultDelivery`: the lanes of the run raise TRAP, and MACHINE_CHECK with MCH set; and a lane raises TRAP while a
result of it is under way, which lands. -/
theorem witness_delivery : (∃ g, Delivers handled 0 0 g { code := .trap, s45 := 7 } [0, 2, 63])
    ∧ (∃ g, Delivers (at_ (fun w => { w with mode := 3 }) (df := fun d => { d with handler := 0x40 })) 0 0 g { code := .machineCheck, s45 := 2 } [5])
    ∧ (∃ g, CanDeliver handledLate 0 0 g { code := .trap, s45 := 7 } [2])
    ∧ (∀ y ∈ ((handledLate.warp 0 0).lane 2).windows, y.flt = none)
    ∧ (((handledLate.raise 0 0 0 [(2, { code := .trap, s45 := 7 })]).warp 0 0).lane 2).getV 3 = 7
    ∧ ((handledLate.raise 0 0 0 [(2, { code := .trap, s45 := 7 })]).warp 0 0).flags = 1 :=
  ⟨⟨(handled.group 0).getD (soloGroup 0), delivers_of (by decide +kernel) (by decide +kernel)⟩,
   ⟨((at_ (fun w => { w with mode := 3 }) (df := fun d => { d with handler := 0x40 })).group 0).getD (soloGroup 0), delivers_of (by decide +kernel) (by decide +kernel)⟩,
   ⟨(handledLate.group 0).getD (soloGroup 0), can_deliver_of (by decide +kernel)⟩, by decide +kernel, by decide +kernel, by decide +kernel⟩

/-- For `TrapsEnterTheHandler`: the run of TRAP and BKPT, with the fault deliverable, and BKPT with BKEN clear. -/
theorem witness_traps :
    (∀ i ∈ ([.trap (o 0 0xF0 0xF0 0xF0 0xF0 0xFFFF), .bkpt (o 0 0xF0 0xF0 0xF0 0xF0 0)] : List Instr), issuesB i handled (fun r => decide (r.act = r.ls
      ∧ r.snap.mode.getLsbD 2 = true ∧ r.snap.mode.getLsbD 0 = true ∧ handled.group r.gid = some r.g ∧ r.w < r.g.warps.length
      ∧ (handled.desc r.g).handler ≠ 0 ∧ (handled.warp r.gid r.w).hset = 0
      ∧ (∀ l ∈ r.ls, ((handled.warp r.gid r.w).lane l).windows = []) ∧ (handled.warp r.gid r.w).arrivals = [])) = true)
    ∧ W (.bkpt (o 0 0xF0 0xF0 0xF0 0xF0 0)) (at_ fun w => { w with mode := 1 }) fun r => r.snap.mode.getLsbD 2 = false :=
  ⟨by decide +kernel, issues_of (by decide +kernel)⟩

theorem test_fault_steps :
    [gives (.trap (o 0 0xF0 0xF0 0xF0 0xF0 7)) handled (fun t => ((t.warp 0 0).lane 5).pc == 0x40 && (t.warp 0 0).getS 44 == 0x50
        && (t.warp 0 0).getS 45 == 7 && (t.warp 0 0).getS 46 == 0 && (t.warp 0 0).getS 47 == mask5 && (t.warp 0 0).hset == mask5),
     gives (.bkpt (o 0 0xF0 0xF0 0xF0 0xF0 7)) handled (fun t => (t.warp 0 0).getS 44 == 0x51),
     gives (.hret (o 0 0xF0 0xF0 0xF0 0xF0 0) { b := true }) (at_ (fun w => withS [(46, 4)] { w with hset := mask5 }))
        (fun t => ((t.warp 0 0).lane 0).pc == 0x40 && (t.warp 0 0).hset == 0)].all id = true := by decide +kernel

/-- For `ReturnFromHandler`: an ill-formed T, lanes outside the set, and lanes of the set. -/
theorem witness_hret :
    (let s := (at_ (withS [(46, 0x3F)])).closeIssue; W (.hret (o 0 0xF0 0xF0 0xF0 0xF0 0) { b := true }) s fun r => r.act = r.ls
      ∧ pcLegal (r.snap.getS 46) = false)
    ∧ (let s := start.closeIssue; W (.hret (o 0 0xF0 0xF0 0xF0 0xF0 0) { b := false }) s fun r => r.act = r.ls
      ∧ pcLegal (r.snap.getS 46) = true ∧ ∀ l ∈ r.ls, (s.warp r.gid r.w).hset.getLsbD l = false)
    ∧ (let s := (at_ (fun w => { w with hset := BitVec.allOnes 64 })).closeIssue; W (.hret (o 0 0xF0 0xF0 0xF0 0xF0 0) { b := false }) s fun r => r.act = r.ls
      ∧ pcLegal (r.snap.getS 46) = true ∧ (∀ l ∈ r.ls, (s.warp r.gid r.w).hset.getLsbD l = true) ∧ (s.warp r.gid r.w).pend = []) :=
  ⟨issues_of (by decide +kernel), issues_of (by decide +kernel), issues_of (by decide +kernel)⟩

/-- For `FaultAborts`: no handler, HEN clear, a machine check with MCH clear, and a fault in a handler. -/
theorem witness_aborts : ∀ s ∈ [start, at_ (fun w => { w with mode := 0 }) (df := fun d => { d with handler := 0x40 }),
      at_ (fun w => { w with mode := 1 }) (df := fun d => { d with handler := 0x40 }),
      at_ (fun w => { w with mode := 1, hset := 1 }) (df := fun d => { d with handler := 0x40 })],
    ∃ g, s.group 0 = some g ∧ 0 < g.warps.length ∧ mapSorted none s.groups = true ∧ g.res ≠ .draining
      ∧ (([0].any fun l => (g.warp 0).hset.getLsbD l) = true ∨ (s.desc g).handler = 0 ∨ (g.warp 0).mode.getLsbD 0 = false
        ∨ (FCode.machineCheck = .machineCheck ∧ (g.warp 0).mode.getLsbD 1 = false)) := by
  intro s hs
  fin_cases hs
  · exact ⟨((start.group 0).getD (soloGroup 0)), by decide +kernel⟩
  · exact ⟨(((at_ (fun w => { w with mode := 0 }) (df := fun d => { d with handler := 0x40 })).group 0).getD (soloGroup 0)), by decide +kernel⟩
  · exact ⟨(((at_ (fun w => { w with mode := 1 }) (df := fun d => { d with handler := 0x40 })).group 0).getD (soloGroup 0)), by decide +kernel⟩
  · exact ⟨(((at_ (fun w => { w with mode := 1, hset := 1 }) (df := fun d => { d with handler := 0x40 })).group 0).getD (soloGroup 0)), by decide +kernel⟩

/-! ## Steps, registers tagged by engines, and memory -/

/-- An engine context of the group: the next number is 5, numbers up to 2 are complete, number 2 failed, number 4 is
complete ahead of 3. -/
def engine : ECtx := { alloc := 7, holder := some (1, 0), counter := 2, next := 5, done := [4], statuses := [(2, 0x80000001)], gen := none }

/-- Copy contexts 0 to 3 of the group stand in the die, with the state of `engine`. -/
def withEngines (s : State) : State :=
  { s with dies := s.dies.modify 0 fun d => { d with copyCtx := [(0, engine), (1, engine), (2, engine), (3, engine)]
                                                     scrimCtx := [(0, { engine with alloc := 0, holder := none })] } }

/-- S-register 5 is future-tagged, with the handle of operation `n` of context 0. -/
def tagged (n : W64) : State :=
  withEngines (at_ (fun w => let w := withS [(5, n)] w; { w with tags := 0x20 }) (fun g => { g with copyCtxs := [0, 1, 2, 3] }))

/-- A run of an instruction meets a condition, its sources tagged or not. -/
abbrev W' (i : Instr) (s : State) (P : Run → Prop) : Prop := ∃ r, s.runOf (opsOf i) = some r ∧ P r

theorem run_of {i : Instr} {s : State} {P : Run → Prop} [DecidablePred P]
    (h : (match s.runOf (opsOf i) with | none => false | some r => decide (P r)) = true) : W' i s P := by
  split at h
  · cases h
  · next r hr => exact ⟨r, hr, of_decide_eq_true h⟩

/-- For `FutureTagsBlockReaders`: an operation that has completed before an earlier one, one that failed, and one that
succeeded. -/
theorem witness_tags :
    let i : Instr := .mov (o 0 1 0xC5 0xF0 0xF0 0) { m0 with ty := .ui32 }
    let tags := fun (n : W64) (done failed : Bool) => W' i (tagged n) fun r => i.wf = true ∧ (opsOf i).inRange (formOf i) r.d.vregs r.d.sregs = true
      ∧ r.badLanes i (formOf i) = [] ∧ r.act = r.ls ∧ r.ls ≠ [] ∧ FreshB r ∧ r.d.isDuet = false ∧ r.iss.pre = [] ∧ r.sReads i (formOf i) = [5]
      ∧ r.snap.tagged 5 = true ∧ (tagged n).ectx r.g (n.extractLsb' 56 8).toNat = some engine ∧ r.snap.getS 5 = n
      ∧ engine.isDone n.toNat = done ∧ (done = true → engine.failed n.toNat = failed)
    tags 4 false false ∧ tags 2 true true ∧ tags 1 true false :=
  ⟨run_of (by decide +kernel), run_of (by decide +kernel), run_of (by decide +kernel)⟩

theorem test_tag_steps :
    [gives (.mov (o 0 1 0xC5 0xF0 0xF0 0) { m0 with ty := .ui32 }) (tagged 4) (fun t => ((t.warp 0 0).lane 0).wait == .future 4),
     aborts (.mov (o 0 1 0xC5 0xF0 0xF0 0) { m0 with ty := .ui32 }) (tagged 2) .futureFailed 0x80000001,
     gives (.mov (o 0 1 0xC5 0xF0 0xF0 0) { m0 with ty := .ui32 }) (tagged 1)
       (fun t => ((t.warp 0 0).lane 0).getV 1 == 1 && (t.warp 0 0).tags == 0)].all id = true := by decide +kernel

/-- A step of a state goes to a next state of which something holds. -/
def stepGives (s : State) (p : State → Bool) : Bool :=
  match step s with
  | .next t => p t
  | _ => false

/-- The conditions of an issue by `step` to the one warp of `withFetchWord`. -/
def issuesFirst (s : State) : Bool :=
  let t : State := State.holdCycle { s with agenda := [], stale := [] } 0 0
  match s.group 0, t.group 0 with
  | some g, some h =>
    let v := t.passOver 0 0 h
    s.halted == false && s.second == none && s.agenda == [.issue 0 0 []] && g.die == 0 && g.core == 0
    && (t.chosen (unitOf g 0)).any (fun y => y.gid == 0 && y.warp == 0) && !(s.desc h).isRehearsal
    && (h.warp 0).cycle (v.ready 0 h (h.warp 0)) true == some { runA := BitVec.allOnes 64, pcA := 0, second := none }
    && ((((v.settleRun 0 0 (BitVec.allOnes 64) 0).warp 0 0).recall (BitVec.allOnes 64) 0)).badEntry 0 (lanesIn (BitVec.allOnes 64)) == [] && s.canon
  | _, _ => false

/-- A mailbox that holds one command. -/
def oneCommand (c : Cmd) (i : Instr) : State :=
  { State.reset with agenda := [.event i []], mailbox := { Mailbox.reset with cmds := [{ op := c.op, ctx := 0, pad := 0, args := c }] } }

/-- For `StepRunsTheInstruction` and `StepKeepsCanon`: an event, a command in its turn and one that is not, one that names
no core, the issue of a warp whose line holds an add, and of one whose line does not decode. -/
theorem witness_step :
    stepGives { State.reset with agenda := [.event (.junctionThrottle 7) []] } (fun t => (t.die 7).throttled) = true
    ∧ stepGives (oneCommand (.power 1500000) (.power 1500000)) (fun t => t.limit == 1500000 && t.mailbox.cmds == []) = true
    ∧ stepGives (oneCommand (.power 1500000) (.power 2000000)) (fun t => t.limit == 4400000 && t.mailbox.cmds != []) = true
    ∧ (Instr.junctionThrottle 8).eventOk = false
    ∧ (let s := State.reset.withFetchWord 96 0x100040205FFE000000000007
       issuesFirst s = true ∧ stepGives s (fun t => ((t.warp 0 0).lane 0).pc == 1 && t.canon) = true
       ∧ decodeWord (lineSlot ((s.warp 0 0).lineAt 0) 0) = .ok (.iadd (og false 2 0 1 2 0xFF 0xF0 7) m0))
    ∧ (let s := State.reset.withFetchWord 96 0x0001FE1E1E1F000000000000
       issuesFirst s = true ∧ decodeWord (lineSlot ((s.warp 0 0).lineAt 0) 0) = .error .illegalField) := by
  decide +kernel

/-- The second issue of a cycle: lanes 1 and 3, at slot 1. -/
def secondIssue : Issue :=
  let w := ((start.warp 0 0).modLanes 0xA fun _ x => { x with pc := 1 })
  { gid := 0, warp := 0, lanes := 0xA, pc := 1, busy := 0, cycle := 0, out := 0, pre := []
    snap := { w with lines := [(0, bytesOfWord 24 (0x100040205FFE000000000007 * 2 ^ 96) ++ targets.drop 24)] } }

/-- It is due, as a pair's second member or not. -/
def secondDue (pair : Bool) : State :=
  { start.modWarp 0 0 (fun _ => secondIssue.snap) with issue := none, second := some { iss := secondIssue, pair := pair } }

theorem witness_second : ∀ pair : Bool,
    let s : State := { secondDue pair with second := none }
    let v := if pair then (s.completeNow 0 0 (s.stillThere secondIssue)).keepBefore secondIssue else s
    (secondDue pair).second = some { iss := secondIssue, pair := pair } ∧ (secondDue pair).halted = false
    ∧ ∃ g, v.group 0 = some g ∧ (v.desc g).isRehearsal = false ∧ secondIssue.lanes ≠ 0
      ∧ secondIssue.snap.badEntry secondIssue.pc (lanesIn secondIssue.lanes) = []
      ∧ ((List.range 64).all fun l => !secondIssue.lanes.getLsbD l || (((g.warp 0).lane l).isLive
        && ((g.warp 0).lane l).pc == secondIssue.pc && ((g.warp 0).lane l).wait == .none)) = true
      ∧ decodeWord (lineSlot (secondIssue.snap.lineAt secondIssue.pc) (pcSlot secondIssue.pc))
        = .ok (.iadd (og false 2 0 1 2 0xFF 0xF0 7) m0) := by
  intro pair
  cases pair
  · exact ⟨by decide +kernel, by decide +kernel, ((secondDue false).group 0).getD (soloGroup 0), by decide +kernel⟩
  · exact ⟨by decide +kernel, by decide +kernel, (((((secondDue true).completeNow 0 0
      ((secondDue true).stillThere secondIssue)).keepBefore secondIssue).group 0).getD (soloGroup 0)), by decide +kernel⟩


/-! ## Memory -/

/-- A loft object of the context, and its capability with every right. -/
def loftObj : Obj := { base := 0x10000, len := 4096, gen := 0, owner := 1, ldie := 0, ord := .so, kind := .loft, rights := 0xF
                       placed := some 0, hostOwned := false }
def loftCap (off : Nat) : W64 := 0x00002F0000000000 + BitVec.ofNat 64 off

/-- The context has the object. -/
def withLoft (c : Ctx) : Ctx := { c with objs := c.objs ++ [(2, loftObj)] }

/-- Addresses in v2 (of shared memory, and stack words in v3), values in v4 and v5; s6 names the loft object at its
last word, s8 beyond it, s10 without the right to read or write. -/
def locals (a : Nat → Nat) : State :=
  at_ (fun w => withS [(6, loftCap 4092), (8, loftCap 4093), (10, 0x0000200000000000), (12, loftCap 0)]
    (withV [(2, fun l => BitVec.ofNat 32 (a l)), (3, fun _ => 7), (4, fun l => BitVec.ofNat 32 (0x100 + l)), (5, fun _ => 0xAB)]
      { w with stack := [(4 * (7 * 64 + 5), 0x55)] }))
    (fun g => { g with shared := [(20, 0x80)] }) withLoft

/-- The location of a lane in shared memory. -/
abbrev place (r : Run) (l : Nat) : Int := ((r.rd32 l r.o.a).toNat : Int) + (r.o.imm.toInt + ((r.rd32 l r.o.b).toNat : Int))

/-- The offset of a lane in its object. -/
abbrev offset (r : Run) (l : Nat) : Int := (capOff (r.rd64 .zero l r.o.a) : Int) + (r.o.imm.toInt + ((r.rd32 l r.o.b).toNat : Int))

/-- Every lane of the run names the loft object. -/
abbrev Names (s : State) (r : Run) : Prop := ∀ l ∈ r.act, s.capEntry r.g.ctx (r.rd64 .zero l r.o.a) [.loft] = some loftObj

/-- The entry of the loft object has the right WR alone. -/
def writeOnly : State := (locals fun _ => 0).modObj 1 2 fun x => { x with rights := 2 }

/-- For `Loads`: at the last word of shared memory, one byte beyond, below it, and misaligned; of a loft object, at its
last word, beyond, without the right, and without it in the object's entry alone; of the stack, at word 7 and at the first word that is not there. -/
theorem witness_loads :
    (W (.lds (o 0 4 2 0xF0 0xF0 0) mm) (locals fun _ => 262140) fun r => ∀ l ∈ r.act, 0 ≤ place r l ∧ place r l + 4 ≤ r.d.shared
      ∧ (place r l).toNat % 4 = 0 ∧ (locals fun _ => 262140).badRead (.shared r.gid) (place r l).toNat 4 = false)
    ∧ (W (.lds (o 0 4 2 0xF0 0xF0 0) mm) (locals fun _ => 262141) fun r => r.act = r.ls
      ∧ ∀ l ∈ r.act, place r l < 0 ∨ (r.d.shared : Int) < place r l + 4)
    ∧ (W (.lds (o 0 4 2 0xF0 0xF0 0xFFFFFFFC) mm) (locals fun _ => 3) fun r => r.act = r.ls
      ∧ ∀ l ∈ r.act, place r l < 0 ∨ (r.d.shared : Int) < place r l + 4)
    ∧ (W (.lds (o 0 4 2 0xF0 0xF0 0) mm) (locals fun _ => 262138) fun r => r.act = r.ls
      ∧ ∀ l ∈ r.act, 0 ≤ place r l ∧ place r l + 4 ≤ r.d.shared ∧ (place r l).toNat % 4 ≠ 0)
    ∧ (let s := locals fun _ => 0; W (.ldl (o 2 8 0xC6 0xF0 0xF0 0) mm) s fun r => Names s r
      ∧ ∀ l ∈ r.act, rightRD &&& (capRights (r.rd64 .zero l r.o.a) &&& loftObj.rights) = rightRD ∧ 0 ≤ offset r l
        ∧ offset r l + 4 ≤ loftObj.len ∧ (offset r l).toNat % 4 = 0 ∧ (s.hops r.g.die 0).isSome = true
        ∧ s.heldLen r.g.die r.g.core r.g.ctx 2 loftObj = loftObj.len
        ∧ (r.act.foldl (fun u l => u.drainSo r.gid r.w l) s).badRead (.loft 0) (loftObj.base + (offset r l).toNat) 4 = false)
    ∧ (let s := locals fun _ => 0; W (.ldl (o 2 8 0xC8 0xF0 0xF0 0) mm) s fun r => Names s r ∧ r.act = r.ls
      ∧ ∀ l ∈ r.act, rightRD &&& (capRights (r.rd64 .zero l r.o.a) &&& loftObj.rights) = rightRD ∧ (loftObj.len : Int) < offset r l + 4)
    ∧ (let s := locals fun _ => 0; W (.ldl (o 2 8 0xCA 0xF0 0xF0 0) mm) s fun r => Names s r ∧ r.act = r.ls
      ∧ ∀ l ∈ r.act, rightRD &&& (capRights (r.rd64 .zero l r.o.a) &&& loftObj.rights) ≠ rightRD)
    ∧ (W (.ldl (o 2 8 0xC6 0xF0 0xF0 0) mm) writeOnly fun r => ∀ l ∈ r.act,
      writeOnly.capEntry r.g.ctx (r.rd64 .zero l r.o.a) [.loft] = some { loftObj with rights := 2 }
      ∧ rightRD &&& capRights (r.rd64 .zero l r.o.a) = rightRD ∧ rightRD &&& (capRights (r.rd64 .zero l r.o.a) &&& 2) ≠ rightRD)
    ∧ (let s := locals fun _ => 0; W (.ldk (o 0 4 3 0xF0 0xF0 0) mm) s fun r => ∀ l ∈ r.act, 0 ≤ place r l
      ∧ (place r l + 1) * 256 ≤ ceilDiv r.d.stack 256 * 256
      ∧ ((place r l).toNat + 0) * 64 + l ∉ (s.warp r.gid r.w).stackErr)
    ∧ (let s := locals fun _ => 0; W (.ldk (o 0 4 3 0xF0 0xF0 1) mm) s fun r => r.act = r.ls
      ∧ ∀ l ∈ r.act, (ceilDiv r.d.stack 256 * 256 : Int) < (place r l + 1) * 256) :=
  ⟨issues_of (by decide +kernel), issues_of (by decide +kernel), issues_of (by decide +kernel), issues_of (by decide +kernel),
   issues_of (by decide +kernel), issues_of (by decide +kernel), issues_of (by decide +kernel), issues_of (by decide +kernel),
   issues_of (by decide +kernel), issues_of (by decide +kernel)⟩

/-- For `Stores`: the same places, and a capability of no object. -/
theorem witness_stores :
    (W (.sts (o 0 0xF0 2 0xF0 4 0) { mm with kind := .release, scope := .group }) (locals fun _ => 262140) fun r =>
      ∀ l ∈ r.act, 0 ≤ place r l ∧ place r l + 4 ≤ r.d.shared ∧ (place r l).toNat % 4 = 0)
    ∧ (W (.sts (o 0 0xF0 2 0xF0 4 0) mm) (locals fun _ => 262141) fun r => r.act = r.ls
      ∧ ∀ l ∈ r.act, place r l < 0 ∨ (r.d.shared : Int) < place r l + 4)
    ∧ (W (.sts (o 0 0xF0 2 0xF0 4 0) mm) (locals fun _ => 2) fun r => r.act = r.ls
      ∧ ∀ l ∈ r.act, 0 ≤ place r l ∧ place r l + 4 ≤ r.d.shared ∧ (place r l).toNat % 4 ≠ 0)
    ∧ (let s := start; W (.stl (o 0 0xF0 0xC6 0xF0 4 0) mm) s fun r => r.act = r.ls
      ∧ ∀ l ∈ r.act, s.capEntry r.g.ctx (r.rd64 .zero l r.o.a) [.loft] = none)
    ∧ (let s := locals fun _ => 0; W (.stl (o 0 0xF0 0xC6 0xF0 4 0) mm) s fun r => Names s r
      ∧ ∀ l ∈ r.act, rightWR &&& (capRights (r.rd64 .zero l r.o.a) &&& loftObj.rights) = rightWR ∧ 0 ≤ offset r l
        ∧ offset r l + 4 ≤ loftObj.len ∧ (offset r l).toNat % 4 = 0 ∧ (s.hops r.g.die 0).isSome = true
        ∧ s.heldLen r.g.die r.g.core r.g.ctx 2 loftObj = loftObj.len)
    ∧ (let s := locals fun _ => 0; W (.stl (o 0 0xF0 0xCA 0xF0 4 0) mm) s fun r => Names s r ∧ r.act = r.ls
      ∧ ∀ l ∈ r.act, rightWR &&& (capRights (r.rd64 .zero l r.o.a) &&& loftObj.rights) ≠ rightWR)
    ∧ (let s := locals fun _ => 0; W (.stl (o 0 0xF0 0xC8 0xF0 4 0) mm) s fun r => Names s r ∧ r.act = r.ls
      ∧ ∀ l ∈ r.act, rightWR &&& (capRights (r.rd64 .zero l r.o.a) &&& loftObj.rights) = rightWR ∧ (loftObj.len : Int) < offset r l + 4)
    ∧ (W (.stk (o 0 0xF0 3 0xF0 4 0) mm) (locals fun _ => 0) fun r =>
      ∀ l ∈ r.act, 0 ≤ place r l ∧ (place r l + 1) * 256 ≤ ceilDiv r.d.stack 256 * 256)
    ∧ (W (.stk (o 0 0xF0 3 0xF0 4 1) mm) (locals fun _ => 0) fun r => r.act = r.ls
      ∧ ∀ l ∈ r.act, (ceilDiv r.d.stack 256 * 256 : Int) < (place r l + 1) * 256) :=
  ⟨issues_of (by decide +kernel), issues_of (by decide +kernel), issues_of (by decide +kernel), issues_of (by decide +kernel),
   issues_of (by decide +kernel), issues_of (by decide +kernel), issues_of (by decide +kernel), issues_of (by decide +kernel),
   issues_of (by decide +kernel)⟩

/-- The location of an atomic of the loft meets the conditions. -/
abbrev AtomOk (s : State) (r : Run) (off : Int) (l : Nat) : Prop :=
  let need := rightRD ||| rightWR ||| rightAT
  need &&& (capRights (r.rd64 .zero l r.o.a) &&& loftObj.rights) = need ∧ 0 ≤ off ∧ off + 4 ≤ loftObj.len
    ∧ (loftObj.base + off.toNat) / 65536 = (loftObj.base + off.toNat + 3) / 65536 ∧ off.toNat % 4 = 0 ∧ (s.hops r.g.die 0).isSome = true
    ∧ s.heldLen r.g.die r.g.core r.g.ctx 2 loftObj = loftObj.len

/-- A rehearsal launch. -/
def rehearsal : State := at_ id (df := fun d => { d with flags := 2 })

/-- A store to bytes 20 to 23 of shared memory is under way. -/
def underWay : PWrite := { cycle := 0, op := none, rels := [], seen := false, gid := 0, warp := 0, lane := 2, space := .shared 0, addr := 20, bytes := [1, 2, 3, 4], ord := .rc, release := true
                           obj := some (1, 2), ctx := 1, node := 0, rmw := none, late := [] }
def storing : State := { locals (fun _ => 20) with writes := [underWay] }

/-- The loft object is RC, so that its plain atomics wait. -/
def relaxed : State := (locals fun _ => 0).modObj 1 2 fun x => { x with ord := .rc }

/-- For `AtomicsAndFences`: at the last word of shared memory and of a loft object, atomics that wait and that do not; in a rehearsal; an
atomic at a place with no store to it, and one at its home; the numbers; a fence with a store of its lanes under way. -/
theorem witness_atomics :
    (W (.atms (o 0 1 2 0xF0 4 0) { mm with op := .inc }) (locals fun _ => 262140) fun r =>
      ∀ l ∈ r.act, 0 ≤ place r l ∧ place r l + 4 ≤ r.d.shared ∧ (place r l).toNat % 4 = 0)
    ∧ (W (.cass (o 0 1 2 5 4 0) mm) (locals fun _ => 262140) fun r => let p := fun l => ((r.rd32 l r.o.a).toNat : Int) + (r.o.imm.toInt + 0)
      ∀ l ∈ r.act, 0 ≤ p l ∧ p l + 4 ≤ r.d.shared ∧ (p l).toNat % 4 = 0)
    ∧ (let s := locals fun _ => 0; W (.atml (o 0 1 0xC6 0xF0 4 0) { mm with kind := .acqRel, scope := .device }) s fun r => r.d.isRehearsal = false ∧ Names s r
      ∧ ∀ l ∈ r.act, AtomOk s r (offset r l) l)
    ∧ (let s := locals fun _ => 0; W (.casl (o 0 0xC3 0xC6 5 4 0) mm) s fun r => r.d.isRehearsal = false ∧ Names s r
      ∧ ∀ l ∈ r.act, AtomOk s r ((capOff (r.rd64 .zero l r.o.a) : Int) + (r.o.imm.toInt + 0)) l)
    ∧ (W (.atml (o 0 1 0xC6 0xF0 4 0) mm) relaxed fun r => r.d.isRehearsal = false ∧ ∀ l ∈ r.act, AtomOk relaxed r (offset r l) l
      ∧ relaxed.capEntry r.g.ctx (r.rd64 .zero l r.o.a) [.loft] = some { loftObj with ord := .rc })
    ∧ (∀ i ∈ ([.atml (o 0 1 0xC6 0xF0 4 0) mm, .casl (o 0 1 0xC6 5 4 0) mm] : List Instr),
      issuesB i rehearsal (fun r => decide (r.act = r.ls ∧ r.d.isRehearsal = true)) = true)
    ∧ ((∀ x ∈ storing.writes, ¬(x.space = .shared 0 ∧ x.addr < 24 + 4 ∧ 24 < x.addr + x.bytes.length))
      ∧ (∀ x ∈ storing.writes, x.byLane 0 0 5 = false) ∧ (storing.group 0).isSome = true ∧ storing.canon = true
      ∧ storing.badRead (.shared 0) 24 4 = false ∧ storing.badRead underWay.space underWay.addr 4 = false)
    ∧ (2 ^ 32 - 1 < 2 ^ 32 ∧ 0 < 2 ^ 64)
    ∧ (W (.fence (o 0 0xF0 0xF0 0xF0 0xF0 0) { scope := .group, kind := .release }) storing fun r =>
      ∃ x ∈ storing.writes, x.gid = r.gid ∧ x.warp = r.w ∧ x.lane ∈ r.act) :=
  ⟨issues_of (by decide +kernel), issues_of (by decide +kernel), issues_of (by decide +kernel), issues_of (by decide +kernel),
   issues_of (by decide +kernel), by decide +kernel, by decide +kernel, by decide +kernel, issues_of (by decide +kernel)⟩

theorem test_memory_steps :
    [givesV (.lds (o 0 4 2 0xF0 0xF0 0) { mm with size := 0, sx := true }) (locals fun _ => 20) 0 4 0xFFFFFF80,
     givesV (.lds (o 0 4 2 0xF0 0xF0 0) mm) storing 2 4 0x04030201, givesV (.lds (o 0 4 2 0xF0 0xF0 0) mm) storing 0 4 0x80,
     aborts (.lds (o 0 4 2 0xF0 0xF0 0) mm) (locals fun _ => 262141) .bounds 262141,
     opensV (.ldk (o 0 4 3 0xF0 0xF0 0) mm) (locals fun _ => 0) 5 0x55, opensV (.ldl (o 2 8 0xC6 0xF0 0xF0 0) mm) (locals fun _ => 0) 0 0,
     gives (.sts (o 0 0xF0 2 0xF0 4 0) mm) (locals fun _ => 4) (fun t => t.writes.length == 5 && (t.writes.map (·.bytes)).head? == some [0, 1, 0, 0]
       && readByte ((t.group 0).map (·.shared) |>.getD []) 4 == 0),
     gives (.stl (o 0 0xF0 0xC6 0xF0 4 0) mm) (locals fun _ => 4) (fun t => t.writes.all fun w => w.space == .loft 0 && w.addr == 0x10FFC),
     gives (.stk (o 0 0xF0 3 0xF0 4 0) mm) (locals fun _ => 4) (fun t => readByte (t.warp 0 0).stack (4 * (7 * 64 + 9)) == 9),
     opensV (.atms (o 0 1 2 0xF0 5 0) { mm with kind := .acqRel, scope := .group }) (locals fun _ => 20) 2 0x12B,
     opensV (.atml (o 0 1 0xC6 0xF0 5 0) { mm with kind := .acquire, scope := .group }) (locals fun _ => 20) 5 0x156,
     opensV (.cass (o 0 1 2 0xF0 5 0) { mm with kind := .acqRel, scope := .group }) (locals fun _ => 24) 2 0xAB,
     opensV (.casl (o 0 1 0xC6 0xF0 5 0) { mm with kind := .acquire, scope := .group }) (locals fun _ => 24) 0 0,
     gives (.atms (o 0 1 2 0xF0 5 0) mm) (locals fun _ => 20) (fun t => t.writes.length == 5 && t.writes.all (·.rmw.isSome)),
     gives (.fence (o 0 0xF0 0xF0 0xF0 0xF0 0) { scope := .group, kind := .release }) storing (fun t => t.writes == []
       && readByte ((t.group 0).map (·.shared) |>.getD []) 22 == 3),
     aborts (.atml (o 0 1 0xC6 0xF0 4 0) mm) rehearsal .rehearsal 0].all id = true := by decide +kernel

/-- Two lanes wait for the load of stamp 9: the window of lane 0 has run out, that of lane 5 has not. -/
def loading (res : Residence) : State :=
  let y : Window := { stamp := 9, cycle := 9, left := 0, pc := 0, dst := .v32 4, val := 77, tag := false, flags := 1, done := false, flt := none }
  at_ (fun w => (w.modLane 0 fun x => { x with windows := [y] }).modLane 5 fun x => { x with windows := [{ y with left := 2 }] })
    (fun g => { g with res := res })

/-- An atomic of lane 2, whose window has stamp 9, is on its way to bytes 20 to 23 of shared memory. -/
def adding : State := { loading .resident with
  writes := [{ underWay with bytes := [0, 0, 0, 0], release := false, obj := none, rmw := some { win := 9, fn := .atom .add, c := 7, shared := false } }] }

/-- For `LateEffects`: the store under way can reach its home, and so can the atomic; the load can complete, its group resident or not. -/
theorem witness_late :
    (underWay.rmw = none ∧ underWay.late = [] ∧ adding.writes.map (fun w => w.rmw.isSome) = [true])
    ∧ (storing.writes[0]? = some underWay ∧ (∀ x ∈ storing.writes.take 0, ahead x underWay = false) ∧ underWay.space ≠ .hbm
      ∧ (storing.group 0).isSome = true ∧ storing.canon = true ∧ storing.errUnits underWay.space = [])
    ∧ ∀ res ∈ [Residence.resident, .halted], let s := loading res
      (match s.group 0 with
        | none => false
        | some g => mapSorted none s.groups && (g.warp 0).lanes.length == 64 && ((g.warp 0).lane 0).awaits 9 && (g.warp 0).canon
          && s.groups.length == 1 && g.warps.length == 1 && g.res == res
          && s.second == none && s.loads == [] && s.writes == [] && (List.range 64).all (fun l => ((g.warp 0).lane l).windows.all fun z => z.stamp == 9)
          && (List.range 64).all fun l => !((g.warp 0).lane l).awaits 9 || (((g.warp 0).lane l).windows.length == 1
            && ((g.warp 0).lane l).windows.all fun y => y.stamp == 9 && y.flt == none)) = true := by decide +kernel

theorem test_late_steps :
    [gives (.writeReachesHome ⟨0, false⟩) storing (fun t => readByte ((t.group 0).map (·.shared) |>.getD []) 21 == 2 && t.writes == []
       && (t.obj 1 2).map (·.gen) == some 1),
     gives (.longLatencyComplete ⟨9, false⟩) (loading .resident) (fun t => ((t.warp 0 0).lane 0).getV 4 == 77 && ((t.warp 0 0).lane 5).getV 4 == 0
       && (t.warp 0 0).flags == 1)].all id = true := by decide +kernel

/-- A write of lane 2 stands in shared memory, and lane 0 misses it in this step. -/
def missed : State := { locals (fun _ => 20) with
  stale := [(0, 5)], stamp := 9
  recent := [{ id := 5, by_ := .lane 0 0 2, space := .shared 0, addr := 20, old := [1, 2, 3, 4], ord := .rc, rels := [], known := [.lane 0 0 2]
               wide := [], ctx := 1, node := 0 }] }

/-- A lane may read the older value of a location, and another the newer (R126). -/
theorem test_older_value :
    [givesV (.lds (o 0 4 2 0xF0 0xF0 0) mm) missed 0 4 0x04030201, givesV (.lds (o 0 4 2 0xF0 0xF0 0) mm) missed 5 4 0x80].all id = true := by
  decide +kernel

/-! ## Futures, rings and cues -/

/-- The group has four copy contexts and the right to scrim context 0; s5 holds `n`, s6 the name of copy context 0, s8
that of scrim context 0, s10 a name of no kind, s12 the number 3, s14 the number 2. -/
def futures (n : W64) : State :=
  let s := withEngines (at_ (withS [(5, n), (6, 0xE000), (8, 0x2000000000000000), (10, 0xE000000000000000), (12, 3), (14, 2)])
    (fun g => { g with copyCtxs := [0, 1, 2, 3] }) fun c => { withLoft c with scrim := 1 })
  { s with lqs := [(265, { ctx := 1, ring := 0, entries := 64, completion := 0, doorbell := 3, tail := 0, waiting := [], submitted := 0, done := [], counter := 6 })] }

/-- An operation of copy context 0 that has not started. -/
def openOp (kind : OpKind) (ectx seq : Nat) : Op :=
  { id := 3, gid := 0, ctx := 1, node := 0, die := 0, ldie := 0, core := 0, ectx := ectx, seq := seq, kind := kind, started := false, parked := false
    moved := false, slots := [], ring := 0, status := 0, stats := { sent := 0, sat := 0, nan := 0 }, wrote := [], banks := [], prog := none, record := [] }

/-- The operation of a handle. -/
abbrev seqOf (r : Run) (l : Nat) : Nat := handleSeq (r.rd64 .zero l r.o.a)

/-- For `FuturesAndTimelines`: FWAIT on a context that is not allotted, on operations complete, failed and under way;
FTEST, FCANCEL, TLRD and TLWAIT; the names of timelines, and completions in and out of order. -/
theorem witness_futures :
    (let s := futures 0x0900000000000001; W (.fwait (o 0 0xF0 0xC5 0xF0 0xF0 0)) s fun r => FreshB r ∧ r.act = r.ls
      ∧ (s.warp r.gid r.w).getS 5 = r.snap.getS 5 ∧ ∀ l ∈ r.act, s.ectx r.g (handleCtx (r.rd64 .zero l r.o.a)) = none)
    ∧ ([0, 1, 2, 4] : List W64).all (fun n => let s := futures n; issuesB (.fwait (o 0 0xF0 0xC5 0xF0 0xF0 0)) s fun r => decide (FreshB r
        ∧ r.act = r.ls ∧ (s.warp r.gid r.w).getS 5 = r.snap.getS 5 ∧ r.d.isDuet = false
        ∧ ∀ l ∈ r.act, s.ectx r.g (handleCtx (r.rd64 .zero l r.o.a)) = some engine)
        && r.act.all fun l => engine.failed (seqOf r l) == decide (n = 2) && reached engine.counter (seqOf r l) == decide (n ≠ 4)) = true
    ∧ (let s := futures 4; W (.ftest (o 0 2 0xC5 0xF0 0xF0 0) { b := true }) s fun r =>
      ∀ l ∈ r.act, s.ectx r.g (handleCtx (r.rd64 .zero l r.o.a)) = some engine)
    ∧ (let s := { futures 4 with ops := [openOp (.copy 0 0 0 [] false false) 0 4] }; W (.fcancel (o 0 1 0xC5 0xF0 0xF0 0)) s fun r =>
      r.g.res = .resident ∧ ∀ l ∈ r.act, (s.ectx r.g (handleCtx (r.rd64 .zero l r.o.a))).isSome = true)
    ∧ (let s := futures 4; W (.tlrdCnt (o 0 2 0xC6 0xF0 0xF0 0)) s fun r => ∀ l ∈ r.act, s.timeline r.g.ctx (r.rd64 .zero l r.o.a) = .counter 2)
    ∧ (let s := futures 4; W (.tlrdName (o 0 2 0xC5 0xF0 0xF0 0)) s fun r =>
      ∀ l ∈ r.act, s.ectx r.g (handleCtx (r.rd64 .zero l r.o.a)) = some engine)
    ∧ (let s := futures 4; W (.tlwait (o 0 0xF0 0xC6 0xCE 0xF0 0)) s fun r => FreshB r
      ∧ ∀ l ∈ r.act, s.timeline r.g.ctx (r.rd64 .zero l r.o.a) = .counter 2 ∧ (r.rd64 .zero l r.o.b).toNat = 2)
    ∧ (let s := futures 4; W (.tlwait (o 0 0xF0 0xC6 0xCC 0xF0 0)) s fun r => FreshB r ∧ r.act = r.ls ∧ r.d.isDuet = false
      ∧ ∀ l ∈ r.act, s.timeline r.g.ctx (r.rd64 .zero l r.o.a) = .counter 2 ∧ (r.rd64 .zero l r.o.b).toNat = 3)
    ∧ (let s := futures 4; W (.tlwait (o 0 0xF0 0xCA 0xCC 0xF0 0)) s fun r => FreshB r ∧ r.act = r.ls
      ∧ ∀ l ∈ r.act, s.timeline r.g.ctx (r.rd64 .zero l r.o.a) = .fault { code := .object, s45 := 0xE000000000000000 }) :=
  ⟨issues_of (by decide +kernel), by decide +kernel, issues_of (by decide +kernel), issues_of (by decide +kernel),
   issues_of (by decide +kernel), issues_of (by decide +kernel), issues_of (by decide +kernel), issues_of (by decide +kernel),
   issues_of (by decide +kernel)⟩

theorem witness_timelines : let s := futures 0
    s.phys 1 0 = some 0 ∧ mapGet (s.die 0).copyCtx 0 = some engine ∧ engine.holder = some (1, 0) ∧ (((s.ctx 1).map Ctx.scrim).getD 0).getLsbD 0 = true
    ∧ (mapGet (s.die 0).scrimCtx 0).isSome = true ∧ (mapGet s.lqs (lqKey 1 9)).any (fun q => q.ctx == 1) = true
    ∧ ({ engine with done := [] }.counter + 1 = 3) ∧ engine.counter + 1 ≠ 4 ∧ engine.counter + 1 ∉ engine.done := by decide +kernel

/-- A shared ring of four slots of 16 bytes at 64: slots 0 to 4 claimed, 0 to 2 filled and 0 released, with 4 filled
ahead of 3. -/
def aRing : Ring := { k := 2, size := 16, base := 64, claimed := 5, filled := 3, freed := 1, fillMarks := [4], freeMarks := [], owner := 1 }

/-- The group's ring 3 is `x`; v4 holds slot numbers, s6 the name of ring 3, s8 and v6 a base, s10 the configuration
of a ring of 16-byte slots, s12 zero, s14 one that is not legal. -/
def ringed (x : Option Ring) (n : Nat → Nat) : State :=
  at_ (fun w => withS [(6, 3), (10, 0x1002), (12, 0), (14, 0x1009)] (withV [(4, fun l => BitVec.ofNat 32 (n l)), (6, fun _ => 64)] w))
    (fun g => { g with rings := x.toList.map fun y => (3, y) }) withLoft

/-- The run names ring 3 of the group. -/
abbrev Rings (s : State) (r : Run) (y : Ring) : Prop := ∀ l ∈ r.act, s.useRing r.gid r.g (r.rd32 l r.o.a) = .ok (.group 0 3, y)

/-- The number of a slot. -/
abbrev slotNo (r : Run) (l : Nat) : Nat := (r.rd64 .zero l r.o.b).toNat

/-- A ring that rests. -/
def restRing : Ring := { aRing with claimed := 4, filled := 4, freed := 4, fillMarks := [] }

/-- The registers of `ringed` name ring 5 of the loft, and the loft object as its base. -/
def loftRinged : State := at_ (withS [(6, 0x80000005), (8, loftCap 0), (10, 0x1002)]) id withLoft

/-- For `StageRings`, RINGI: for helpers alone; a release; a new ring; one in use; an illegal configuration; a new ring of the loft. -/
theorem witness_ringi :
    (W (.ringi (o 0 0xF0 0xC6 0xC8 0xCA 0)) loftRinged fun r => r.lead = some 0 ∧ r.baseOk 0 = true
      ∧ loftRinged.ringAt r.gid r.g (r.rd32 0 r.o.a) = .ok (.loft 0 5) ∧ loftRinged.ringOf (.loft 0 5) = none ∧ (r.rd32 0 r.o.c) = 0x1002
      ∧ loftRinged.capEntry r.g.ctx (r.rd64 .zero 0 r.o.b) [.loft] = some loftObj ∧ loftObj.ldie = ((r.rd32 0 r.o.a).extractLsb' 28 3).toNat
      ∧ (loftRinged.checkCap r.g.ctx (r.rd64 .zero 0 r.o.b) (capOff (r.rd64 .zero 0 r.o.b)) (16 * 2 ^ 2) (rightRD ||| rightWR) [.loft] false false).toOption.map
        (·.1) = some loftObj ∧ loftRinged.heldLen r.g.die r.g.core r.g.ctx (capObj (r.rd64 .zero 0 r.o.b)) loftObj = loftObj.len) ∧
    (let s := at_ (fun w => w.modLanes mask5 fun _ x => { x with st := .helper }); W (.ringi (o 0 0xF0 0xC6 6 0xC7 0)) s fun r => r.lead = none)
    ∧ (∀ c ∈ ([0xCC, 0xCA, 0xCE] : List (BitVec 8)), ∀ x ∈ [some restRing, some aRing],
      let s := ringed x id; issuesB (.ringi (o 0 0xF0 0xC6 6 c 0)) s fun r => r.lead == some 0 && r.baseOk 0
        && decide (s.ringAt r.gid r.g (r.rd32 0 r.o.a) = .ok (.group 0 3)) && s.ringOf (.group 0 3) == x && !s.ringAwaited (.group 0 3)
        && decide (r.act = r.ls ∧ ((r.rd32 0 r.o.b).toNat + 16 * 2 ^ 2 ≤ r.d.shared) ∧ (r.rd32 0 r.o.c).toNat = if c = 0xCC then 0 else if c = 0xCA then 0x1002 else 0x1009)) :=
  ⟨issues_of (by decide +kernel), issues_of (by decide +kernel), by decide +kernel⟩

/-- For `StageRings`: slots that may be taken, filled, released and waited for, and slots that may not. -/
theorem witness_rings :
    (let s := ringed (some { aRing with claimed := 4, freed := 3, fillMarks := [] }) id
     W (.ringpTake (o 0 0xC2 0xC6 0xF0 0xF0 0)) s fun r => FreshB r ∧ Rings s r { aRing with claimed := 4, freed := 3, fillMarks := [] } ∧ 4 + 1 ≤ 3 + 2 ^ 2)
    ∧ (let s := ringed (some aRing) id; W (.ringpTake (o 0 2 0xC6 0xF0 0xF0 0)) s fun r => FreshB r ∧ Rings s r aRing ∧ r.act = r.ls
      ∧ r.d.isDuet = false ∧ (r.act.filter fun l => (r.snap.lane l).isReal) = r.ls ∧ aRing.claimed = aRing.freed + 2 ^ aRing.k)
    ∧ (let y := { aRing with k := 7, size := 16, claimed := 80 }; let s := ringed (some y) (· + 5)
       W (.ringpFill (o 0 0xF0 0xC6 4 0xF0 0)) s fun r => Rings s r y
        ∧ ∀ l ∈ r.act, (slotNo r l < y.claimed ∧ y.filled ≤ slotNo r l ∧ slotNo r l ∉ y.fillMarks)
          ∧ ∀ k ∈ r.act, slotNo r l = slotNo r k → l = k)
    ∧ (∀ n ∈ [2, 4, 5], let s := ringed (some aRing) fun _ => n; issuesB (.ringpFill (o 0 0xF0 0xC6 4 0xF0 0)) s fun r => decide (Rings s r aRing ∧ r.act = r.ls
        ∧ ∀ l ∈ r.ls, (r.snap.lane l).isReal = true ∧ (aRing.claimed ≤ slotNo r l ∨ slotNo r l < aRing.filled ∨ slotNo r l ∈ aRing.fillMarks)))
    ∧ (let y := { aRing with k := 7, size := 16, claimed := 80, filled := 70, fillMarks := [] }; let s := ringed (some y) (· + 1)
       W (.ringr (o 0 0xF0 0xC6 4 0xF0 0)) s fun r => Rings s r y
        ∧ ∀ l ∈ r.act, (slotNo r l < y.filled ∧ y.freed ≤ slotNo r l) ∧ ∀ k ∈ r.act, slotNo r l = slotNo r k → l = k)
    ∧ (∀ n ∈ [0, 3], let s := ringed (some aRing) fun _ => n; issuesB (.ringr (o 0 0xF0 0xC6 4 0xF0 0)) s fun r => decide (Rings s r aRing ∧ r.act = r.ls
        ∧ ∀ l ∈ r.ls, (r.snap.lane l).isReal = true ∧ (aRing.filled ≤ slotNo r l ∨ slotNo r l < aRing.freed)))
    ∧ (∀ n ∈ [0, 1, 2, 3, 4], let s := ringed (some aRing) fun _ => n; issuesB (.ringw (o 0 5 0xC6 4 0xF0 0) { k := 3 }) s fun r => decide (FreshB r ∧ Rings s r aRing
        ∧ r.act = r.ls ∧ r.d.isDuet = false ∧ ∀ l ∈ r.act, slotNo r l = n))
    ∧ (aRing.filled ≤ 3 ∧ 3 ∉ aRing.fillMarks ∧ aRing.freed ≤ 1 ∧ 1 ∉ aRing.freeMarks) :=
  ⟨issues_of (by decide +kernel), issues_of (by decide +kernel), issues_of (by decide +kernel), by decide +kernel,
   issues_of (by decide +kernel), by decide +kernel, by decide +kernel, by decide +kernel⟩

/-- Ring 3 after an instruction. -/
def ringAfter (i : Instr) (s : State) (p : Ring → Bool) : Bool := gives i s fun t => ((t.group 0).bind fun g => mapGet g.rings 3).any p

theorem test_future_ring_steps :
    let s := ringed (some aRing) fun _ => 3
    [movesTo (.fwait (o 0 0xF0 0xC5 0xF0 0xF0 0)) (futures 1) 0 1, aborts (.fwait (o 0 0xF0 0xC5 0xF0 0xF0 0)) (futures 2) .futureFailed 0x80000001,
     givesP (.ftest (o 0 2 0xC5 0xF0 0xF0 0) { b := true }) (futures 4) 0 2 true, givesV (.ftest (o 0 2 0xC5 0xF0 0xF0 0) { b := false }) (futures 3) 0 2 0,
     gives (.fcancel (o 0 1 0xC5 0xF0 0xF0 0)) { futures 3 with ops := [openOp (.copy 0 0 0 [] false false) 0 3] } (fun t =>
       ((t.warp 0 0).lane 0).getP 1 && !((t.warp 0 0).lane 2).getP 1 && t.ops == []),
     givesV (.tlrdCnt (o 0 2 0xC6 0xF0 0xF0 0)) (futures 4) 0 2 2, givesV (.tlrdName (o 0 2 0xC5 0xF0 0xF0 0)) (futures 4) 0 2 0xE000,
     movesTo (.tlwait (o 0 0xF0 0xC6 0xCE 0xF0 0)) (futures 4) 0 1, gives (.tlwait (o 0 0xF0 0xC6 0xCC 0xF0 0)) (futures 4) (fun t => ((t.warp 0 0).lane 0).wait == .timeline 0xE000 3),
     ringAfter (.ringi (o 0 0xF0 0xC6 6 0xCA 0)) (ringed none id) (fun y => y.base == 64 && y.size == 16 && y.k == 2),
     aborts (.ringi (o 0 0xF0 0xC6 6 0xCA 0)) (ringed (some aRing) id) .ringMisuse 2,
     ringAfter (.ringpTake (o 0 2 0xC6 0xF0 0xF0 0)) (ringed (some { aRing with k := 5 }) id) (fun y => y.claimed == 10),
     ringAfter (.ringpFill (o 0 0xF0 0xC6 4 0xF0 0)) { s with issue := s.issue.map fun i => { i with lanes := 1 } } (fun y => y.filled == 5 && y.fillMarks == []),
     ringAfter (.ringr (o 0 0xF0 0xC6 4 0xF0 0)) (let s := ringed (some aRing) fun _ => 1; { s with issue := s.issue.map fun i => { i with lanes := 1 } }) (fun y => y.freed == 2),
     givesV (.ringw (o 0 5 0xC6 4 0xF0 0) { k := 3 }) (ringed (some aRing) fun _ => 2) 0 5 2, aborts (.ringw (o 0 5 0xC6 4 0xF0 0) { k := 3 }) (ringed (some aRing) fun _ => 0) .ringMisuse 5].all id = true := by
  decide +kernel

/-! ## Engines -/

/-- A cue of one dimension with these CTRL, format and extent words, the rest zero. -/
def cueBytes (ctrl fmt e0 : Nat) : List Byte :=
  bytesOfWord 8 ctrl ++ bytesOfWord 8 fmt ++ bytesOfWord 4 e0 ++ List.replicate 76 0

/-- A copy of `n` bytes without stages. -/
def plainCue (n : Nat) : List Byte := cueBytes 0x5A 0x0D0D n

/-- Bank records of an encoder and a decoder of two values over one. -/
def encoder : List Byte := [0xC5, 0, 2, 1, 0] ++ List.replicate 11 0 ++ [1, 1, 0, 0, 0, 0, 0, 0]
def decoder : List Byte := [0xC5, 1, 2, 1, 0] ++ List.replicate 11 0 ++ [1, 1, 0, 0] ++ List.replicate 8 0

/-- A ring of the loft of die 0. -/
def aLoftRing : Ring := { k := 2, size := 32, base := loftCap 0, claimed := 4, filled := 4, freed := 3, fillMarks := [], freeMarks := [], owner := 1 }

/-- Everything that the engines use: cues 0 to 3 of the four modes, cue 4 of a reduction of F32, banks 4 and 5 of die 0, ring 3 of its loft, the rights to
scrim contexts, and objects in shared memory: a cue at 0 and bytes at 96. -/
def engines (m : W64 := mask5) : State :=
  let s := withEngines (at_ (fun w => withS [(6, 0xFFFFFF0000000060), (8, 0xFFFFFF0000000080), (10, 0), (12, loftCap 0), (14, 0x0405_00C0_0002_0010), (16, 0x0504_00C0_0002_0010)]
      (withV [(2, fun _ => 96), (3, fun _ => 5)] w))
    (fun g => { g with copyCtxs := [0, 1, 2, 3], shared := writeBytes (writeBytes [] 0 (plainCue 4)) 96 [1, 2, 3, 4], rings := [(3, aRing)] })
    (fun c => { withLoft c with scrim := 1, cues := [(0, plainCue 4), (1, cueBytes 0x405A 0x0D0D 4), (2, cueBytes 0x805A 0x0D0D 4), (3, cueBytes 0xC05A 0x0404 4)] }) id m)
  { s with dies := s.dies.modify 0 fun d => { d with
      banks := [(4, { holder := some 1, recs := [{ ctx := 1, bytes := encoder, saved := none }] }), (5, { holder := some 1, recs := [{ ctx := 1, bytes := decoder, saved := none }] })],
      rings := [(3, aLoftRing)], scrimStat := [(0, { sent := 7, sat := 8, nan := 9 })] },
             loft := writeBytes [] (loftKey 0 0x10000) encoder }

/-- All lanes of the run are helpers. -/
def helped : State := at_ (fun w => w.modLanes (BitVec.allOnes 64) fun _ x => { x with st := .helper })

/-- For `CuesAndScrimStatus`: CUEB of a legal and of an illegal record in shared memory and of a record in a loft, with a
handle free and with none; CUEF of a sealed and of a free handle; helpers alone. -/
theorem witness_cues :
    (let s := engines; W (.cueb (o 0 0xC8 0xF0 0xF0 0xF0 0) { b := false }) s fun r => r.lead = some 0
      ∧ ((r.reals.rd32 0 r.o.a).toNat : Int) + r.o.imm.toInt = 0 ∧ 0 + 96 ≤ r.d.shared ∧ s.badRead (.shared 0) 0 96 = false
      ∧ (cueOf (s.readLane r.gid r.w 0 0 (.shared 0) 0 96)).check = 0
      ∧ (s.ctx r.g.ctx).any (fun c => mapGet c.cues 4 == none && (List.range 4).all fun i => (mapGet c.cues i).isSome) = true)
    ∧ (let s := engines; W (.cueb (o 0 0xC8 0xF0 0xF0 0xF0 16) { b := false }) s fun r => r.lead = some 0
      ∧ ((r.reals.rd32 0 r.o.a).toNat : Int) + r.o.imm.toInt = 16 ∧ 16 + 96 ≤ r.d.shared ∧ s.badRead (.shared 0) 16 96 = false
      ∧ (cueOf (s.readLane r.gid r.w 0 0 (.shared 0) 16 96)).check ≠ 0)
    ∧ (let s := engines; W (.cueb (o 0 0xC8 0xCC 0xF0 0xF0 16) { b := true }) s fun r => r.lead = some 0 ∧ s.badRead (.loft 0) 0x10010 96 = false
      ∧ s.checkCap r.g.ctx (r.reals.rd64 .zero 0 r.o.a) (capOff (r.reals.rd64 .zero 0 r.o.a) + r.o.imm.toInt) 96 rightRD [.loft] false false = .ok (loftObj, 16)
      ∧ s.heldLen r.g.die r.g.core r.g.ctx (capObj (r.reals.rd64 .zero 0 r.o.a)) loftObj = loftObj.len)
    ∧ (let s := at_ id (fun g => { g with shared := writeBytes [] 0 (plainCue 4) }) fun c => { c with cues := (List.range 256).map fun i => (i, []) }
       W (.cueb (o 0 0xC8 0xF0 0xF0 0xF0 0) { b := false }) s fun r => r.lead = some 0
        ∧ (cueOf (s.readLane r.gid r.w 0 0 (.shared 0) 0 96)).check = 0
        ∧ (s.ctx r.g.ctx).any (fun c => (List.range 256).all fun i => (mapGet c.cues i).isSome) = true)
    ∧ (W (.cuef (o 0 0xF0 0xCA 0xF0 0xF0 0)) engines fun r => r.lead = some 0 ∧ (engines.ctx r.g.ctx).any (fun c => (mapGet c.cues (r.rd64 .zero 0 r.o.a).toNat).isSome) = true)
    ∧ (W (.cuef (o 0 0xF0 0xC6 0xF0 0xF0 0)) engines fun r => r.lead = some 0 ∧ r.act = r.ls
      ∧ (engines.ctx r.g.ctx).any (fun c => mapGet c.cues (r.rd64 .zero 0 r.o.a).toNat == none) = true)
    ∧ (∀ i ∈ ([.cueb (o 0 0xC8 0xF0 0xF0 0xF0 0) { b := false }, .cuef (o 0 0xF0 0xCA 0xF0 0xF0 0), .mma (og false 0 0 3 0xC5 0xF0 0xF0 0),
        .accz (o 0 3 0xF0 0xF0 0xF0 0), .acci (o 0 3 0x20 0xF0 0xF0 0) { m0 with ty := .f32 }, .cpy (o 0 0xCA 0xC6 0xC7 0xC8 0) { ctx := 0, recGen := false, sameGen := false },
        .redst (o 0 0xCA 0xC6 0xC7 0xC8 0) { ctx := 0, tag := false, ty := .f32, op := .add }, .xbank (o 0 0xCC 0xC6 0xFF 0xF0 5) { ctx := 0 },
        .cross (o 0 0xCA 0xC6 0xC7 0xF0 0) { ctx := 0, loft := true, keepy := false }] : List Instr),
      issuesB i helped (fun r => r.lead == none) = true) :=
  ⟨issues_of (by decide +kernel), issues_of (by decide +kernel), issues_of (by decide +kernel), issues_of (by decide +kernel),
   issues_of (by decide +kernel), issues_of (by decide +kernel), by decide +kernel⟩

/-- For `CuesAndScrimStatus`, XSTAT: the premises of each selector. -/
theorem witness_xstat :
    (∀ sel ∈ ([0, 4] : List (BitVec 4)), issuesB (.xstat (o 0 0xC2 0xF0 0xF0 0xF0 0) { sel := sel, clr := false }) engines (fun r => r.act ≠ []) = true)
    ∧ issuesB (.xstat (o 0 0xC2 0xFF 0xF0 0xF0 0) { sel := 5, clr := false }) engines (fun r => (r.rd32 (r.act.headD 0) r.o.a).toNat == 0
      && engines.phys r.g.ctx 0 == some 0) = true
    ∧ issuesB (.xstat (o 0 0xC2 0xFF 0xF0 0xF0 5) { sel := 6, clr := false }) engines (fun r => (r.rd32 (r.act.headD 0) r.o.a).toNat == 5
      && engines.phys r.g.ctx (5 / 256) == some 0 && engines.bankRec r.g.ctx 0 5 == some decoder) = true
    ∧ (∀ sel ∈ ([1, 2, 3] : List (BitVec 4)), issuesB (.xstat (o 0 0xC2 0xFF 0xF0 0xF0 0) { sel := sel, clr := true }) engines (fun r =>
      (r.rd32 (r.act.headD 0) r.o.a).toNat == 0 && engines.scrimOwned r.g.ctx 0) = true) := by decide +kernel

/-- Cue 5 delivers into ring 3 of the group. -/
def ringCopy : State := engines.modCtx 1 fun c =>
  { c with cues := mapSet c.cues 5 ((cueBytes 0x2005A 0x0D0D 4).take 84 ++ bytesOfWord 4 3 ++ List.replicate 8 0) }

/-- For `EngineIssue`, copies: a fitting cue, one that delivers into a ring, one not sealed, a context not allotted, and a cue of another mode. -/
theorem witness_copies :
    (∀ p ∈ ([(.cpy (o 0 0xCA 0xC6 0xC8 0xCA 0) { ctx := 0, recGen := false, sameGen := false }, 0, 0),
        (.cpyg (o 0 0xCA 0xC6 0xC8 0xFF 1) { ctx := 3, recGen := true, sameGen := false }, 1, 3),
        (.cpyx (o 0 0xCA 0xC6 0xC8 0xFF 2) { ctx := 0, recGen := false, sameGen := true }, 2, 0)] : List (Instr × Nat × Nat)),
      issuesB p.1 engines (fun r => r.lead == some 0 && ((engines.ctx r.g.ctx).bind fun x => mapGet x.cues (r.reals.rd64 .zero 0 r.o.c).toNat).any
        (fun bs => (cueOf bs).mode == p.2.1 && !(cueOf bs).rg) && r.o.a != 0xF0 && (engines.ectx r.g p.2.2).isSome) = true)
    ∧ (W (.cpy (o 0 0xCA 0xC6 0xC8 0xFF 9) { ctx := 0, recGen := false, sameGen := false }) engines fun r => r.lead = some 0 ∧ r.act = r.ls
      ∧ (engines.ectx r.g 0).isSome = true ∧ (engines.ctx r.g.ctx).bind (fun x => mapGet x.cues (r.reals.rd64 .zero 0 r.o.c).toNat) = none)
    ∧ (W (.cpy (o 0 0xCA 0xC6 0xC8 0xFF 0) { ctx := 4, recGen := false, sameGen := false }) engines fun r => r.lead = some 0 ∧ r.act = r.ls
      ∧ engines.ectx r.g 4 = none ∧ (engines.ctx r.g.ctx).bind (fun x => mapGet x.cues (r.reals.rd64 .zero 0 r.o.c).toNat) = some (plainCue 4))
    ∧ (W (.cpyx (o 0 0xCA 0xC6 0xC8 0xFF 0) { ctx := 0, recGen := false, sameGen := false }) engines fun r => r.lead = some 0 ∧ r.act = r.ls
      ∧ (engines.ectx r.g 0).isSome = true ∧ (engines.ctx r.g.ctx).bind (fun x => mapGet x.cues (r.reals.rd64 .zero 0 r.o.c).toNat) = some (plainCue 4))
    ∧ (W (.cpy (o 0 0xCA 0xF0 0xC8 0xFF 5) { ctx := 0, recGen := false, sameGen := false }) ringCopy fun r => r.lead = some 0
      ∧ ((ringCopy.ctx r.g.ctx).bind fun x => mapGet x.cues (r.reals.rd64 .zero 0 r.o.c).toNat).any (fun bs => (cueOf bs).rg && (cueOf bs).mode == 0
        && (cueOf bs).ring == 3 && decide ((cueOf bs).minUnit ≤ aRing.size - 8)) = true
      ∧ ringCopy.ringAt r.gid r.g 3 = .ok (.group 0 3) ∧ ringCopy.ringOf (.group 0 3) = some aRing ∧ aRing.owner = r.g.ctx) :=
  ⟨by decide +kernel, issues_of (by decide +kernel), issues_of (by decide +kernel), issues_of (by decide +kernel), issues_of (by decide +kernel)⟩

/-- What the crossings ask of their descriptor, with banks of two values over one. -/
def crossLegal (d : W64) : Bool :=
  !d.getLsbD 47 && d.extractLsb' 32 6 == 0 && decide (1 ≤ dNvec d ∧ dNvec d ≤ 256 ∧ 2 * 2 ≤ dVpitch d) && engines.phys 1 (dDie d) == some 0
  && engines.scrimOwned 1 0

/-- For `EngineIssue`, the rest: a reduction, also in a rehearsal; crossings of both directions; a bank load, and one
from no object. -/
theorem witness_scrims :
    (∀ s ∈ [engines, { engines with ctxs := engines.ctxs.map fun p => (p.1, { p.2 with nodes := mapMod p.2.nodes 0 fun n => { n with desc := { n.desc with flags := 2 } } }) }],
      issuesB (.redst (o 0 0xCA 0xC6 0xC8 0xFF 3) { ctx := 0, tag := true, ty := .f32, op := .add }) s fun r => r.lead == some 0 && r.act == r.ls
        && ((s.ctx r.g.ctx).bind fun x => mapGet x.cues (r.reals.rd64 .zero 0 r.o.c).toNat).any (fun bs => !(cueOf bs).rg && (cueOf bs).mode == 3
          && (cueOf bs).sfmt == typeCode .f32 && (cueOf bs).dfmt == typeCode .f32) && (s.ectx r.g 0).isSome)
    ∧ (let d : W64 := 0x0405_00C0_0002_0010; issuesB (.cross (o 0 0xCA 0xCC 0xCE 0xF0 0) { ctx := 0, loft := true, keepy := true }) engines (fun r =>
        r.lead == some 0 && r.reals.rd64 .zero 0 r.o.b == d && (engines.capEntry r.g.ctx (r.reals.rd64 .zero 0 r.o.a) [.loft]).isSome
        && engines.bankRec r.g.ctx r.g.die (dLbank d) == some encoder && engines.bankRec r.g.ctx 0 (dRbank d) == some decoder && crossLegal d) = true)
    ∧ (let d : W64 := 0x0504_00C0_0002_0010; issuesB (.crossb (o 0 0xCA 2 0xD0 0xF0 0) { ctx := 0, loft := false, keepy := false }) engines (fun r =>
        r.lead == some 0 && r.reals.rd64 .zero 0 r.o.b == d && engines.bankRec r.g.ctx r.g.die (dLbank d) == some decoder
        && engines.bankRec r.g.ctx 0 (dRbank d) == some encoder && crossLegal d) = true)
    ∧ (W (.xbank (o 0 0xCA 0xCC 0xFF 0xF0 6) { ctx := 0 }) engines fun r => r.lead = some 0 ∧ (r.reals.rd32 0 r.o.b).toNat = 6
      ∧ engines.scrimOwned r.g.ctx 0 = true ∧ engines.phys r.g.ctx (6 / 256) = some 0 ∧ (engines.capEntry r.g.ctx (r.reals.rd64 .zero 0 r.o.a) [.loft]).isSome = true)
    ∧ (W (.xbank (o 0 0xCA 0xCA 0xFF 0xF0 0) { ctx := 0 }) engines fun r => r.lead = some 0 ∧ r.act = r.ls
      ∧ engines.scrimOwned r.g.ctx 0 = true ∧ engines.phys r.g.ctx (0 / 256) = some 0 ∧ engines.capEntry r.g.ctx (r.reals.rd64 .zero 0 r.o.a) [.loft] = none) :=
  ⟨by decide +kernel, by decide +kernel, by decide +kernel, issues_of (by decide +kernel), issues_of (by decide +kernel)⟩

theorem test_engine_steps :
    [opensV (.cueb (o 0 0xC8 0xF0 0xF0 0xF0 0) { b := false }) engines 0 4, gives (.cuef (o 0 0xF0 0xCA 0xF0 0xF0 0)) engines (fun t => (t.ctx 1).any fun c => c.cues.length == 3),
     aborts (.cuef (o 0 0xF0 0xC6 0xF0 0xF0 0)) engines .cueInvalid 10, givesS (.xstat (o 0 0xC2 0xFF 0xF0 0xF0 0) { sel := 1, clr := true }) engines 2 7,
     givesS (.xstat (o 0 0xC2 0xFF 0xF0 0xF0 5) { sel := 6, clr := false }) engines 2 0x1020005,
     opensV (.cpy (o 0 0xCA 0xC6 0xC8 0xCA 0) { ctx := 0, recGen := false, sameGen := false }) engines 0 5,
     gives (.cpyg (o 0 0xCA 0xC6 0xC8 0xFF 1) { ctx := 3, recGen := true, sameGen := false }) engines (fun t => t.ops.length == 1),
     aborts (.cpyx (o 0 0xCA 0xC6 0xC8 0xFF 0) { ctx := 0, recGen := false, sameGen := false }) engines .cueInvalid 12,
     opensV (.redst (o 0 0xCA 0xC6 0xC8 0xFF 3) { ctx := 1, tag := false, ty := .f32, op := .add }) engines 0 0x0100000000000005,
     opensV (.cross (o 0 0xCA 0xCC 0xCE 0xF0 0) { ctx := 0, loft := true, keepy := true }) engines 0 0x4000000000000005,
     gives (.xbank (o 0 0xCA 0xCC 0xFF 0xF0 6) { ctx := 0 }) engines (fun t => t.ops.map (·.kind) == [.xbank (loftCap 0) 6 0])].all id = true := by
  decide +kernel

/-- The state with one operation under way. -/
def working (x : Op) : State := { engines with ops := [x] }

/-- For `CopyEvents`: a copy that starts, one that may not, one whose page is absent, and one that pauses; a claim on a ring with room and
on a full one; copies that complete here and far away. -/
theorem witness_copy_events :
    (let x := openOp (.copy 0 0xFFFFFF0000000080 0xFFFFFF0000000060 (plainCue 4) false false) 0 3; let s := working x; let c := cueOf (plainCue 4)
      s.op 3 = some x ∧ x.slots = [] ∧ x.prog = none ∧ s.writes = [] ∧ s.canStart x = true ∧ c.check = 0 ∧ c.nstage = 0 ∧ c.dims = 1 ∧ c.mode = 0 ∧ c.rg = false ∧ c.gx = false ∧ capObj c.auxb = 0
      ∧ c.e0 * fmtBits c.sfmt / 8 = 4 ∧ capObj 0xFFFFFF0000000080 = 0xFFFFF ∧ capOff 0xFFFFFF0000000080 = 128
      ∧ s.badRead (.shared 0) 96 4 = false ∧ s.badRead (.shared 0) 128 4 = false ∧ (s.group 0).any (fun g => decide (132 ≤ (s.desc g).shared)) = true)
    ∧ (let x := { openOp (.copy 0 0 0 (plainCue 4) false false) 0 3 with moved := true }; (working x).op 3 = some x ∧ (working x).canStart x = false)
    ∧ (let x := openOp (.copy 0 0xFFFFFF0000000080 0x00001F0000000000 (plainCue 4) false false) 0 3
       (match (working x).runCopy x none (cueOf (plainCue 4)) 0xFFFFFF0000000080 0x00001F0000000000 false false with | .error (va, _) => va.isSome | .ok _ => false) = true)
    ∧ (let x := openOp (.copy 0 0xFFFFFF0000000080 0xFFFFFF0000000060 (plainCue 4) false false) 0 3
       (match (working x).runCopy x (some 0) (cueOf (plainCue 4)) 0xFFFFFF0000000080 0xFFFFFF0000000060 false false with | .error (va, _) => va.isNone | .ok _ => false) = true)
    ∧ (let x := openOp (.redst .add .f32 0 0xFFFFFF0000000080 0xFFFFFF0000000060 (cueBytes 0xC05A 0x0404 1)) 0 3
       (match (working x).runRedst x none (cueOf (cueBytes 0xC05A 0x0404 1)) .add .f32 0 0xFFFFFF0000000080 0xFFFFFF0000000060 with | .ok _ => true | .error _ => false) = true)
    ∧ (∀ k ∈ [2, 3], let x := { openOp (.copy 0 0 0 (plainCue 4) false false) 0 3 with slots := [{ pieces := [(0, [1, 2])], count := 2, status := 0 }], ring := 3 }
      let s := (working x).modGroup 0 fun g => { g with rings := [(3, { aRing with k := k })] }
      s.op 3 = some x ∧ x.kind.isCopy = true ∧ s.claimTurn x = true ∧ (s.group 0).any (fun g => decide (s.ringAt 0 g 3 = .ok (.group 0 3))
        && mapGet g.rings 3 == some { aRing with k := k } && g.sharedErr == [] && decide (2 + 8 ≤ aRing.size) && decide (g.res ≠ .draining)) = true
      ∧ (2 ^ k ≤ aRing.claimed - aRing.freed ↔ k = 2))
    ∧ (∀ gx : Bool, let x := { openOp (.copy 0 0 0 (if gx then cueBytes 0x1005A 0 4 else plainCue 4) false false) 0 3 with moved := true, wrote := [(1, 2)] }
      (working x).op 3 = some x ∧ x.slots = [] ∧ x.remote = gx) := by decide +kernel

/-- Does the crossing compute its vectors? -/
def crossRuns (s : State) (x : Op) (src d : W64) : Bool :=
  match s.crossRun x false false true src d with
  | .ok _ => true
  | .error _ => false

/-- For `ScrimEvents`: a crossing that starts and one that fails, a claim, a delivery with its slot filled and one
without, and a bank load. -/
theorem witness_scrim_events :
    (let d : W64 := 0x0405_00C0_0002_0010; let x := { openOp (.cross false false true 96 d) 0x40 3 with banks := [(0, 4), (0, 5)] }; let s := working x
      s.op 3 = some x ∧ s.writes = [] ∧ x.started = false ∧ s.earlierCross x (·.started) = false ∧ (s.bank 0 4).holder = some 1 ∧ (s.bank 0 5).holder = some 1
      ∧ s.bankRec 1 0 4 = some encoder ∧ s.bankRec 1 0 5 = some decoder ∧ (s.hops 0 0).isSome = true ∧ dNvec d = 2
      ∧ (∀ v ∈ [0, 1], 96 + v * 16 + brK encoder ≤ 262144 ∧ s.badRead (.shared 0) (96 + v * 16) (brK encoder) = false)
      ∧ crossRuns s x 96 d = true ∧ crossRuns s x 0xFFFFF d = false)
    ∧ (let x := { openOp (.cross false false true 96 0x0405_00C0_0002_0010) 0x40 3 with banks := [(0, 4), (0, 5)], moved := true, slots := [{ pieces := [(0, [1, 2])], count := 2, status := 0 }] }
      let s := working x; s.op 3 = some x ∧ (s.earlierCross x fun z => (z.moved && z.slots.isEmpty) || z.crossRing != x.crossRing) = false
      ∧ mapGet (s.die 0).rings (dRidx 0x0405_00C0_0002_0010) = some aLoftRing ∧ aLoftRing.owner = 1 ∧ 2 + 8 ≤ aLoftRing.size ∧ aLoftRing.claimed - aLoftRing.freed < 2 ^ aLoftRing.k
      ∧ s.capEntry 1 aLoftRing.base [.loft] = some loftObj
      ∧ rightWR &&& (capRights aLoftRing.base &&& loftObj.rights) = rightWR ∧ capOff aLoftRing.base + 4 * 32 ≤ loftObj.len ∧ s.errUnits (.loft 0) = [] ∧ gives (.engineRingClaim 3) s (fun u => (u.op 3).any fun y => y.slots == []) = true)
    ∧ (let x := { openOp (.cross false false true 96 0x0405_00C0_0002_0010) 0x40 3 with moved := true }; (working x).op 3 = some x ∧ x.slots = []
      ∧ ((working x).group 0).any (fun g => decide (g.res ≠ .draining)) = true)
    ∧ (let x := openOp (.xbank (loftCap 0) 6 0) 0x40 3; let s := working x; let bs := readBytes s.loft (loftKey 0 0x10000) 16
      s.op 3 = some x ∧ s.writes = [] ∧ s.bankInUse x 0 6 = false ∧ brSize bs ≤ loftObj.len ∧ s.errUnits (.loft 0) = [] ∧ (s.hops 0 0).isSome = true ∧ capObj (loftCap 0) ≠ 0xFFFFF ∧ s.capEntry 1 (loftCap 0) [.loft] = some loftObj
      ∧ rightRD &&& (capRights (loftCap 0) &&& loftObj.rights) = rightRD ∧ capOff (loftCap 0) % 16 = 0 ∧ brOk bs = true ∧ brSize bs = 24
      ∧ (s.bank 0 6).holder = none) := by decide +kernel

theorem test_engine_events :
    [gives (.copyStart ⟨3, none⟩) (working (openOp (.copy 0 0xFFFFFF0000000080 0xFFFFFF0000000060 (plainCue 4) false false) 0 3)) (fun t =>
       t.writes.map (fun w => (w.addr, w.bytes)) == [(128, [1, 2, 3, 4])]),
     gives (.copyComplete 3) (working { openOp (.copy 0 0 0 (plainCue 4) false false) 0 3 with moved := true, wrote := [(1, 2)] }) (fun t =>
       t.ops == [] && (mapGet (t.die 0).copyCtx 0).any (fun e => e.counter == 4) && (t.obj 1 2).map (·.gen) == some 1),
     gives (.gridCopyLocalComplete 3) (working { openOp (.copy 0 0 0 (cueBytes 0x1005A 0 4) false false) 0 3 with moved := true }) (fun t => t.ops == []),
     gives (.engineRingClaim 3) (working { openOp (.copy 0 0 0 (plainCue 4) false false) 0 3 with slots := [{ pieces := [(0, [1, 2])], count := 2, status := 0 }], ring := 3 })
       (fun t => (t.op 3).any fun x => x.slots.length == 1),
     gives (.crossingStart 3) (working { openOp (.cross false false true 96 0x0405_00C0_0002_0010) 0x40 3 with banks := [(0, 4), (0, 5)] }) (fun t => (t.op 3).any fun x => x.moved && x.slots.length == 1),
     gives (.crossingDelivery 3) (working { openOp (.cross false false true 96 0x0405_00C0_0002_0010) 0x40 3 with moved := true, stats := { sent := 0, sat := 2, nan := 0 } })
       (fun t => t.ops == [] && (mapGet (t.die 0).scrimStat 0).any fun x => x.sent == 8 && x.sat == 10),
     gives (.xbankLoadComplete 3) (working (openOp (.xbank (loftCap 0) 6 0) 0x40 3)) (fun t => t.bankRec 1 0 6 == some encoder)].all id = true := by decide +kernel

/-! ## Matrices -/

/-- A parameter block of BF16 operands in registers from 0 and from `b`. -/
def blockBytes (mode b : Nat) : List Byte := bytesOfWord 4 (mode + 6 * 16 + 6 * 256) ++ bytesOfWord 4 0 ++ bytesOfWord 4 b ++ List.replicate 52 0

/-- A group of a matrix kernel, all lanes issuing: s5 is the place of a block of `mode`. -/
def matrices (mode : Nat) (q : List MEntry := []) (fl : BitVec 8 := 0) (m : W64 := BitVec.allOnes 64) : State :=
  let s := at_ (withV [(0, fun _ => 0x3F803F80), (32, fun _ => 0x40004000)])
    (fun g => { g with shared := writeBytes [] 0 (blockBytes mode 64), tiles := [(3, { Tile.empty with flags := 4 })] }) id (fun d => { d with flags := fl }) m
  (s.modCore 0 0 fun c => { c with queue := q })

/-- An entry that zeroes tile 3. -/
def anEntry (k : Nat) (op : MOp) (rdv : Rdv := .free) : MEntry := { id := k, entered := some k, cycles := 0, numbered := false, gid := 0, warp := 0, tile := 3, op := op, rdv := rdv }

/-- `block` and `passes` of `MatrixIssue`. -/
def blockB (s : State) (r : Run) (modes : List Nat) : Bool :=
  let ws := blockOf (s.readLane r.gid r.w 0 0 (.shared r.gid) 0 64)
  r.lead == some 0 && decide (r.o.d.toNat < r.d.acc) && (r.rd32 0 r.o.a).toNat == 0 && r.o.imm == 0 && !s.badRead (.shared r.gid) 0 64
  && blockDetail ws modes r.d.vregs r.d.sregs r.snap.getS == 0 && (pairRegs ws).all (fun n => !r.snap.tagged n)
  && !r.badOperands ws && s.operandFault r ws false == none && s.operandFault r ws true == none && !(bAloft ws && bBloft ws && !bScl ws)

/-- For `MatrixIssue`: each form with room in the queue and with none; not all lanes; a tile and a block that are not
there. -/
theorem witness_matrix_issue :
    ([(.mma (og false 15 0 3 0xF0 0xF0 0xF0 0), 0, [0]), (.mmab (og false 15 0 3 0xF0 0xF0 0xF0 0), 1, [1]), (.mmad (og false 15 0 3 0xF0 0xF0 0xF0 0), 2, [2, 3])]
        : List (Instr × Nat × List Nat)).all (fun x =>
      issuesB x.1 (matrices x.2.1) (fun r => blockB (matrices x.2.1) r x.2.2 && r.snap.live &&& ~~~r.iss.lanes == 0 && !r.d.isDuet)
      && issuesB x.1 (matrices x.2.1 (m := mask5)) (fun r => blockB (matrices x.2.1 (m := mask5)) r x.2.2 && r.act == r.ls && r.snap.live &&& ~~~r.iss.lanes != 0)) = true
    ∧ W (.mma (o 0 3 0xF0 0xF0 0xF0 0)) (matrices 0 ((List.range 8).map fun k => anEntry k .zero)) (fun r => r.lead = some 0 ∧ 8 ≤ ((matrices 0 ((List.range 8).map fun k => anEntry k .zero)).core r.g.die r.g.core).queue.length)
    ∧ (let s := (matrices 0).modCore 0 0 fun c => { c with waiting := [anEntry 0 .zero] }
       W (.mma (o 0 3 0xF0 0xF0 0xF0 0)) s fun r => r.lead = some 0 ∧ (s.core r.g.die r.g.core).waiting ≠ [])
    ∧ (∀ i ∈ ([.mma (o 0 31 0xF0 0xF0 0xF0 0), .accz (o 0 31 0xF0 0xF0 0xF0 0)] : List Instr), issuesB i (at_ id (df := fun d => { d with acc := 31 })) (fun r => r.lead == some 0 && r.act == r.ls && decide (r.d.acc ≤ r.o.d.toNat)) = true)
    ∧ W (.mma (o 0 3 0xF0 0xF0 0xF0 262081)) start (fun r => r.lead = some 0 ∧ r.act = r.ls ∧ r.o.d.toNat < r.d.acc ∧ (r.d.shared : Int) < ((r.rd32 0 r.o.a).toNat : Int) + r.o.imm.toInt + 64)
    ∧ W (.accz (o 0 3 0xF0 0xF0 0xF0 0)) start (fun r => r.lead = some 0 ∧ r.o.d.toNat < r.d.acc)
    ∧ (∀ b : Bool, issuesB (.acci (o 0 3 0x20 0xF0 0xF0 0) { m0 with ty := .bf16 }) (if b then matrices 0 else start) (fun r => r.lead == some 0 && r.act == r.ls
      && decide (r.o.d.toNat < r.d.acc) && (r.snap.live &&& ~~~r.iss.lanes == 0) == b) = true) :=
  ⟨by decide +kernel, issues_of (by decide +kernel), issues_of (by decide +kernel), by decide +kernel, issues_of (by decide +kernel),
   issues_of (by decide +kernel), by decide +kernel⟩

/-- A pair of groups of a duet launch: the warp of the partner stands at rendezvous `q`, lane states by `f`. -/
def duet (mode : Nat) (queue : List MEntry) (q : W64) (f : Warp → Warp := id) : State :=
  let s := matrices mode queue 1
  let p := ((s.group 0).getD (soloGroup 0))
  { s with groups := [(0, p), (1, { p with lin := 1, warps := p.warps.map fun w => f { w with pairing := q } })] }

/-- The descriptor of the block, as the run of `duet` reads it. -/
def theDescriptor : List W64 := 0x662 :: (List.replicate 2048 0)

/-- The rendezvous of `MatrixIssue`: the queue of the partner is empty, or holds an entry with the same descriptor. -/
def rendezvousB (u : State) (held : Bool) (r : Run) : Bool :=
  let ws := blockOf (u.readLane r.gid r.w 0 0 (.shared r.gid) 0 64)
  blockB u r [2, 3] && r.d.isDuet && r.snap.live &&& ~~~r.iss.lanes == 0 && match u.partner r.g with
  | none => false
  | some (pid, p) => pid == 1 && pid != r.gid && match u.heldBy pid p r.w with
    | [] => !held && decide ((p.warp r.w).pairing.toNat < 1) && !u.parted pid r.w
    | [e] => held && e.rdv == .held 1 (descriptor ws (r.macOp ws)) && decide ((u.warp r.gid r.w).pairing + 1 = 1)
    | _ => false

/-- For `MatrixIssue`, MMAD of a duet launch: no partner, the first of the pair, and the second. -/
theorem witness_rendezvous :
    W (.mmad (o 0 3 0xF0 0xF0 0xF0 0)) (matrices 2 [] 1) (fun r => r.d.isDuet = true ∧ (matrices 2 [] 1).partner r.g = none ∧ blockB (matrices 2 [] 1) r [2, 3] = true)
    ∧ issuesB (.mmad (o 0 3 0xF0 0xF0 0xF0 0)) (duet 2 [] 0) (rendezvousB (duet 2 [] 0) false) = true
    ∧ (let e := { anEntry 0 .zero (.held 1 theDescriptor) with gid := 1 }
       issuesB (.mmad (o 0 3 0xF0 0xF0 0xF0 0)) (duet 2 [e] 1) (rendezvousB (duet 2 [e] 1) true) = true) :=
  ⟨issues_of (by decide +kernel), by decide +kernel, by decide +kernel⟩

/-- The partner's lanes wait at an `ACCG` of tile 3. -/
def atAccg (both : Bool) (w : Warp) : Warp :=
  { w with lanes := w.lanes.map fun x => { x with wait := .accg none { base := 0x20, tile := 3, bf := true, sat := false, both := both, weight := 0, act := true, snap := none } } }

/-- For `MatrixJoins`: entries to execute; an `ACCO` before and after the entries of its tile, and what stops it; an
`ACCG` without a partner, before its partner and after it; a held entry. -/
theorem witness_joins :
    (∀ op ∈ [MOp.zero, .init (List.replicate 1024 1), .failed, .mac (blockOf (blockBytes 0 64)) [] [] [] 0 0 0 0], let e := anEntry 0 op; let s := matrices 0 [e]
      nextEntry (s.core 0 0).queue = some e ∧ e.rdv = .free ∧ mapSorted none s.groups = true
      ∧ (s.group 0).any (fun g => !(g.tile 3).bad && g.warps.all fun w => w.join? == none) = true
      ∧ (s.core 0 0).waiting = [] ∧ ((((s.modCore 0 0 fun k => { k with queue := [] }).modTile 0 3 Tile.zero).unlearn e.agent).fill 0 0).groups.all
        (fun p => p.2.warps.all fun w => w.join? == none) = true
      ∧ s.operandImage e.agent 1 (blockOf (blockBytes 0 64)) false 0 0 [] = some [] ∧ s.operandImage e.agent 1 (blockOf (blockBytes 0 64)) true 0 0 [] = some [])
    ∧ ((List.replicate 1024 (1 : W32)).length = 1024 ∧ 1023 < 1024)
    ∧ (∀ q ∈ [[], [anEntry 0 .zero]], let s := { matrices 0 q with stamp := 1 }; issuesB (.acco (o 0 0x20 0xF0 0xF0 0xF0 3) { m0 with ty := .f32 }) s (fun r => r.lead == some 0
        && decide (3 < r.d.acc) && r.snap.live &&& ~~~r.iss.lanes == 0 && decide (0x20 + 16 ≤ r.d.vregs) && !r.d.isDuet && mapSorted none s.groups
        && (s.group 0).any (fun g => g.warps.all fun w => w.join? == none) && (s.entriesOn r.gid r.g 3 s.stamp == q.length) && !(r.g.tile 3).bad && !(r.g.tile 3).latch) = true)
    ∧ issuesB (.acco (o 0 0x20 0xF0 0xF0 0xF0 3) { m0 with ty := .f32 }) start (fun r => r.lead == some 0 && r.act == r.ls && decide (3 < r.d.acc) && r.snap.live &&& ~~~r.iss.lanes != 0) = true
    ∧ issuesB (.acco (o 0 0x20 0xF0 0xF0 0xF0 31) { m0 with ty := .f32 }) (at_ id (df := fun d => { d with acc := 31 })) (fun r => r.lead == some 0 && r.act == r.ls && decide (r.d.acc ≤ 31)) = true
    ∧ issuesB (.accg (o 0 0x20 0xC6 0xF0 0xF0 3) { m0 with ty := .bf16, w := true }) (matrices 2 [] 1) (fun r => r.lead == some 0 && r.act == r.ls && decide (3 < r.d.acc)
      && r.snap.live &&& ~~~r.iss.lanes == 0 && (matrices 2 [] 1).partner r.g == none) = true
    ∧ (∀ b : Bool, let s := duet 2 [] 0 (if b then atAccg true else id); issuesB (.accg (o 0 0x20 0xC6 0xF0 0xF0 3) { m0 with ty := .bf16, w := true }) s (fun r =>
        r.lead == some 0 && decide (3 < r.d.acc) && r.snap.live &&& ~~~r.iss.lanes == 0 && r.d.isDuet && mapSorted none s.groups && s.groups.all (fun p => p.2.warps.all fun w => w.join? == none)
        && match s.partner r.g with
        | none => false
        | some (pid, p) => pid == 1 && (p.warp r.w).real != 0 && (p.warp r.w).lanes.all (fun x => x.wait.isFirst == b) && s.heldBy pid p r.w == []
          && (p.warp r.w).lanes.length == 64 && p.die == r.g.die && p.core == r.g.core && r.g.lin % 2 == 0 && p.lin % 2 == 1 && (r.g.tile 3).fault == none && (p.tile 3).fault == none
          && (s.partner p).any (fun q => q.1 == 0 && q.2 == r.g) && ((p.warp r.w).joinArgs Wait.isFirst).any (fun a => a.bf && !a.sat && a.both && a.tile == 3) == b) = true)
    ∧ (∀ res ∈ [Residence.resident, .halted], let e := anEntry 0 .zero (.held 1 []); let s := (matrices 2 [e] 1).modGroup 0 fun g => { g with res := res }
        (s.group 0).any (fun g => g.res == res && s.heldBy 0 g 0 == [e] && (g.warp 0).lanes.length == 64
        && (g.warp 0).lanes.all fun x => x.windows == []) = true)
    ∧ (let s := (matrices 0).modWarp 0 0 (atAccg true); Wait.isFirst .none = false ∧ (s.group 0).any (fun g => (g.warp 0).lanes.length == 64
        && (g.warp 0).canon && (g.warp 0).lanes.all fun x => x.windows == [] && x.wait.isFirst) = true) :=
  ⟨by decide +kernel, by decide +kernel, by decide +kernel, by decide +kernel, by decide +kernel, by decide +kernel, by decide +kernel, by decide +kernel, by decide +kernel⟩

/-- The queue of core 0 after an instruction. -/
def queueAfter (i : Instr) (s : State) (p : List MEntry → Bool) : Bool := gives i s fun t => p (t.core 0 0).queue

theorem test_matrix_steps :
    [queueAfter (.mma (o 0 3 0xF0 0xF0 0xF0 0)) (matrices 0) (fun q => q.length == 1), queueAfter (.mmab (o 0 3 0xF0 0xF0 0xF0 0)) (matrices 1) (fun q => q.length == 1),
     gives (.mma (o 0 3 0xF0 0xF0 0xF0 0)) (matrices 0 ((List.range 8).map fun k => anEntry k .zero)) (fun t => (t.core 0 0).waiting.length == 1 && ((t.warp 0 0).lane 5).pc == 0),
     gives (.matrixEntryExecute 0 0) ((matrices 0 ((List.range 8).map fun k => anEntry k .zero)).modCore 0 0 fun c => { c with waiting := [anEntry 9 .zero] })
       (fun t => (t.core 0 0).waiting == [] && (t.core 0 0).queue.length == 8),
     queueAfter (.mmad (o 0 3 0xF0 0xF0 0xF0 0)) (duet 2 [] 0) (fun q => q.all fun e => e.rdv.isHeld), aborts (.mma (o 0 3 0xF0 0xF0 0xF0 262081)) start .bounds 262081,
     queueAfter (.accz (o 0 3 0xF0 0xF0 0xF0 0)) start (fun q => q == [anEntry 0 .zero]),
     queueAfter (.acci (o 0 3 0x20 0xF0 0xF0 0) { m0 with ty := .bf16 }) (matrices 0) (fun q => q.any fun e => match e.op with | .init img => img.take 2 == [0x40000000, 0x40000000] | _ => false),
     (let u := (matrices 0).endJoin 0 0 { base := 32, tile := 3, bf := true, sat := false, both := false, weight := 0, act := true, snap := none } (fun x => x == .none) [(32, [5, 6, 7])] 1
      ((u.warp 0 0).lane 2).pc == 1 && (u.warp 0 0).flags == 5 && ((u.warp 0 0).lane 2).getV 32 == 7 && ((u.warp 0 0).lane 3).getV 32 == 0x40004000),
     gives (.acco (o 0 0x20 0xF0 0xF0 0xF0 3) { m0 with ty := .f32 }) { matrices 0 [anEntry 0 .zero] with stamp := 1 } (fun t => ((t.warp 0 0).lane 5).pc == 0),
     aborts (.accg (o 0 0x20 0xC6 0xF0 0xF0 3) { m0 with ty := .bf16, w := true }) (matrices 2 [] 1) .duetAbsent 0,
     gives (.matrixEntryExecute 0 0) (matrices 0 [anEntry 0 (.init [7, 8])]) (fun t => (t.core 0 0).queue == [] && (t.group 0).any fun g => ((g.tile 3).chain 1).e == 8),
     gives (.duetBoundExpiry 0 0) (matrices 2 [anEntry 0 .zero (.held 1 [])] 1) (fun t => (t.core 0 0).queue.all fun e => e.rdv == .free)].all id = true := by
  decide +kernel

/-! ## Records, lines, frames and nodes -/

/-- A node. -/
def aNode : Node := Node.ofDesc Desc.solo

/-- The kernel emits at most 4 records of 16 bytes to node 3, which has one record place left over; `k` of them were sent before. -/
def emitting (k : Nat) : State :=
  at_ (withS [(6, 0x1234)]) (fun g => { g with shared := writeBytes [] 32 [9, 8, 7, 6], emitted := k })
    (fun c => { c with nodes := c.nodes ++ [(3, { aNode with desc := { Desc.solo with qrec := 16 }, reserved := 4 })] }) (fun d => { d with edst := 3, emax := 4 })

/-- A record is on its way to node 3, in the callboard, which holds one and forms batches of `q`. -/
def batching (q : Nat) : State :=
  let x : QRecord := { node := 0, producer := 0, ordinal := 0, bytes := [1] }
  { (emitting 0).modNode 1 3 fun y => { y with board := some 0, queue := [x], desc := { y.desc with qbatch := q } } with
    emits := [{ ctx := 1, node := 0, edst := 3, records := [x] }] }

/-- For `RecordsAndSignals`: EMIT of 4 records, of none, of 257, beyond shared memory, and beyond EMAX; records that arrive; SIGNAL to a node and to
none; signals that are late, that count down, and that make their node ready. -/
theorem witness_records :
    ([4, 0, 257] : List W32).all (fun n => issuesB (.emit (o 0 0xC9 0xF0 0xFF 0xC6 n)) (emitting 0) (fun r => r.lead == some 0 && r.act == r.ls
      && (r.reals.rd32 0 r.o.b) == n && decide (r.g.emitted + 4 ≤ r.d.emax) && ((emitting 0).node r.g.ctx r.d.edst).any (fun e => e.desc.qrec == 16)
      && !(emitting 0).badRead (.shared r.gid) 0 64)) = true
    ∧ issuesB (.emit (o 0 0xC9 0xFF 0xFF 0xC6 262143)) (emitting 0) (fun r => r.lead == some 0 && r.act == r.ls) = true
    ∧ issuesB (.emit (o 0 0xC9 0xF0 0xFF 0xC6 1)) (emitting 4) (fun r => r.lead == some 0 && r.act == r.ls && decide (r.d.emax < r.g.emitted + 1)) = true
    ∧ issuesB (.emit (o 0 0xC9 0xF0 0xFF 0xC6 1)) helped (fun r => r.lead == none) = true
    ∧ ([3, 5] : List W32).all (fun n => issuesB (.signal (o 0 0xF0 0xFF 0xF0 0xF0 n)) (emitting 0) (fun r => r.lead == some 0 && r.act == r.ls
      && ((emitting 0).node r.g.ctx (r.reals.rd32 0 r.o.a).toNat).isSome == (n == 3))) = true
    ∧ (aNode.count = 0 ∧ { aNode with count := 2 }.complete = false ∧ { aNode with count := 2 }.count ≠ 1
      ∧ { aNode with count := 1, live := true }.board = none ∧ aNode.desc.cueMask = 0)
    ∧ (∀ q ∈ [1, 2], (batching q).emits[0]?.any (fun e => e.edst == 3 && e.records.length == 1) = true ∧ (((batching q).ctx 1).any fun x => ((batching q).node 1 3).any fun y =>
      y.board == some 0 && y.desc.qrec == 16 && y.queue.length == 1 && (decide (0 < x.nextGroups 3 y) == (q == 1))
      && decide (0 < x.nextGroups 3 { y with queue := y.queue ++ y.queue })) = true) :=
  ⟨by decide +kernel, by decide +kernel, by decide +kernel, by decide +kernel, by decide +kernel, by decide +kernel, by decide +kernel⟩

/-- Its signal to node 3 is on its way; the node has the count, and is live. -/
def signalled (n : Nat) : State :=
  let s := emitting 0
  { s.modNode 1 3 fun y => { y with count := n, live := true } with signals := [{ ctx := 1, node := 0, target := 3 }], emits := [{ ctx := 1, node := 0, edst := 3, records := [{ node := 0, producer := 0, ordinal := 0, bytes := [1] }] }] }

theorem test_record_steps :
    [givesS (.emit (o 0 0xC9 0xF0 0xFF 0xC6 2)) (emitting 1) 9 1, gives (.emit (o 0 0xC9 0xF0 0xFF 0xC6 3)) (emitting 0) (fun t => t.emits.any fun e =>
       e.records.map (·.ordinal) == [0, 1, 2] && (e.records.map fun x => x.bytes.take 2) == [[0x34, 0x12], [0x34, 0x12], [0x34, 0x12]]),
     aborts (.emit (o 0 0xC9 0xF0 0xFF 0xC6 5)) (emitting 0) .bounds 4, gives (.signal (o 0 0xF0 0xFF 0xF0 0xF0 3)) (emitting 0) (fun t => t.signals.length == 1),
     aborts (.signal (o 0 0xF0 0xFF 0xF0 0xF0 5)) (emitting 0) .object 5, gives (.emitRecordsArrive 0) (signalled 2) (fun t => (t.node 1 3).any fun y => y.queue.length == 1 && y.reserved == 3),
     gives (.emitRecordsArrive 0) { batching 2 with stamp := 7 } (fun t => (t.node 1 3).any fun y => y.board == some 7),
     gives (.emitRecordsArrive 0) { batching 1 with stamp := 7 } (fun t => (t.node 1 3).any fun y => y.board == some 0),
     gives (.signalApply 0) (signalled 2) (fun t => (t.node 1 3).any fun y => y.count == 1 && y.board == none), gives (.signalApply 0) (signalled 1) (fun t => (t.node 1 3).any fun y => y.board.isSome),
     gives (.signalApply 0) (signalled 0) (fun t => (t.ctx 1).any fun c => c.late == 1)].all id = true := by decide +kernel

/-- The lanes stand at the first slot of line 1, which is not in the buffers; the code is readable, and one of its bits is in error. -/
def missing : State := (withTable (at_ (fun w => w.modLanes (BitVec.allOnes 64) fun _ x => { x with pc := pcOfIndex 5 }) id longCode)).closeIssue

/-- The same, the pages of the code absent. -/
def absent : State := missing.modDie 0 fun d => { d with tlb := [] }

/-- Operation 3 waits for a page that the tables of the context map. -/
def walked : State :=
  { absent.modCtx 1 fun c => { c with l3 := [(0, 0x2001)] } with
    hbm := [(0x2000, 0xC3)], walks := [{ who := .op 3, ctx := 1, va := 0x10000 }]
    ops := [{ openOp (.copy 0 0 0 [] false false) 0 4 with parked := true }] }

/-- For `InstructionLines`: a fetch whose parity is good, one whose parity fails, an illegal line, the second fetches, an
absent page, and walks. -/
theorem witness_lines :
    (let s := missing; s.fetches[0]? = some (0, 0, 1) ∧ (match s.group 0 with
      | none => false
      | some g => match s.readCode g.ctx g.die g.core (s.desc g) 64 64 with
        | .error _ => false
        | .ok raw =>
          let good := fun fl => let bs := flipBits raw fl; (bs.take 60).foldl (· ^^^ ·) 0 == bs.getD 63 0
          good [64] && lineIllegal (flipBits raw [64]) == 0 && !good [] && good [64, 489] && lineIllegal (flipBits raw [64, 489]) != 0
          && decide ((s.warp 0 0).where (s.wantsLine 0 g (s.warp 0 0) 1) ≠ 0) && (g.warp 0).lanes.all fun x => x.pc == pcOfIndex 5 && x.wait == .none) = true)
    ∧ (let s := absent; s.fetches[0]? = some (0, 0, 1) ∧ s.walks = [] ∧ (match s.group 0 with
      | none => false
      | some g => !(s.desc g).isDuet && match s.readCode g.ctx g.die g.core (s.desc g) 64 64 with | .error (.absent va) => va == 64 | _ => false) = true)
    ∧ (let word := fun bs : List Byte => BitVec.ofNat 32 (leNat ((bs.drop 60).take 4)); (word targets).extractLsb' 5 4 = 0 ∧ (word targets).extractLsb' 9 15 = 0
      ∧ (word (List.replicate 61 0 ++ [2, 0, 0])).extractLsb' 9 15 ≠ 0 ∧ (word (List.replicate 60 0 ++ [0x60, 0, 0, 0])).extractLsb' 5 2 = 3)
    ∧ (let s := { missing with walks := [{ who := .op 3, ctx := 1, va := 0x10000 }] }
       (match leafOf s (s.walkerOf (.op 3)) 1 0x10000 with | .error .absent => true | _ => false) = true)
    ∧ (walked.walks[0]? = some { who := .op 3, ctx := 1, va := 0x10000 } ∧ (walked.op 3).isSome = true
      ∧ (match walk walked 0 1 0x10000 with | .ok (leaf, bits) => leaf == 0xC3 && bits == 36 | .error _ => false) = true
      ∧ walked.isNever 1 0x10000 = false ∧ (walked.core 0 0).dtlb = [] ∧ (walked.die 0).tlb = []) := by decide +kernel

theorem test_line_steps :
    [gives (.lineFetchComplete 0 [64]) missing (fun t => ((t.warp 0 0).lines).length == 2), gives (.lineFetchComplete 0 []) missing (fun t => t.refetches.length == 1),
     aborts (.lineFetchComplete 0 [64, 489]) missing .illegalLine 1,
     aborts (.lineRefetchComplete 0 []) { missing with refetches := [{ gid := 0, warp := 0, line := 1, first := List.replicate 8 0 ++ [1] ++ List.replicate 55 0 }] } .lineParity 1,
     gives (.lineFetchComplete 0 []) absent (fun t => t.walks.length == 1 && t.notices == [.pageAbsent 1 64] && ((t.warp 0 0).lane 0).wait == .page .none),
     gives (.pageWalkComplete 0) walked (fun t => t.walks == [] && (t.die 0).tlb.length == 1 && (t.core 0 0).dtlb.length == 1 && t.ops.all fun x => !x.parked),
     gives (.pageWalkComplete 0) { missing with walks := [{ who := .op 3, ctx := 1, va := 0x10000 }] } (fun t => t.walks.length == 1)].all id = true := by decide +kernel

/-- Every lane waits for operation 4 of copy context 0; the context's pool has `n` units. -/
def blocked (n : Nat) : State :=
  withEngines (at_ (fun w => { w with lanes := w.lanes.map fun x => { x with wait := .future 3 } }) (fun g => { g with copyCtxs := [0, 1, 2, 3] }) fun c => { c with pool := [(0, n)] })

/-- A group that was pre-empted, and is resumed. -/
def resumed : State := (start.modGroup 0 fun g => { g with res := .saved .resumed }).closeIssue

/-- A node whose one group has not been dispatched. -/
def undispatched : State :=
  { (start.modNode 1 0 fun n => { n with dispatched := 0 }).closeIssue with groups := [] }

/-- For `FramesAndDispatch`: a unit with and without room in the pool; a restore to a core with room and to a spare one; a dispatch. -/
theorem witness_frames :
    (∀ n ∈ [0, 100], let s := blocked n; s.unit 0 = [0] ∧ s.eligible 0 = true ∧ (s.core 0 0).queue = [] ∧ (s.group 0).any (fun g => g.res == .resident
      && (s.ctx g.ctx).any fun c => decide (c.used + frameUnits (s.desc g) 0 ≤ c.poolUnits) == (n == 100)) = true)
    ∧ (∀ core ∈ [1, 64], let s := resumed; s.unit 0 = [0] ∧ s.restoreReady 0 = true ∧ (s.group 0).any (fun g => !(s.desc g).isDuet && g.res == .saved .resumed && !g.frameErr
      && (s.takes g.die core (s.desc g) 0 == 0) == (core == 64) && g.warps.all fun w => w.lanes.all fun x => x.windows == []) = true)
    ∧ (let s := undispatched; (s.die 0).lost = false ∧ (s.die 0).stopped = false ∧ s.nextNode 0 = some (1, 0) ∧ (s.node 1 0).any (fun y => y.desc.qrec == 0 && y.queue == []
      && y.desc.emax == 0 && y.desc.cluster == 1 && !y.desc.isDuet && decide (y.dispatched < y.desc.groups) && decide (0 < s.takes 0 5 y.desc y.desc.nctx)
      && y.handles == [] && decide (y.desc.nops ≤ 16)) = true ∧ s.group s.nextGid = none) := by decide +kernel

theorem test_frame_steps :
    [gives (.swapOut 0) (blocked 100) (fun t => (t.group 0).any (fun g => g.res == .saved .swapped) && (t.ctx 1).any fun c => decide (0 < c.used)),
     gives (.swapOut 0) (blocked 0) (fun t => (t.group 0).any fun g => g.res == .resident), gives (.restore 0 [7]) resumed (fun t => (t.group 0).any fun g => g.res == .resident && g.core == 7),
     gives (.callboardDispatch 0 [5]) undispatched (fun t => (t.group 1).any (fun g => g.core == 5 && ((g.warp 0).lane 63).st == .real) && (t.node 1 0).any fun n => n.dispatched == 1)].all id
      = true := by decide +kernel

/-- Node 0 after `f`, with no group left. -/
def ended (f : Node → Node) : State := { (start.modNode 1 0 f).closeIssue with groups := [] }

/-- A control node of this kind, for object 2, a HOST object that the host has or not. -/
def control (k : Nat) (host : Bool) : State :=
  (ended fun n => { n with desc := { n.desc with ctl := k, ops := 0x0000200000000000 :: n.desc.ops.drop 1 } }).modCtx 1 fun c =>
    { c with objs := c.objs ++ [(2, { loftObj with kind := .host, placed := none, hostOwned := host })] }

/-- For `NodesComplete`: a node with a group, one that failed, one that succeeded, the three control nodes, and the places of a launch queue. -/
theorem witness_nodes :
    (start.quiet 1 0 = false ∧ (start.node 1 0).any (fun y => y.live && !y.complete && y.desc.ctl == 0) = true)
    ∧ (∀ b : Bool, let s := ended fun n => { n with failed := b }; s.quiet 1 0 = true ∧ (s.node 1 0).any (fun y => y.live && !y.complete && y.desc.ctl == 0 && y.failed == b
      && y.board.isSome && y.desc.qrec == 0 && y.dispatched == y.desc.groups) = true)
    ∧ (∀ k ∈ [1, 2, 3], ∀ host : Bool, let s := control k host; (s.obj 1 2).any (fun o => o.hostOwned == host) = true ∧ (s.node 1 0).any (fun y => y.live && !y.complete && y.board.isSome && y.desc.ctl == k) = true
      ∧ s.ctxs.length = 1 ∧ (s.ctx 1).any (fun c => c.nodes.length == 1) = true)
    ∧ (mapGet (futures 0).lqs 265).any (fun q => q.counter == 6 && q.done == []) = true := by decide +kernel

theorem test_node_steps :
    [gives (.nodeComplete 1 0) (ended id) (fun t => (t.node 1 0).any (·.complete) && t.nodeStatus.map (·.ok) == [true]), gives (.nodeComplete 1 0) start (fun t => (t.node 1 0).any (·.live)),
     gives (.toHost 1 0) (control 1 false) (fun t => (t.obj 1 2).any (·.hostOwned)), gives (.toDevice 1 0) (control 2 false) (fun t => (t.obj 1 2).any fun o => !o.hostOwned && o.gen == 0),
     gives (.toDevice 1 0) (control 2 true) (fun t => (t.obj 1 2).any fun o => !o.hostOwned && o.gen == 1),
     gives (.joinNode 1 0) (control 3 true) (fun t => (t.node 1 0).any (·.complete))].all id = true := by decide +kernel

/-! ## Host, links and the whole part -/

/-- Context 1 with nothing running: a loft object 2, a HOST object 4, and node 0 not live. -/
def idle : State :=
  (ended fun n => { n with live := false }).modCtx 1 fun c => { c with objs := [(2, loftObj), (4, { loftObj with kind := .host, base := 0x30000, placed := none })], l3 := [(0, 1 + 0x2000)] }

/-- OBJINSTALL of a loft extent, of 64 bytes, and of a part of the virtual space. -/
def installLoft (base len : Nat) : ObjInstallArgs := { ctx := 1, idx := 7, w0 := BitVec.ofNat 64 base, w1 := BitVec.ofNat 64 len, w2 := 0x111F00, w3 := 0, first := 0 }
def installMem : ObjInstallArgs := { ctx := 1, idx := 7, w0 := 0x40000, w1 := 64, w2 := 0x112F00, w3 := 0, first := 0 }

/-- For `MailboxMemory`: the premises of each command. -/
theorem witness_mailbox_memory :
    (let s := { idle with mailbox := { idle.mailbox with cmds := [{ op := 2, ctx := 1, pad := 0, args := .ctxDestroy 1 }] } }; s.mailbox.cmds = [{ op := 2, ctx := 1, pad := 0, args := .ctxDestroy 1 }]
      ∧ idle.mailbox.cmds.head?.map (·.cmd) ≠ some (.ctxDestroy 1))
    ∧ (idle.ctx 4095 = none ∧ (idle.ctx 1).isSome = true ∧ idle.ctxs.all (fun p => p.2.scrim &&& 1 == 0) = true ∧ (engines.ctxs.any fun p => p.2.scrim &&& 1 != 0) = true)
    ∧ mapSorted none idle.ctxs = true
    ∧ (idle.ctx 1).any (fun x => !x.running && idle.drainedCtx 1 && idle.objQuiet 1 7 && idle.objQuiet 1 0 && x.phys 0 == some 0 && x.phys 5 == none
      && (mapGet x.objs 2).any (fun o => o.kind == .loft && o.placed == some 0 && decide (4092 + 4 ≤ o.len) && decide (o.len < 4092 + 5)) && mapGet x.objs 9 == none
      && (entryAddr ((idle.drain fun w => w.ctx == 1 && w.space == .hbm).fixCtx 1) x 2 0).isSome && ((idle.drain fun w => w.ctx == 1 && w.space == .hbm).fixCtx 1).ctx 1 == some x && x.never == [] && (x.objs.any fun p => p.2.kind == .loft)) = true
    ∧ ((objOf installMem).any (fun o => o.kind != .loft) = true ∧ objOf { installMem with w3 := 1 } = none ∧ (objOf { installMem with w2 := 0x1B1F00 }).any (fun o => o.kind == .loft && o.ldie == 5) = true)
    ∧ (let s := { idle with loftOwner := [(0, 1), (1, 2)] }; (objOf (installLoft 0 64)).any (fun o => o.len == 64 && s.loftFree 0 1 7 o && mapGet s.loftOwner (o.base / 64) == some 1) = true
      ∧ (objOf (installLoft 64 64)).any (fun o => o.len == 64 && s.loftFree 0 1 7 o && mapGet s.loftOwner (o.base / 64) == some 2) = true)
    ∧ ((0x2001 : W64).extractLsb' 52 12 = 0 ∧ (0x2001 : W64).extractLsb' 36 12 = 0 ∧ (0x2001 : W64).extractLsb' 1 12 = 0)
    ∧ (start.groups.any fun p => p.2.ctx == 1 && p.2.res == .resident) = true
    ∧ (idle.groups = [] ∧ ((idle.modCtx 1 fun c => { c with objs := [] }).ctx 1).any (fun c => c.objs == []) = true ∧ 65536 % 65536 = 0 ∧ 65536 + 65536 * 3 ≤ 2 ^ 40)
    ∧ (let x := openOp (.copy 0 0 0 [] false false) 0 3; let s := idle.modCtx 1 fun c => { c with lapsed := [(1, 4)] }
       x.id = 3 ∧ x.ctx = 1 ∧ mapSorted none s.ctxs = true ∧ s.isLapsed x 0x10000 = true ∧ s.isLapsed { x with id := 4 } 0x10000 = false)
    ∧ ((walked.ctx 1).any (fun c => c.never == []) = true ∧ walked.chunks = [] ∧ walked.walks = [{ who := .op 3, ctx := 1, va := 0x10000 }]
      ∧ (walked.op 3).isSome = true) := by decide +kernel

/-- The 256 bytes of the descriptor of the kernel of `start`, its code in object 1; the two sizes, vregs 1 and no others, its launch queue. -/
def descriptorBytes (threads : Nat) : List Byte :=
  bytesOfWord 8 0x0000120000000000 ++ bytesOfWord 8 0 ++ bytesOfWord 8 0 ++ bytesOfWord 4 1 ++ bytesOfWord 2 threads ++ [1, 0] ++ bytesOfWord 8 (1 * 2 ^ 56)
    ++ bytesOfWord 16 0 ++ bytesOfWord 8 (0xFFFF) ++ bytesOfWord 8 0xFFFFFFFFFFFFFFFF ++ List.replicate 184 0

/-- For `MailboxWork`: descriptors, launch queues, bindings, peers, units, and what STAT returns. -/
theorem witness_mailbox_work :
    ((start.ctx 1).any (fun x => (mapGet x.nodes 0).any (·.live) && !(mapGet x.nodes 1).any (·.live)
        && start.nodeOk 1 x (descriptorBytes 64) (descOf (descriptorBytes 64)) && !start.nodeOk 1 x (descriptorBytes 0) (descOf (descriptorBytes 0))
        && (mapGet x.objs 1).isSome && (mapGet x.nodes 0).isSome && (mapGet x.objs 2).isNone) = true)
    ∧ (64 = 2 ^ 6 ∧ mapGet (futures 0).lqs (lqKey 1 255) = none ∧ ((futures 0).lqs.all fun p => p.2.doorbell != 1023) = true)
    ∧ ((1023 : BitVec 16).extractLsb' 10 6 = 0 ∧ (List.replicate 8 (1 : Byte)).length = 8)
    ∧ (∀ res ∈ [Residence.resident, .saved .preempted], let s := start.modGroup 0 fun g => { g with res := res }; s.groups.length = 1
      ∧ (s.group 0).any (fun g => g.ctx == 1 && g.node == 0 && g.lin == 0 && (s.desc g).cluster == 1 && !(s.desc g).isDuet && g.res == res && (s.core g.die g.core).queue == []
        && (s.ctx 1).any fun x => decide (x.poolUnits < x.used + frameUnits (s.desc g) 0)) = true)
    ∧ (start.groups.all fun p => !(p.2.ctx == 1 && p.2.node == 1)) = true
    ∧ ((State.reset.core 7 71).state < 4 ∧ (State.reset.core 7 71).mism ≤ 255 ∧ (State.reset.core 7 71).qmask = 0xF)
    ∧ { State.reset with errLog := [.exhausted 1] }.errLog[0]? = some (.exhausted 1) := by decide +kernel

/-- The responses that a command gives. -/
def answers (i : Instr) (s : State) (p : State → Bool) : Bool := gives i s fun t => t.mailbox.responses.length == 1 && p t

/-- A response with this status. -/
def status (n : Nat) (t : State) : Bool := t.mailbox.responses.map (·.status) == [n]

theorem test_mailbox_steps :
    [answers (.ctxCreate { ctx := 5, scrim := 1 }) idle (fun t => status 0 t && (t.ctx 5).any fun c => c.scrim == 1), answers (.ctxCreate { ctx := 5, scrim := 1 }) engines (status 2),
     answers (.ctxDestroy 1) idle (fun t => (t.ctx 1).isNone), answers (.ctxDestroy 9) idle (status 3), answers (.objInstall installMem) idle (fun t => (t.obj 1 7).any fun o => o.len == 64),
     answers (.objInstall { installMem with w3 := 1 }) idle (status 1), answers (.objRemove 1 2) idle (fun t => (t.obj 1 2).isNone), answers (.objRemove 1 9) idle (status 3),
     answers (.load { ctx := 1, idx := 2, off := 4092, data := [1, 2, 3, 4] }) idle (fun t => readByte t.loft (loftKey 0 0x10FFF) == 4),
     answers (.load { ctx := 1, idx := 2, off := 4093, data := [1, 2, 3, 4] }) idle (status 1), answers (.l3Write 1 3 0x2001) idle (fun t => (t.ctx 1).any fun c => mapGet c.l3 3 == some 0x2001),
     answers (.pteWrite 1 [{ level := 2, va := 0, entry := 0x4001 }]) idle (fun t => t.hbm.length == 2), answers (.pageState 1 0x10000 false) idle (fun t => (t.ctx 1).any fun c => c.never == [1]),
     answers (.pageState 1 0x10000 false) walked (fun t => t.walks == [] && t.ops.all fun x => !x.parked),
     answers (.dieMap 1 (List.replicate 8 none)) start (status 4), answers (.framePool 1 [(65536, 3)]) idle (fun t => (t.ctx 1).any fun c => c.poolUnits == 3),
     answers (.nodeWrite 1 1 (descriptorBytes 64)) start (fun t => (t.node 1 1).any fun n => n.desc.threads == 64), answers (.nodeWrite 1 0 (descriptorBytes 64)) start (status 4),
     answers (.lqCreate { ctx := 1, q := 255, ring := 0x40, entries := 64, completion := 8, doorbell := 1023 }) idle (fun t => (mapGet t.lqs 511).any fun q => q.ring == 0x40), answers (.bind 1 2 0) idle (fun t => (t.ctx 1).any fun c => c.binds == [(2, 0)]),
     answers (.peer { ctx := 1, gx := 2, gy := 3, pctx := 4, zero := 0, lsel := List.replicate 8 1, rest := [] }) idle (fun t => (t.ctx 1).any fun c => c.peers.length == 1)].all id = true := by
  decide +kernel

theorem test_mailbox_more :
    [answers (.preempt 1 (.node 0)) start.closeIssue (fun t => status 2 t && ((t.group 0).any fun g => g.res == .halted) && (t.node 1 0).any (·.held)),
     answers (.preempt 1 (.group 0 0)) start.closeIssue (fun t => status 1 t && (t.group 0).any fun g => g.res == .resident),
     answers (.resume 1 ⟨.group 0 0, true⟩) (handled.modGroup 0 fun g => { g with res := .saved .preempted }) (fun t => (t.group 0).any fun g => g.res == .saved .resumed && (g.warp 0).mode == 1),
     answers (.stat 1 (.capability 7 71)) State.reset (status 0), answers (.debug 1) idle (fun t => (t.ctx 1).any (·.debug)), answers (.power 1500000) idle (fun t => t.limit == 1500000),
     answers (.power 1499999) idle (status 1), answers (.attest (List.replicate 32 0) 2 0) idle (status 1)].all id = true := by decide +kernel

/-- A launch queue with entries for nodes 0 and 9 of context 1, at doorbell 3. -/
def queued (n : Nat) : State :=
  { ended fun y => { y with live := false, board := none, desc := { y.desc with lq := 9 } } with
    lqs := [(265, { ctx := 1, ring := 0, entries := 64, completion := 0, doorbell := 3, tail := 0, waiting := [{ op := 1, node := n, tag := 5, zeros := true }], submitted := 0, done := [], counter := 0 })] }

/-- HOST object 4 has a page, frame 7 of main memory, that the host owns or not. -/
def framed (host : Bool) : State :=
  { idle.modCtx 1 fun c => { c with objs := [(4, { loftObj with kind := .host, base := 0x70000, placed := none, hostOwned := host })] } with
    hbm := [(0x2000, 0xC3), (0x70040, 9)] }

/-- For `HostAccesses`: sizes of the mailbox, a TODEVICE entry, doorbells of a queue and of none, entries that may and may not be submitted, and frames. -/
theorem witness_host :
    (∀ k ∈ [4, 12], 16 ≤ 2 ^ k ∧ 2 ^ k ≤ 4096) ∧ (16 ≤ 16 ∧ 16 < 2 ^ 64) ∧ mapSorted none idle.hostMem = true ∧ (queued 0).lqs.all (fun p => decide (0 < p.2.entries)) = true
    ∧ ((control 2 true).node 1 0).any (fun y => y.desc.ctl == 2 && ((control 2 true).obj 1 (capObj (y.desc.ops.getD 0 0))).isSome) = true
    ∧ ((futures 0).lqs.find? (fun p => p.2.doorbell == 3)).isSome = true ∧ ((futures 0).lqs.all fun p => p.2.doorbell != 1023) = true
    ∧ (let s := queued 0; (mapGet s.lqs (lqKey 1 9)).any (fun x => x.waiting.length == 1 && x.ctx == 1) = true ∧ (s.node 1 0).any (fun y => !y.live && !y.complete && y.desc.lq == 9 && y.board == none
      && y.desc.cueMask == 0) = true ∧ s.node 1 9 = none)
    ∧ (idle.hostFrame 7 = none ∧ 0x70040 % 64 = 0 ∧ 0x70040 < 2 ^ 40)
    ∧ (∀ b : Bool, ((framed b).hostFrame 7).any (fun x => x.1 == 1 && x.2.hostOwned == b) = true ∧ (framed b).badRead .hbm 0x70040 64 = false
      ∧ { framed b with hbmErr := [0x70040 / 256] }.badRead .hbm 0x70040 64 = true ∧ ((framed b).commit { id := 0, by_ := .host, space := .hbm, addr := 0x70040, old := [], ord := .rc, rels := [], known := [], wide := [], ctx := 1, node := 0 }
        (List.replicate 64 1)).2 = false)
    ∧ (2 ^ 40 ≤ 2 ^ 41 - 64 ∧ (2 ^ 41 - 64) % 64 = 0) := by decide +kernel

theorem test_host_steps :
    [gives (.mbTailWrite 1 [{ op := 0x13, ctx := 1, pad := 0, args := .debug 1 }]) { idle with mailbox := { idle.mailbox with size := 16 } } (fun t => t.mailbox.cmds.length == 1 && t.mailbox.tail == 1), gives (.registerWrite 0x20 9) idle (fun t => t.mailbox.resp == 9),
     gives (.doorbellWrite 4 9 []) idle (fun t => t.errLog == [.doorbell 0x1020 9]), gives (.submit ⟨1, 9⟩) (queued 0) (fun t => (t.node 1 0).any fun y => y.live && y.tag == 5 && y.board.isSome),
     gives (.submit ⟨1, 9⟩) (queued 9) (fun t => t.nodeStatus.map (·.ok) == [false]), gives (.cxlMemRead 0x70000) idle (fun t => t.cxlOut.all (·.poison) && t.errLog == [.cxl 0x70000 false]),
     gives (.cxlMemRead (2 ^ 40 + 0x70040)) (framed true) (fun t => t.cxlOut.all (·.poison) && t.errLog == [.cxl (2 ^ 40 + 0x70040) false]),
     gives (.cxlMemWrite 0x70040 (List.replicate 64 1)) (framed true) (fun t => readByte t.hbm 0x7007F == 1 && t.cxlOut.all fun r => !r.poison),
     gives (.cxlMemWrite 0x70040 (List.replicate 64 1)) (framed false) (fun t => t.errLog == [.cxl 0x70040 true]), gives (.cxlMemRead 0x70040) (framed false) (fun t => t.cxlOut.all fun r => !r.poison)].all id = true := by
  decide +kernel

/-- Link 2 holds two flits, the second sent again `n` times, and expects flit 6; chunks have come over links 0, 1 and 0. -/
def linked (n fails : Nat) (re : Bool) : State :=
  let fl : Flit := { n := 1, payload := [7], resends := n, gx := 4, gy := 5, pctx := 3, endsChunk := true }
  let ch := fun off : Nat => ({ ctx := 1, obj := 2, off := off, data := [1, 2, 3, 4], op := 0, ty := 0 } : ChunkArgs)
  { idle with
    links := idle.links.set 2 { retry := [{ fl with n := 0, resends := 0 }, fl], next := 2, expect := 6, retraining := re, fails := fails, down := false }
    chunks := [{ link := 0, args := ch 4092 }, { link := 1, args := ch 4093 }, { link := 0, args := ch 0 }] }

/-- For `LinksAndChunks`: a link whose flits may be sent again, one to retrain, one that retrains for the third time, and chunks with and without
a place, and one behind another of its link. -/
theorem witness_links :
    (∀ n ∈ [7, 8], let s := linked n 2 false; s.links[2]?.any (fun x => !x.down && !x.retraining && x.expect == 6 && x.retry.length == 2
      && (x.retry.all fun f => decide (f.resends < 8)) == (n == 7)) = true)
    ∧ (∀ f ∈ [1, 2], let s := linked 8 f true; s.links[2]?.any (fun x => x.retraining && (decide (2 ≤ x.fails) == (f == 2))) = true)
    ∧ (let s := linked 0 0 false; s.chunks.map (·.link) = [0, 1, 0] ∧ (s.obj 1 2).any (fun o => decide (4092 + 4 ≤ o.len) && decide (o.len < 4093 + 4) && !o.hostOwned
        && o.kind == .loft && o.placed == some 0) = true ∧ (s.hops (0 / 2) 0).isSome = true
      ∧ (s.commit { id := 0, by_ := .host, space := .loft 0, addr := 0x10FFC, old := [], ord := .so, rels := [], known := [], wide := [], ctx := 1, node := 0 } [1, 2, 3, 4]).2
        = false) := by decide +kernel

theorem test_link_steps :
    [gives (.flitReceive ⟨2, 6⟩ true none) (linked 0 0 false) (fun t => t.linkOut == [.ack 2 6] && (t.links[2]?).any fun x => x.expect == 7),
     gives (.flitReceive ⟨2, 6⟩ false none) (linked 0 0 false) (fun t => t.linkOut == [.nak 2 6]), gives (.flitReceive ⟨2, 7⟩ true none) (linked 0 0 false) (fun t => t.linkOut == [.nak 2 6]),
     gives (.flitReceive ⟨2, 5⟩ true none) (linked 0 0 false) (fun t => t.linkOut == [.ack 2 5] && (t.links[2]?).any fun x => x.expect == 6),
     gives (.flitAck 2 1) (linked 4 0 false) (fun t => (t.links[2]?).any fun x => x.retry.map (·.resends) == [4]), gives (.flitNak 2 1) (linked 4 0 false) (fun t => (t.links[2]?).any fun x => x.retry.map (·.resends) == [0, 5]),
     gives (.resendTimeout 2 0) (linked 4 0 false) (fun t => (t.links[2]?).any fun x => x.retry.map (·.resends) == [1, 4]), gives (.linkRetrain 2) (linked 8 0 false) (fun t => (t.links[2]?).any (·.retraining)),
     gives (.linkRetrainComplete 2 false true) (linked 8 2 true) (fun t => (t.links[2]?).any (·.down) && t.notices == [.linkDown 2 4 5 3 2]),
     gives (.chunkArrival 0) (linked 0 0 false) (fun t => readByte t.loft (loftKey 0 0x10FFF) == 4), gives (.chunkArrival 1) (linked 0 0 false) (fun t => t.loft == [] && t.chunks.length == 2),
     gives (.chunkArrival 2) (linked 0 0 false) (fun t => t.chunks.length == 3)].all id = true := by
  decide +kernel

/-- For `WholePart`: quadrants of the part, a window above the limit, a die that a context maps. -/
theorem witness_whole :
    (∀ f ∈ [({ die := 7, core := 71, quadrant := 3 } : QuadrantFail)], f.die < 8 ∧ f.core < 72 ∧ f.quadrant < 4)
    ∧ (idle.limit < 4400001 ∧ (idle.dies[0]?).any (fun d => !d.lost) = true ∧ mapSorted none idle.ctxs = true ∧ (idle.ctx 1).any (fun c => c.map.contains (some 0)) = true)
    ∧ (3, 2) ∈ measuredStages := by decide +kernel

theorem test_whole_steps :
    [gives (.reset ⟨[{ die := 7, core := 3, quadrant := 3 }], none⟩) (idle.modCore 7 3 fun c => { c with accErr := true }) (fun t => t.ctxs == [] && (t.core 7 3).qmask == 0x7), gives (.powerAverageWindow 4400001) idle (fun t => (t.die 3).mhz == 3875),
     gives (.reset ⟨[], some (3, 2)⟩) idle (fun t => t.halted && t.trust.log.length == 13), gives (.reset ⟨[], none⟩) (idle.modCore 7 3 fun c => { c with mism := 9 })
       (fun t => (t.core 7 3).shown == 9 && (t.core 7 3).mism == 0 && !t.halted),
     gives (.junctionThrottle 2) idle (fun t => (t.die 2).throttled), gives (.junctionRecover 2) idle (fun t => !(t.die 2).throttled),
     gives (.dieLost 0) idle (fun t => t.ctxs == [] && t.notices == [.contextEnded 1 (some 0)]), gives (.dieLost 3) idle (fun t => t.ctxs.length == 1),
     gives .coolantFlowLoss idle (fun t => t.ctxs == [] && t.dies.all (·.stopped) && t.halted)].all id = true := by decide +kernel

end Sys2Proof.Machine
end

section
/-! PROOFS. The state after reset (R2, R441, R463): its dies, its cores and its links, and obligation O38. -/

namespace Sys2Proof.Machine

/-! ## The units of the part after reset -/

theorem Die.reset_cores_length : Die.reset.cores.length = 72 := by
  simp [Die.reset]

/-- Past core 71 both sides are the value that a read outside the die answers, so no bound is needed. -/
theorem Die.reset_cores_getD (c : Nat) : Die.reset.cores.getD c (Core.reset c) = Core.reset c := by
  rcases Nat.lt_or_ge c 72 with hc | hc
  · simp [Die.reset, hc]
  · exact List.getD_eq_default _ _ (Die.reset_cores_length ▸ hc)

/-- Past die 7 both sides are the value that a read outside the part answers, so no bound is needed. -/
@[simp] theorem State.reset_die (d : Nat) : State.reset.die d = Die.reset := by
  rcases Nat.lt_or_ge d 8 with hd | hd
  · exact List.getD_replicate _ hd
  · exact List.getD_eq_default _ _ (by simpa [State.reset] using hd)

@[simp] theorem State.reset_core (d c : Nat) : State.reset.core d c = Core.reset c := by
  rw [State.core, State.reset_die, Die.reset_cores_getD]

theorem State.eq_of_mem_reset_links {x : Link} (hx : x ∈ State.reset.links) : x = Link.reset :=
  List.eq_of_mem_replicate hx

/-! ## The memories after reset -/

/-- No memory lists a word and no group holds registers. -/
theorem State.reset_canon : State.reset.canon = true := by
  have hhbm : Memory.wf State.reset.hbm = true := zwf_nil
  have hloft : Memory.wf State.reset.loft = true := zwf_nil
  have hgroups : State.reset.groups = [] := rfl
  simp [State.canon, hhbm, hloft, hgroups]

/-! ## The obligation -/

/-- Settles O38: the lists and flags stand in `State.reset` itself, every die reads as `Die.reset`, every core as
`Core.reset` and every link is `Link.reset`. -/
theorem resetState : Obligations.ResetState := by
  have hdies : State.reset.dies.length = 8 := List.length_replicate
  have hlinks : State.reset.links.length = 16 := List.length_replicate
  refine ⟨State.reset_canon, rfl, rfl, rfl, rfl, rfl, rfl, rfl, rfl, rfl, rfl, rfl, hdies, hlinks, ?die, ?core, ?link⟩
  case die =>
    intro d _
    rw [State.reset_die]
    exact ⟨Die.reset_cores_length, rfl, rfl, rfl, rfl, rfl⟩
  case core =>
    intro d c _ _
    rw [State.reset_core]
    exact ⟨rfl, rfl, rfl, rfl, rfl, rfl, rfl, rfl⟩
  case link =>
    intro x hx
    rw [State.eq_of_mem_reset_links hx]
    exact ⟨rfl, rfl, rfl⟩

end Sys2Proof.Machine
end

section
/-! PROOFS. What the landing of writes, the returns of reads and the edges of R133 leave as it is: the relation `Lands`. -/

namespace Sys2Proof.Machine

/-! ## The relation -/

/-- The lane is as it was, but for what its windows hold: none is new, and none is nearer to its landing point. -/
structure Lane.Keeps (x y : Lane) : Prop where
  rest : y = { x with windows := y.windows }
  windows : ∀ z ∈ y.windows, ∃ z' ∈ x.windows, z'.done = z.done ∧ z'.left = z.left

/-- The warp is as it was, but for what the windows of its lanes hold. -/
structure Warp.Keeps (a b : Warp) : Prop where
  rest : b = { a with lanes := b.lanes }
  length : b.lanes.length = a.lanes.length
  lanes : ∀ l, (a.lane l).Keeps (b.lane l)

/-- The group is as it was, but for its shared memory and the windows. -/
structure Group.Keeps (g h : Group) : Prop where
  rest : h = { g with shared := h.shared, sharedErr := h.sharedErr, warps := h.warps }
  length : h.warps.length = g.warps.length
  warps : ∀ w, (g.warp w).Keeps (h.warp w)

/-- The lane that a load is of. -/
def Load.key (d : Load) : Nat × Nat × Nat := (d.gid, d.warp, d.lane)

/-- What landings leave: the issue, the records, signals and loads on their way, the nodes, and all of each group but memory
and windows. -/
structure State.Lands (s t : State) : Prop where
  issue : t.issue = s.issue
  emits : t.emits = s.emits
  signals : t.signals = s.signals
  loads : t.loads.map Load.key = s.loads.map Load.key
  node : ∀ c n, t.node c n = s.node c n
  group : ∀ i, Option.Rel Group.Keeps (s.group i) (t.group i)

theorem Lane.Keeps.refl (x : Lane) : x.Keeps x := ⟨rfl, fun z hz => ⟨z, hz, rfl, rfl⟩⟩

theorem Lane.Keeps.trans {x y z : Lane} (h : x.Keeps y) (k : y.Keeps z) : x.Keeps z where
  rest := by rw [k.rest, h.rest]
  windows := fun v hv => by
    obtain ⟨u, hu, u1, u2⟩ := k.windows v hv
    obtain ⟨t, ht, t1, t2⟩ := h.windows u hu
    exact ⟨t, ht, t1.trans u1, t2.trans u2⟩

theorem Warp.Keeps.refl (a : Warp) : a.Keeps a := ⟨rfl, rfl, fun _ => .refl _⟩

theorem Warp.Keeps.trans {a b c : Warp} (h : a.Keeps b) (k : b.Keeps c) : a.Keeps c where
  rest := by rw [k.rest, h.rest]
  length := k.length.trans h.length
  lanes := fun l => (h.lanes l).trans (k.lanes l)

theorem Group.Keeps.refl (g : Group) : g.Keeps g := ⟨rfl, rfl, fun _ => .refl _⟩

theorem Group.Keeps.trans {g h k : Group} (p : g.Keeps h) (q : h.Keeps k) : g.Keeps k where
  rest := by rw [q.rest, p.rest]
  length := q.length.trans p.length
  warps := fun w => (p.warps w).trans (q.warps w)

theorem Group.Keeps.rel_refl (x : Option Group) : Option.Rel Group.Keeps x x := by
  cases x with
  | none => exact .none
  | some g => exact .some (.refl g)

theorem State.Lands.refl (s : State) : s.Lands s := ⟨rfl, rfl, rfl, rfl, fun _ _ => rfl, fun _ => Group.Keeps.rel_refl _⟩

theorem State.Lands.trans {s t u : State} (h : s.Lands t) (k : t.Lands u) : s.Lands u where
  issue := k.issue.trans h.issue
  emits := k.emits.trans h.emits
  signals := k.signals.trans h.signals
  loads := k.loads.trans h.loads
  node := fun c n => (k.node c n).trans (h.node c n)
  group := fun i => by
    have hi := h.group i
    have ki := k.group i
    generalize s.group i = x, t.group i = y, u.group i = z at hi ki
    cases hi with
    | none => exact ki
    | some p => cases ki with
      | some q => exact .some (p.trans q)

/-- A change of other fields than those named. -/
theorem State.Lands.of_fields {s t : State} (h1 : t.issue = s.issue) (h2 : t.emits = s.emits) (h3 : t.signals = s.signals)
    (h4 : t.ctxs = s.ctxs) (h5 : t.groups = s.groups) (h6 : t.loads.map Load.key = s.loads.map Load.key) : s.Lands t where
  issue := h1
  emits := h2
  signals := h3
  loads := h6
  node := fun c n => by simp only [State.node, State.ctx, h4]
  group := fun i => by
    have : t.group i = s.group i := by simp only [State.group, h5]
    rw [this]
    exact Group.Keeps.rel_refl _

theorem State.Lands.modGroup (s : State) (i : Nat) (f : Group → Group) (h : ∀ g : Group, g.Keeps (f g)) : s.Lands (s.modGroup i f) where
  issue := rfl
  emits := rfl
  signals := rfl
  loads := rfl
  node := fun _ _ => rfl
  group := fun j => by
    rw [State.group_modGroup]
    split
    · cases s.group j with
      | none => exact .none
      | some g => exact .some (h g)
    · exact Group.Keeps.rel_refl _

theorem State.Lands.foldl {α : Type} {f : State → α → State} (hf : ∀ (s : State) x, s.Lands (f s x)) (xs : List α) :
    ∀ s : State, s.Lands (xs.foldl f s) := by
  induction xs with
  | nil => exact .refl
  | cons x xs ih => exact fun s => (hf s x).trans (ih _)

theorem State.Lands.ite {s t u : State} {c : Prop} [Decidable c] (ht : s.Lands t) (hu : s.Lands u) :
    s.Lands (if c then t else u) := by
  split <;> assumption

/-! ## What a landing leaves of a run -/

theorem State.Lands.warp {s t : State} (h : s.Lands t) (gid w : Nat) : (s.warp gid w).Keeps (t.warp gid w) := by
  have hg := h.group gid
  simp only [State.warp]
  generalize s.group gid = x, t.group gid = y at hg ⊢
  cases hg with
  | none => exact .refl _
  | some p => exact p.warps w

theorem State.Lands.group_some {s t : State} (h : s.Lands t) {gid : Nat} {g : Group} (hg : s.group gid = some g) :
    ∃ k, t.group gid = some k ∧ g.Keeps k := by
  have hr := h.group gid
  rw [hg] at hr
  generalize t.group gid = y at hr ⊢
  cases hr with
  | some p => exact ⟨_, rfl, p⟩

theorem Warp.lane_eq_getElem {w : Warp} {l : Nat} (h : l < w.lanes.length) : w.lane l = w.lanes[l] := by
  rw [Warp.lane, List.getD_eq_getElem?_getD, List.getElem?_eq_getElem h, Option.getD_some]

theorem Warp.Keeps.canon {a b : Warp} (h : a.Keeps b) (hc : a.canon = true) : b.canon = true := by
  refine Warp.canon_of hc (by rw [h.rest]) (by rw [h.rest]) ?_
  apply List.ext_getElem (by simp [h.length])
  intro l h1 h2
  have hb : l < b.lanes.length := by simpa using h1
  have ha : l < a.lanes.length := by simpa using h2
  rw [List.getElem_map, List.getElem_map, ← Warp.lane_eq_getElem hb, ← Warp.lane_eq_getElem ha, (h.lanes l).rest]

/-- The run stands where landings have left it. -/
theorem Stands.lands {s t : State} {r : Run} (h : Stands s r) (k : s.Lands t) : Stands t r where
  group := by
    obtain ⟨g, hg, hw⟩ := h.group
    obtain ⟨g', hg', kg⟩ := k.group_some hg
    exact ⟨g', hg', by rw [kg.length]; exact hw⟩
  len := fun l hl => by rw [(k.warp _ _).length]; exact h.len l hl
  lt := h.lt
  sub := h.sub
  nodup := h.nodup
  canon := (k.warp _ _).canon h.canon

/-- Landings leave a calm run calm. -/
theorem Calm.lands {s t : State} {r : Run} (c : Calm s r) (k : s.Lands t) : Calm t r where
  windows := fun l hl y hy hd => by
    obtain ⟨z, hz, z1, z2⟩ := ((k.warp r.gid r.w).lanes l).windows y hy
    rw [← z2]
    exact c.windows l hl z hz (z1.trans hd)
  soft := c.soft

theorem State.Lands.desc {s t : State} (h : s.Lands t) {g k : Group} (hg : g.Keeps k) : t.desc k = s.desc g := by
  have h1 : k.ctx = g.ctx := by rw [hg.rest]
  have h2 : k.node = g.node := by rw [hg.rest]
  simp only [State.desc, h.node, h1, h2]

/-! ## Each operation -/

theorem Group.Keeps.of_memory (g : Group) (m : Memory) (us : List Nat) : g.Keeps { g with shared := m, sharedErr := us } :=
  ⟨rfl, rfl, fun _ => .refl _⟩

theorem State.Lands.poke (s : State) (key : Nat) (sp : Space) (a : Nat) (bs : List Byte) : s.Lands (s.poke key sp a bs) := by
  cases sp with
  | shared gid => exact .modGroup s gid _ fun g => .of_memory g _ _
  | loft d => exact .of_fields rfl rfl rfl rfl rfl rfl
  | hbm => exact .of_fields rfl rfl rfl rfl rfl rfl

theorem State.Lands.setErrUnits (s : State) (sp : Space) (us : List Nat) : s.Lands (s.setErrUnits sp us) := by
  cases sp with
  | shared gid => exact .modGroup s gid _ fun g => .of_memory g _ _
  | loft d => exact .of_fields rfl rfl rfl rfl rfl rfl
  | hbm => exact .of_fields rfl rfl rfl rfl rfl rfl

theorem State.Lands.putHome (s : State) (key : Nat) (sp : Space) (a : Nat) (bs : List Byte) :
    s.Lands (s.putHome key sp a bs).1 := by
  unfold State.putHome
  dsimp only
  split
  · exact .poke ..
  · split
    · exact (State.Lands.setErrUnits ..).trans (.foldl (fun t p => .ite (.refl _) (.poke ..)) _ _)
    · exact ((State.Lands.setErrUnits ..).trans (.foldl (fun t p => .ite (.refl _) (.poke ..)) _ _)).trans
        (.of_fields rfl rfl rfl rfl rfl rfl)

theorem State.Lands.commit (s : State) (e : Recent) (bs : List Byte) : s.Lands (s.commit e bs).1 :=
  (State.Lands.putHome s _ _ _ _).trans (.of_fields rfl rfl rfl rfl rfl rfl)

theorem State.node_modObj (s : State) (c i : Nat) (f : Obj → Obj) (d n : Nat) : (s.modObj c i f).node d n = s.node d n := by
  simp only [State.node, State.ctx, State.modObj, State.modCtx, mapGet_mapMod]
  split <;> [cases mapGet s.ctxs d <;> rfl; rfl]

theorem State.Lands.releaseGen (s : State) (w : PWrite) : s.Lands (s.releaseGen w) := by
  unfold State.releaseGen
  split
  · exact ⟨rfl, rfl, rfl, rfl, fun d n => State.node_modObj .., fun _ => Group.Keeps.rel_refl _⟩
  · exact .refl _

theorem State.Lands.failWrite (s : State) (op : Option Nat) : s.Lands (s.failWrite op) := .of_fields rfl rfl rfl rfl rfl rfl

theorem State.Lands.landPlain (s : State) (w : PWrite) : s.Lands (s.landPlain w) := by
  unfold State.landPlain
  dsimp only
  exact (State.Lands.ite ((State.Lands.commit ..).trans (.failWrite ..)) (.commit ..)).trans (.releaseGen ..)

theorem State.Lands.teach (s : State) (p : Recent → Bool) (bs : List Agent) : s.Lands (s.teach p bs) :=
  .of_fields rfl rfl rfl rfl rfl rfl

theorem State.Lands.learn (s : State) (a : Agent) (bs : List Agent) : s.Lands (s.learn a bs) := .teach ..

theorem State.Lands.noteFrom (s : State) (a : Agent) (es : List Recent) (sp : Space) (i n : Nat) (acq : Option Scope) :
    s.Lands (s.noteFrom a es sp i n acq) := by
  cases acq <;> exact .of_fields rfl rfl rfl rfl rfl rfl

/-- Loads that are fixed are of the same lanes. -/
theorem Load.key_map_ite (ds : List Load) (p : Load → Bool) :
    (ds.map fun d => if p d then { d with fixed := true } else d).map Load.key = ds.map Load.key := by
  rw [List.map_map]
  refine List.map_congr_left fun d _ => ?_
  simp only [Function.comp_apply]
  split <;> rfl

theorem State.Lands.noteRead (s : State) (a : Agent) (sp : Space) (i n : Nat) (acq : Option Scope) :
    s.Lands (s.noteRead a sp i n acq) :=
  (State.Lands.noteFrom ..).trans (.of_fields rfl rfl rfl rfl rfl (Load.key_map_ite _ _))

theorem State.Lands.atomicHome (s : State) (w : PWrite) (m : Rmw) (acq : Option Scope) :
    s.Lands (s.atomicHome w m acq).1 := by
  unfold State.atomicHome
  dsimp only
  split
  · exact .refl _
  · have h0 : s.Lands { s with stale := [] } := .of_fields rfl rfl rfl rfl rfl rfl
    have h1 := (h0.trans (.noteFrom _ w.agent (State.newest { s with stale := [] } (s.stand w.agent) w.space w.addr
      w.bytes.length) w.space w.addr w.bytes.length acq)).trans
      (.of_fields (t := { State.noteFrom _ _ _ _ _ _ _ with stale := s.stale }) rfl rfl rfl rfl rfl rfl)
    split
    · exact h1
    · exact (h1.trans (.commit ..)).trans (.releaseGen ..)

theorem Warp.Keeps.modLanes (a : Warp) (m : W64) (f : Nat → Lane → Lane) (h : ∀ l x, Lane.Keeps x (f l x)) :
    a.Keeps (a.modLanes m f) where
  rest := rfl
  length := Warp.modLanes_length ..
  lanes := fun l => by rw [Warp.lane_modLanes]; split <;> [exact h _ _; exact .refl _]

theorem Group.Keeps.modWarp (g : Group) (w : Nat) (f : Warp → Warp) (h : ∀ x, Warp.Keeps x (f x)) : g.Keeps (g.modWarp w f) where
  rest := rfl
  length := Group.modWarp_warps_length ..
  warps := fun v => by rw [Group.warp_modWarp]; split <;> [exact h _; exact .refl _]

theorem State.Lands.modWarp (s : State) (gid w : Nat) (f : Warp → Warp) (h : ∀ x, Warp.Keeps x (f x)) :
    s.Lands (s.modWarp gid w f) := .modGroup s gid _ fun g => .modWarp g w f h

/-- Windows that keep their places keep the lane. -/
theorem Lane.Keeps.mapWindows (x : Lane) (f : Window → Window) (h : ∀ z, (f z).done = z.done ∧ (f z).left = z.left) :
    x.Keeps { x with windows := x.windows.map f } where
  rest := rfl
  windows := fun z hz => by
    obtain ⟨y, hy, rfl⟩ := List.mem_map.1 hz
    exact ⟨y, hy, (h y).1.symm, (h y).2.symm⟩

theorem State.Lands.giveWindows (s : State) (w : PWrite) (m : Rmw) (x : AtomRes) : s.Lands (s.giveWindows w m x) :=
  .modWarp _ _ _ _ fun a => .modLanes a _ _ fun _ y => .mapWindows y _ fun z => by split <;> exact ⟨rfl, rfl⟩

theorem State.Lands.land1 (s : State) (w : PWrite) : s.Lands (s.land1 w) := by
  unfold State.land1
  split
  · exact .landPlain ..
  · exact (State.Lands.atomicHome ..).trans (.giveWindows ..)

theorem State.Lands.drain (s : State) (p : PWrite → Bool) : s.Lands (s.drain p) := by
  have h : s.Lands { s with writes := (splitWrites p s.writes).2 } := .of_fields rfl rfl rfl rfl rfl rfl
  exact h.trans (.foldl State.Lands.land1 _ _)

theorem State.Lands.fixLoads (s : State) (p : Load → Bool) : s.Lands (s.fixLoads p) :=
  .of_fields rfl rfl rfl rfl rfl (Load.key_map_ite _ _)

theorem State.Lands.bindLoads (s : State) (gid w : Nat) (m : W64) : s.Lands (s.bindLoads gid w m) := .fixLoads ..

theorem State.Lands.settleOwn (s : State) (a : Agent) (sp : Space) (i n : Nat) : s.Lands (s.settleOwn a sp i n) := .drain ..

theorem State.Lands.settleReads (s : State) (gid w : Nat) (m : W64) : s.Lands (s.settleReads gid w m) :=
  (State.Lands.drain ..).trans (.bindLoads ..)

theorem State.Lands.drainMask (s : State) (gid w : Nat) (m : W64) : s.Lands (s.drainMask gid w m) :=
  (State.Lands.drain ..).trans (.bindLoads ..)

end Sys2Proof.Machine
end

section
/-! PROOFS. An issue that nothing stops before it acts (`Begins`), and the end of one whose lanes all fault. -/

namespace Sys2Proof.Machine

theorem Begins.stands {i : Instr} {s : State} {r : Run} (h : Begins i s r) : Stands s r where
  group := by
    obtain ⟨l, hl⟩ := List.exists_mem_of_ne_nil _ h.lanes
    have hg := (Run.of_runOf h.run).2.1
    exact ⟨_, hg, (State.warp_lt hg (h.live l hl)).1⟩
  len := fun l hl => (State.warp_lt (Run.of_runOf h.run).2.1 (h.live l hl)).2
  lt := fun _ hl => Run.ls_lt h.run hl
  sub := fun _ hl => Run.act_sub h.run hl
  nodup := Run.act_nodup h.run
  canon := h.canon

/-- An instruction that no future tag holds (R240) acts at once. -/
theorem Begins.issued_never {i : Instr} {s : State} {r : Run} (h : Begins i s r) (body : Run → State → State) :
    issued i .never body s = .next (body r s) := by
  have ho : r.o = opsOf i := (Run.of_runOf h.run).2.2.1
  simp only [issued, h.run, h.legal, h.noErr, ho, h.limits, Bool.and_self, Bool.not_true, Bool.false_eq_true, if_false,
    issuedRun, List.isEmpty_nil, if_true]

/-- No fault of the issue is held for a later raise (R420). -/
def State.NoPre (s : State) : Prop := (s.issue.map (·.pre)).getD [] = []

theorem Begins.noPre {i : Instr} {s : State} {r : Run} (h : Begins i s r) : s.NoPre := by
  simp only [State.NoPre, (Run.of_runOf h.run).1, Option.map_some, Option.getD_some, h.first]

theorem State.NoPre.raiseRun {s : State} (h : s.NoPre) (r : Run) (fs : List LFlt) :
    s.raiseRun r fs = s.raise r.gid r.w r.pc fs := by
  have h' : (s.issue.map (·.pre)).getD [] = [] := h
  simp only [State.raiseRun, h', List.isEmpty_nil, Bool.or_true, if_true]

/-- When every lane of the run issues, none of it goes on. -/
theorem Run.others_nil {r : Run} (ha : r.act = r.ls) : (r.ls.filter fun l => !r.isAct l) = [] := by
  rw [List.filter_eq_nil_iff]
  intro l hl
  simpa [Run.isAct, ha] using hl

theorem State.NoPre.failRun {s : State} (h : s.NoPre) {r : Run} (ha : r.act = r.ls) (f : Flt) :
    s.failRun r f = s.faults r fun _ => f := by
  rw [State.failRun, Run.others_nil ha, State.advance_nil, State.raiseAll, h.raiseRun, ha, State.faults]

theorem find?_map_key {β : Type} (g : Nat → β) {l : Nat} : ∀ {ls : List Nat}, l ∈ ls →
    (ls.map fun k => (k, g k)).find? (fun p => p.1 == l) = some (l, g l)
  | k :: ls, h => by
    by_cases hk : k = l
    · subst hk; simp
    · have : l ∈ ls := by simpa [Ne.symm hk] using h
      simp [hk, find?_map_key g this]

/-- The end of an instruction all of whose lanes fault: nothing is written, and no lane goes on. -/
theorem State.NoPre.finish_faults {s : State} (h : s.NoPre) {r : Run} (ha : r.act = r.ls) (long tag : Bool) (d : Dst)
    (res : Nat → Res) (f : Nat → Flt) (hf : ∀ l ∈ r.act, (res l).flt = some (f l)) :
    s.finish r long tag false d (r.act.map fun l => (l, res l)) = s.nextStamp.faults r f := by
  have hgood : (r.act.map fun l => (l, res l)).filter (fun p => p.2.flt.isNone) = [] := by
    rw [List.filter_eq_nil_iff]
    intro p hp
    obtain ⟨l, hl, rfl⟩ := List.mem_map.1 hp
    simp [hf l hl]
  have hbad : (r.act.filterMap fun l =>
      ((r.act.map fun l => (l, res l)).find? fun p => p.1 == l).bind fun p => p.2.flt.map fun f => (l, f))
      = r.ls.map fun l => (l, f l) := by
    rw [← ha]
    refine (List.filterMap_congr (g := some ∘ fun l => (l, f l)) fun l hl => ?_).trans (by rw [List.filterMap_eq_map])
    simp [find?_map_key res hl, hf l hl]
  have hrest : (r.ls.filter fun l => !((r.ls.map fun l => (l, f l)).any fun q => q.1 == l)) = [] := by
    rw [List.filter_eq_nil_iff]
    intro l hl
    simpa using hl
  have hid : (s.modWarp r.gid r.w fun w =>
      if long = true then w.openWindows s.stamp r.iss.cycle r.o.la.toNat r.pc d tag [] else w.write d []) = s := by
    apply State.modWarp_id
    split
    · rfl
    · exact Warp.write_nil _ d
  have hn : s.nextStamp.NoPre := h
  simp only [State.finish, Bool.false_eq_true, if_false, hgood, List.filter_nil, List.find?_nil, hbad, hrest, hid,
    State.advance_nil, hn.raiseRun, State.faults]

end Sys2Proof.Machine
end

section
/-! PROOFS. Nodes of a context, and the warps of a group, after a change elsewhere in it. -/

namespace Sys2Proof.Machine

theorem State.ctx_modCtx (s : State) (c d : Nat) (f : Ctx → Ctx) :
    (s.modCtx c f).ctx d = if d = c then (s.ctx d).map f else s.ctx d := by
  simp only [State.ctx, State.modCtx, mapGet_mapMod]

theorem State.node_modNode_same {s : State} {c n : Nat} {y : Node} (h : s.node c n = some y) (f : Node → Node) :
    (s.modNode c n f).node c n = some (f y) := by
  simp only [State.node] at h ⊢
  rw [State.modNode, State.ctx_modCtx, if_pos rfl]
  cases hx : s.ctx c with
  | none => rw [hx] at h; cases h
  | some x =>
    rw [hx] at h
    have h' : mapGet x.nodes n = some y := h
    simp only [Option.map_some, Option.bind_some, mapGet_mapMod_same, h']

theorem State.modNode_modNode (s : State) (c n : Nat) (f g : Node → Node) :
    (s.modNode c n f).modNode c n g = s.modNode c n fun x => g (f x) := by
  simp only [State.modNode, State.modCtx, mapMod_mapMod]

/-- A change that agrees with another on the node. -/
theorem State.modNode_congr {s : State} {c n : Nat} {y : Node} (h : s.node c n = some y) (f g : Node → Node) (e : f y = g y) :
    s.modNode c n f = s.modNode c n g := by
  simp only [State.modNode, State.modCtx]
  congr 1
  refine mapMod_congr _ _ _ _ fun x hx => ?_
  have hx' : s.ctx c = some x := hx
  rw [State.node, hx', Option.bind_some] at h
  congr 1
  refine mapMod_congr _ _ _ _ fun z hz => ?_
  rw [h] at hz
  rwa [← Option.some.inj hz]

/-- A change of a group that leaves its warps. -/
theorem State.warp_modGroup (s : State) (i : Nat) {f : Group → Group} (hf : ∀ g, (f g).warps = g.warps) (gid w : Nat) :
    (s.modGroup i f).warp gid w = s.warp gid w := by
  simp only [State.warp, State.group_modGroup]
  split
  · cases s.group gid with
    | none => rfl
    | some g => simp only [Option.map_some, Option.getD_some, Group.warp, hf]
  · rfl

theorem Stands.modGroup {s : State} {r : Run} (h : Stands s r) (i : Nat) {f : Group → Group} (hf : ∀ g, (f g).warps = g.warps) :
    Stands (s.modGroup i f) r where
  group := by
    obtain ⟨g, hg, hw⟩ := h.group
    rw [State.group_modGroup, hg]
    split
    · exact ⟨f g, rfl, by rw [hf]; exact hw⟩
    · exact ⟨g, rfl, hw⟩
  len := fun l hl => by rw [State.warp_modGroup s i hf]; exact h.len l hl
  lt := h.lt
  sub := h.sub
  nodup := h.nodup
  canon := by rw [State.warp_modGroup s i hf]; exact h.canon

/-- A run is calm where its warp is the same. -/
theorem Calm.of_warp {s t : State} {r : Run} (c : Calm s r) (h : t.warp r.gid r.w = s.warp r.gid r.w) : Calm t r where
  windows := by rw [h]; exact c.windows
  soft := c.soft

theorem Calm.modGroup {s : State} {r : Run} (c : Calm s r) (i : Nat) {f : Group → Group} (hf : ∀ g, (f g).warps = g.warps) :
    Calm (s.modGroup i f) r := c.of_warp (State.warp_modGroup s i hf _ _)

end Sys2Proof.Machine
end

section
/-! PROOFS. What faults, landings and the abort of a grid leave as it is: the relation `Within`. -/

namespace Sys2Proof.Machine

/-! ## The relation -/

/-- The issue is of the same run, or over. -/
def SameIssue (x y : Option Issue) : Prop := ∀ i, y = some i → ∃ j, x = some j ∧ j.gid = i.gid ∧ j.warp = i.warp ∧ j.lanes = i.lanes

/-- The descriptors of the nodes are as they were, no load is new, and no other run issues. -/
structure State.Within (s t : State) : Prop where
  desc : ∀ c n, (t.node c n).map (·.desc) = (s.node c n).map (·.desc)
  loads : t.loads.map Load.key ⊆ s.loads.map Load.key
  issue : SameIssue s.issue t.issue

theorem SameIssue.of_eq {x y : Option Issue} (h : y = x) : SameIssue x y := fun i hi => ⟨i, h ▸ hi, rfl, rfl, rfl⟩

theorem State.Within.refl (s : State) : s.Within s := ⟨fun _ _ => rfl, List.Subset.refl _, .of_eq rfl⟩

theorem State.Within.trans {s t u : State} (h : s.Within t) (k : t.Within u) : s.Within u where
  desc := fun c n => (k.desc c n).trans (h.desc c n)
  loads := List.Subset.trans k.loads h.loads
  issue := fun i hi => by
    obtain ⟨j, hj, j1, j2, j3⟩ := k.issue i hi
    obtain ⟨m, hm, m1, m2, m3⟩ := h.issue j hj
    exact ⟨m, hm, m1.trans j1, m2.trans j2, m3.trans j3⟩

theorem State.Lands.within {s t : State} (h : s.Lands t) : s.Within t where
  desc := fun c n => by rw [h.node]
  loads := by rw [h.loads]; exact List.Subset.refl _
  issue := .of_eq h.issue

/-- A change of other fields than those named. -/
theorem State.Within.of_fields {s t : State} (h1 : t.ctxs = s.ctxs) (h2 : t.loads = s.loads) (h3 : t.issue = s.issue) :
    s.Within t where
  desc := fun c n => by simp only [State.node, State.ctx, h1]
  loads := by rw [h2]; exact List.Subset.refl _
  issue := .of_eq h3

theorem State.Within.foldl {α : Type} {f : State → α → State} (hf : ∀ (s : State) x, s.Within (f s x)) (xs : List α) :
    ∀ s : State, s.Within (xs.foldl f s) := by
  induction xs with
  | nil => exact .refl
  | cons x xs ih => exact fun s => (hf s x).trans (ih _)

theorem State.Within.modWarp (s : State) (gid w : Nat) (f : Warp → Warp) : s.Within (s.modWarp gid w f) := .of_fields rfl rfl rfl

theorem State.Within.dropLoads (s : State) (p : Load → Bool) : s.Within { s with loads := s.loads.filter p } where
  desc := fun _ _ => rfl
  loads := List.map_subset _ List.filter_sublist.subset
  issue := .of_eq rfl

/-! ## The abort of a grid (R424) -/

theorem State.Within.modCtx (s : State) (c : Nat) {f : Ctx → Ctx} (hf : ∀ x, (f x).nodes = x.nodes) : s.Within (s.modCtx c f) where
  desc := fun d n => by
    simp only [State.node, State.ctx_modCtx]
    split <;> [cases s.ctx d <;> simp [hf]; rfl]
  loads := List.Subset.refl _
  issue := .of_eq rfl

theorem State.Within.modNode (s : State) (c n : Nat) {f : Node → Node} (hf : ∀ y, (f y).desc = y.desc) :
    s.Within (s.modNode c n f) where
  desc := fun d m => by
    simp only [State.node, State.modNode, State.ctx_modCtx]
    split
    · cases s.ctx d with
      | none => rfl
      | some x =>
        simp only [Option.map_some, Option.bind_some, mapGet_mapMod]
        split <;> [cases mapGet x.nodes m <;> simp [hf]; rfl]
    · rfl
  loads := List.Subset.refl _
  issue := .of_eq rfl

theorem State.Within.freeFrame (s : State) (g : Group) : s.Within (s.freeFrame g) := by
  unfold State.freeFrame
  split
  · exact .modCtx _ _ fun _ => rfl
  · exact .refl _

theorem State.Within.freePlaces (s : State) (g : Group) : s.Within (s.freePlaces g) := by
  unfold State.freePlaces
  dsimp only
  split
  · exact .refl _
  · exact .modNode _ _ _ fun _ => rfl

theorem State.Within.freeCtxs (s : State) (gid : Nat) : s.Within (s.freeCtxs gid) := by
  unfold State.freeCtxs
  split
  · exact .refl _
  · split <;> exact .of_fields rfl rfl rfl

theorem State.Within.drained (s : State) (gid : Nat) : s.Within (s.drained gid) := by
  unfold State.drained
  split
  · exact .refl _
  · split
    · exact .refl _
    · dsimp only
      split
      · exact .freeCtxs ..
      · exact (State.Within.freeCtxs s gid).trans (.of_fields rfl rfl rfl)

/-- The group is off its core, and drains (R220). -/
def State.offCore (s : State) (gid : Nat) (g : Group) : State :=
  let s := s.modCore g.die g.core fun c =>
    { c with queue := c.queue.filter fun e => e.gid != gid, waiting := c.waiting.filter fun e => e.gid != gid }
  let s := { s with
    refetches := s.refetches.filter fun r => r.gid != gid
    loads := s.loads.filter fun d => d.gid != gid
    walks := s.walks.filter fun w => match w.who with | .fetch i _ _ => i != gid | _ => true
    streams := s.streams.filter fun t => t.gid != gid
    issue := s.issue.filter fun i => i.gid != gid
    second := s.second.filter fun i => i.iss.gid != gid }
  s.modGroup gid fun g =>
    { g with res := .draining, warps := [], barriers := [], regroup := none, tiles := [], kept := [] }

theorem State.removeGroup_eq {s : State} {gid : Nat} {g : Group} (h : s.group gid = some g) :
    s.removeGroup gid = (s.offCore gid g).drained gid := by
  rw [State.removeGroup, h]
  rfl

theorem State.Within.offCore (s : State) (gid : Nat) (g : Group) : s.Within (s.offCore gid g) where
  desc := fun _ _ => rfl
  loads := List.map_subset _ List.filter_sublist.subset
  issue := fun i hi => ⟨i, (Option.filter_eq_some_iff.1 hi).1, rfl, rfl, rfl⟩

theorem State.Within.removeGroup (s : State) (gid : Nat) : s.Within (s.removeGroup gid) := by
  cases hg : s.group gid with
  | none =>
    have h : s.removeGroup gid = s := by rw [State.removeGroup, hg]
    rw [h]
    exact .refl s
  | some g =>
    rw [State.removeGroup_eq hg]
    exact (State.Within.offCore ..).trans (.drained ..)

theorem State.Within.discard (s : State) (gid : Nat) : s.Within (s.discard gid) := by
  unfold State.discard
  split
  · exact .refl _
  · exact ((State.Within.freeFrame ..).trans (.freePlaces ..)).trans (.removeGroup ..)

theorem State.Within.abortNode (s : State) (c n : Nat) : s.Within (s.abortNode c n) := by
  unfold State.abortNode
  refine State.Within.trans ((State.Within.foldl State.Within.discard _ _).trans (.modNode _ c n ?_)) (.of_fields rfl rfl rfl)
  exact fun _ => rfl

theorem State.Within.abortGrid (s : State) (gid w : Nat) (rec_ : Record) (e : Option Record) :
    s.Within (s.abortGrid gid w rec_ e) := by
  unfold State.abortGrid
  split
  · exact .refl _
  · refine State.Within.trans ?_ (.abortNode ..)
    exact .of_fields rfl rfl rfl

/-! ## Faults -/

theorem State.Within.logChecks (s : State) (g : Group) (w : Nat) (fs : List LFlt) : s.Within (s.logChecks g w fs) :=
  .of_fields rfl rfl rfl

theorem State.Within.settleWindows (s : State) (gid w : Nat) (m : W64) : s.Within (s.settleWindows gid w m) :=
  (State.Lands.settleReads s gid w m).within.trans (.dropLoads ..)

theorem State.Within.deliver (s : State) (gid w : Nat) (d : Desc) (f : Flt) (pc set : W64) :
    s.Within (s.deliver gid w d f pc set) := by
  unfold State.deliver
  dsimp only
  have h := (State.Within.settleWindows s gid w set).trans (.modWarp _ gid w fun _ =>
    ({ (closeWindows (lanesIn set) ((s.settleWindows gid w set).warp gid w)).1.setRecord (mkRecord f pc set) with
      hset := set, hrec := some (mkRecord f pc set) } : Warp).modLanes set fun _ x => x.jump d.handler true)
  split
  · exact h.trans ((State.Within.logChecks ..).trans (.abortGrid ..))
  · exact h

theorem State.Within.takeFaults (s : State) (gid w : Nat) (pc : W64) (fs : List LFlt) : s.Within (s.takeFaults gid w pc fs) := by
  unfold State.takeFaults
  split
  · exact .refl _
  · exact .refl _
  · dsimp only
    split
    · exact (State.Within.modWarp ..).trans (.abortGrid ..)
    · split
      · exact (State.Within.modWarp ..).trans (.abortGrid ..)
      · split
        · exact (State.Within.modWarp ..).trans (.modWarp ..)
        · exact (State.Within.modWarp ..).trans ((State.Within.deliver ..).trans (.modWarp ..))

theorem State.Within.raise (s : State) (gid w : Nat) (pc : W64) (fs : List LFlt) : s.Within (s.raise gid w pc fs) := by
  unfold State.raise
  split
  · exact .refl _
  · exact .refl _
  · exact (State.Within.logChecks ..).trans (.takeFaults ..)

theorem State.Within.raiseEach (s : State) (gid w : Nat) (fs : List (W64 × LFlt)) : s.Within (s.raiseEach gid w fs) :=
  .foldl (fun _ _ => .raise ..) _ _

theorem State.Within.landDue (s : State) (gid w : Nat) (ls : W64) : s.Within (s.landDue gid w ls) := by
  unfold State.landDue
  split
  · exact .refl _
  · exact (State.Within.modWarp ..).trans (.raiseEach ..)

theorem State.Within.close (s : State) (gid w : Nat) (ls : W64) : s.Within (s.close gid w ls) :=
  (State.Within.settleWindows ..).trans ((State.Within.modWarp ..).trans (.raiseEach ..))

/-! ## Held entries (R362) -/

theorem State.Within.modEntry (s : State) (g : Group) (id : Nat) (f : MEntry → MEntry) : s.Within (s.modEntry g id f) :=
  .of_fields rfl rfl rfl

theorem State.Within.releaseEntry (s : State) (gid : Nat) (g : Group) (e : MEntry) (x : Rdv) :
    s.Within (s.releaseEntry gid g e x) := by
  unfold State.releaseEntry
  dsimp only
  split
  · exact (State.Within.modEntry ..).trans ((State.Within.modWarp ..).trans (.landDue ..))
  · exact (State.Within.modEntry ..).trans (.modWarp ..)

theorem State.Within.freeHeld (s : State) (pid : Nat) (p : Group) (e : MEntry) : s.Within (s.freeHeld pid p e) :=
  (State.Within.releaseEntry ..).trans (.of_fields rfl rfl rfl)

theorem State.Within.holdCycle (s : State) (die core : Nat) : s.Within (s.holdCycle die core) := by
  unfold State.holdCycle
  split
  · exact .refl _
  · refine State.Within.trans ?_ (.foldl (fun t e => ?_) _ _)
    · exact .of_fields rfl rfl rfl
    · split
      · exact .refl _
      · exact .freeHeld ..

theorem State.Within.descOf {s t : State} (h : s.Within t) (g : Group) : t.desc g = s.desc g := by
  rw [State.desc, State.desc, h.desc]

end Sys2Proof.Machine
end

section
/-! PROOFS. Obligation O52: `EMIT` and `SIGNAL`, and the arrival of records and signals (R396 to R404). -/

namespace Sys2Proof.Machine

/-! ## EMIT (R403) -/

/-- What a release of a lane to a node leaves (R133). -/
theorem State.Lands.sendTo (s : State) (r : Run) (l n : Nat) : s.Lands (s.sendTo r l n) :=
  (State.Lands.drainMask ..).trans (.learn ..)

theorem exec_emit_no_lead {o : Ops} {s : State} {r : Run} (h : Begins (.emit o) s r) (hl : r.lead = none) :
    exec (.emit o) s = .next (s.finish r false false false (r.dst .dstS) (r.act.map fun l => (l, .ofVal 0))) := by
  show issued _ _ _ _ = _
  rw [h.issued_never]
  simp only [hl]

/-- The number of records, where they lie, and the fault of an `EMIT` of a lane. -/
def Run.emitFault (r : Run) (o : Ops) (l size : Nat) : Option Flt :=
  Machine.emitFault r.d r.g.emitted (r.reals.rd32 l o.a).toNat (r.reals.rd32 l o.b).toNat size

theorem exec_emit_fault {o : Ops} {s : State} {r : Run} {l : Nat} {e : Node} {f : Flt} (h : Begins (.emit o) s r)
    (hl : r.lead = some l) (he : s.node r.g.ctx r.d.edst = some e) (hf : r.emitFault o l e.desc.qrec = some f)
    (ha : r.act = r.ls) : exec (.emit o) s = .next (s.faults r fun _ => f) := by
  obtain ⟨-, hg, ho, -⟩ := Run.of_runOf h.run
  have ho : r.o = o := ho
  have hf' : emitFault r.d r.g.emitted (r.reals.rd32 l o.a).toNat (r.reals.rd32 l o.b).toNat e.desc.qrec = some f := hf
  show issued _ _ _ _ = _
  rw [h.issued_never]
  simp only [hl, he, hg, ho, Option.map_some, Option.getD_some, hf', h.noPre.failRun ha]

/-- The records that an `EMIT` of `n` records of `size` bytes at `a` makes of shared memory, the header in their first bytes
when there is one. -/
def State.emitted (u : State) (r : Run) (o : Ops) (l a n size : Nat) : List QRecord :=
  (List.range n).map fun i =>
    { node := r.g.node, producer := r.g.lin, ordinal := r.g.emitted + i
      bytes := withHeader (if o.c = 0xF0 then none else some (r.reals.rd64 .zero l o.c))
        (u.readAs (r.agent l) 0 (.shared r.gid) (a + i * size) size) }

/-- An `EMIT` whose records are on their way, before the lanes move on. -/
def State.emitSent (u : State) (r : Run) (l a n size : Nat) (recs : List QRecord) : State :=
  let v := (u.noteRead (r.agent l) (.shared r.gid) a (n * size) none).sendTo r l r.d.edst
  { v with emits := v.emits ++ [{ ctx := r.g.ctx, node := r.g.node, edst := r.d.edst, records := recs }] }

theorem exec_emit_sent {o : Ops} {s : State} {r : Run} {l : Nat} {e : Node} (h : Begins (.emit o) s r)
    (hl : r.lead = some l) (he : s.node r.g.ctx r.d.edst = some e) (hf : r.emitFault o l e.desc.qrec = none) :
    let a := (r.reals.rd32 l o.a).toNat
    let n := (r.reals.rd32 l o.b).toNat
    let u := s.settleOwn (r.agent l) (.shared r.gid) a (n * e.desc.qrec)
    u.badRead (.shared r.gid) a (n * e.desc.qrec) = false →
    exec (.emit o) s = .next ((((u.emitSent r l a n e.desc.qrec (u.emitted r o l a n e.desc.qrec)).modGroup r.gid fun g =>
      { g with emitted := r.g.emitted + n })).finish r false false false (r.dst .dstS)
        (r.act.map fun k => (k, .ofVal (BitVec.ofNat 64 r.g.emitted)))) := by
  intro a n u hb
  obtain ⟨-, hg, ho, -⟩ := Run.of_runOf h.run
  have ho : r.o = o := ho
  have hf' : emitFault r.d r.g.emitted a n e.desc.qrec = none := hf
  show issued _ _ _ _ = _
  rw [h.issued_never]
  simp only [hl, he, hg, ho, Option.map_some, Option.getD_some]
  rw [hf']
  simp only []
  rw [if_neg (by rw [hb]; exact Bool.false_ne_true)]
  rfl

theorem withHeader_ite (p : Prop) [Decidable p] (x : W64) (bs : List Byte) :
    withHeader (if p then none else some x) bs = if p then bs else bytesOfWord 8 x.toNat ++ bs.drop 8 := by
  split <;> rfl

theorem State.Lands.emitSent (u : State) (r : Run) (l a n size : Nat) :
    u.Lands ((u.noteRead (r.agent l) (.shared r.gid) a (n * size) none).sendTo r l r.d.edst) :=
  (State.Lands.noteRead ..).trans (.sendTo ..)

/-- The lanes of the run move on from an `EMIT` as from any other instruction. -/
theorem State.emitSent_calm {s u : State} {r : Run} (h : Stands s r) (c : Calm s r) (k : s.Lands u) (l a n size m : Nat)
    (recs : List QRecord) :
    let v := (u.emitSent r l a n size recs).modGroup r.gid fun g => { g with emitted := m }
    Stands v r ∧ Calm v r := by
  have k2 := k.trans (.emitSent u r l a n size)
  exact ⟨((h.lands k2).of_groups (t := u.emitSent r l a n size recs) rfl).modGroup _ fun _ => rfl,
    ((c.lands k2).of_warp (t := u.emitSent r l a n size recs) rfl).modGroup _ fun _ => rfl⟩

/-! ## Records that arrive (R401) -/

/-- The node is queue-fed, stands in the callboard, and can form a batch (R401). -/
def State.batchReady (s : State) (c n : Nat) : Bool :=
  match s.ctx c, s.node c n with
  | some x, some y => y.desc.qrec != 0 && y.board.isSome && decide (0 < x.nextGroups n y)
  | _, _ => false

theorem State.batchReady_iff (s : State) (c n : Nat) : s.batchReady c n = true ↔
    ∃ x y, s.ctx c = some x ∧ s.node c n = some y ∧ y.desc.qrec ≠ 0 ∧ y.board.isSome = true ∧ 0 < x.nextGroups n y := by
  unfold State.batchReady
  split
  case h_1 x y hx hy => simp [hx, hy, and_assoc]
  case h_2 hno =>
    refine ⟨fun h => absurd h Bool.false_ne_true, ?_⟩
    rintro ⟨x, y, hx, hy, -⟩
    exact (hno x y hx hy).elim

theorem State.placeQueue_eq (t : State) (c n : Nat) (before : State) :
    t.placeQueue c n before = if t.batchReady c n && !before.batchReady c n then
      (t.modNode c n fun y => { y with board := some t.stamp }).nextStamp else t := rfl

theorem State.placeQueue_stays {t s : State} {c n : Nat} (h : ¬t.batchReady c n = true ∨ s.batchReady c n = true) :
    t.placeQueue c n s = t := by
  rw [State.placeQueue_eq, if_neg]
  simp only [Bool.and_eq_true, Bool.not_eq_true', not_and, Bool.not_eq_false]
  exact fun ht => h.resolve_left (not_not_intro ht)

theorem State.placeQueue_places {t s : State} {c n : Nat} (ht : t.batchReady c n = true) (hs : ¬s.batchReady c n = true) :
    t.placeQueue c n s = (t.modNode c n fun y => { y with board := some t.stamp }).nextStamp := by
  rw [State.placeQueue_eq, if_pos]
  simp only [Bool.and_eq_true, Bool.not_eq_true']
  exact ⟨ht, by simpa using hs⟩

/-- The records have left the list of those under way, and stand in the queue of their node. -/
def State.queued (s : State) (k : Nat) (e : Emit) : State :=
  ({ s with emits := s.emits.eraseIdx k } : State).modNode e.ctx e.edst fun n =>
    { n with queue := n.queue ++ e.records, reserved := n.reserved - e.records.length }

theorem exec_emitRecordsArrive {k : Nat} {s : State} {e : Emit} (hk : s.emits[k]? = some e) :
    exec (.emitRecordsArrive k) s = .next ((s.queued k e).placeQueue e.ctx e.edst s) := by
  show execEmitRecordsArrive k s = _
  simp only [execEmitRecordsArrive, hk]
  rfl

/-! ## SIGNAL (R404) -/

theorem exec_signal_no_lead {o : Ops} {s : State} {r : Run} (h : Issues (.signal o) s r) (hl : r.lead = none) :
    exec (.signal o) s = .next (s.advance r r.ls) := by
  show issued _ _ _ _ = _
  rw [issued_next h]
  simp only [hl]

theorem exec_signal_no_node {o : Ops} {s : State} {r : Run} {l : Nat} (h : Issues (.signal o) s r) (hl : r.lead = some l)
    (hn : s.node r.g.ctx (r.reals.rd32 l o.a).toNat = none) (ha : r.act = r.ls) :
    exec (.signal o) s = .next (s.faults r fun _ => { code := .object, s45 := BitVec.ofNat 64 (r.reals.rd32 l o.a).toNat }) := by
  have ho : r.o = o := (Run.of_runOf h.run).2.2.1
  show issued _ _ _ _ = _
  rw [issued_next h]
  simp only [hl, ho, hn, h.noPre.failRun ha]

/-- A signal for a node is on its way, before the lanes move on. -/
def State.signalled (s : State) (r : Run) (l n : Nat) : State :=
  { s.sendTo r l n with signals := s.signals ++ [{ ctx := r.g.ctx, node := r.g.node, target := n }] }

theorem exec_signal_sent {o : Ops} {s : State} {r : Run} {l : Nat} {y : Node} (h : Issues (.signal o) s r)
    (hl : r.lead = some l) (hn : s.node r.g.ctx (r.reals.rd32 l o.a).toNat = some y) :
    exec (.signal o) s = .next ((s.signalled r l (r.reals.rd32 l o.a).toNat).advance r r.ls) := by
  have ho : r.o = o := (Run.of_runOf h.run).2.2.1
  show issued _ _ _ _ = _
  rw [issued_next h]
  simp only [hl, ho, hn, (State.Lands.sendTo ..).signals]
  rfl

theorem State.signalled_calm {s : State} {r : Run} (h : Stands s r) (c : Calm s r) (l n : Nat) :
    (s.signalled r l n).advance r r.ls = (s.signalled r l n).moved r fun _ => nextSlot r.pc := by
  have k := State.Lands.sendTo s r l n
  exact State.advance_calm ((h.lands k).of_groups rfl) ((c.lands k).of_warp rfl)

/-! ## Signals that are applied (R396) -/

theorem State.sealOperands_none (s : State) (c n : Nat) {d : Desc} (h : d.cueMask = 0) : s.sealOperands c n d = s := by
  have hf : ((List.range d.nops).filter fun i => d.cueMask.getLsbD i) = [] := by
    rw [List.filter_eq_nil_iff]
    simp [h]
  rw [State.sealOperands, hf, List.foldl_nil]

theorem exec_signalApply {k : Nat} {s : State} {x : Sig} (hx : s.signals[k]? = some x) :
    exec (.signalApply k) s = .next (({ s with signals := s.signals.eraseIdx k } : State).decrement x.ctx x.target) := by
  show execSignalApply k s = _
  simp only [execSignalApply, hx]

theorem State.decrement_late {s : State} {c n : Nat} {y : Node} (hy : s.node c n = some y)
    (h : y.complete = true ∨ y.count = 0) : s.decrement c n = s.modCtx c fun x => { x with late := x.late + 1 } := by
  simp only [State.decrement, hy]
  rw [if_pos (by simpa using h)]

theorem State.decrement_count {s : State} {c n : Nat} {y : Node} (hy : s.node c n = some y) (hc : y.complete = false)
    (h0 : y.count ≠ 0) :
    s.decrement c n = (s.modNode c n fun z => { z with count := z.count - 1 }).enterBoard c n := by
  simp only [State.decrement, hy]
  rw [if_neg (by simp [hc, h0])]

theorem State.enterBoard_stays {s : State} {c n : Nat} {y : Node} (hy : s.node c n = some y)
    (h : y.count ≠ 0 ∨ y.live = false ∨ y.board.isSome = true) : s.enterBoard c n = s := by
  simp only [State.enterBoard, hy]
  rw [if_neg]
  rcases h with h | h | h
  · simp [h]
  · simp [h]
  · simp [Option.isSome_iff_ne_none.1 h]

theorem State.enterBoard_enters {s : State} {c n : Nat} {y : Node} (hy : s.node c n = some y) (hl : y.live = true)
    (h0 : y.count = 0) (hb : y.board = none) (hc : y.complete = false) (hd : y.desc.ctl ≠ 0 ∨ y.desc.cueMask = 0) :
    s.enterBoard c n = (s.modNode c n fun z =>
      { z with board := some (if y.desc.ctl = 0 ∧ y.desc.qrec = 0 then y.order else s.stamp) }).nextStamp := by
  simp only [State.enterBoard, hy]
  rw [if_pos (by simp [hl, h0, hb, hc])]
  rcases hd with hd | hd
  · rw [if_neg hd]
  · rw [State.sealOperands_none _ _ _ hd, ite_self]

/-! ## The obligation -/

/-- Settles O52: records and signals leave a lane after its earlier stores, and arrive at their node. -/
theorem recordsAndSignals : Obligations.RecordsAndSignals := by
  unfold Obligations.RecordsAndSignals
  refine ⟨fun o s r h => ⟨fun c hl => ?_, fun l e hl he => ?_⟩, fun k s e hk => ⟨fun hn => ?_, fun hu hs => ?_⟩,
    fun o s r h => ⟨fun c hl => ?_, fun l hl => ⟨fun c hn => ?_, fun ha hn => ?_⟩⟩,
    fun k s x y hx hy => ?_⟩
  · exact ⟨_, exec_emit_no_lead h hl, State.finish_short h.stands c _ _ _ (fun _ => .ofVal 0) fun _ _ => rfl⟩
  · refine ⟨fun c h1 h2 h3 h4 hb => ?_, fun ha hn => ?_, fun ha h1 h2 h3 => ?_, fun ha h1 h2 h3 h4 => ?_⟩
    · have hf : r.emitFault o l e.desc.qrec = none :=
        (if_neg (by omega)).trans ((if_neg (by omega)).trans (if_neg (by omega)))
      have ku := State.Lands.settleOwn s (r.agent l) (.shared r.gid) (r.reals.rd32 l o.a).toNat
        ((r.reals.rd32 l o.b).toNat * e.desc.qrec)
      refine ⟨_, exec_emit_sent h hl he hf hb, ?_⟩
      obtain ⟨hs, hc⟩ := State.emitSent_calm h.stands c ku l _ _ _ _ _
      convert State.finish_short hs hc false false (r.dst .dstS) (fun _ => .ofVal (BitVec.ofNat 64 r.g.emitted)) fun _ _ => rfl using 1
      refine congrArg (fun v : State => v.modGroup _ _) ?_
      rw [State.emitSent, (ku.trans (.emitSent _ r l _ _ _)).emits]
      simp only [State.emitted, withHeader_ite]
      rfl
    · refine exec_emit_fault h hl he ?_ ha
      exact if_pos hn
    · refine exec_emit_fault h hl he ?_ ha
      exact (if_neg (by omega)).trans (if_pos h3)
    · refine exec_emit_fault h hl he ?_ ha
      exact (if_neg (by omega)).trans ((if_neg (by omega)).trans (if_pos h4))
  · rw [exec_emitRecordsArrive hk, State.placeQueue_stays]
    · rfl
    · rw [State.batchReady_iff, State.batchReady_iff]
      exact hn
  · rw [exec_emitRecordsArrive hk, State.placeQueue_places (t := s.queued k e) ((State.batchReady_iff ..).2 hu) (mt (State.batchReady_iff ..).1 hs)]
    rfl
  · rw [exec_signal_no_lead h hl, State.advance_calm h.toBegins.stands c]
  · obtain ⟨y, hy⟩ := Option.isSome_iff_exists.1 hn
    rw [exec_signal_sent h hl hy, State.signalled_calm h.toBegins.stands c]
    rfl
  · exact exec_signal_no_node h hl hn ha
  · intro u
    have hu : u.node x.ctx x.target = some y := hy
    have he : exec (.signalApply k) s = .next (u.decrement x.ctx x.target) := exec_signalApply hx
    refine ⟨fun hd => ?_, fun hc h0 hn => ?_, fun hc h1 hl hb hd => ?_⟩
    · rw [he, State.decrement_late hu hd]
    · rw [he, State.decrement_count hu hc h0, State.enterBoard_stays (State.node_modNode_same hu _)]
      exact hn.imp (fun h1 => by show y.count - 1 ≠ 0; omega) id
    · have h0 : y.count ≠ 0 := by omega
      have h2 : y.count - 1 = 0 := by omega
      rw [he, State.decrement_count hu hc h0, State.enterBoard_enters (State.node_modNode_same hu _) hl h2 hb hc hd,
        State.modNode_modNode]
      refine congrArg (fun v : State => (Host.Outcome.next v.nextStamp : Out)) (State.modNode_congr hu _ _ ?_)
      simp only [h2]
      rfl

end Sys2Proof.Machine
end

section
/-! PROOFS. Obligation O42: `STS`, `STL` and `STK` (R86, R88, R97, R131, R231). -/

namespace Sys2Proof.Machine

/-! ## An instruction without a destination -/

theorem Warp.write_none (x : Warp) (ls : List Nat) : x.write .none (ls.map fun l => (l, .ofVal 0)) = x := by
  have h : ∀ (y : Warp) l, (y.put l .none 0 false).orFlags 0 = y := fun y _ => by
    show { y with flags := y.flags ||| 0#32 } = y
    rw [BitVec.or_zero]
  show (ls.map fun l => (l, Res.ofVal 0)).foldl (fun w p => (w.put p.1 .none p.2.val false).orFlags p.2.flags) x = x
  induction ls with
  | nil => rfl
  | cons l ls ih =>
    rw [List.map_cons, List.foldl_cons]
    exact (congrArg (fun y => List.foldl _ y _) (h x l)).trans ih

/-- The end of an instruction that writes no register: the lanes move on. -/
theorem State.finish_none {s : State} {r : Run} (h : Stands s r) (c : Calm s r) :
    s.finish r false false false .none (r.act.map fun l => (l, .ofVal 0))
      = (s.moved r fun _ => nextSlot r.pc).nextStamp := by
  have h1 : s.modWarp r.gid r.w (Warp.countChecks r false) = s := State.modWarp_id _ _ _ _ rfl
  have h2 : (s.modWarp r.gid r.w fun w => if false = true then
      w.openWindows s.stamp r.iss.cycle r.o.la.toNat r.pc .none false (r.act.map fun l => (l, .ofVal 0))
      else w.write .none (r.act.map fun l => (l, .ofVal 0))) = s :=
    State.modWarp_id _ _ _ _ (Warp.write_none _ r.act)
  rw [State.finish_calm c false false false .none (fun _ => .ofVal 0) fun _ _ => rfl, h1, h2, State.advance_calm h c]

/-! ## Stores that go on their way -/

theorem State.Lands.addWrite (s : State) (w : PWrite) : s.Lands { s with writes := s.writes ++ [w] } :=
  .of_fields rfl rfl rfl rfl rfl rfl

theorem State.Lands.storeAt (s : State) (r : Run) (m : MemMod) (l : Nat) (p : Loc) : s.Lands (s.storeAt r m l p) := by
  have h1 : s.Lands (if (m.kind == .release) = true then s.releaseAt r l else if p.ord = .so then s.drainSo r.gid r.w l else s) :=
    .ite ((State.Lands.drain ..).trans (.bindLoads ..)) (.ite (.drain ..) (.refl _))
  have h2 := h1.trans (.fixLoads _ fun d => Agent.lane d.gid d.warp d.lane == r.agent l
    && touches d.space d.addr d.bytes p.space p.addr (memBytes m))
  refine h2.trans ?_
  exact State.Lands.ite (State.Lands.trans (State.Lands.addWrite _ _) (.drain ..)) (State.Lands.addWrite _ _)

/-- Stores of every issuing lane to legal locations. -/
theorem storeAll_ok {m : MemMod} {loc : State → Run → Nat → Except MemFlt Loc} {r : Run} {s : State} (h : Stands s r)
    (c : Calm s r) {p : Nat → Loc} (hp : ∀ l ∈ r.act, loc s r l = .ok (p l)) :
    storeAll m loc r s = ((r.act.foldl (fun t l => if (r.snap.lane l).isReal then t.storeAt r m l (p l) else t) s).moved r
      fun _ => nextSlot r.pc).nextStamp := by
  have hres : (r.act.map fun l => (l, match loc s r l with
      | .ok _ => Res.ofVal 0
      | .error f => f.res false)) = r.act.map fun l => (l, .ofVal 0) :=
    List.map_congr_left fun l hl => by rw [hp l hl]
  have hfold : (r.act.foldl (fun (t : State) l => match loc s r l with
      | .ok p => if (r.snap.lane l).isReal then t.storeAt r m l p else t
      | .error _ => t) s) = r.act.foldl (fun t l => if (r.snap.lane l).isReal then t.storeAt r m l (p l) else t) s :=
    List.foldl_ext _ _ _ fun t l hl => by rw [hp l hl]
  have k : s.Lands (r.act.foldl (fun t l => if (r.snap.lane l).isReal then t.storeAt r m l (p l) else t) s) :=
    .foldl (fun t l => State.Lands.ite (.storeAt ..) (.refl _)) _ _
  exact (congrArg₂ (fun t res => State.finish t r false false false .none res) hfold hres).trans
    (State.finish_none (h.lands k) (c.lands k))

/-- Stores of a run whose lanes all fault. -/
theorem storeAll_faults {m : MemMod} {loc : State → Run → Nat → Except MemFlt Loc} {r : Run} {s : State} (h : s.NoPre)
    (ha : r.act = r.ls) {f : Nat → MemFlt} (hf : ∀ l ∈ r.act, loc s r l = .error (f l)) :
    storeAll m loc r s = s.nextStamp.faults r fun l => (f l).flt := by
  have hres : (r.act.map fun l => (l, match loc s r l with
      | .ok _ => Res.ofVal 0
      | .error f => f.res false)) = r.act.map fun l => (l, (f l).res false) :=
    List.map_congr_left fun l hl => by rw [hf l hl]
  have hfold : (r.act.foldl (fun (t : State) l => match loc s r l with
      | .ok p => if (r.snap.lane l).isReal then t.storeAt r m l p else t
      | .error _ => t) s) = r.act.foldl (fun t _ => t) s :=
    List.foldl_ext _ _ _ fun t l hl => by rw [hf l hl]
  have hid : r.act.foldl (fun (t : State) _ => t) s = s := List.foldl_fixed ..
  exact (congrArg₂ (fun t res => State.finish t r false false false .none res) (hfold.trans hid) hres).trans
    (h.finish_faults ha _ _ _ _ _ fun l _ => rfl)

/-! ## The stores of the statement -/

/-- The store of a lane to a location, without the releases that it carries. -/
def Run.storeTo (r : Run) (m : MemMod) (l : Nat) (p : Loc) : PWrite :=
  { cycle := r.iss.cycle, gid := r.gid, warp := r.w, lane := l, op := none, rels := [], seen := false, space := p.space
    addr := p.addr, bytes := r.storeBytes m l, ord := p.ord, release := decide (m.kind = .release), obj := p.obj
    ctx := r.g.ctx, node := r.g.node, rmw := none, late := [] }

/-- A store of a lane goes on its way (R131, R132, R142, R412). -/
def State.sends (u : State) (r : Run) (m : MemMod) (l : Nat) (w : PWrite) : State :=
  let a := Agent.lane r.gid r.w l
  let v := if m.kind = .release then (u.drainLane r.gid r.w l).bindLoads r.gid r.w (oneLane l)
    else if w.ord = .so then u.drainSo r.gid r.w l else u
  let x := v.placeLoads a w.space w.addr (memBytes m)
  let y : State := { x with writes := x.writes ++ [{ w with
    rels := x.relsOf a w.space (if m.kind = .release then some m.scope else none) }] }
  if r.d.isRehearsal then y.drain (·.byLane r.gid r.w l) else y

theorem State.storeAt_eq (t : State) (r : Run) (m : MemMod) (l : Nat) (p : Loc) :
    t.storeAt r m l p = t.sends r m l (r.storeTo m l p) := by
  have hk : (m.kind == .release) = decide (m.kind = .release) := rfl
  simp only [State.storeAt, State.sends, hk, decide_eq_true_eq]
  rfl

/-- Stores of every issuing lane to legal locations, as the statement says them. -/
theorem storeAll_sends {m : MemMod} {loc : State → Run → Nat → Except MemFlt Loc} {r : Run} {s : State} (h : Stands s r)
    (c : Calm s r) {p : Nat → Loc} (hp : ∀ l ∈ r.act, loc s r l = .ok (p l)) :
    storeAll m loc r s = ((r.act.foldl (fun u l =>
        if (r.snap.lane l).st = .real then u.sends r m l (r.storeTo m l (p l)) else u) s).moved r
      fun _ => nextSlot r.pc).nextStamp := by
  rw [storeAll_ok h c hp]
  congr 3
  funext u l
  simp only [Lane.isReal, beq_iff_eq, State.storeAt_eq]

/-! ## Locations -/

theorem Run.sharedLoc_eq (r : Run) (n l : Nat) : r.sharedLoc true n l
    = (sharedAt r.d (((r.rd32 l r.o.a).toNat : Int) + (r.o.imm.toInt + ((r.rd32 l r.o.b).toNat : Int))) n).map fun a =>
      { space := .shared r.gid, addr := a, ord := .rc, obj := none } := rfl

theorem sharedAt_ok {d : Desc} {off : Int} {n : Nat} (h0 : 0 ≤ off) (h1 : off + n ≤ d.shared) (h2 : off.toNat % n = 0) :
    sharedAt d off n = .ok off.toNat := by
  rw [sharedAt, if_neg (by omega), if_neg (not_not_intro h2)]

theorem sharedAt_bounds {d : Desc} {off : Int} {n : Nat} (h : off < 0 ∨ (d.shared : Int) < off + n) :
    sharedAt d off n = .error (memFlt .bounds off) := by
  rw [sharedAt, if_pos h]

theorem sharedAt_misaligned {d : Desc} {off : Int} {n : Nat} (h0 : 0 ≤ off) (h1 : off + n ≤ d.shared) (h2 : off.toNat % n ≠ 0) :
    sharedAt d off n = .error (memFlt .misaligned off) := by
  rw [sharedAt, if_neg (by omega), if_pos h2]

/-! ## STS -/

theorem exec_sts {o : Ops} {m : MemMod} {s : State} {r : Run} (h : Issues (.sts o m) s r) :
    exec (.sts o m) s = .next (storeAll m (fun _ r l => r.sharedLoc true (memBytes m) l) r s) :=
  h.toBegins.issued_never _

/-! ## STL -/

theorem State.checkHeld_of_checkCap_error {s : State} {g : Group} {cap : W64} {off : Int} {n : Nat} {need : BitVec 4}
    {kinds : List ObjKind} {atomic align : Bool} {e : FCode} (h : s.checkCap g.ctx cap off n need kinds atomic align = .error e) :
    s.checkHeld g cap off n need kinds atomic align = .error e := by
  rw [State.checkHeld, h]

/-- The loft location of a lane that fails a test of R97. -/
theorem State.loftLoc_error {s : State} {r : Run} {n l : Nat} {need : BitVec 4} {e : FCode}
    (h : s.checkCap r.g.ctx (r.rd64 .zero l r.o.a) (capOff (r.rd64 .zero l r.o.a) + r.disp true l) n need [.loft] false true
      = .error e) :
    s.loftLoc r true n need false l = .error (MemFlt.mk (Flt.mk e
      (capS45 (r.rd64 .zero l r.o.a) (((s.obj r.g.ctx (capObj (r.rd64 .zero l r.o.a))).map (·.ldie)).getD 0)
        (capOff (r.rd64 .zero l r.o.a) + r.disp true l) e)) (atPort (r.rd64 .zero l r.o.a) need e)) := by
  simp only [State.loftLoc, State.checkHeld_of_checkCap_error h]

section
variable {s : State} {c : Nat} {cap : W64} {off : Int} {n : Nat} {need : BitVec 4} {kinds : List ObjKind} {e : Obj}

theorem State.checkCap_object (h : s.capEntry c cap kinds = none) :
    s.checkCap c cap off n need kinds false true = .error .object := by
  rw [State.checkCap, h]

theorem State.checkCap_rights (h : s.capEntry c cap kinds = some e) (hr : need &&& (capRights cap &&& e.rights) ≠ need) :
    s.checkCap c cap off n need kinds false true = .error .rights := by
  simp only [State.checkCap, h]
  rw [if_pos hr]

theorem State.checkCap_bounds (h : s.capEntry c cap kinds = some e) (hr : need &&& (capRights cap &&& e.rights) = need)
    (hb : off < 0 ∨ (e.len : Int) < off + n) : s.checkCap c cap off n need kinds false true = .error .bounds := by
  simp only [State.checkCap, h]
  rw [if_neg (not_not_intro hr), if_pos (by simpa using hb)]

theorem State.checkCap_ok (h : s.capEntry c cap kinds = some e) (hr : need &&& (capRights cap &&& e.rights) = need)
    (h0 : 0 ≤ off) (h1 : off + n ≤ e.len) (hp : e.placed.isSome = true) (h2 : off.toNat % n = 0) :
    s.checkCap c cap off n need kinds false true = .ok (e, off.toNat) := by
  have hp' : e.placed.isNone = false := by
    rw [← Option.not_isSome, hp]
    rfl
  have hb : ¬(decide (off < 0) || decide ((e.len : Int) < off + n)) = true := by
    simp only [Bool.or_eq_true, decide_eq_true_eq]
    omega
  simp only [State.checkCap, h]
  rw [if_neg (not_not_intro hr), if_neg hb, hp']
  simp [h2]

end

theorem State.loftLoc_ok {s : State} {r : Run} {n l : Nat} {need : BitVec 4} {e : Obj} {cap : W64} {off : Int}
    (hcap : r.rd64 .zero l r.o.a = cap) (hoff : capOff cap + r.disp true l = off)
    (hc : s.checkCap r.g.ctx cap off n need [.loft] false true = .ok (e, off.toNat)) (h0 : 0 ≤ off) (h1 : off + n ≤ e.len)
    (hh : s.heldLen r.g.die r.g.core r.g.ctx (capObj cap) e = e.len) (hr : (s.hops r.g.die (e.placed.getD 0)).isSome = true) :
    s.loftLoc r true n need false l = .ok
      { space := .loft (e.placed.getD 0), addr := e.base + off.toNat, ord := e.ord, obj := some (r.g.ctx, capObj cap) } := by
  have hr' : (s.hops r.g.die (e.placed.getD 0)).isNone = false := by
    rw [← Option.not_isSome, hr]
    rfl
  have hheld : s.checkHeld r.g cap off n need [.loft] false true = .ok (e, off.toNat) := by
    rw [State.checkHeld, hc]
    simp only [hh]
    rw [if_neg (by omega)]
  simp only [State.loftLoc, hcap, hoff, hheld, hr', Bool.false_eq_true, if_false]

theorem State.holdObj_groups (s : State) (die core c i : Nat) :
    (s.holdObj die core c i).groups = s.groups ∧ (s.holdObj die core c i).issue = s.issue := by
  unfold State.holdObj
  split <;> exact ⟨rfl, rfl⟩

theorem State.holdCaps_groups (g : Group) (caps : List W64) : ∀ s : State,
    (s.holdCaps g caps).groups = s.groups ∧ (s.holdCaps g caps).issue = s.issue := by
  induction caps with
  | nil => exact fun s => ⟨rfl, rfl⟩
  | cons cap caps ih =>
    intro s
    obtain ⟨h1, h2⟩ := ih (s.holdObj g.die g.core g.ctx (capObj cap))
    obtain ⟨k1, k2⟩ := State.holdObj_groups s g.die g.core g.ctx (capObj cap)
    exact ⟨h1.trans k1, h2.trans k2⟩

theorem State.NoPre.holdCaps {s : State} (h : s.NoPre) (g : Group) (caps : List W64) : (s.holdCaps g caps).NoPre := by
  rw [State.NoPre, (State.holdCaps_groups g caps s).2]
  exact h

theorem Calm.of_groups {s t : State} {r : Run} (c : Calm s r) (h : t.groups = s.groups) : Calm t r :=
  c.of_warp (by simp only [State.warp, State.group, h])

theorem exec_stl {o : Ops} {m : MemMod} {s : State} {r : Run} (h : Issues (.stl o m) s r) :
    exec (.stl o m) s = .next (storeAll m (fun _ r l => s.loftLoc r true (memBytes m) rightWR false l) r (s.holdCaps r.g r.caps)) :=
  h.toBegins.issued_never _

/-! ## STK -/

/-- Write one word of the spill stack; its error is gone. -/
def Warp.putWord (w : Warp) (p : Nat × List Byte) : Warp :=
  { w with stack := writeBytes w.stack (4 * p.1) p.2, stackErr := w.stackErr.filter (· != p.1) }

/-- What writing whole words of the stack leaves, each word named once. -/
theorem Warp.putWords_spec (ps : List (Nat × List Byte)) : ∀ w : Warp, Memory.wf w.stack = true →
    (∀ p ∈ ps, p.2.length = 4) → (∀ p ∈ ps, ∀ q ∈ ps, p.1 = q.1 → p = q) →
    let b := ps.foldl Warp.putWord w
    b = { w with stack := b.stack, stackErr := b.stackErr } ∧ Memory.wf b.stack = true
    ∧ (∀ a, ∀ p ∈ ps, a / 4 = p.1 → readByte b.stack a = p.2.getD (a % 4) 0)
    ∧ (∀ a, (∀ p ∈ ps, a / 4 ≠ p.1) → readByte b.stack a = readByte w.stack a)
    ∧ ∀ k, k ∈ b.stackErr ↔ k ∈ w.stackErr ∧ ∀ p ∈ ps, k ≠ p.1 := by
  induction ps with
  | nil => exact fun w hw _ _ => ⟨rfl, hw, by simp, by simp, by simp⟩
  | cons q ps ih =>
    intro w hw h4 hu
    obtain ⟨hq4, h4⟩ := List.forall_mem_cons.1 h4
    have hread : ∀ a, readByte (w.putWord q).stack a = if a / 4 = q.1 then q.2.getD (a % 4) 0 else readByte w.stack a := by
      intro a
      rw [Warp.putWord, readByte_writeBytes _ _ _ _ hw, hq4]
      by_cases ha : a / 4 = q.1
      · rw [if_pos ha, if_pos (by omega)]
        congr 1
        omega
      · rw [if_neg ha, if_neg (by omega)]
    obtain ⟨i1, i2, i3, i4, i5⟩ := ih (w.putWord q) (Memory.wf_writeBytes _ _ _ hw) h4
      fun p hp p' hp' => hu p (List.mem_cons_of_mem _ hp) p' (List.mem_cons_of_mem _ hp')
    refine ⟨i1, i2, fun a p hp ha => ?_, fun a ha => ?_, fun k => ?_⟩
    · by_cases hin : ∃ p' ∈ ps, a / 4 = p'.1
      · obtain ⟨p', hp', ha'⟩ := hin
        rw [hu p hp p' (List.mem_cons_of_mem _ hp') (ha.symm.trans ha')]
        exact i3 a p' hp' ha'
      · have hpq : p = q := (List.mem_cons.1 hp).resolve_right fun h => hin ⟨p, h, ha⟩
        refine (i4 a fun p' hp' ha' => hin ⟨p', hp', ha'⟩).trans ?_
        rw [hread, hpq, if_pos (by rw [← hpq]; exact ha)]
    · obtain ⟨hq, hps⟩ := List.forall_mem_cons.1 ha
      exact (i4 a hps).trans ((hread a).trans (if_neg hq))
    · refine (i5 k).trans ?_
      simp only [Warp.putWord, List.mem_filter, bne_iff_ne, ne_eq, List.forall_mem_cons, and_assoc]

/-- The words of the stack that a store of a lane writes: word `i` of its bytes at word `o + i` of its own. -/
def laneWords (o l : Nat) (bs : List Byte) : List (Nat × List Byte) :=
  (List.range (bs.length / 4)).map fun i => ((o + i) * 64 + l, (bs.drop (4 * i)).take 4)

theorem Warp.stackStore_eq (w : Warp) (o l : Nat) (bs : List Byte) :
    w.stackStore o l bs = (laneWords o l bs).foldl Warp.putWord w := by
  have hz : (stackWords o l bs.length).zipIdx = (List.range (bs.length / 4)).map fun i => ((o + i) * 64 + l, i) := by
    apply List.ext_getElem <;> simp [stackWords]
  rw [Warp.stackStore, hz, laneWords, List.foldl_map, List.foldl_map]
  rfl

theorem bytesOfWord_length (n : Nat) : ∀ v : Nat, (bytesOfWord n v).length = n := by
  induction n with
  | zero => exact fun _ => rfl
  | succ n ih => exact fun v => congrArg (· + 1) (ih _)

theorem Run.storeBytes_length (r : Run) (m : MemMod) (l : Nat) : (r.storeBytes m l).length = memBytes m := by
  rw [Run.storeBytes, bytesOfWord_length]

/-- The words that the stores of the issuing lanes write. -/
def Run.stackPuts (r : Run) (m : MemMod) (at_ : Nat → Nat) : List (Nat × List Byte) :=
  r.act.flatMap fun l => laneWords (at_ l) l (r.storeBytes m l)

theorem Run.mem_stackPuts {r : Run} {m : MemMod} {at_ : Nat → Nat} {p : Nat × List Byte} : p ∈ r.stackPuts m at_ ↔
    ∃ l ∈ r.act, ∃ i < memBytes m / 4, p = ((at_ l + i) * 64 + l, ((r.storeBytes m l).drop (4 * i)).take 4) := by
  simp only [Run.stackPuts, laneWords, List.mem_flatMap, List.mem_map, List.mem_range, Run.storeBytes_length, eq_comm]

/-- Each word is of one lane and one place. -/
theorem Run.stackPuts_unique {r : Run} {m : MemMod} {at_ : Nat → Nat} (hlt : ∀ l ∈ r.act, l < 64) :
    ∀ p ∈ r.stackPuts m at_, ∀ q ∈ r.stackPuts m at_, p.1 = q.1 → p = q := by
  intro p hp q hq he
  obtain ⟨l, hl, i, hi, rfl⟩ := Run.mem_stackPuts.1 hp
  obtain ⟨k, hk, j, hj, rfl⟩ := Run.mem_stackPuts.1 hq
  have hl64 := hlt l hl
  have hk64 := hlt k hk
  have he' : (at_ l + i) * 64 + l = (at_ k + j) * 64 + k := he
  obtain rfl : l = k := by omega
  obtain rfl : i = j := by omega
  rfl

theorem Run.stackPuts_length {r : Run} {m : MemMod} {at_ : Nat → Nat} : ∀ p ∈ r.stackPuts m at_, p.2.length = 4 := by
  intro p hp
  obtain ⟨l, hl, i, hi, rfl⟩ := Run.mem_stackPuts.1 hp
  rw [List.length_take, List.length_drop, Run.storeBytes_length]
  omega

theorem stackAt_ok {d : Desc} {o : Int} {n : Nat} (h0 : 0 ≤ o)
    (h1 : (o + (n / 4 : Nat)) * 256 ≤ ((ceilDiv d.stack 256 * 256 : Nat) : Int)) (h2 : n = 8 → o.toNat % 2 = 0) :
    stackAt d o n = .ok o.toNat := by
  rw [stackAt, if_neg (by omega), if_neg (by rintro ⟨h8, hne⟩; exact hne (h2 h8))]

theorem stackAt_overflow {d : Desc} {o : Int} {n : Nat}
    (h : o < 0 ∨ ((ceilDiv d.stack 256 * 256 : Nat) : Int) < (o + (n / 4 : Nat)) * 256) :
    stackAt d o n = .error (memFlt .stackOverflow o) := by
  rw [stackAt, if_pos h]

/-- The stores of the issuing lanes that have a place on the stack, one after another. -/
def Run.stackStores (r : Run) (m : MemMod) (w : Warp) : Warp :=
  r.act.foldl (fun w l => match r.stackLoc (memBytes m) l with
    | .ok k => w.stackStore k l (r.storeBytes m l)
    | .error _ => w) w

theorem exec_stk {o : Ops} {m : MemMod} {s : State} {r : Run} (h : Issues (.stk o m) s r) :
    exec (.stk o m) s = .next ((s.modWarp r.gid r.w (r.stackStores m)).finish r false false false .none
      (r.act.map fun l => (l, match r.stackLoc (memBytes m) l with
        | .ok _ => .ofVal 0
        | .error f => f.res false))) :=
  issued_next h _ _

theorem Run.stackStores_ok {r : Run} {m : MemMod} {at_ : Nat → Nat}
    (hat : ∀ l ∈ r.act, r.stackLoc (memBytes m) l = .ok (at_ l)) (w : Warp) :
    r.stackStores m w = (r.stackPuts m at_).foldl Warp.putWord w := by
  rw [Run.stackPuts, List.foldl_flatMap]
  exact List.foldl_ext _ _ _ fun w l hl => by rw [hat l hl]; exact Warp.stackStore_eq ..

theorem Run.stackStores_error {r : Run} {m : MemMod} {f : Nat → MemFlt}
    (hf : ∀ l ∈ r.act, r.stackLoc (memBytes m) l = .error (f l)) (w : Warp) : r.stackStores m w = w := by
  refine (List.foldl_ext _ (fun w _ => w) _ fun w l hl => ?_).trans (List.foldl_fixed ..)
  rw [hf l hl]

theorem Warp.stack_wf {w : Warp} (h : w.canon = true) : Memory.wf w.stack = true := by
  simp only [Warp.canon, Bool.and_eq_true] at h
  exact h.1.1

/-- The run stands, and is calm, after its stores to the stack. -/
theorem Run.stackPuts_calm {s : State} {r : Run} (h : Stands s r) (c : Calm s r) (m : MemMod) (at_ : Nat → Nat) :
    let t := s.modWarp r.gid r.w fun w => (r.stackPuts m at_).foldl Warp.putWord w
    Stands t r ∧ Calm t r := by
  obtain ⟨g, hg, hw⟩ := h.group
  obtain ⟨b1, b2, -⟩ := Warp.putWords_spec (r.stackPuts m at_) _ (Warp.stack_wf h.canon) Run.stackPuts_length
    (Run.stackPuts_unique fun l hl => h.lt l (h.sub l hl))
  have hl : ((r.stackPuts m at_).foldl Warp.putWord (s.warp r.gid r.w)).lanes = (s.warp r.gid r.w).lanes := by rw [b1]
  have hcan : ((r.stackPuts m at_).foldl Warp.putWord (s.warp r.gid r.w)).canon = true := by
    have h' := h.canon
    rw [b1]
    simp only [Warp.canon, Bool.and_eq_true] at h' ⊢
    exact ⟨⟨b2, h'.1.2⟩, h'.2⟩
  refine ⟨h.modWarp _ (congrArg _ hl) hcan, ?_, c.soft⟩
  intro l hm y hy
  rw [State.warp_modWarp s _ _ _ hg hw, Warp.lane, hl] at hy
  exact c.windows l hm y hy

/-- The stack stores of a run's lanes to legal places. -/
theorem exec_stk_ok {o : Ops} {m : MemMod} {s : State} {r : Run} (h : Issues (.stk o m) s r) (c : Calm s r) {at_ : Nat → Nat}
    (hat : ∀ l ∈ r.act, r.stackLoc (memBytes m) l = .ok (at_ l)) :
    exec (.stk o m) s = .next (((s.modWarp r.gid r.w fun w => (r.stackPuts m at_).foldl Warp.putWord w).moved r
      fun _ => nextSlot r.pc).nextStamp) := by
  have hres : (r.act.map fun l => (l, match r.stackLoc (memBytes m) l with
      | .ok _ => Res.ofVal 0
      | .error f => f.res false)) = r.act.map fun l => (l, .ofVal 0) :=
    List.map_congr_left fun l hl => by rw [hat l hl]
  obtain ⟨hst, hc⟩ := Run.stackPuts_calm h.toBegins.stands c m at_
  have hput : s.modWarp r.gid r.w (r.stackStores m) = s.modWarp r.gid r.w fun w => (r.stackPuts m at_).foldl Warp.putWord w :=
    State.modWarp_congr _ _ _ _ _ (Run.stackStores_ok hat _)
  rw [exec_stk h, hput]
  exact congrArg _ ((congrArg (State.finish _ r false false false .none) hres).trans (State.finish_none hst hc))

/-- Those of a run whose lanes all fault. -/
theorem exec_stk_faults {o : Ops} {m : MemMod} {s : State} {r : Run} (h : Issues (.stk o m) s r) (ha : r.act = r.ls)
    {f : Nat → MemFlt} (hf : ∀ l ∈ r.act, r.stackLoc (memBytes m) l = .error (f l)) :
    exec (.stk o m) s = .next (s.nextStamp.faults r fun l => (f l).flt) := by
  have hres : (r.act.map fun l => (l, match r.stackLoc (memBytes m) l with
      | .ok _ => Res.ofVal 0
      | .error f => f.res false)) = r.act.map fun l => (l, (f l).res false) :=
    List.map_congr_left fun l hl => by rw [hf l hl]
  rw [exec_stk h, State.modWarp_id _ _ _ _ (Run.stackStores_error hf _)]
  exact congrArg _ ((congrArg (State.finish s r false false false .none) hres).trans
    (h.noPre.finish_faults ha _ _ _ _ _ fun _ _ => rfl))

/-- What the stores of a run's lanes to the stack leave. -/
theorem Run.stackPuts_result {s : State} {r : Run} (h : Stands s r) (m : MemMod) (at_ : Nat → Nat) :
    let x := s.warp r.gid r.w
    let t := ((s.modWarp r.gid r.w fun w => (r.stackPuts m at_).foldl Warp.putWord w).moved r fun _ => nextSlot r.pc).nextStamp
    OnlyWarp s t r.gid r.w
    ∧ t.warp r.gid r.w = { x.moved s.stamp r.ls (fun _ => nextSlot r.pc) with
        stack := (t.warp r.gid r.w).stack, stackErr := (t.warp r.gid r.w).stackErr }
    ∧ (t.warp r.gid r.w).stack = ((r.stackPuts m at_).foldl Warp.putWord x).stack
    ∧ (t.warp r.gid r.w).stackErr = ((r.stackPuts m at_).foldl Warp.putWord x).stackErr := by
  intro x t
  obtain ⟨g, hg, hw⟩ := h.group
  have ht : t = (s.modWarp r.gid r.w fun w =>
      ((r.stackPuts m at_).foldl Warp.putWord w).moved s.stamp r.ls fun _ => nextSlot r.pc).nextStamp :=
    congrArg State.nextStamp (State.modWarp_modWarp ..)
  have htw : t.warp r.gid r.w = ((r.stackPuts m at_).foldl Warp.putWord x).moved s.stamp r.ls fun _ => nextSlot r.pc := by
    rw [ht]
    exact State.warp_modWarp s _ _ _ hg hw
  obtain ⟨b1, -⟩ := Warp.putWords_spec (r.stackPuts m at_) x (Warp.stack_wf h.canon) Run.stackPuts_length
    (Run.stackPuts_unique fun l hl => h.lt l (h.sub l hl))
  refine ⟨?_, ?_, by rw [htw]; rfl, by rw [htw]; rfl⟩
  · unfold OnlyWarp
    rw [htw, ht, ← State.modWarp_const]
    rfl
  · rw [htw, b1]
    rfl

/-! ## The obligation -/

/-- Settles O42: stores go on their way at legal locations, the stack is written at once, and faults come bounds first. -/
theorem stores : Obligations.Stores := by
  unfold Obligations.Stores
  intro disp at_ bytes fails sent
  refine ⟨fun o m s r h c => ⟨fun hl => ?_, fun ha hf => ?_, fun ha hf => ?_⟩, fun o m s r e h c => ?_, fun o m s r h c => ?_⟩
  · rw [exec_sts h, storeAll_sends h.toBegins.stands c (p := fun l =>
      { space := .shared r.gid, addr := (at_ r l).toNat, ord := .rc, obj := none })]
    · rfl
    · intro l hm
      obtain ⟨h0, h1, h2⟩ := hl l hm
      rw [Run.sharedLoc_eq, sharedAt_ok h0 h1 h2]
      rfl
  · rw [exec_sts h, storeAll_faults h.noPre ha (f := fun l => memFlt .bounds (at_ r l))]
    · rfl
    · intro l hm
      rw [Run.sharedLoc_eq, sharedAt_bounds (hf l hm)]
      rfl
  · rw [exec_sts h, storeAll_faults h.noPre ha (f := fun l => memFlt .misaligned (at_ r l))]
    · rfl
    · intro l hm
      obtain ⟨h0, h1, h2⟩ := hf l hm
      rw [Run.sharedLoc_eq, sharedAt_misaligned h0 h1 h2]
      rfl
  · obtain rfl : r.o = o := (Run.of_runOf h.run).2.2.1
    intro n cap off granted w kept
    have hk := State.holdCaps_groups r.g (r.act.map cap) s
    have hst : Stands kept r := h.toBegins.stands.of_groups hk.1
    have hc : Calm kept r := c.of_groups hk.1
    have hn : kept.NoPre := h.noPre.holdCaps _ _
    have hfails : ∀ code : FCode, r.act = r.ls →
        (∀ l ∈ r.act, s.checkCap r.g.ctx (cap l) (off l) n rightWR [.loft] false true = .error code) →
        exec (.stl r.o m) s = .next (kept.nextStamp.faults r fun l =>
          Flt.mk code (capS45 (cap l) (((s.obj r.g.ctx (capObj (cap l))).map (·.ldie)).getD 0) (off l) code)) := by
      intro code ha he
      rw [exec_stl h]
      exact congrArg _ (storeAll_faults (loc := fun _ r l => s.loftLoc r true (memBytes m) rightWR false l) hn ha
        fun l hl => State.loftLoc_error (he l hl))
    refine ⟨fun hno ha => ?_, fun he => ⟨fun hl => ?_, fun ha hl => ?_, fun ha hl => ?_⟩⟩
    · exact hfails .object ha fun l hl => State.checkCap_object (hno l hl)
    · rw [exec_stl h, show s.holdCaps r.g r.caps = kept from rfl, storeAll_sends hst hc (p := fun l =>
        { space := .loft ((e l).placed.getD 0), addr := (e l).base + (off l).toNat, ord := (e l).ord
          obj := some (r.g.ctx, capObj (cap l)) })]
      · rfl
      · intro l hm
        obtain ⟨hr, h0, h1, hp, h2, hh, hlen⟩ := hl l hm
        exact State.loftLoc_ok rfl rfl (State.checkCap_ok (he l hm) hr h0 h1 hp h2) h0 h1 hlen hh
    · exact hfails .rights ha fun l hm => State.checkCap_rights (he l hm) (hl l hm)
    · exact hfails .bounds ha fun l hm => State.checkCap_bounds (he l hm) (hl l hm).1 (hl l hm).2
  · obtain rfl : r.o = o := (Run.of_runOf h.run).2.2.1
    intro n size x
    refine ⟨fun hl => ?_, fun ha hf => ?_⟩
    · have hat : ∀ l ∈ r.act, r.stackLoc n l = .ok (at_ r l).toNat := fun l hm =>
        stackAt_ok (hl l hm).1 (hl l hm).2.1 (hl l hm).2.2
      obtain ⟨t1, t2, t3, t4⟩ := Run.stackPuts_result h.toBegins.stands m fun l => (at_ r l).toNat
      obtain ⟨-, -, b3, b4, b5⟩ := Warp.putWords_spec (r.stackPuts m fun l => (at_ r l).toNat) x (Warp.stack_wf h.canon)
        Run.stackPuts_length (Run.stackPuts_unique fun l hl => Run.ls_lt h.run (Run.act_sub h.run hl))
      refine ⟨_, exec_stk_ok h c hat, t1, t2, fun l hm i j hi hj => ?_, fun a ha => ?_⟩
      · rw [t3, t4]
        have hp := Run.mem_stackPuts (r := r) (m := m) (at_ := fun l => (at_ r l).toNat).2 ⟨l, hm, i, hi, rfl⟩
        refine ⟨(b3 _ _ hp (by dsimp only; omega)).trans ?_, fun hk => ((b5 _).1 hk).2 _ hp rfl⟩
        rw [show (4 * (((at_ r l).toNat + i) * 64 + l) + j) % 4 = j by omega, List.getD_eq_getElem?_getD,
          List.getElem?_take_of_lt hj, List.getElem?_drop, ← List.getD_eq_getElem?_getD]
        rfl
      · rw [t3, t4]
        have hno : ∀ p ∈ r.stackPuts m fun l => (at_ r l).toNat, a / 4 ≠ p.1 := by
          intro p hp
          obtain ⟨l, hm, i, hi, rfl⟩ := Run.mem_stackPuts.1 hp
          exact ha l hm i hi
        exact ⟨b4 a hno, (b5 _).trans (and_iff_left hno)⟩
    · have hat : ∀ l ∈ r.act, r.stackLoc n l = .error (memFlt .stackOverflow (at_ r l)) := fun l hm =>
        stackAt_overflow (hf l hm)
      rw [exec_stk_faults h ha hat]
      rfl

end Sys2Proof.Machine
end

section
/-! PROOFS. Obligation O37: a step runs the decoded instruction (R21, R22, R167, R408, R448). -/

namespace Sys2Proof.Machine

/-! ## What a step does -/

/-- A step settles what its event or issue leaves. -/
def settled (o : Out) : Out :=
  match o with
  | .next t => .next t.settleAll
  | o => o

theorem step_eq (s : State) : step s = settled (stepOf s) := rfl

theorem stepOf_item {s : State} {x : Item} {rest : List Item} (hh : s.halted = false) (h2 : s.second = none)
    (ha : s.agenda = x :: rest) : stepOf s = runItem x { s with agenda := rest } := by
  simp only [stepOf, ha, hh, h2, Bool.false_eq_true, if_false]

theorem stepOf_second {s : State} {x : Second} (hh : s.halted = false) (h2 : s.second = some x) : stepOf s = runSecond x s := by
  unfold stepOf
  split <;> simp only [hh, h2, Bool.false_eq_true, if_false]

theorem State.outOfTurn_eq_false (s : State) (i : Instr) : s.outOfTurn i = false ↔
    Instr.isCommand i = false ∨ ∃ c, s.mailbox.cmds.head? = some c ∧ c.pad = 0 ∧ cmdEvent c.cmd = some i := by
  unfold State.outOfTurn
  cases s.mailbox.cmds.head? with
  | none => simp
  | some c => cases Instr.isCommand i <;> simp

/-! ## An issue of one run -/

theorem State.opportunity_eq {s : State} {gid w : Nat} {g h : Group} {y : Issuer} (hg : s.group gid = some g)
    (hy : (s.holdCycle g.die g.core).chosen (unitOf g w) = some y) (hh : (s.holdCycle g.die g.core).group y.gid = some h) :
    s.opportunity gid w = ((s.holdCycle g.die g.core).passOver y.gid y.warp h).startCycle y.gid y.warp h := by
  simp only [State.opportunity, hg, hy, hh]

/-- The issue of a run, as the instruction of a cycle with one run gets it. -/
def State.oneIssue (s : State) (gid w : Nat) (m pc : W64) : Issue :=
  let snap := (s.warp gid w).recall m pc
  { gid := gid, warp := w, lanes := m, pc := pc, snap := snap, busy := snap.guarded m pc, cycle := s.stamp, out := 0, pre := [] }

theorem State.startCycle_one {s : State} {gid w : Nat} {g : Group} {m pc : W64} (hr : (s.desc g).isRehearsal = false)
    (hc : (g.warp w).cycle (s.ready gid g (g.warp w)) true = some { runA := m, pcA := pc, second := none })
    (hr' : ((s.settleRun gid w m pc).desc g).isRehearsal = false) :
    s.startCycle gid w g = runIssue ((s.settleRun gid w m pc).oneIssue gid w m pc)
      ((s.settleRun gid w m pc).modWarp gid w fun x => x.counted (s.ready gid g (g.warp w)) m).nextStamp := by
  have h0 : ∀ x : W64, x ||| 0 = x := fun x => BitVec.or_zero
  have hd : ∀ t : State, ((t.modWarp gid w fun x => x.counted (s.ready gid g (g.warp w)) m).nextStamp.desc g) = t.desc g :=
    fun _ => rfl
  simp only [State.startCycle, hr, Bool.not_false, hc, Cycle.runs, Cycle.lanes, Option.map_none, Option.toList_none,
    List.foldl_cons, List.foldl_nil, Option.getD_none, h0, hd, hr', Bool.false_and, Bool.false_eq_true, if_false]
  rfl

/-- An issue that is over. -/
def issueEnded (o : Out) : Out :=
  match o with
  | .next t => .next (State.settleAll { t with issue := none })
  | o => o

theorem settled_afterIssue (o : Out) : settled (afterIssue o id) = issueEnded o := by
  cases o <;> rfl

theorem and_not_maskOf_nil (x : W64) : x &&& ~~~(maskOf []) = x := by
  show x &&& ~~~0#64 = x
  rw [BitVec.not_zero, BitVec.and_allOnes]

theorem State.raise_nil (s : State) (gid w : Nat) (pc : W64) : s.raise gid w pc [] = s := rfl

section
variable {x : Issue} {s : State} (hl : x.snap.badEntry x.pc (lanesIn x.lanes) = [])
include hl

/-- Bytes that do not decode. -/
theorem runIssue_error {e : DecodeError} (he : x.snap.instrAt x.pc = .error e) :
    runIssue x s = afterIssue (.next (({ s with issue := some x } : State).raise x.gid x.warp x.pc
      ((lanesIn x.lanes).map fun l => (l, ({ code := .illegalField, s45 := 0 } : Flt))))) id := by
  simp only [runIssue, hl, and_not_maskOf_nil, List.map_nil, State.raise_nil, he]
  rfl

/-- Bytes that decode, outside rehearsal. -/
theorem runIssue_ok {i : Instr} (hi : x.snap.instrAt x.pc = .ok i)
    (hr : ∀ k, s.group x.gid = some k → (s.desc k).isRehearsal = false) :
    runIssue x s = afterIssue (exec i { s with issue := some x }) id := by
  have hn : (s.group x.gid).filter (fun g => (s.desc g).isRehearsal) = none := by
    cases hg : s.group x.gid with
    | none => rfl
    | some k => simp [hr k hg]
  have hn' : (State.group { s with issue := some x } x.gid).filter
    (fun g => (State.desc { s with issue := some x } g).isRehearsal) = none := hn
  simp only [runIssue, hl, and_not_maskOf_nil, List.map_nil, State.raise_nil, hi, hn']

end

/-! ## Outside rehearsal -/

/-- The group, if there is one, is of a launch outside rehearsal. -/
def State.Plain (s : State) (gid : Nat) : Prop := ∀ k, s.group gid = some k → (s.desc k).isRehearsal = false

theorem State.Plain.lands {s t : State} {gid : Nat} (h : s.Plain gid) (k : s.Lands t) : t.Plain gid := by
  intro y hy
  have hr := k.group gid
  rw [hy] at hr
  cases hx : s.group gid with
  | none => rw [hx] at hr; cases hr
  | some x =>
    rw [hx] at hr
    cases hr with
    | some p => rw [k.desc p]; exact h x hx

theorem State.Plain.modWarp {s : State} {gid : Nat} (h : s.Plain gid) (w : Nat) (f : Warp → Warp) :
    (s.modWarp gid w f).Plain gid := by
  intro y hy
  rw [State.modWarp, State.group_modGroup, if_pos rfl] at hy
  obtain ⟨x, hx, rfl⟩ := Option.map_eq_some_iff.1 hy
  exact h x hx

theorem mapGet_map {β : Type} (m : KMap β) (f : Nat × β → Nat × β) (hf : ∀ p, (f p).1 = p.1) (i : Nat) :
    mapGet (m.map f) i = (mapGet m i).map fun x => (f (i, x)).2 := by
  induction m with
  | nil => rfl
  | cons p m ih =>
    obtain ⟨k, v⟩ := p
    have hk : f (k, v) = (k, (f (k, v)).2) := Prod.ext (hf (k, v)) rfl
    rw [List.map_cons, hk]
    simp only [mapGet]
    split
    · subst_vars; rfl
    · split <;> [rfl; exact ih]

theorem State.Plain.passOver {s : State} {gid : Nat} (h : s.Plain gid) (i w : Nat) (g : Group) : (s.passOver i w g).Plain gid := by
  intro y hy
  have hm := mapGet_map s.groups (fun p => if p.2.die == g.die && p.2.core == g.core then
      (p.1, { p.2 with warps := mapFrom 0 (fun v x =>
        if !(p.1 == i && v == w) && unitOf p.2 v == unitOf g w then
          { x with waited := if s.ready p.1 p.2 x != 0 then x.waited + 1 else 0 } else x) p.2.warps })
      else p) (fun p => by dsimp only; split <;> rfl) gid
  have hy' := hm.symm.trans hy
  obtain ⟨x, hx, rfl⟩ := Option.map_eq_some_iff.1 hy'
  have hx' := h x hx
  dsimp only
  split <;> exact hx'

theorem State.Lands.settleRun (s : State) (gid w : Nat) (run pc : W64) : s.Lands (s.settleRun gid w run pc) := by
  unfold State.settleRun
  split
  · exact .ite (.settleReads ..) (.refl _)
  · exact .refl _

/-! ## The second issue of a cycle -/

/-- The lanes that stand where they stood are all there. -/
theorem State.stillThere_all {s : State} {x : Issue} {g : Group} (hg : s.group x.gid = some g)
    (h : ∀ l, x.lanes.getLsbD l = true → ((g.warp x.warp).lane l).isLive = true ∧ ((g.warp x.warp).lane l).pc = x.pc
      ∧ ((g.warp x.warp).lane l).wait = .none) : s.stillThere x = x.lanes := by
  simp only [State.stillThere, hg]
  apply BitVec.eq_of_getLsbD_eq
  intro l hl
  rw [BitVec.getLsbD_and]
  cases hx : x.lanes.getLsbD l with
  | false => rfl
  | true =>
    obtain ⟨h1, h2, h3⟩ := h l hx
    simp [Warp.where, hl, h1, h2, h3, State.waitOver]

theorem runSecond_eq {x : Issue} {pair : Bool} {s v : State}
    (hv : v = if pair = true then
        (State.completeNow { s with second := none } x.gid x.warp (State.stillThere { s with second := none } x)).keepBefore x
      else { s with second := none })
    (ht : v.stillThere x = x.lanes) (hx : x.lanes ≠ 0) : runSecond { iss := x, pair := pair } s = runIssue x v := by
  subst hv
  simp only [runSecond]
  rw [ht, if_neg hx]

/-! ## The obligation -/

/-- Settles O37: a step is exec of the event or of the decoded word, and what is due then lands. -/
theorem stepRunsTheInstruction : Obligations.StepRunsTheInstruction := by
  unfold Obligations.StepRunsTheInstruction
  intro settled' ended legalAt
  have hset : settled' = settled := by
    funext o
    cases o <;> rfl
  have hend : ended = issueEnded := by
    funext o
    cases o <;> rfl
  rw [hset, hend]
  refine ⟨fun i m rest s hh h2 ha => ?_, fun gid w stale rest s g h y m pc hh h2 ha hg => ?_,
    fun x pair s g i hh h2 => ?_⟩
  · intro t inTurn
    have hturn : inTurn ↔ t.outOfTurn i = false := (State.outOfTurn_eq_false t i).symm
    rw [step_eq, stepOf_item hh h2 ha]
    refine ⟨fun hi => ?_, fun hi hn => ?_, fun hi hn => ?_⟩
    · simp only [runItem, hi, Bool.not_false, if_true, settled]
    · have ht : t.outOfTurn i = true := by rw [hturn] at hn; simpa using hn
      have ht' : ({ s with agenda := rest, stale := Item.stale (.event i m) } : State).outOfTurn i = true := ht
      simp only [runItem, hi, Bool.not_true, Bool.false_eq_true, if_false, ht', if_true, settled]
      rfl
    · have ht' : ({ s with agenda := rest, stale := Item.stale (.event i m) } : State).outOfTurn i = false := hturn.1 hn
      simp only [runItem, hi, Bool.not_true, Bool.false_eq_true, if_false, ht']
      rfl
  · intro t hy hk hr v ready hc v' snap x hleg u
    let s0 : State := { s with agenda := rest, stale := stale }
    have hopp : stepOf s = v.startCycle y.gid y.warp h :=
      (stepOf_item hh h2 ha).trans (State.opportunity_eq (s := s0) hg hy hk)
    have hd : (v.desc h).isRehearsal = false := by
      show (t.desc h).isRehearsal = false
      rw [(State.Within.holdCycle s0 g.die g.core).descOf]
      exact hr
    have hland := State.Lands.settleRun v y.gid y.warp m pc
    have hd' : (v'.desc h).isRehearsal = false := by rw [hland.desc (.refl h)]; exact hd
    have hone : stepOf s = runIssue x u := hopp.trans (State.startCycle_one hd hc hd')
    have hplain : u.Plain x.gid := by
      have ht : t.Plain y.gid := fun k hk' => by rw [hk] at hk'; cases hk'; exact hd
      exact ((ht.passOver y.gid y.warp h).lands hland).modWarp _ _
    refine ⟨fun i hi => ?_, fun e he => ?_⟩
    · rw [step_eq, hone, runIssue_ok hleg hi hplain, settled_afterIssue]
    · rw [step_eq, hone, runIssue_error hleg he, settled_afterIssue]
  · intro t v hg hr hx hleg hl hi
    have hrun := runSecond_eq (s := s) (x := x) (pair := pair) (v := v) rfl (State.stillThere_all hg hl) hx
    have hplain : v.Plain x.gid := fun k hk => by rw [hg] at hk; cases hk; exact hr
    rw [step_eq, stepOf_second hh h2, hrun, runIssue_ok hleg hi hplain, settled_afterIssue]

end Sys2Proof.Machine
end

section
/-! PROOFS. Obligation O25: lanes that meet on a membership mask in one run (R31 to R36, R221, R255 to R260). -/

namespace Sys2Proof.Machine

/-! ## Results are written before the lanes move or after -/

theorem listMod_mapFrom {α : Type} (f : Nat → α → α) (g : α → α) (h : ∀ i x, f i (g x) = g (f i x)) (xs : List α) :
    ∀ k l, listMod (mapFrom k f xs) l g = mapFrom k f (listMod xs l g) := by
  induction xs with
  | nil => exact fun _ _ => rfl
  | cons x xs ih =>
    intro k l
    cases l with
    | zero => simp only [mapFrom, listMod, h]
    | succ l => simp only [mapFrom, listMod, ih]

theorem Warp.modLane_modLanes (x : Warp) (m : W64) (f : Nat → Lane → Lane) (l : Nat) (g : Lane → Lane)
    (h : ∀ i y, f i (g y) = g (f i y)) : (x.modLanes m f).modLane l g = (x.modLane l g).modLanes m f := by
  simp only [Warp.modLanes, Warp.modLane]
  rw [listMod_mapFrom]
  intro i y
  split <;> [exact h i y; rfl]

theorem Lane.goOn_putDst (stamp : Nat) (pc : W64) (x : Lane) (d : Dst) (v : W64) :
    (x.putDst d v).goOn stamp pc = (x.goOn stamp pc).putDst d v := by
  cases d with
  | pred p =>
    simp only [Lane.putDst, Lane.setP]
    split <;> rfl
  | _ => rfl

theorem Warp.put_moved (x : Warp) (stamp : Nat) (ls : List Nat) (dest : Nat → W64) (l : Nat) (d : Dst) (v : W64) (tag : Bool) :
    (x.moved stamp ls dest).put l d v tag = (x.put l d v tag).moved stamp ls dest := by
  have h : ∀ d, (x.moved stamp ls dest).modLane l (·.putDst d v) = (x.modLane l (·.putDst d v)).moved stamp ls dest := fun d =>
    Warp.modLane_modLanes _ _ _ _ _ fun i y => Lane.goOn_putDst ..
  cases d with
  | v32 k => exact congrArg (fun y : Warp => y.clearErr (· == (l, k))) (h (.v32 k))
  | v64 k => exact congrArg (fun y : Warp => y.clearErr fun e => e == (l, k) || e == (l, k + 1)) (h (.v64 k))
  | pred k => exact h (.pred k)
  | _ => rfl

theorem Warp.write_moved (x : Warp) (stamp : Nat) (ls : List Nat) (dest : Nat → W64) (d : Dst) (res : List (Nat × Res)) :
    (x.moved stamp ls dest).write d res = (x.write d res).moved stamp ls dest := by
  unfold Warp.write
  split
  · cases res with
    | nil => rfl
    | cons p ps => exact congrArg (fun y : Warp => y.orFlags _) (Warp.put_moved ..)
  · induction res generalizing x with
    | nil => rfl
    | cons p ps ih =>
      rw [List.foldl_cons, List.foldl_cons, Warp.put_moved]
      exact ih ((x.put p.1 d p.2.val false).orFlags p.2.flags)

/-- The arrivals at a mask have no part in a write. -/
theorem Warp.put_arrivals (x : Warp) (as : List Arrival) (l : Nat) (d : Dst) (v : W64) (tag : Bool) :
    ({ x with arrivals := as } : Warp).put l d v tag = { x.put l d v tag with arrivals := as } := by
  cases d <;> rfl

theorem Warp.write_arrivals (x : Warp) (as : List Arrival) (d : Dst) (res : List (Nat × Res)) :
    ({ x with arrivals := as } : Warp).write d res = { x.write d res with arrivals := as } := by
  unfold Warp.write
  split
  · cases res with
    | nil => rfl
    | cons p ps => exact congrArg (fun y : Warp => y.orFlags _) (Warp.put_arrivals ..)
  · induction res generalizing x with
    | nil => rfl
    | cons p ps ih =>
      rw [List.foldl_cons, List.foldl_cons, Warp.put_arrivals]
      exact ih ((x.put p.1 d p.2.val false).orFlags p.2.flags)

theorem Warp.put_keeps_arrivals (x : Warp) (l : Nat) (d : Dst) (v : W64) (tag : Bool) :
    (x.put l d v tag).arrivals = x.arrivals := by
  cases d <;> rfl

theorem Warp.write_keeps_arrivals (x : Warp) (d : Dst) (res : List (Nat × Res)) : (x.write d res).arrivals = x.arrivals := by
  conv_lhs => rw [show x = { x with arrivals := x.arrivals } from rfl, Warp.write_arrivals]

/-! ## The arrivals of one run -/

/-- What a lane of the run brings to the rendezvous (R255). -/
def Run.arrival (r : Run) (mask : W64) (rd : Run → Nat → Reads) (l : Nat) : Arrival :=
  { lane := l, pc := r.pc, mask := mask, guard := r.isAct l, a := (rd r.own l).a, b := (rd r.own l).b
    pred := (rd r.own l).pred, ghost := false }

/-- A list of lanes in increasing order. -/
def Lined (ls : List Nat) : Prop := ls = (List.range 64).filter fun l => ls.contains l

theorem lined_filter_range (p : Nat → Bool) : Lined ((List.range 64).filter p) := by
  refine List.filter_congr fun l hl => ?_
  have : ((List.range 64).filter p).contains l = p l := by
    rw [Bool.eq_iff_iff, List.contains_iff_mem, List.mem_filter]
    exact and_iff_right hl
  exact this.symm

/-- The arrivals, in lane order, of lanes that have all come to the instruction now. -/
theorem Warp.arrivalsAt_all {w : Warp} {pc : W64} {ls : List Nat} {g : Nat → Arrival} (hl : Lined ls)
    (hg : ∀ l, (g l).lane = l ∧ (g l).pc = pc) (hw : w.arrivals = ls.map g) : w.arrivalsAt pc = ls.map g := by
  have hfind : ∀ l, (ls.map g).find? (fun a => a.lane == l && a.pc == pc) = if ls.contains l then some (g l) else none := by
    intro l
    clear hl hw
    induction ls with
    | nil => rfl
    | cons k ls ih =>
      obtain ⟨h1, h2⟩ := hg k
      by_cases hk : k = l
      · subst hk
        simp [h1, h2]
      · have hk' : ¬l = k := fun h => hk h.symm
        simpa [h1, h2, hk, hk'] using ih
  have hmap : ∀ ks : List Nat, ks.filterMap (fun l => if ls.contains l then some (g l) else none)
      = (ks.filter fun l => ls.contains l).map g := by
    intro ks
    induction ks with
    | nil => rfl
    | cons k ks ih =>
      rw [List.filterMap_cons, List.filter_cons]
      split <;> simp_all
  rw [Warp.arrivalsAt, hw, funext hfind, hmap, ← hl]

/-! ## The run -/

theorem Run.ls_lined {s : State} {o : Ops} {r : Run} (h : s.runOf o = some r) : Lined r.ls := by
  obtain ⟨_, _, _, _, _, _, hs, _⟩ := Run.of_runOf h
  rw [hs]
  exact lined_filter_range _

theorem Run.act_eq {s : State} {o : Ops} {r : Run} (h : s.runOf o = some r) : r.act = r.ls.filter r.isAct := by
  obtain ⟨_, _, _, _, _, _, _, ha⟩ := Run.of_runOf h
  refine ha.trans (List.filter_congr fun l hl => ?_)
  rw [Run.isAct, Bool.eq_iff_iff, List.contains_iff_mem, ha, List.mem_filter]
  exact (and_iff_right hl).symm

theorem Run.arriving_lined {s : State} {o : Ops} {r : Run} (hr : s.runOf o = some r) (mask : W64) : Lined (r.arriving mask) := by
  have h : r.arriving mask = (List.range 64).filter fun l => r.ls.contains l && (mask.getLsbD l || r.isAct l) := by
    rw [Run.arriving, Run.ls_lined hr, List.filter_filter, ← Run.ls_lined hr]
    exact List.filter_congr fun l _ => Bool.and_comm ..
  rw [h]
  exact lined_filter_range _

theorem Run.arriving_act {s : State} {o : Ops} {r : Run} (hr : s.runOf o = some r) (mask : W64) : (r.arriving mask).filter r.isAct = r.act := by
  rw [Run.arriving, List.filter_filter]
  refine (List.filter_congr fun l hl => ?_).trans (Run.act_eq hr).symm
  cases r.isAct l <;> simp

section
variable {s : State} {r : Run} {mask : W64} (hm : Meets s r mask)
include hm

/-- The lanes that the mask names are those that arrive. -/
theorem Meets.mem_arriving (l : Nat) : l ∈ r.arriving mask ↔ mask.getLsbD l = true := by
  simp only [Run.arriving, List.mem_filter, Bool.or_eq_true, Run.isAct, List.contains_iff_mem]
  exact ⟨fun h => h.2.elim id (hm.act l), fun h => ⟨hm.named l h, .inl h⟩⟩

theorem Meets.maskOf_arriving : maskOf (r.arriving mask) = mask := by
  apply BitVec.eq_of_getLsbD_eq
  intro l hl
  rw [getLsbD_maskOf, Bool.eq_iff_iff, Bool.and_eq_true, List.contains_iff_mem, hm.mem_arriving]
  simp [hl]

theorem Meets.arriving_ne : r.arriving mask ≠ [] := by
  intro h
  have := hm.maskOf_arriving
  rw [h] at this
  exact hm.some this.symm

/-- No named lane is gone, and none is still to come. -/
theorem Meets.memberFault {w : Warp} (hw : w.arrivals.map (·.lane) = r.arriving mask) (hp : ∀ a ∈ w.arrivals, a.pc = r.pc)
    (hl : ∀ l ∈ r.ls, (w.lane l).isLive = true) : Machine.memberFault w r.pc mask = none := by
  have hgone : (mask &&& w.where fun x => x.st == .exited || x.st == .never) = 0 := by
    apply BitVec.eq_of_getLsbD_eq
    intro l _
    rw [BitVec.getLsbD_and, Warp.where, getLsbD_maskOf]
    cases hk : mask.getLsbD l with
    | false => simp
    | true =>
      have h := hl l (hm.named l hk)
      simp only [Lane.isLive, Bool.or_eq_true, beq_iff_eq] at h
      rcases h with h | h <;> simp [h]
  have hhere : (w.arrivals.filter fun a => a.pc == r.pc) = w.arrivals := by
    rw [List.filter_eq_self]
    exact fun a ha => by simpa using hp a ha
  have hout : mask &&& ~~~mask = 0 := by
    apply BitVec.eq_of_getLsbD_eq
    intro l hl
    simp [hl]
  simp only [Machine.memberFault, hgone, hhere, hw, hm.maskOf_arriving, hout, ne_eq, not_true_eq_false, false_and, if_false]

end

theorem State.memCheck_none {s : State} {gid w : Nat} (h : (s.warp gid w).arrivals = []) : s.memCheck gid w = s := by
  rw [State.memCheck, h]
  rfl

/-- A change of lanes that agrees with another on each of them. -/
theorem Warp.modLanes_congr (w : Warp) (m : W64) (f g : Nat → Lane → Lane)
    (h : ∀ l, m.getLsbD l = true → f l (w.lane l) = g l (w.lane l)) : w.modLanes m f = w.modLanes m g := by
  have key : (w.modLanes m f).lanes = (w.modLanes m g).lanes := by
    apply List.ext_getElem (by simp)
    intro l h1 h2
    rw [← Warp.lane_eq_getElem h1, ← Warp.lane_eq_getElem h2, Warp.lane_modLanes, Warp.lane_modLanes]
    split
    · rename_i hl; exact h l hl.2
    · rfl
  exact congrArg (fun ys => { w with lanes := ys }) key

/-- Lanes that stand at the PC of the instruction leave for the next slot as they would in any instruction. -/
theorem State.leave_eq {s : State} {r : Run} {ls : List Nat} (h : ∀ l ∈ ls, ((s.warp r.gid r.w).lane l).pc = r.pc) :
    s.leave r.gid r.w (maskOf ls) = s.advance r ls := by
  have : (s.modWarp r.gid r.w fun x => x.modLanes (maskOf ls) fun _ y => y.goOn s.stamp (nextSlot y.pc))
      = s.modWarp r.gid r.w fun x => x.modLanes (maskOf ls) fun _ y => y.goOn s.stamp (nextSlot r.pc) := by
    apply State.modWarp_congr
    refine Warp.modLanes_congr _ _ _ _ fun l hl => ?_
    have hl' : l ∈ ls := by
      rw [getLsbD_maskOf, Bool.and_eq_true, List.contains_iff_mem] at hl
      exact hl.2
    rw [h l hl']
  exact congrArg (fun t : State => t.landDue r.gid r.w (maskOf ls)) this

/-- The run stands, and is calm, after its results are written. -/
theorem Stands.write {s : State} {r : Run} (h : Stands s r) (c : Calm s r) (d : Dst) (res : Nat → Res) :
    let t := s.modWarp r.gid r.w fun w => w.write d (r.act.map fun l => (l, res l))
    Stands t r ∧ Calm t r := by
  obtain ⟨g, hg, hw⟩ := h.group
  obtain ⟨-, w2, w3, -⟩ := Warp.write_spec _ h.canon d r.act res (fun l hl => h.len l (h.sub l hl)) h.nodup
  refine ⟨h.modWarp _ w2 (Warp.canon_write h.canon d _), fun l hl y hy => ?_, c.soft⟩
  rw [State.warp_modWarp s _ _ _ hg hw, w3] at hy
  refine c.windows l hl y ?_
  split at hy
  · rwa [Lane.putDst_windows] at hy
  · exact hy

/-- The end of a short instruction of a calm run: the results are written, and the lanes stand at the next slot. -/
theorem State.finish_moved {s : State} {r : Run} (h : Stands s r) (c : Calm s r) (d : Dst) (res : Nat → Res)
    (hf : ∀ l ∈ r.act, (res l).flt = none) :
    s.finish r false false false d (r.act.map fun l => (l, res l)) = (s.modWarp r.gid r.w fun x =>
      (x.write d (r.act.map fun l => (l, res l))).moved s.stamp r.ls fun _ => nextSlot r.pc).nextStamp := by
  have h1 : s.modWarp r.gid r.w (Warp.countChecks r false) = s := State.modWarp_id _ _ _ _ rfl
  obtain ⟨hs, hc⟩ := Stands.write h c d res
  rw [State.finish_calm c false false false d res hf, h1]
  exact congrArg State.nextStamp ((State.advance_calm hs hc).trans (State.modWarp_modWarp ..))

/-- The arrivals of a run are entered. -/
def State.arrive (s : State) (r : Run) (recs : List Arrival) : State :=
  s.modWarp r.gid r.w fun w => { w with
    arrivals := w.arrivals.filter (fun a => !(a.pc == r.pc && recs.any fun x => x.lane == a.lane)) ++ recs }

/-- A run that completes the rendezvous. -/
theorem rendezvous_eq_meet {s s1 : State} {r : Run} {smask : BitVec 8} {mask : W64} (long : Bool) (d : FieldKind)
    (rd : Run → Nat → Reads) (f : List Arrival → Arrival → Res) (hmask : r.snap.getS (sNum smask) = mask)
    (h1 : s.advance r (r.ls.filter fun l => !(r.arriving mask).contains l) = s1) (hg : s1.ghosts mask = [])
    (hne : r.arriving mask ≠ []) (hc : r.clash (s1.warp r.gid r.w) mask = false) {s2 : State}
    (h2 : s1.arrive r ((r.arriving mask).map (r.arrival mask rd)) = s2)
    (hf : memberFault (s2.warp r.gid r.w) r.pc mask = none)
    (hall : mask &&& ~~~(maskOf ((s2.warp r.gid r.w).metAt r.pc)) = 0) :
    rendezvous long d smask rd f r s = (s2.meet r long (r.dst d) mask f).memCheck r.gid r.w := by
  have hne' : ((r.arriving mask).map (r.arrival mask rd)).isEmpty = false := by simpa using hne
  have h2' : (s1.modWarp r.gid r.w fun w => { w with
      arrivals := w.arrivals.filter (fun a => !(a.pc == r.pc && ((r.arriving mask).map (r.arrival mask rd)).any fun x =>
        x.lane == a.lane)) ++ (r.arriving mask).map (r.arrival mask rd) }) = s2 := h2
  have hmap : ((r.arriving mask).map fun l =>
      ({ lane := l, pc := r.pc, mask := mask, guard := r.isAct l, a := (rd { r with o := { r.o with d := 0xF0 } } l).a
         b := (rd { r with o := { r.o with d := 0xF0 } } l).b, pred := (rd { r with o := { r.o with d := 0xF0 } } l).pred
         ghost := false } : Arrival)) = (r.arriving mask).map (r.arrival mask rd) := rfl
  simp only [rendezvous, hmask, h1, hg, List.map_nil, List.append_nil, hmap, hne', hc, h2', hf, hall, Bool.false_eq_true,
    if_false, if_true]

/-- The results of a rendezvous are written, and its arrivals are over. -/
def Warp.meetWrite (r : Run) (d : Dst) (res : List (Nat × Res)) (w : Warp) : Warp :=
  { w.write d res with arrivals := (w.write d res).arrivals.filter fun a => a.pc != r.pc }

/-- The end of a rendezvous whose arrivals are those of the run. -/
theorem State.meet_eq {s : State} {r : Run} {mask : W64} {rd : Run → Nat → Reads} (d : Dst)
    (f : List Arrival → Arrival → Res)
    (hat : (s.warp r.gid r.w).arrivalsAt r.pc = (r.arriving mask).map (r.arrival mask rd))
    (hact : (r.arriving mask).filter r.isAct = r.act) (hmask : maskOf (r.arriving mask) = mask)
    {res : List (Nat × Res)}
    (hres : res = r.act.map fun l => (l, f (r.act.map (r.arrival mask rd)) (r.arrival mask rd l)))
    {s3 : State} (h3 : s.modWarp r.gid r.w (Warp.meetWrite r d res) = s3)
    (hpc : ∀ l ∈ r.arriving mask, ((s3.warp r.gid r.w).lane l).pc = r.pc) :
    s.meet r false d mask f = (s3.advance r (r.arriving mask)).nextStamp := by
  have hps : ((r.arriving mask).map (r.arrival mask rd)).filter (·.guard) = r.act.map (r.arrival mask rd) := by
    rw [List.filter_map]
    exact congrArg (List.map _) hact
  have hgh : ((r.arriving mask).map (r.arrival mask rd)).filter (·.ghost) = [] := by
    rw [List.filter_eq_nil_iff]
    intro a ha
    obtain ⟨l, -, rfl⟩ := List.mem_map.1 ha
    exact Bool.false_ne_true
  have hres' : ((r.act.map (r.arrival mask rd)).map fun x => (x.lane, f (r.act.map (r.arrival mask rd)) x)) = res := by
    rw [hres, List.map_map]
    rfl
  have hleave : s3.leave r.gid r.w mask = s3.advance r (r.arriving mask) := by
    rw [← State.leave_eq hpc, hmask]
  have h3' : (s.modWarp r.gid r.w fun w => { w.write d res with
    arrivals := (w.write d res).arrivals.filter fun a => a.pc != r.pc }) = s3 := h3
  simp only [State.meet, hat, hps, hgh, hres', List.map_nil, and_not_maskOf_nil, Bool.false_eq_true, if_false, h3', hleave]

/-- The results of a run that meets, when those of its lanes that the mask does not name have moved on. -/
theorem Warp.meetWrite_eq {x : Warp} {r : Run} {stamp : Nat} {others recs : _} (d : Dst) (res : List (Nat × Res))
    (hx : x.arrivals = []) (hrecs : ∀ a ∈ recs, a.pc = r.pc) :
    ({ x.moved stamp others fun _ => nextSlot r.pc with arrivals := recs } : Warp).meetWrite r d res
      = (x.write d res).moved stamp others fun _ => nextSlot r.pc := by
  have hrecs' : (recs.filter fun a => a.pc != r.pc) = [] := by
    rw [List.filter_eq_nil_iff]
    intro a ha
    simp [hrecs a ha]
  rw [Warp.meetWrite, Warp.write_arrivals, Warp.write_moved]
  simp only [hrecs']
  have : ((x.write d res).moved stamp others fun _ => nextSlot r.pc).arrivals = [] :=
    (Warp.write_keeps_arrivals x d res).trans hx
  rw [← this]

theorem Warp.moved_isLive (x : Warp) (stamp : Nat) (ls : List Nat) (dest : Nat → W64) (l : Nat) :
    ((x.moved stamp ls dest).lane l).isLive = (x.lane l).isLive := by
  rw [Warp.moved, Warp.lane_modLanes]
  split <;> rfl

/-! ## A run that brings every lane that the mask names -/

/-- The lanes of the run that have no part in the rendezvous. -/
def Run.passing (r : Run) (mask : W64) : List Nat := r.ls.filter fun l => !(r.arriving mask).contains l

/-- The warp when those lanes have moved on and the others have arrived. -/
def Run.gathered (r : Run) (stamp : Nat) (mask : W64) (recs : List Arrival) (x : Warp) : Warp :=
  { x.moved stamp (r.passing mask) fun _ => nextSlot r.pc with arrivals := recs }

theorem Run.mem_passing {r : Run} {mask : W64} {l : Nat} : l ∈ r.passing mask ↔ l ∈ r.ls ∧ l ∉ r.arriving mask := by
  simp [Run.passing]

theorem Run.passing_or_arriving {r : Run} {mask : W64} (l : Nat) : l ∈ r.ls ↔ l ∈ r.passing mask ∨ l ∈ r.arriving mask := by
  rw [Run.mem_passing]
  by_cases hl : l ∈ r.arriving mask
  · simp [hl, (List.mem_filter.1 hl).1]
  · simp [hl]

/-- The lanes of the run arrive where no lane waits. -/
theorem State.arrive_gathered {s : State} {r : Run} (mask : W64) (recs : List Arrival)
    (hx : (s.warp r.gid r.w).arrivals = []) :
    (s.modWarp r.gid r.w (Warp.moved s.stamp (r.passing mask) fun _ => nextSlot r.pc)).arrive r recs
      = s.modWarp r.gid r.w (r.gathered s.stamp mask recs) := by
  rw [State.arrive, State.modWarp_modWarp]
  apply State.modWarp_congr
  have hnil : ((s.warp r.gid r.w).moved s.stamp (r.passing mask) fun _ => nextSlot r.pc).arrivals = [] := hx
  simp only [hnil, List.filter_nil, List.nil_append]
  rfl

section
variable {i : Instr} {s : State} {r : Run} (h : Issues i s r) (c : Calm s r) {mask : W64}
include h

/-- The results leave the PCs and the windows of the lanes that have arrived. -/
theorem Issues.lane_arriving (d : Dst) (F : Nat → Res) {l : Nat} (hl : l ∈ r.arriving mask) :
    let x := s.warp r.gid r.w
    let y := (x.write d (r.act.map fun l => (l, F l))).moved s.stamp (r.passing mask) fun _ => nextSlot r.pc
    (y.lane l).pc = (x.lane l).pc ∧ (y.lane l).windows = (x.lane l).windows := by
  intro x y
  obtain ⟨-, w2, w3, -⟩ := Warp.write_spec x h.canon d r.act F (fun l hl => h.stands.len l (h.stands.sub l hl)) h.stands.nodup
  have hls : ∀ k ∈ r.passing mask, k ∈ r.ls := fun k hk => (Run.mem_passing.1 hk).1
  rw [Warp.moved_lane _ _ _ _ _ (fun k hk => h.stands.lt k (hls k hk))
    (fun k hk => by rw [w2]; exact h.stands.len k (hls k hk)), if_neg fun hno => (Run.mem_passing.1 hno).2 hl, w3]
  split
  · rw [Lane.putDst_frame]; exact ⟨rfl, rfl⟩
  · exact ⟨rfl, rfl⟩

include c

/-- The lanes that have no part go to the next slot. -/
theorem Issues.passing_advance : s.advance r (r.passing mask)
    = s.modWarp r.gid r.w (Warp.moved s.stamp (r.passing mask) fun _ => nextSlot r.pc) := by
  obtain ⟨G, hG, hw⟩ := h.stands.group
  exact State.moveTo_none s r _ _ hG hw fun l hl y hy hd => c.moves (Run.mem_passing.1 hl).1 hy hd

/-- The lanes that have arrived leave with their results, and the whole run has moved on. -/
theorem Issues.arriving_advance (hx : (s.warp r.gid r.w).arrivals = []) {recs : List Arrival}
    (hrecs : ∀ a ∈ recs, a.pc = r.pc) (d : Dst) (F : Nat → Res) :
    let res := r.act.map fun l => (l, F l)
    (s.modWarp r.gid r.w fun w => Warp.meetWrite r d res (r.gathered s.stamp mask recs w)).advance r (r.arriving mask)
      = s.modWarp r.gid r.w fun w => (w.write d res).moved s.stamp r.ls fun _ => nextSlot r.pc := by
  intro res
  obtain ⟨G, hG, hw⟩ := h.stands.group
  have hwarp : Warp.meetWrite r d res (r.gathered s.stamp mask recs (s.warp r.gid r.w))
      = ((s.warp r.gid r.w).write d res).moved s.stamp (r.passing mask) fun _ => nextSlot r.pc := Warp.meetWrite_eq d res hx hrecs
  set t := s.modWarp r.gid r.w fun w => Warp.meetWrite r d res (r.gathered s.stamp mask recs w) with ht
  have hGt : t.group r.gid
      = some (G.modWarp r.w fun w => Warp.meetWrite r d res (r.gathered s.stamp mask recs w)) := by
    rw [ht, State.modWarp, State.group_modGroup, if_pos rfl, hG]
    rfl
  have hmove : t.advance r (r.arriving mask)
      = t.modWarp r.gid r.w (Warp.moved s.stamp (r.arriving mask) fun _ => nextSlot r.pc) :=
    State.moveTo_none t r _ _ hGt (by simpa using hw) fun l hl y hy hd => by
      rw [ht, State.warp_modWarp s _ _ _ hG hw, hwarp, (h.lane_arriving d F hl).2] at hy
      exact c.moves ((Run.passing_or_arriving l).2 (.inr hl)) hy hd
  rw [hmove, ht, State.modWarp_modWarp]
  apply State.modWarp_congr
  rw [hwarp, Warp.moved_moved _ _ _ _ _ _ (fun l hl => (Run.mem_passing.1 hl).2) _ Run.passing_or_arriving]
  congr 1
  funext l
  exact ite_self _

/-- All lanes that the mask names come in one run: the rendezvous ends as any short instruction does. -/
theorem rendezvous_meets {smask : BitVec 8} (hm : Meets s r (r.snap.getS (sNum smask))) (d : FieldKind)
    (rd : Run → Nat → Reads) (f : List Arrival → Arrival → Res) (hf : ∀ ps x, (f ps x).flt = none) :
    let g := r.arrival (r.snap.getS (sNum smask)) rd
    rendezvous false d smask rd f r s
      = s.finish r false false false (r.dst d) (r.act.map fun l => (l, f (r.act.map g) (g l))) := by
  intro g
  set mask := r.snap.getS (sNum smask) with hmask
  set recs := (r.arriving mask).map g with hrecs
  set F : Nat → Res := fun l => f (r.act.map g) (g l) with hF
  obtain ⟨G, hG, hw⟩ := h.stands.group
  have hghosts : s.ghosts mask = [] := by
    have := h.noPre
    rw [State.NoPre] at this
    rw [State.ghosts, this]
    rfl
  have hlanes : recs.map (·.lane) = r.arriving mask := by
    rw [hrecs, List.map_map]
    exact List.map_id _
  have hpcs : ∀ a ∈ recs, a.pc = r.pc := fun a ha => by
    obtain ⟨l, -, rfl⟩ := List.mem_map.1 ha
    rfl
  -- no lane waits there with another mask
  have hclash : r.clash ((s.modWarp r.gid r.w (Warp.moved s.stamp (r.passing mask) fun _ => nextSlot r.pc)).warp r.gid r.w)
      mask = false := by
    have hnil : ((s.warp r.gid r.w).moved s.stamp (r.passing mask) fun _ => nextSlot r.pc).arrivals = [] := hm.alone
    rw [State.warp_modWarp s _ _ _ hG hw, Run.clash, Warp.arrivalsAt, hnil]
    simpa using hm.act
  -- every named lane is there
  set s2 := s.modWarp r.gid r.w (r.gathered s.stamp mask recs) with hs2
  have hw2 : s2.warp r.gid r.w = r.gathered s.stamp mask recs (s.warp r.gid r.w) := State.warp_modWarp s _ _ _ hG hw
  have hat : (s2.warp r.gid r.w).arrivalsAt r.pc = recs := by
    rw [hw2]
    exact Warp.arrivalsAt_all (Run.arriving_lined h.run mask) (fun l => ⟨rfl, rfl⟩) rfl
  have hfault : memberFault (s2.warp r.gid r.w) r.pc mask = none := by
    rw [hw2]
    exact hm.memberFault hlanes hpcs fun l hl => (Warp.moved_isLive ..).trans (h.live l hl)
  have hall : mask &&& ~~~(maskOf ((s2.warp r.gid r.w).metAt r.pc)) = 0 := by
    rw [Warp.metAt, hat, hlanes, hm.maskOf_arriving]
    exact BitVec.and_not_self _
  -- the results are written where the lanes stand
  have h3 : s2.modWarp r.gid r.w (Warp.meetWrite r (r.dst d) (r.act.map fun l => (l, F l))) = s.modWarp r.gid r.w fun w =>
      Warp.meetWrite r (r.dst d) (r.act.map fun l => (l, F l)) (r.gathered s.stamp mask recs w) := State.modWarp_modWarp ..
  have hpc3 : ∀ l ∈ r.arriving mask, (((s.modWarp r.gid r.w fun w =>
      Warp.meetWrite r (r.dst d) (r.act.map fun l => (l, F l)) (r.gathered s.stamp mask recs w)).warp r.gid r.w).lane l).pc
        = r.pc := fun l hl => by
    rw [State.warp_modWarp s _ _ _ hG hw, Run.gathered, Warp.meetWrite_eq _ _ hm.alone hpcs, (h.lane_arriving _ F hl).1]
    exact hm.pcs l ((Run.passing_or_arriving l).2 (.inr hl))
  rw [rendezvous_eq_meet false d rd f rfl (h.passing_advance c) hghosts hm.arriving_ne hclash
      (State.arrive_gathered mask recs hm.alone) hfault hall,
    State.meet_eq (rd := rd) (r.dst d) f hat (Run.arriving_act h.run mask) hm.maskOf_arriving rfl h3 hpc3,
    h.arriving_advance c hm.alone hpcs, State.finish_moved h.stands c _ F fun l _ => hf _ _]
  apply State.memCheck_none
  show ((s.modWarp r.gid r.w _).warp r.gid r.w).arrivals = []
  rw [State.warp_modWarp s _ _ _ hG hw]
  exact (Warp.write_keeps_arrivals (s.warp r.gid r.w) (r.dst d) _).trans hm.alone

end

/-! ## What each lane receives -/

section
variable {r : Run} {mask : W64} {rd : Run → Nat → Reads}

/-- What a lane takes from another: its own value where that one does not take part (R36). -/
theorem takeFrom_arrivals (l : Nat) (j : Int) :
    takeFrom (r.act.map (r.arrival mask rd)) (r.arrival mask rd l) j
      = .ofVal (if 0 ≤ j ∧ j.toNat ∈ r.act then (rd r.own j.toNat).a else (rd r.own l).a) := by
  have key : ∀ ls : List Nat, (ls.map (r.arrival mask rd)).find? (fun y => (y.lane : Int) == j)
      = if 0 ≤ j ∧ j.toNat ∈ ls then some (r.arrival mask rd j.toNat) else none := by
    intro ls
    induction ls with
    | nil => simp
    | cons k ls ih =>
      by_cases hk : (k : Int) = j
      · subst hk
        simp [Run.arrival]
      · have hk' : 0 ≤ j → j.toNat ≠ k := fun h0 => by omega
        have hb : ((r.arrival mask rd k).lane == j) = false := by simpa [Run.arrival] using hk
        rw [List.map_cons, List.find?_cons, hb, ih]
        by_cases h0 : 0 ≤ j
        · simp [h0, hk' h0]
        · simp [h0]
  rw [takeFrom, key]
  split <;> rfl

theorem arrivalMask_arrivals (p : Arrival → Bool) :
    arrivalMask (r.act.map (r.arrival mask rd)) p = maskOf (r.act.filter fun l => p (r.arrival mask rd l)) := by
  rw [arrivalMask, List.filter_map, List.map_map]
  exact congrArg maskOf (List.map_id _)

end

/-- The four modes of `SHFL` and `VOTE`. -/
theorem mode_cases (m : BitVec 2) : m = 0 ∨ m = 1 ∨ m = 2 ∨ m = 3 := by
  revert m
  decide

theorem shflLane_eq (m : BitVec 2) (l o : Nat) : shflLane m l o = if m = 0 then (o : Int) else if m = 1 then (l : Int) - o
    else if m = 2 then (l : Int) + o else (l ^^^ o : Nat) := by
  obtain rfl | rfl | rfl | rfl := mode_cases m <;> rfl

theorem voteRes_eq (m : BitVec 2) (ps : List Arrival) : voteRes m ps = if m = 0 then .bool (ps.any (·.pred))
    else if m = 1 then .bool (ps.all (·.pred)) else if m = 2 then .bool (ps.all (·.pred) || !ps.any (·.pred))
    else .ofVal (arrivalMask ps (·.pred)) := by
  obtain rfl | rfl | rfl | rfl := mode_cases m <;> rfl

theorem voteRes_flt (m : BitVec 2) (ps : List Arrival) : (voteRes m ps).flt = none := by
  obtain rfl | rfl | rfl | rfl := mode_cases m <;> rfl

/-! ## The obligation -/

/-- A short instruction whose lanes meet in one run completes, with the results of the arrivals. -/
theorem meets_completes {i : Instr} {s : State} {r : Run} (h : Issues i s r) (c : Calm s r) {smask : BitVec 8}
    (hm : Meets s r (r.snap.getS (sNum smask))) (d : FieldKind) (rd : Run → Nat → Reads) (f : List Arrival → Arrival → Res)
    (hf : ∀ ps x, (f ps x).flt = none) {res : Nat → Res}
    (hres : ∀ l, f (r.act.map (r.arrival (r.snap.getS (sNum smask)) rd)) (r.arrival (r.snap.getS (sNum smask)) rd l) = res l) :
    ∃ t, issued i .run (rendezvous false d smask rd f) s = .next t ∧ Completes s t r false (r.dst d) res := by
  refine ⟨_, issued_next h _ _, ?_⟩
  rw [rendezvous_meets h c hm d rd f hf]
  simp only [hres]
  refine State.finish_short h.stands c _ _ _ res fun l _ => ?_
  rw [← hres l]
  exact hf _ _

/-- Settles O25: in the rendezvous of one run each lane receives what the arrivals of all give it. -/
theorem meetingResults : Obligations.MeetingResults := by
  unfold Obligations.MeetingResults
  intro take
  refine ⟨fun o s r h c hm => ?_, fun o m s r c hm => ?_, fun o m s r c hm => ?_⟩
  · exact meets_completes h c hm .none _ _ (fun _ _ => rfl) fun _ => rfl
  · intro val off src
    refine ⟨fun h => ?_, fun h => ?_, fun h => ?_⟩
    · refine meets_completes h c hm _ _ _ (fun _ _ => rfl) fun l => (takeFrom_arrivals l _).trans ?_
      have hoff : (if m.wrel then BitVec.ofNat 32 (64 / 2 ^ (o.imm.toNat % 8)) else r.own.rd32 l o.b).toNat = off l := by
        show _ = if _ then _ else _
        split
        · exact BitVec.toNat_ofNat ..
        · rfl
      have hsrc : shflLane m.mode l (if m.wrel then BitVec.ofNat 32 (64 / 2 ^ (o.imm.toNat % 8)) else r.own.rd32 l o.b).toNat
          = src l := by
        rw [hoff, shflLane_eq]
      exact congrArg (take r val l) hsrc
    · exact meets_completes h c hm _ _ _ (fun _ _ => rfl) fun l => takeFrom_arrivals l _
    · exact meets_completes h c hm _ _ _ (fun _ _ => rfl) fun l => takeFrom_arrivals l _
  · intro p val
    refine ⟨fun h => ?_, fun h => ?_⟩
    · refine meets_completes h c hm _ _ _ (fun _ _ => voteRes_flt ..) fun l => ?_
      rw [voteRes_eq, arrivalMask_arrivals, List.any_map, List.all_map]
      rfl
    · refine meets_completes h c hm _ _ _ (fun _ _ => ?_) fun l => ?_
      · split <;> rfl
      · rw [arrivalMask_arrivals, List.all_map]
        rfl

end Sys2Proof.Machine
end

section
/-! PROOFS. Obligation O28: `EXIT` ends lanes, and the last of them end the group (R20, R220). -/

namespace Sys2Proof.Machine

/-! ## Lanes of a mask -/

theorem Warp.ext_lanes {x y : Warp} (h : x = { y with lanes := x.lanes }) (hlen : x.lanes.length = y.lanes.length)
    (hl : ∀ l, l < x.lanes.length → x.lane l = y.lane l) : x = y := by
  have key : x.lanes = y.lanes := by
    apply List.ext_getElem hlen
    intro l h1 h2
    rw [← Warp.lane_eq_getElem h1, ← Warp.lane_eq_getElem h2]
    exact hl l h1
  rw [h, key]

theorem Warp.modLane_eq_modLanes (x : Warp) {l : Nat} (hl : l < 64) (f : Lane → Lane) :
    x.modLane l f = x.modLanes (maskOf [l]) fun _ => f := by
  refine Warp.ext_lanes rfl (by simp) fun k hk => ?_
  have hk' : k < x.lanes.length := by simpa using hk
  rw [Warp.lane_modLane, Warp.lane_modLanes, getLsbD_maskOf]
  by_cases h : k = l
  · subst h
    simp [hl, hk']
  · simp [h]

/-- A change that is made once is made twice, of the lanes of two lists. -/
theorem Warp.modLanes_modLanes (x : Warp) {as bs cs : List Nat} {f : Lane → Lane} (hf : ∀ y, f (f y) = f y)
    (hc : ∀ l, l ∈ cs ↔ l ∈ as ∨ l ∈ bs) :
    (x.modLanes (maskOf as) fun _ => f).modLanes (maskOf bs) (fun _ => f) = x.modLanes (maskOf cs) fun _ => f := by
  simp only [Warp.modLanes, mapFrom_mapFrom]
  congr 1
  refine mapFrom_congr _ _ _ _ fun l y => ?_
  simp only [getLsbD_maskOf, Bool.and_eq_true, decide_eq_true_eq, List.contains_iff_mem, hc]
  by_cases h64 : l < 64 <;> by_cases ha : l ∈ as <;> by_cases hb : l ∈ bs <;> simp [h64, ha, hb, hf]

theorem maskOf_congr {as bs : List Nat} (h : ∀ l < 64, l ∈ as ↔ l ∈ bs) : maskOf as = maskOf bs := by
  apply BitVec.eq_of_getLsbD_eq
  intro l hl
  rw [getLsbD_maskOf, getLsbD_maskOf, Bool.eq_iff_iff]
  simp [hl, h l hl]

theorem Warp.getLsbD_live (x : Warp) (l : Nat) : x.live.getLsbD l = (decide (l < 64) && (x.lane l).isLive) := by
  rw [Warp.live, Warp.where, getLsbD_maskOf, Bool.eq_iff_iff]
  simp +contextual

theorem Warp.moved_st (x : Warp) (stamp : Nat) (ls : List Nat) (dest : Nat → W64) (l : Nat) :
    ((x.moved stamp ls dest).lane l).st = (x.lane l).st := by
  rw [Warp.moved, Warp.lane_modLanes]
  split <;> rfl

theorem Warp.live_moved (x : Warp) (stamp : Nat) (ls : List Nat) (dest : Nat → W64) : (x.moved stamp ls dest).live = x.live := by
  apply BitVec.eq_of_getLsbD_eq
  intro l _
  rw [Warp.getLsbD_live, Warp.getLsbD_live, Warp.moved_isLive]

/-! ## Lanes that exit -/

/-- A lane that has exited. -/
def Lane.ended (y : Lane) : Lane := { y with st := .exited, windows := [], wait := .none, behind := 0, before := none }

/-- A lane that has become a helper at a PC. -/
def Lane.helps (pc : W64) (y : Lane) : Lane := { y with st := .helper, pc := pc, entry := false, wait := .none, before := none }

/-- The quad of a lane. -/
def quadOf (l : Nat) : List Nat := (List.range 4).map fun k => l / 4 * 4 + k

theorem mem_quadOf {l k : Nat} : k ∈ quadOf l ↔ k / 4 = l / 4 := by
  simp only [quadOf, List.mem_map, List.mem_range]
  constructor
  · rintro ⟨j, hj, rfl⟩
    omega
  · exact fun h => ⟨k % 4, by omega, by omega⟩

/-- A lane with another real lane in its quad becomes a helper. -/
theorem Warp.exitLane_helps {x : Warp} {l k : Nat} (next : W64) (h64 : l < 64) (hq : k / 4 = l / 4) (hne : k ≠ l)
    (hr : (x.lane k).st = .real) : x.exitLane true next l = x.modLanes (maskOf [l]) fun _ => Lane.helps next := by
  have hany : (true && (quadOf l).any fun k => k != l && (x.lane k).isReal) = true := by
    rw [Bool.true_and, List.any_eq_true]
    exact ⟨k, mem_quadOf.2 hq, by simp [hne, Lane.isReal, hr]⟩
  rw [← Warp.modLane_eq_modLanes x h64]
  exact if_pos hany

/-- A lane with no other real lane in its quad, or in a launch without helpers, exits with the helpers of its quad. -/
theorem Warp.exitLane_ends {x : Warp} {l : Nat} {helpers : Bool} (next : W64)
    (hno : helpers = true → ∀ k, k / 4 = l / 4 → (x.lane k).st = .real → k = l)
    (hw : ∀ k, k / 4 = l / 4 → (x.lane k).st = .helper → (x.lane k).windows = []) :
    x.exitLane helpers next l
      = x.modLanes (maskOf (l :: (quadOf l).filter fun k => (x.lane k).isHelper)) fun _ => Lane.ended := by
  have hany : ¬(helpers && (quadOf l).any fun k => k != l && (x.lane k).isReal) = true := by
    simp only [Bool.and_eq_true, List.any_eq_true, bne_iff_ne, Lane.isReal, beq_iff_eq, not_and, not_exists]
    exact fun hh k hk hne hr => hne (hno hh k (mem_quadOf.1 hk) hr)
  have hland : (x.land ((quadOf l).filter fun k => (x.lane k).isHelper) fun _ y => y.dst.shared) = (x, []) := by
    refine Warp.land_none _ _ _ fun k hk y hy => ?_
    obtain ⟨hq, hh⟩ := List.mem_filter.1 hk
    rw [hw k (mem_quadOf.1 hq) (by simpa [Lane.isHelper] using hh)] at hy
    cases hy
  refine (if_neg hany).trans ?_
  show (x.land ((quadOf l).filter fun k => (x.lane k).isHelper) fun _ y => y.dst.shared).1.modLanes _ _ = _
  rw [hland]
  rfl

/-- `EXIT` of some lanes, one after another. -/
def Run.exits (r : Run) (ls : List Nat) (x : Warp) : Warp :=
  ls.foldl (fun x l => x.exitLane r.d.hasHelpers (nextSlot r.pc) l) x

theorem Run.exits_ended {r : Run} (hh : r.d.hasHelpers = false) (ls : List Nat) : ∀ x : Warp,
    (∀ l, (x.lane l).st ≠ .helper) → r.exits ls x = x.modLanes (maskOf ls) fun _ => Lane.ended := by
  induction ls with
  | nil =>
    intro x _
    exact (Warp.modLanes_id _ _ _ fun l hl => by simp at hl).symm
  | cons l ls ih =>
    intro x hx
    have hnone : ((quadOf l).filter fun k => (x.lane k).isHelper) = [] := by
      rw [List.filter_eq_nil_iff]
      exact fun k _ => by simpa [Lane.isHelper] using hx k
    have h1 : x.exitLane r.d.hasHelpers (nextSlot r.pc) l = x.modLanes (maskOf [l]) fun _ => Lane.ended := by
      rw [Warp.exitLane_ends _ (fun h => absurd h (by simp [hh])) (fun k _ hk => absurd hk (hx k)), hnone]
    rw [Run.exits, List.foldl_cons, h1]
    refine (ih _ fun k => ?_).trans (Warp.modLanes_modLanes x (fun _ => rfl) fun k => by simp)
    rw [Warp.lane_modLanes]
    split
    · exact nofun
    · exact hx k

theorem Run.exits_helps {r : Run} (hh : r.d.hasHelpers = true) (ls : List Nat) : ∀ x : Warp, (∀ l ∈ ls, l < 64) →
    (∀ l ∈ ls, ∃ k, k / 4 = l / 4 ∧ k ∉ ls ∧ (x.lane k).st = .real) →
    r.exits ls x = x.modLanes (maskOf ls) fun _ => Lane.helps (nextSlot r.pc) := by
  induction ls with
  | nil =>
    intro x _ _
    exact (Warp.modLanes_id _ _ _ fun l hl => by simp at hl).symm
  | cons l ls ih =>
    intro x h64 hx
    obtain ⟨k, hk, hno, hr⟩ := hx l (by simp)
    have h1 : x.exitLane r.d.hasHelpers (nextSlot r.pc) l = x.modLanes (maskOf [l]) fun _ => Lane.helps (nextSlot r.pc) := by
      rw [hh]
      exact Warp.exitLane_helps _ (h64 l (by simp)) hk (fun h => hno (by simp [h])) hr
    rw [Run.exits, List.foldl_cons, h1]
    refine (ih _ (fun j hj => h64 j (by simp [hj])) fun j hj => ?_).trans
      (Warp.modLanes_modLanes x (fun _ => rfl) fun k => by simp)
    obtain ⟨i, hi, hno, hr⟩ := hx j (by simp [hj])
    refine ⟨i, hi, fun h => hno (by simp [h]), ?_⟩
    have hil : i ≠ l := fun h => hno (by simp [h])
    rw [Warp.lane_modLanes, if_neg (by simp [hil])]
    exact hr

/-! ## Nothing counts on the lanes -/

/-- No barrier, mask, `REGROUP`, handler set or partner counts on the lanes of a warp. -/
structure Quiet (s : State) (gid w : Nat) (g : Group) : Prop where
  group : s.group gid = some g
  single : (s.desc g).isDuet = false
  barriers : g.barriers = []
  regroup : g.regroup = none
  cbars : s.cbars = []
  arrivals : (s.warp gid w).arrivals = []
  hset : (s.warp gid w).hset = 0
  pend : (s.warp gid w).pend = []

section
variable {s : State} {gid w : Nat} {g : Group} (q : Quiet s gid w g)
include q

theorem Quiet.leaveSet (m : W64) : s.leaveSet gid w m = s := by
  have hz : (0 : W64) &&& m = 0 := BitVec.zero_and
  rw [State.leaveSet, q.hset, if_pos hz]
  apply State.modWarp_id
  have hp : ((s.warp gid w).pend.filter fun p => !m.getLsbD p.lane) = (s.warp gid w).pend := by rw [q.pend]; rfl
  rw [hp]

theorem Quiet.partCheck : s.partCheck gid w = s := by
  simp only [State.partCheck, q.group, q.single, Bool.not_false, Bool.true_or, if_true]

theorem Quiet.accgAbsent : s.accgAbsent gid w = s := by
  simp only [State.accgAbsent, q.group, q.single, Bool.not_false, Bool.true_or, if_true]

theorem Quiet.barCheck (i : Nat) : s.barCheck gid i = s := by
  simp only [State.barCheck, q.group, Option.bind_some, q.barriers, mapGet_nil]

theorem Quiet.regCheck : s.regCheck gid = s := by
  simp only [State.regCheck, q.group, q.regroup]

omit q in
theorem State.cbarCheck_none (h : s.cbars = []) (c i : Nat) : s.cbarCheck c i = s := by
  unfold State.cbarCheck
  split
  · rfl
  · simp only [h, List.find?_nil]

/-- When nothing counts on the lanes that have gone, only the end of the group is left to test. -/
theorem Quiet.settle : s.settle gid w = s.groupExit gid := by
  have hbar : (List.range 16).foldl (fun s i => State.barCheck s gid i) s = s :=
    List.foldl_fixed' (fun i => q.barCheck i) _
  have hcbar : ∀ cl : List Nat, (List.range 4).foldl (fun s i => match cl.head? with
      | some c => State.cbarCheck s c i
      | none => s) s = s := fun cl => List.foldl_fixed' (fun i => by
    cases cl.head? with
    | none => rfl
    | some c => exact State.cbarCheck_none q.cbars c i) _
  have hmem : ((s.memCheck gid w).partCheck gid w).accgAbsent gid w = s := by
    rw [State.memCheck_none q.arrivals, q.partCheck, q.accgAbsent]
  simp only [State.settle, q.group, hmem, hbar]
  exact (congrArg (fun t : State => (t.regCheck gid).groupExit gid) (hcbar _)).trans
    (congrArg (State.groupExit · gid) q.regCheck)

end

/-! ## Real lanes -/

theorem Group.reals_eq_zero {g : Group} (h : ∀ v l, ((g.warp v).lane l).st ≠ .real) : g.reals = 0 := by
  rw [Group.reals, List.sum_eq_zero_iff]
  intro n hn
  obtain ⟨x, hx, rfl⟩ := List.mem_map.1 hn
  obtain ⟨v, hv, rfl⟩ := List.mem_iff_getElem.1 hx
  rw [List.length_eq_zero_iff, List.filter_eq_nil_iff]
  intro y hy
  obtain ⟨l, hl, rfl⟩ := List.mem_iff_getElem.1 hy
  have := h v l
  have hw : g.warp v = g.warps[v] := by rw [Group.warp, List.getD_eq_getElem?_getD, List.getElem?_eq_getElem hv, Option.getD_some]
  rw [hw, Warp.lane_eq_getElem hl] at this
  simpa [Lane.isReal] using this

theorem Group.reals_ne_zero {g : Group} {v l : Nat} (hv : v < g.warps.length) (h : ((g.warp v).lane l).st = .real) :
    g.reals ≠ 0 := by
  intro h0
  rw [Group.reals, List.sum_eq_zero_iff] at h0
  have hw : g.warp v = g.warps[v] := by rw [Group.warp, List.getD_eq_getElem?_getD, List.getElem?_eq_getElem hv, Option.getD_some]
  have hl : l < (g.warp v).lanes.length := Warp.lt_of_isLive _ _ (by simp [Lane.isLive, h])
  have hn := h0 _ (List.mem_map.2 ⟨g.warp v, hw ▸ List.getElem_mem hv, rfl⟩)
  rw [List.length_eq_zero_iff, List.filter_eq_nil_iff] at hn
  refine hn _ (List.getElem_mem hl) ?_
  rw [← Warp.lane_eq_getElem hl]
  simp [Lane.isReal, h]

/-- While a real lane of the group remains, the group does. -/
theorem State.groupExit_stays {s : State} {gid : Nat} {g : Group} (hg : s.group gid = some g) (h : g.reals ≠ 0) :
    s.groupExit gid = s := by
  simp only [State.groupExit, hg]
  rw [if_pos h]

/-! ## The loads of lanes whose windows have closed -/

/-- No load of the lanes of a mask is left when their windows have closed. -/
theorem State.close_loads (s : State) (gid w : Nat) (m : W64) : ∀ d ∈ (s.close gid w m).loads, d.byLanes gid w m = false := by
  intro d hd
  have hk : (s.settleWindows gid w m).Within (s.close gid w m) := (State.Within.modWarp ..).trans (.raiseEach ..)
  obtain ⟨e, he, hke⟩ := List.mem_map.1 (hk.loads (List.mem_map_of_mem hd))
  have hb : e.byLanes gid w m = false := by simpa using (List.mem_filter.1 he).2
  obtain ⟨h1, h2, h3⟩ : e.gid = d.gid ∧ e.warp = d.warp ∧ e.lane = d.lane := by simpa [Load.key] using hke
  rwa [Load.byLanes, h1, h2, h3] at hb

theorem State.dropLoads_id {s : State} {gid w : Nat} {m : W64} (h : ∀ d ∈ s.loads, d.byLanes gid w m = false) :
    s.dropLoads gid w m = s := by
  have hl : (s.loads.filter fun d => !d.byLanes gid w m) = s.loads := by
    rw [List.filter_eq_self]
    exact fun d hd => by simp [h d hd]
  rw [State.dropLoads, hl]

/-- After the windows of a run have closed, no load of its lanes is under way. -/
theorem State.closeIssue_loads {s : State} {o : Ops} {r : Run} (h : s.closeIssue.runOf o = some r) {m : W64}
    (hm : ∀ l, m.getLsbD l = true → l ∈ r.ls) : ∀ d ∈ s.closeIssue.loads, d.byLanes r.gid r.w m = false := by
  obtain ⟨hi, -, -, -, hgid, hw, hls, -⟩ := Run.of_runOf h
  cases hs : s.issue with
  | none =>
    have : s.closeIssue = s := by rw [State.closeIssue, hs]
    rw [this, hs] at hi
    cases hi
  | some iss =>
    have hissue : ∃ j, (s.close iss.gid iss.warp iss.lanes).issue = some j
        ∧ r.iss.gid = j.gid ∧ r.iss.warp = j.warp ∧ r.iss.lanes = j.lanes := by
      simp only [State.closeIssue, hs] at hi
      obtain ⟨j, hj, e⟩ := Option.map_eq_some_iff.1 hi
      exact ⟨j, hj, by rw [← e], by rw [← e], by rw [← e]⟩
    have hloads : s.closeIssue.loads = (s.close iss.gid iss.warp iss.lanes).loads := by
      simp only [State.closeIssue, hs]
    obtain ⟨j, hj, j1, j2, j3⟩ := hissue
    obtain ⟨i, hi', i1, i2, i3⟩ := (State.Within.close s iss.gid iss.warp iss.lanes).issue j hj
    rw [hs] at hi'
    cases hi'
    intro d hd
    rw [hloads] at hd
    have hb := State.close_loads _ _ _ _ d hd
    rw [hgid, hw, j1, j2, ← i1, ← i2]
    simp only [Load.byLanes, Bool.and_eq_false_iff] at hb ⊢
    refine hb.imp id fun hl => ?_
    by_contra hne
    have hmem := hm _ (by simpa using hne)
    rw [hls, mem_lanesIn, BitVec.getLsbD_and, Bool.and_eq_true, j3, ← i3] at hmem
    rw [hmem.1] at hl
    cases hl

/-! ## EXIT -/

theorem Quiet.modWarp {s : State} {gid w : Nat} {g : Group} (q : Quiet s gid w g) (hw : w < g.warps.length) {G : Warp → Warp}
    (h1 : (G (s.warp gid w)).arrivals = (s.warp gid w).arrivals) (h2 : (G (s.warp gid w)).hset = (s.warp gid w).hset)
    (h3 : (G (s.warp gid w)).pend = (s.warp gid w).pend) : Quiet (s.modWarp gid w G) gid w (g.modWarp w G) where
  group := by rw [State.modWarp, State.group_modGroup, if_pos rfl, q.group]; rfl
  single := q.single
  barriers := q.barriers
  regroup := q.regroup
  cbars := q.cbars
  arrivals := by rw [State.warp_modWarp s gid w G q.group hw, h1, q.arrivals]
  hset := by rw [State.warp_modWarp s gid w G q.group hw, h2, q.hset]
  pend := by rw [State.warp_modWarp s gid w G q.group hw, h3, q.pend]

theorem Quiet.dropLoads {s : State} {gid w : Nat} {g : Group} (q : Quiet s gid w g) (m : W64) :
    Quiet (s.dropLoads gid w m) gid w g :=
  ⟨q.group, q.single, q.barriers, q.regroup, q.cbars, q.arrivals, q.hset, q.pend⟩

/-- The lanes of the run with a false guard go on. -/
def Run.passed (r : Run) (stamp : Nat) (x : Warp) : Warp :=
  x.moved stamp (r.ls.filter fun l => !r.isAct l) fun _ => nextSlot r.pc

/-- The lanes that have gone between two states: what they await and the masks that name them are settled. -/
def Run.exitTail (r : Run) (s t : State) : State :=
  let gone := (s.warp r.gid r.w).live &&& ~~~(t.warp r.gid r.w).live
  let v := (t.dropLoads r.gid r.w gone).modWarp r.gid r.w fun w =>
    { w with arrivals := w.arrivals.filter fun a => !gone.getLsbD a.lane }
  (v.leaveSet r.gid r.w gone).settle r.gid r.w

theorem Run.exitTail_quiet {r : Run} {s t : State} {g : Group} (q : Quiet t r.gid r.w g) : r.exitTail s t
    = (t.dropLoads r.gid r.w ((s.warp r.gid r.w).live &&& ~~~(t.warp r.gid r.w).live)).groupExit r.gid := by
  set gone := (s.warp r.gid r.w).live &&& ~~~(t.warp r.gid r.w).live with hgone
  have q2 := q.dropLoads gone
  have harr : ((t.dropLoads r.gid r.w gone).modWarp r.gid r.w fun w =>
      { w with arrivals := w.arrivals.filter fun a => !gone.getLsbD a.lane }) = t.dropLoads r.gid r.w gone := by
    apply State.modWarp_id
    have hnil : ((t.dropLoads r.gid r.w gone).warp r.gid r.w).arrivals.filter (fun a => !gone.getLsbD a.lane)
        = ((t.dropLoads r.gid r.w gone).warp r.gid r.w).arrivals := by rw [q2.arrivals]; rfl
    rw [hnil]
  simp only [Run.exitTail, ← hgone, harr, q2.leaveSet, q2.settle]

/-- What `EXIT` does when nothing counts on the lanes: its lanes exit, and the group with its last. -/
theorem exec_exit {o : Ops} {s : State} {r : Run} (h : Issues (.exit o) s.closeIssue r) (c : Calm s.closeIssue r)
    (q : Quiet s.closeIssue r.gid r.w r.g) {G : Warp → Warp}
    (hG : ∀ x, x = s.closeIssue.warp r.gid r.w → r.exits r.act (r.passed s.closeIssue.stamp x) = G x
      ∧ (G x).arrivals = x.arrivals ∧ (G x).hset = x.hset ∧ (G x).pend = x.pend) :
    let u := s.closeIssue
    let x := u.warp r.gid r.w
    exec (.exit o) s = .next (((u.modWarp r.gid r.w G).dropLoads r.gid r.w (x.live &&& ~~~(G x).live)).groupExit r.gid) := by
  intro u x
  obtain ⟨hG, h1, h2, h3⟩ := hG x rfl
  have hw := h.warp_lt
  have hadv : u.advance r (r.ls.filter fun l => !r.isAct l) = u.modWarp r.gid r.w (r.passed u.stamp) :=
    State.moveTo_none u r _ _ q.group hw fun l hl y hy hd => c.moves (List.mem_filter.1 hl).1 hy hd
  have hlive : ((u.modWarp r.gid r.w (r.passed u.stamp)).warp r.gid r.w).live = x.live := by
    rw [State.warp_modWarp u _ _ _ q.group hw]
    exact Warp.live_moved ..
  have hexit : (u.modWarp r.gid r.w (r.passed u.stamp)).modWarp r.gid r.w (r.exits r.act) = u.modWarp r.gid r.w G := by
    rw [State.modWarp_modWarp]
    exact State.modWarp_congr _ _ _ _ _ hG
  have hx : (u.modWarp r.gid r.w G).warp r.gid r.w = G x := State.warp_modWarp u _ _ _ q.group hw
  have hrun : exec (.exit o) s = .next (r.exitTail (u.advance r (r.ls.filter fun l => !r.isAct l))
      ((u.advance r (r.ls.filter fun l => !r.isAct l)).modWarp r.gid r.w (r.exits r.act))) := issued_next h .issuing _
  rw [hrun, hadv, hexit, Run.exitTail_quiet (q.modWarp hw h1 h2 h3), hlive, hx]

/-- A group that `EXIT` leaves a real lane stays. -/
theorem exec_exit_stays {o : Ops} {s : State} {r : Run} (h : Issues (.exit o) s.closeIssue r) (c : Calm s.closeIssue r)
    (q : Quiet s.closeIssue r.gid r.w r.g) {G : Warp → Warp}
    (hG : ∀ x, x = s.closeIssue.warp r.gid r.w → r.exits r.act (r.passed s.closeIssue.stamp x) = G x
      ∧ (G x).arrivals = x.arrivals ∧ (G x).hset = x.hset ∧ (G x).pend = x.pend)
    {v l : Nat} (hv : v < r.g.warps.length) (hl : (((r.g.modWarp r.w G).warp v).lane l).st = .real) :
    let u := s.closeIssue
    let x := u.warp r.gid r.w
    exec (.exit o) s = .next ((u.modWarp r.gid r.w G).dropLoads r.gid r.w (x.live &&& ~~~(G x).live)) := by
  intro u x
  obtain ⟨-, h1, h2, h3⟩ := hG x rfl
  rw [exec_exit h c q hG, State.groupExit_stays ((q.modWarp h.warp_lt h1 h2 h3).dropLoads _).group
    (Group.reals_ne_zero (by simpa using hv) hl)]

/-! ## The lanes that have gone -/

/-- The live lanes that exit are gone. -/
theorem Warp.gone_ended (x : Warp) {ls : List Nat} (hl : ∀ l ∈ ls, (x.lane l).isLive = true) :
    x.live &&& ~~~(x.modLanes (maskOf ls) fun _ => Lane.ended).live = maskOf ls := by
  apply BitVec.eq_of_getLsbD_eq
  intro l h64
  simp only [BitVec.getLsbD_and, BitVec.getLsbD_not, Warp.getLsbD_live, Warp.lane_modLanes, getLsbD_maskOf, h64, decide_true,
    Bool.true_and, List.contains_iff_mem]
  by_cases hm : l ∈ ls
  · have hlive := hl l hm
    have hlen := Warp.lt_of_isLive x l hlive
    rw [if_pos ⟨hlen, hm⟩, hlive]
    simp [hm, Lane.ended, Lane.isLive]
  · rw [if_neg fun h => hm h.2]
    simp [hm]

/-- Lanes that become helpers are not gone. -/
theorem Warp.gone_helps (x : Warp) (ls : List Nat) (pc : W64) :
    x.live &&& ~~~(x.modLanes (maskOf ls) fun _ => Lane.helps pc).live = 0 := by
  apply BitVec.eq_of_getLsbD_eq
  intro l h64
  simp only [BitVec.getLsbD_and, BitVec.getLsbD_not, Warp.getLsbD_live, Warp.lane_modLanes, h64, decide_true, Bool.true_and]
  split
  · simp [Lane.helps, Lane.isLive]
  · simp

/-! ## The end of a group -/

theorem State.node_eq_some {s : State} {c n : Nat} {y : Node} :
    s.node c n = some y ↔ ∃ x, s.ctx c = some x ∧ mapGet x.nodes n = some y := by
  simp only [State.node, Option.bind_eq_some_iff]

theorem State.node_modNode_ne (s : State) {c n m : Nat} (f : Node → Node) (h : n ≠ m) : (s.modNode c m f).node c n = s.node c n := by
  simp only [State.node, State.modNode, State.ctx_modCtx, if_true]
  cases s.ctx c with
  | none => rfl
  | some x => exact mapGet_mapMod_ne _ _ _ _ h

/-- The places that a group frees are no matter of how many groups of a node have exited. -/
theorem State.freePlaces_node {s : State} {g : Group} {n : Nat} {y : Node} (h : s.node g.ctx n = some y) :
    ∃ z, (s.freePlaces g).node g.ctx n = some z ∧ z.exited = y.exited ∧ z.desc = y.desc := by
  unfold State.freePlaces
  dsimp only
  split
  · exact ⟨y, h, rfl, rfl⟩
  · by_cases hn : n = (s.desc g).edst
    · rw [← hn]
      exact ⟨_, State.node_modNode_same h _, rfl, rfl⟩
    · rw [State.node_modNode_ne s _ hn]
      exact ⟨y, h, rfl, rfl⟩

/-- What the end of a group changes of the memories and the other groups: nothing. -/
structure State.GroupGone (s t : State) (gid : Nat) : Prop where
  group : t.group gid = none
  others : ∀ i, i ≠ gid → t.group i = s.group i
  ctxs : t.ctxs = s.ctxs
  hbm : t.hbm = s.hbm
  loft : t.loft = s.loft

theorem State.freeCtxs_of_no_ops {s : State} {gid : Nat} {g : Group} (hg : s.group gid = some g)
    (h : (s.ops.any fun x => x.gid == gid && decide (x.ectx < 0x40)) = false) :
    ∃ v : State, s.freeCtxs gid = v.modGroup gid (fun x => { x with copyCtxs := [] })
      ∧ v.ops = s.ops ∧ v.groups = s.groups ∧ v.ctxs = s.ctxs ∧ v.hbm = s.hbm ∧ v.loft = s.loft := by
  let free := fun d : Die => g.copyCtxs.foldl (fun m k => mapMod m k fun e => { e with holder := none }) d.copyCtx
  refine ⟨s.modDie g.die fun d => { d with copyCtx := free d }, ?_, rfl, rfl, rfl, rfl, rfl⟩
  simp only [State.freeCtxs, hg, h, Bool.false_eq_true, if_false]
  rfl

/-- A group off its core with no operation of it under way is gone (R220). -/
theorem State.drained_gone {s : State} {gid : Nat} {g : Group} (hg : s.group gid = some g) (hr : g.res = .draining)
    (hs : mapSorted none s.groups = true) (ho : ∀ x ∈ s.ops, x.gid ≠ gid) : s.GroupGone (s.drained gid) gid := by
  have hops : (s.ops.any fun x => x.gid == gid && decide (x.ectx < 0x40)) = false := by
    rw [List.any_eq_false]
    exact fun x hx => by simp [ho x hx]
  have hops' : (s.ops.any fun x => x.gid == gid) = false := by
    rw [List.any_eq_false]
    exact fun x hx => by simpa using ho x hx
  obtain ⟨v, hf, f1, f2, f3, f4, f5⟩ := State.freeCtxs_of_no_ops hg hops
  have hd : s.drained gid = { s.freeCtxs gid with groups := mapErase (s.freeCtxs gid).groups gid } := by
    have h1 : ((s.freeCtxs gid).ops.any fun x => x.gid == gid) = false := by rw [hf]; exact f1.symm ▸ hops'
    simp only [State.drained, hg, hr, h1, bne_self_eq_false, Bool.false_eq_true, if_false]
  have hgr : (s.freeCtxs gid).groups = mapMod s.groups gid fun x => { x with copyCtxs := [] } := by
    rw [hf, ← f2]
    rfl
  have hget : ∀ i, (s.drained gid).group i = if i = gid then none else s.group i := fun i => by
    rw [hd]
    show mapGet (mapErase (s.freeCtxs gid).groups gid) i = _
    rw [hgr, mapGet_mapErase _ _ _ (by rw [mapSorted_mapMod]; exact hs)]
    split
    · rfl
    · rename_i h; exact mapGet_mapMod_ne _ _ _ _ h
  refine ⟨by rw [hget, if_pos rfl], fun i hi => by rw [hget, if_neg hi], ?_, ?_, ?_⟩
  · rw [hd]; show (s.freeCtxs gid).ctxs = _; rw [hf]; exact f3
  · rw [hd]; show (s.freeCtxs gid).hbm = _; rw [hf]; exact f4
  · rw [hd]; show (s.freeCtxs gid).loft = _; rw [hf]; exact f5

/-- A group off its core, and then gone. -/
theorem State.removeGroup_gone {s : State} {gid : Nat} {g : Group} (hg : s.group gid = some g)
    (hs : mapSorted none s.groups = true) (ho : ∀ x ∈ s.ops, x.gid ≠ gid) : s.GroupGone (s.removeGroup gid) gid := by
  have hoff : ∀ i, (s.offCore gid g).group i = if i = gid then (s.group i).map fun g =>
      { g with res := .draining, warps := [], barriers := [], regroup := none, tiles := [], kept := [] } else s.group i :=
    fun i => State.group_modGroup ..
  have hg' := (hoff gid).trans (if_pos rfl)
  rw [hg] at hg'
  obtain ⟨h1, h2, h3, h4, h5⟩ := State.drained_gone hg' rfl (by
    show mapSorted none (mapMod s.groups gid _) = true
    rw [mapSorted_mapMod]
    exact hs) ho
  rw [State.removeGroup_eq hg]
  exact ⟨h1, fun i hi => (h2 i hi).trans ((hoff i).trans (if_neg hi)), h3, h4, h5⟩

theorem State.freePlaces_frame (s : State) (g : Group) : (s.freePlaces g).groups = s.groups ∧ (s.freePlaces g).ops = s.ops
    ∧ (s.freePlaces g).hbm = s.hbm ∧ (s.freePlaces g).loft = s.loft := by
  unfold State.freePlaces
  dsimp only
  split <;> exact ⟨rfl, rfl, rfl, rfl⟩

/-- The last real lane of a group has exited: the group is gone, and its node counts it. -/
theorem State.groupExit_gone {s : State} {gid : Nat} {g : Group} (hg : s.group gid = some g) (h0 : g.reals = 0)
    (hs : mapSorted none s.groups = true) (ho : ∀ x ∈ s.ops, x.gid ≠ gid) :
    let t := s.groupExit gid
    t.group gid = none ∧ (∀ i, i ≠ gid → t.group i = s.group i)
    ∧ (∀ y, s.node g.ctx g.node = some y → ∃ z, t.node g.ctx g.node = some z ∧ z.exited = y.exited + 1 ∧ z.desc = y.desc)
    ∧ t.hbm = s.hbm ∧ t.loft = s.loft := by
  intro t
  obtain ⟨p1, p2, p3, p4⟩ := State.freePlaces_frame s g
  set v := ((s.freePlaces g).modNode g.ctx g.node fun n => { n with exited := n.exited + 1 }).gridLearns gid g with hv
  have hvg : ∀ i, v.group i = s.group i := fun i => by
    show mapGet (s.freePlaces g).groups i = _
    rw [p1]
    rfl
  have hgone := State.removeGroup_gone (s := v) ((hvg gid).trans hg) (by
    show mapSorted none (s.freePlaces g).groups = true
    rw [p1]
    exact hs) (by
    show ∀ x ∈ (s.freePlaces g).ops, _
    rw [p2]
    exact ho)
  have ht : t.groups = (v.removeGroup gid).groups ∧ t.ctxs = (v.removeGroup gid).ctxs ∧ t.hbm = (v.removeGroup gid).hbm
      ∧ t.loft = (v.removeGroup gid).loft := by
    simp only [t, State.groupExit, hg, h0, ne_eq, not_true_eq_false, if_false, ← hv]
    split <;> exact ⟨rfl, rfl, rfl, rfl⟩
  obtain ⟨t1, t2, t3, t4⟩ := ht
  have hgrp : ∀ i, t.group i = (v.removeGroup gid).group i := fun i => congrArg (mapGet · i) t1
  refine ⟨(hgrp gid).trans hgone.group, fun i hi => (hgrp i).trans ((hgone.others i hi).trans (hvg i)), fun y hy => ?_,
    t3.trans (hgone.hbm.trans p3), t4.trans (hgone.loft.trans p4)⟩
  obtain ⟨z, hz, z1, z2⟩ := State.freePlaces_node hy
  have hctx : t.ctxs = v.ctxs := t2.trans hgone.ctxs
  have hnode : t.node g.ctx g.node = v.node g.ctx g.node := by simp only [State.node, State.ctx, hctx]
  exact ⟨{ z with exited := z.exited + 1 }, hnode.trans (State.node_modNode_same hz _), by rw [← z1], z2⟩

/-! ## The obligation -/

/-- The lane of a group after a change of one warp that leaves it, or a lane of another warp. -/
theorem Group.st_modWarp {g : Group} {w v l : Nat} {G : Warp → Warp} {st : LaneSt} (h : ((g.warp v).lane l).st = st)
    (hG : v = w → ((G (g.warp w)).lane l).st = ((g.warp w).lane l).st) : (((g.modWarp w G).warp v).lane l).st = st := by
  rw [Group.warp_modWarp]
  split
  · rename_i hv
    obtain ⟨rfl, -⟩ := hv
    exact (hG rfl).trans h
  · exact h

/-- A lane that is not named in a change of lanes of those that passed. -/
theorem Run.st_passed {r : Run} {stamp : Nat} {x : Warp} {ls : List Nat} {f : Nat → Lane → Lane} {l : Nat} (hl : l ∉ ls) :
    (((r.passed stamp x).modLanes (maskOf ls) f).lane l).st = (x.lane l).st := by
  rw [Warp.lane_modLanes, if_neg (by simp [hl])]
  exact Warp.moved_st ..

/-- A lane that has ended is not real. -/
theorem Run.not_real_ended {r : Run} {stamp : Nat} {x : Warp} {ls : List Nat} {l : Nat} (hl : l ∈ ls) (h64 : l < 64) :
    (((r.passed stamp x).modLanes (maskOf ls) fun _ => Lane.ended).lane l).st ≠ .real := by
  intro h
  have hlen := Warp.lt_of_isLive _ l (show Lane.isLive _ = true by rw [Lane.isLive, h]; rfl)
  rw [Warp.modLanes_length] at hlen
  rw [Warp.lane_modLanes, if_pos ⟨hlen, by simp [hl, h64]⟩] at h
  cases h

theorem Run.passed_isLive (r : Run) (stamp : Nat) (x : Warp) (l : Nat) :
    ((r.passed stamp x).lane l).isLive = (x.lane l).isLive := Warp.moved_isLive ..

theorem Run.live_passed (r : Run) (stamp : Nat) (x : Warp) : (r.passed stamp x).live = x.live := Warp.live_moved ..

/-- A lane without windows has none when it has moved on. -/
theorem Run.passed_windows {r : Run} {stamp : Nat} {x : Warp} {l : Nat} (h : (x.lane l).windows = []) :
    ((r.passed stamp x).lane l).windows = [] := by
  rw [Run.passed, Warp.moved, Warp.lane_modLanes]
  split
  · simp [Lane.goOn, Lane.count, h]
  · exact h

/-- Settles O28: lanes exit or become helpers, and the group goes with its last real lane. -/
theorem exitEndsLanes : Obligations.ExitEndsLanes := by
  unfold Obligations.ExitEndsLanes
  intro o s r h c hact u w hduet harr hset hpend hbar hreg hcb hsorted passed ended stays plain
  obtain ⟨-, hgrp, -, hd, -⟩ := Run.of_runOf h.run
  have q : Quiet u r.gid r.w r.g := ⟨hgrp, hd ▸ hduet, hbar, hreg, hcb, harr, hset, hpend⟩
  have hw : r.g.warp r.w = w := by simp only [w, State.warp, u, hgrp, Option.map_some, Option.getD_some]
  have hactlive : ∀ l ∈ r.act, (w.lane l).isLive = true := fun l hl => h.live l (Run.act_sub h.run hl)
  have hendedG : plain → ∀ x, x = u.warp r.gid r.w → r.exits r.act (r.passed u.stamp x) = ended r.act x
      ∧ (ended r.act x).arrivals = x.arrivals ∧ (ended r.act x).hset = x.hset ∧ (ended r.act x).pend = x.pend := by
    rintro ⟨hh, hno⟩ x rfl
    exact ⟨Run.exits_ended hh r.act _ fun l => by rw [Run.passed, Warp.moved_st]; exact hno l, rfl, rfl, rfl⟩
  have hgone : ∀ ls : List Nat, (∀ l ∈ ls, (w.lane l).isLive = true) → w.live &&& ~~~(ended ls w).live = maskOf ls := by
    intro ls hls
    rw [← Run.live_passed r u.stamp w]
    exact Warp.gone_ended _ fun l hl => (Run.passed_isLive ..).trans (hls l hl)
  refine ⟨fun hp ⟨v, l, hv, hl, hst, hne⟩ => ?_, fun hh hq => ?_, fun l hh hl hreal hwin ⟨v, k, hv, hk, hst, hne⟩ => ?_,
    fun hp hno hops => ?_⟩
  · -- some real lane stays
    rw [exec_exit_stays h c q (hendedG hp) hv (Group.st_modWarp hst fun e => Run.st_passed fun hm => hne ⟨e, hm⟩),
      hgone r.act hactlive]
    refine congrArg _ (State.dropLoads_id ?_)
    exact State.closeIssue_loads h.run fun l hl => Run.act_sub h.run (by
      rw [getLsbD_maskOf, Bool.and_eq_true, List.contains_iff_mem] at hl
      exact hl.2)
  · -- a real lane of each quad stays
    set helped : Warp → Warp := fun x => (r.passed u.stamp x).modLanes (maskOf r.act) fun _ => Lane.helps (nextSlot r.pc)
      with hhelped
    have hG : ∀ x, x = u.warp r.gid r.w → r.exits r.act (r.passed u.stamp x) = helped x
        ∧ (helped x).arrivals = x.arrivals ∧ (helped x).hset = x.hset ∧ (helped x).pend = x.pend := by
      rintro x rfl
      refine ⟨Run.exits_helps hh r.act _ (fun l hl => Run.ls_lt h.run (Run.act_sub h.run hl)) fun l hl => ?_, rfl, rfl, rfl⟩
      obtain ⟨k, hk, hka, hkr⟩ := hq l hl
      exact ⟨k, hk, hka, (Warp.moved_st ..).trans hkr⟩
    obtain ⟨l, hl⟩ := List.exists_mem_of_ne_nil _ hact
    obtain ⟨k, -, hka, hkr⟩ := hq l hl
    have hnone : w.live &&& ~~~(helped w).live = 0 := by
      rw [← Run.live_passed r u.stamp w]
      exact Warp.gone_helps ..
    rw [exec_exit_stays h c q hG h.warp_lt (Group.st_modWarp (hw ▸ hkr) fun _ => Run.st_passed hka), hnone]
    refine congrArg _ (State.dropLoads_id fun d _ => ?_)
    simp [Load.byLanes]
  · -- the last real lane of a quad
    intro quad
    have hquad : ∀ k < 64, k ∈ quad ↔ k = l ∨ k / 4 = l / 4 ∧ (w.lane k).st = .helper := fun k hk => by
      simp [quad, hk]
    have hG : ∀ x, x = u.warp r.gid r.w → r.exits r.act (r.passed u.stamp x) = ended quad x
        ∧ (ended quad x).arrivals = x.arrivals ∧ (ended quad x).hset = x.hset ∧ (ended quad x).pend = x.pend := by
      rintro x rfl
      refine ⟨?_, rfl, rfl, rfl⟩
      have hst' : ∀ k, ((r.passed u.stamp w).lane k).st = (w.lane k).st := fun k => Warp.moved_st ..
      have hmask : maskOf (l :: (quadOf l).filter fun k => ((r.passed u.stamp w).lane k).isHelper) = maskOf quad := by
        refine maskOf_congr fun k hk => ?_
        rw [hquad k hk, List.mem_cons, List.mem_filter, mem_quadOf, Lane.isHelper, hst', beq_iff_eq]
      rw [hl]
      refine (Warp.exitLane_ends (nextSlot r.pc) (fun _ k hk hr => hreal k hk ((hst' k).symm.trans hr)) fun k hk hr => ?_).trans ?_
      · exact Run.passed_windows (hwin k hk ((hst' k).symm.trans hr))
      · rw [hmask]
        rfl
    have hlive : ∀ k ∈ quad, (w.lane k).isLive = true := by
      intro k hk
      rcases List.mem_cons.1 hk with rfl | hk
      · exact hactlive k (by rw [hl]; exact List.mem_singleton_self k)
      · have := (List.mem_filter.1 hk).2
        simp only [Bool.and_eq_true, decide_eq_true_eq] at this
        simp [Lane.isLive, this.2]
    have hstay : v = r.w → k ∉ quad := by
      intro hv hkq
      subst hv
      rw [hw] at hst
      rcases (hquad k hk).1 hkq with rfl | ⟨-, hh⟩
      · exact hne ⟨rfl, by rw [hl]; exact List.mem_singleton_self k⟩
      · rw [hst] at hh
        cases hh
    rw [exec_exit_stays h c q hG hv (Group.st_modWarp hst fun e => Run.st_passed (hstay e)), hgone quad hlive]
  · -- no real lane stays
    set v := (u.modWarp r.gid r.w (ended r.act)).dropLoads r.gid r.w (w.live &&& ~~~(ended r.act w).live) with hv
    have hvg : ∀ i, v.group i = if i = r.gid then (u.group i).map (·.modWarp r.w (ended r.act)) else u.group i :=
      fun i => State.group_modGroup ..
    have hvgid : v.group r.gid = some (r.g.modWarp r.w (ended r.act)) := by rw [hvg, if_pos rfl, hgrp]; rfl
    have h0 : (r.g.modWarp r.w (ended r.act)).reals = 0 := by
      refine Group.reals_eq_zero fun i l hreal => ?_
      rw [Group.warp_modWarp] at hreal
      by_cases hi : i = r.w
      · subst hi
        rw [if_pos ⟨rfl, h.warp_lt⟩] at hreal
        by_cases hm : l ∈ r.act
        · exact Run.not_real_ended hm (Run.ls_lt h.run (Run.act_sub h.run hm)) hreal
        · exact hno r.w l ⟨(Run.st_passed hm).symm.trans hreal, fun e => hm e.2⟩
      · rw [if_neg fun e => hi e.1] at hreal
        exact hno i l ⟨hreal, fun e => hi e.1⟩
    obtain ⟨t1, t2, t3, t4, t5⟩ := State.groupExit_gone hvgid h0 (by
      show mapSorted none (mapMod u.groups r.gid _) = true
      rw [mapSorted_mapMod]
      exact hsorted) hops
    refine ⟨_, exec_exit h c q (hendedG hp), t1, fun i hi => (t2 i hi).trans ((hvg i).trans (if_neg hi)), fun x n hx hn => ?_,
      t4, t5⟩
    obtain ⟨z, hz, z1, z2⟩ := t3 n (State.node_eq_some.2 ⟨x, hx, hn⟩)
    obtain ⟨x', hx', hn'⟩ := State.node_eq_some.1 hz
    exact ⟨x', z, hx', hn', z1, z2⟩

end Sys2Proof.Machine
end

section
/-! PROOFS. Obligation O47 fails: `REDST` of helper lanes in a rehearsal launch (R18, R410). -/

namespace Sys2Proof.Machine.RedstInRehearsal

/-- A kernel of one warp in a rehearsal launch with helpers (FLAGS bits 1 and 3): lane 0 is a helper, and the instruction
issues to it alone. -/
def before : State :=
  let s := (State.reset.withFetchWord 96 0).modNode 1 0 fun n => { n with desc := { n.desc with flags := 10 } }
  let s := s.modLane 0 0 0 fun x => { x with st := .helper }
  { s with agenda := [], issue := some { gid := 0, warp := 0, lanes := 1, pc := 0, snap := s.warp 0 0, busy := 1, cycle := 0,
                                         out := 0, pre := [] } }

def fields : Ops := { g := { neg := false, p := 15 }, la := 0, d := 0xCA, a := 0xC6, b := 0xC8, c := 0xFF, imm := 3 }

def modifier : RedstMod := { ctx := 0, tag := true, ty := .f32, op := .add }

def run : Run := (before.runOf fields).get (by decide +kernel)

theorem issues : Issues (.redst fields modifier) before run where
  run := (Option.some_get _).symm
  legal := by decide +kernel
  limits := by decide +kernel
  noErr := by decide +kernel
  lanes := by decide +kernel
  live := by decide +kernel
  first := by decide +kernel
  canon := by decide +kernel
  noTag := by decide +kernel

theorem calm : Calm before run where
  windows := by decide +kernel
  soft := by decide +kernel

/-- The model raises `REHEARSAL`, which ends the grid, there being no handler. -/
theorem exec_aborts :
    (match exec (.redst fields modifier) before with | .next t => t.aborts.length | _ => 0) = 1 := by
  decide +kernel

end Sys2Proof.Machine.RedstInRehearsal

namespace Sys2Proof.Machine

/-- Refutes O47: the clause that a run of helpers receives an untagged 0 asks it of `REDST` in every launch, but in a
rehearsal launch the model raises `REHEARSAL` for every issuing lane before it looks for a real one (R410). -/
theorem not_engineIssue : ¬ Obligations.EngineIssue := by
  intro h
  obtain ⟨_, hredst, _⟩ := h
  obtain ⟨hhelpers, _⟩ := hredst RedstInRehearsal.fields RedstInRehearsal.modifier
  obtain ⟨t, ht, hopens⟩ := hhelpers _ _ RedstInRehearsal.issues RedstInRehearsal.calm (by decide +kernel)
  have hsame : t.aborts = RedstInRehearsal.before.aborts := by rw [hopens.rest]; rfl
  have hone := RedstInRehearsal.exec_aborts
  rw [ht] at hone
  simp only [hsame] at hone
  revert hone
  decide +kernel

end Sys2Proof.Machine
end

section
/-! PROOFS. Obligation O54 fails: a save that fills the matrix queue may end the grid of another group (R330, R424). -/

namespace Sys2Proof.Machine.SaveFillsQueue

/-- A result that failed, and that lands with the next instruction of its lane (R181). -/
def failedWindow : Window :=
  { stamp := 0, cycle := 0, left := 1, pc := 0, dst := .v32 0, val := 0, tag := false, flags := 0, done := true,
    flt := some { code := .object, s45 := 0 } }

/-- A matrix entry of group 1 that waits for a place in the queue. -/
def stalledEntry : MEntry :=
  { id := 7, entered := none, cycles := 0, numbered := false, gid := 1, warp := 0, tile := 0, op := .zero, rdv := .free }

/-- Every lane of group 0 waits for a page.  Group 1, of another node, stands on the same core: its lane 0 stalls for the
place of its entry, and a line of its warp is being fetched again (R158). -/
def before : State :=
  let s := (State.reset.withFetchWord 96 0).modCtx 1 fun c =>
    { c with pool := [(0, 100)], nodes := c.nodes ++ c.nodes.map fun p => (1, p.2) }
  let waits := (soloGroup 0).modWarp 0 fun w => { w with lanes := w.lanes.map fun x => { x with wait := .page .none } }
  let stalls := { soloGroup 0 with node := 1 }.modWarp 0 (·.modLane 0 fun x =>
    { x with wait := .queue 7, windows := [failedWindow] })
  { s.modCore 0 0 (fun c => { c with waiting := [stalledEntry] }) with
    agenda := [], groups := [(0, waits), (1, stalls)], refetches := [{ gid := 1, warp := 0, line := 0, first := [] }] }

def saved : Group := (before.group 0).get (by decide +kernel)

def ctx : Ctx := (before.ctx 1).get (by decide +kernel)

/-- The entry of group 1 takes its place in the queue, its lane goes on, the failed result lands, and the grid of group 1
ends with its second fetch. -/
theorem exec_drops_refetch :
    (match exec (.swapOut 0) before with | .next t => t.refetches | _ => before.refetches) = [] := by
  decide +kernel

end Sys2Proof.Machine.SaveFillsQueue

namespace Sys2Proof.Machine

/-- Refutes O54: the first clause gives the second fetches that are left as those of the state before the save, but for
the saved group's; the fill of the queue that follows a save can end another group on the core, and those of that group
go too.  (Its lists of streams and of second issues have the same fault.) -/
theorem not_framesAndDispatch : ¬ Obligations.FramesAndDispatch := by
  intro h
  obtain ⟨hswap, _, _⟩ := h
  obtain ⟨hsaves, _, _⟩ := hswap 0 SaveFillsQueue.before SaveFillsQueue.saved SaveFillsQueue.ctx
    (Option.some_get _).symm (by decide +kernel) (by decide +kernel) (by decide +kernel)
  have hexec := hsaves (by decide +kernel) (by decide +kernel) (by decide +kernel)
  have hnone := SaveFillsQueue.exec_drops_refetch
  rw [hexec] at hnone
  revert hnone
  decide +kernel

end Sys2Proof.Machine
end

section
/-! PROOFS. Obligation O27 fails: two groups under one key (R34, R424). -/

namespace Sys2Proof.Machine.TwoGroupsOneKey

/-- The warp with lane 0 exited, though it has arrived at PC 0 with a mask of itself alone. -/
def goneMember (w : Warp) : Warp :=
  { w.modLane 0 fun x => { x with st := .exited } with
    arrivals := [{ lane := 0, pc := 0, mask := 1, guard := true, a := 0, b := 0, pred := false, ghost := false }] }

/-- The list of groups holds key 0 twice: a group of node 0, to lane 0 of which the instruction issues, and behind it a
group of node 1 whose rendezvous a member has left. -/
def before : State :=
  let s := (State.reset.withFetchWord 96 0).modCtx 1 fun c => { c with nodes := c.nodes ++ c.nodes.map fun p => (1, p.2) }
  let s := { s with groups := [(0, soloGroup 0), (0, { soloGroup 0 with node := 1 }.modWarp 0 goneMember)] }
  { s with agenda := [], issue := some { gid := 0, warp := 0, lanes := 1, pc := 0, snap := s.warp 0 0, busy := 1, cycle := 0,
                                         out := 0, pre := [] } }

/-- A `SHFL` whose mask register, s4, is zero. -/
def fields : Ops := { g := { neg := false, p := 15 }, la := 0, d := 5, a := 4, b := 0xFF, c := 0xC4, imm := 5 }

def modifier : ShflMod := { mode := 3, wrel := false, b64 := false }

def run : Run := (before.runOf fields).get (by decide +kernel)

theorem issues : Issues (.shfl fields modifier) before run where
  run := (Option.some_get _).symm
  legal := by decide +kernel
  limits := by decide +kernel
  noErr := by decide +kernel
  lanes := by decide +kernel
  live := by decide +kernel
  first := by decide +kernel
  canon := by decide +kernel
  noTag := by decide +kernel

/-- The mask mismatch ends the first group's grid, and then the second group is found under the key, and fails too. -/
theorem exec_aborts_twice :
    (match exec (.shfl fields modifier) before with | .next t => t.aborts.length | _ => 0) = 2 := by
  decide +kernel

end Sys2Proof.Machine.TwoGroupsOneKey

namespace Sys2Proof.Machine

/-- Refutes O27: its second part speaks of every state, also of one whose list of groups holds a key twice.  The fault
that it names ends the grid there, and the test of the warp's rendezvous that follows meets the other group of that key,
which raises a fault of its own.  (The part has no hypothesis `mapSorted none s.groups`; a state reached from reset
would meet that.) -/
theorem not_membershipFaults : ¬ Obligations.MembershipFaults := by
  intro h
  obtain ⟨_, hmeet⟩ := h
  obtain ⟨hclash, _⟩ := hmeet TwoGroupsOneKey.fields TwoGroupsOneKey.modifier { mode := 0, np := false, b64 := false }
    { ty := .s32, op := .add, excl := false } TwoGroupsOneKey.before TwoGroupsOneKey.run
    (.shfl TwoGroupsOneKey.fields TwoGroupsOneKey.modifier) (by simp) TwoGroupsOneKey.issues (by decide +kernel) (by decide +kernel)
  have hexec := hclash (by decide +kernel) (by decide +kernel)
  have htwo := TwoGroupsOneKey.exec_aborts_twice
  rw [hexec] at htwo
  revert htwo
  decide +kernel

end Sys2Proof.Machine
end

section
/-! PROOFS. Instructions whose result in a lane is a function of its operands (`alu`). -/

namespace Sys2Proof.Machine

/-- A short-latency instruction that is an `alu` completes with its results. -/
theorem Gives.of_alu {i : Instr} {chk : Bool} {g : Run → Nat → Res} (hexec : ∀ s, exec i s = alu i chk g s)
    (hlong : (formOf i).long = false) (hflt : ∀ r l, (g r l).flt = none) : Gives i chk g := by
  intro s r hissues hcalm
  rw [hexec]
  exact alu_short hissues hcalm chk g hlong fun l _ => hflt r l

/-- A long-latency instruction that is an `alu` opens windows with its results. -/
theorem GivesLater.of_alu {i : Instr} {chk : Bool} {g : Run → Nat → Res} (hexec : ∀ s, exec i s = alu i chk g s)
    (hlong : (formOf i).long = true) (hflt : ∀ r l, (g r l).flt = none) : GivesLater i chk g := by
  intro s r hissues hcalm
  rw [hexec]
  exact alu_long hissues hcalm chk g hlong fun l _ => hflt r l

end Sys2Proof.Machine
end

section
/-! PROOFS. Integer results in the range of their type (R55, R56): obligations O6 and O8. -/

namespace Sys2Proof.Machine

/-! ## The range of a type -/

theorem bits_pos (t : NumType) : 0 < t.bits := by
  cases t <;> decide

/-- A power of two is twice the one below it. -/
theorem two_pow_pred_mul_two {n : Nat} (hn : 0 < n) : (2 : Int) ^ n = 2 ^ (n - 1) * 2 := by
  rw [← pow_succ, Nat.sub_add_cancel hn]

theorem intRange_eq (n : Nat) (sg : Bool) : intRange n sg
    = (if sg then -(2 ^ (n - 1)) else 0, if sg then 2 ^ (n - 1) - 1 else 2 ^ n - 1) := by
  cases sg <;> rfl

theorem intRange_signed (n : Nat) : intRange n true = (-(2 ^ (n - 1)), 2 ^ (n - 1) - 1) := rfl

theorem intRange_unsigned (n : Nat) : intRange n false = (0, 2 ^ n - 1) := rfl

/-- Zero lies in every range. -/
theorem intRange_zero_mem (n : Nat) (sg : Bool) : (intRange n sg).1 ≤ 0 ∧ 0 ≤ (intRange n sg).2 := by
  have hhalf : (0 : Int) < 2 ^ (n - 1) := by positivity
  have hfull : (0 : Int) < 2 ^ n := by positivity
  cases sg
  · rw [intRange_unsigned]; simp only; omega
  · rw [intRange_signed]; simp only; omega

/-! ## Reduction and clamp (R55) -/

/-- Without `.sat` the result lies in the range of the type. -/
theorem intFit_wrap_mem {n : Nat} (hn : 0 < n) (sg : Bool) (x : Int) :
    (intRange n sg).1 ≤ (intFit n sg false x).1 ∧ (intFit n sg false x).1 ≤ (intRange n sg).2 := by
  have hpow := two_pow_pred_mul_two hn
  have hfull : (0 : Int) < 2 ^ n := by positivity
  cases sg
  · have hlo := Int.emod_nonneg x hfull.ne'
    have hhi := Int.emod_lt_of_pos x hfull
    simp only [intFit, intRange, Bool.false_eq_true, if_false]
    omega
  · have hlo := @Int.le_bmod x (2 ^ n) (by positivity)
    have hhi := @Int.bmod_lt x (2 ^ n) (by positivity)
    push_cast at hlo hhi
    simp only [intFit, intRange, Bool.false_eq_true, if_false, if_true]
    omega

/-- Without `.sat` the result is congruent to the exact one. -/
theorem intFit_wrap_emod (n : Nat) (sg : Bool) (x : Int) : (x - (intFit n sg false x).1) % 2 ^ n = 0 := by
  cases sg
  · exact Int.emod_eq_zero_of_dvd (Int.dvd_self_sub_emod)
  · have h := @Int.dvd_self_sub_bmod x (2 ^ n)
    push_cast at h
    exact Int.emod_eq_zero_of_dvd h

theorem intFit_wrap_flags (n : Nat) (sg : Bool) (x : Int) : (intFit n sg false x).2 = 0 := by
  cases sg <;> rfl

/-- With `.sat` the result is the exact one clamped, with SAT when the clamp changes it. -/
theorem intFit_sat (n : Nat) (sg : Bool) (x : Int) :
    intFit n sg true x = (max (intRange n sg).1 (min (intRange n sg).2 x),
      if max (intRange n sg).1 (min (intRange n sg).2 x) = x then 0 else fSAT) := by
  have hzero := intRange_zero_mem n sg
  simp only [intFit, if_true]
  generalize (intRange n sg).1 = lo at *
  generalize (intRange n sg).2 = hi at *
  by_cases hlow : x < lo
  · rw [if_pos hlow, if_neg (by omega), max_eq_left (by omega)]
  · by_cases hhigh : hi < x
    · rw [if_neg hlow, if_pos hhigh, if_neg (by omega), min_eq_left (by omega), max_eq_right (by omega)]
    · rw [if_neg hlow, if_neg hhigh, if_pos (by omega), min_eq_right (by omega), max_eq_right (by omega)]

/-- Two numbers of the range that are congruent are equal. -/
theorem intRange_unique {n : Nat} (hn : 0 < n) {sg : Bool} {x y : Int}
    (hx : (intRange n sg).1 ≤ x ∧ x ≤ (intRange n sg).2) (hy : (intRange n sg).1 ≤ y ∧ y ≤ (intRange n sg).2) (h : (x - y) % 2 ^ n = 0) : x = y := by
  have hpow := two_pow_pred_mul_two hn
  obtain ⟨k, hk⟩ := Int.dvd_of_emod_eq_zero h
  have hfull : (0 : Int) < 2 ^ n := by positivity
  have hlt : |x - y| < 2 ^ n := by
    cases sg
    · rw [intRange_unsigned] at hx hy; rw [abs_lt]; simp only at hx hy; omega
    · rw [intRange_signed] at hx hy; rw [abs_lt]; simp only at hx hy; omega
  have hzero := Int.eq_zero_of_abs_lt_dvd ⟨k, hk⟩ hlt
  omega

/-- A number of the range stays as it is, without a flag. -/
theorem intFit_of_mem {n : Nat} (hn : 0 < n) (sg sat : Bool) {x : Int}
    (hx : (intRange n sg).1 ≤ x ∧ x ≤ (intRange n sg).2) : intFit n sg sat x = (x, 0) := by
  cases sat
  · exact Prod.ext (intRange_unique hn hx (intFit_wrap_mem hn sg x) (intFit_wrap_emod n sg x)).symm
      (intFit_wrap_flags n sg x)
  · rw [intFit_sat, min_eq_right hx.2, max_eq_right hx.1, if_pos rfl]

/-- Without `.sat` a number that is congruent to one of the range becomes that one. -/
theorem intFit_of_congr {n : Nat} (hn : 0 < n) (sg : Bool) {x y : Int}
    (hy : (intRange n sg).1 ≤ y ∧ y ≤ (intRange n sg).2) (h : (x - y) % 2 ^ n = 0) : intFit n sg false x = (y, 0) := by
  refine Prod.ext (intRange_unique hn (intFit_wrap_mem hn sg x) hy ?_) (intFit_wrap_flags n sg x)
  have hsum := Int.dvd_sub (Int.dvd_of_emod_eq_zero h) (Int.dvd_of_emod_eq_zero (intFit_wrap_emod n sg x))
  rw [sub_sub_sub_cancel_left] at hsum
  exact Int.emod_eq_zero_of_dvd hsum

/-- Settles O6: reduction gives the congruent number of the range, and the clamp sets SAT when it changes the value. -/
theorem integerRange : Obligations.IntegerRange := by
  intro t x _ lo hi
  have hrange : intRange t.bits t.isSigned = (lo, hi) := intRange_eq _ _
  refine ⟨⟨(intFit t.bits t.isSigned false x).1, ?_, ?_, intFit_wrap_emod _ _ x, ?_⟩, ?_⟩
  · simpa only [hrange] using (intFit_wrap_mem (bits_pos t) t.isSigned x).1
  · simpa only [hrange] using (intFit_wrap_mem (bits_pos t) t.isSigned x).2
  · simp only [Res.int, intFit_wrap_flags]
  · simp only [Res.int, intFit_sat, hrange]

/-! ## Division (R56) -/

theorem Res.int_of_mem (t : NumType) (sat : Bool) {x : Int}
    (hx : (intRange t.bits t.isSigned).1 ≤ x ∧ x ≤ (intRange t.bits t.isSigned).2) :
    Res.int t sat x = { val := BitVec.ofInt 64 x } := by
  simp only [Res.int, intFit_of_mem (bits_pos t) _ _ hx]

/-- The quotient by zero has all bits of the type set. -/
theorem divRes_zero (t : NumType) (sat : Bool) (a : Int) :
    divRes t sat a 0 = { val := if t.isSigned then BitVec.allOnes 64 else BitVec.ofInt 64 (2 ^ t.bits - 1), flags := fDZ } := by
  rw [divRes, if_pos rfl]
  have hpow := two_pow_pred_mul_two (bits_pos t)
  have hhalf : (0 : Int) < 2 ^ (t.bits - 1) := by positivity
  cases hsg : t.isSigned
  · have hfit : intFit t.bits false false (-1) = (2 ^ t.bits - 1, 0) := by
      refine intFit_of_congr (bits_pos t) false ?_ ?_
      · rw [intRange_unsigned]; simp only; omega
      · rw [show (-1 - (2 ^ t.bits - 1) : Int) = -(2 ^ t.bits) by ring, Int.neg_emod_self]
    simp only [Res.int, hsg, hfit, Bool.false_eq_true, if_false]
  · rw [Res.int_of_mem t false (by rw [hsg, intRange_signed]; simp only; omega)]
    rfl

theorem remRes_zero (t : NumType) {a : Int}
    (ha : (intRange t.bits t.isSigned).1 ≤ a ∧ a ≤ (intRange t.bits t.isSigned).2) :
    remRes t a 0 = { val := BitVec.ofInt 64 a, flags := fDZ } := by
  rw [remRes, if_pos rfl, Res.int_of_mem t false ha]

/-- The one quotient that leaves the range: the signed minimum by -1. -/
theorem divRes_min (t : NumType) (sat : Bool) (hsg : t.isSigned = true) :
    divRes t sat (-(2 ^ (t.bits - 1))) (-1)
      = if sat then { val := BitVec.ofInt 64 (2 ^ (t.bits - 1) - 1), flags := fSAT }
        else { val := BitVec.ofInt 64 (-(2 ^ (t.bits - 1))) } := by
  have hpow := two_pow_pred_mul_two (bits_pos t)
  have hhalf : (0 : Int) < 2 ^ (t.bits - 1) := by positivity
  have hquot : Int.tdiv (-(2 ^ (t.bits - 1))) (-1) = 2 ^ (t.bits - 1) := by
    rw [Int.neg_tdiv, Int.tdiv_neg, Int.tdiv_one, neg_neg]
  rw [divRes, if_neg (by decide), hquot, Res.int, hsg]
  cases sat
  · rw [intFit_of_congr (bits_pos t) true (y := -(2 ^ (t.bits - 1)))]
    · rfl
    · rw [intRange_signed]; simp only; omega
    · rw [sub_neg_eq_add, ← mul_two, ← hpow, Int.emod_self]
  · rw [intFit_sat, intRange_signed]
    simp only
    rw [min_eq_left (by omega), max_eq_right (by omega), if_neg (by omega)]
    rfl

theorem remRes_neg_one (t : NumType) (a : Int) : remRes t a (-1) = { val := 0 } := by
  rw [remRes, if_neg (by decide), Int.tmod_neg, Int.tmod_one, Res.int_of_mem t false (intRange_zero_mem _ _)]
  rfl

/-- Every other quotient lies in the range: it is no larger than the dividend, and half of it at most when the divisor is
neither 1 nor -1. -/
theorem tdiv_mem_intRange {n : Nat} {sg : Bool} {a b : Int} (ha : (intRange n sg).1 ≤ a ∧ a ≤ (intRange n sg).2)
    (hb : (intRange n sg).1 ≤ b) (hmin : ¬(sg = true ∧ a = (intRange n sg).1 ∧ b = -1)) :
    (intRange n sg).1 ≤ a.tdiv b ∧ a.tdiv b ≤ (intRange n sg).2 := by
  have habs : (a.tdiv b).natAbs = a.natAbs / b.natAbs := Int.natAbs_tdiv a b
  have hle : a.natAbs / b.natAbs ≤ a.natAbs := Nat.div_le_self _ _
  cases sg
  · rw [intRange_unsigned] at ha hb ⊢
    have hnonneg : 0 ≤ a.tdiv b := Int.tdiv_nonneg ha.1 hb
    simp only at ha hb ⊢
    omega
  · rw [intRange_signed] at ha hb hmin ⊢
    simp only [true_and] at ha hb hmin ⊢
    by_cases htop : a.tdiv b = 2 ^ (n - 1)
    · exfalso
      have hfull : a.natAbs / b.natAbs = a.natAbs := by omega
      have hpos : 0 < a.natAbs := by
        have : (0 : Int) < 2 ^ (n - 1) := by positivity
        omega
      have hone : b.natAbs = 1 := (Nat.div_eq_self.1 hfull).resolve_left hpos.ne'
      rcases Int.natAbs_eq b with hb1 | hb1 <;> rw [hone] at hb1
      · rw [hb1, Nat.cast_one, Int.tdiv_one] at htop
        omega
      · rw [hb1, Nat.cast_one, Int.tdiv_neg, Int.tdiv_one] at htop
        exact hmin ⟨by omega, hb1⟩
    · omega

/-- A remainder has the sign of the dividend. -/
theorem tmod_nonpos {a : Int} (b : Int) (ha : a ≤ 0) : a.tmod b ≤ 0 := by
  have hneg := Int.tmod_nonneg b (a := -a) (by omega)
  rw [Int.neg_tmod] at hneg
  omega

/-- A remainder lies between 0 and the dividend. -/
theorem tmod_mem_intRange {n : Nat} {sg : Bool} {a : Int} (b : Int) (ha : (intRange n sg).1 ≤ a ∧ a ≤ (intRange n sg).2) :
    (intRange n sg).1 ≤ a.tmod b ∧ a.tmod b ≤ (intRange n sg).2 := by
  have hzero := intRange_zero_mem n sg
  have habs : (a.tmod b).natAbs ≤ a.natAbs := by
    rw [Int.natAbs_tmod]; exact Nat.mod_le _ _
  have hpos : 0 ≤ a → 0 ≤ a.tmod b := Int.tmod_nonneg b
  have hneg : a ≤ 0 → a.tmod b ≤ 0 := tmod_nonpos b
  omega

/-- The facts of R56 about quotient and remainder. -/
theorem tmod_facts (a : Int) {b : Int} (hb : b ≠ 0) :
    (a.tmod b).natAbs < b.natAbs ∧ (0 ≤ a → 0 ≤ a.tmod b) ∧ (a ≤ 0 → a.tmod b ≤ 0) := by
  refine ⟨?_, Int.tmod_nonneg b, tmod_nonpos b⟩
  rw [Int.natAbs_tmod]
  exact Nat.mod_lt _ (Int.natAbs_pos.2 hb)

/-- Settles O8: the two corners, and otherwise a quotient and a remainder that lie in the range. -/
theorem division : Obligations.Division := by
  refine ⟨fun o m => ⟨.of_alu (fun _ => rfl) rfl fun r l => ?_, .of_alu (fun _ => rfl) rfl fun r l => ?_⟩, ?_⟩
  · unfold divRes; split <;> rfl
  · unfold remRes; split <;> rfl
  intro t sat a b _ lo hi hloa hahi hlob hbhi
  have hrange : intRange t.bits t.isSigned = (lo, hi) := intRange_eq _ _
  have ha : (intRange t.bits t.isSigned).1 ≤ a ∧ a ≤ (intRange t.bits t.isSigned).2 := by
    rw [hrange]; exact ⟨hloa, hahi⟩
  split
  next hb =>
    subst hb
    refine ⟨?_, remRes_zero t ha⟩
    rw [divRes_zero]
    cases hsg : t.isSigned <;> simp only [hi, hsg, Bool.false_eq_true, if_false, if_true]
  next hb =>
    split
    next hmin =>
      obtain ⟨hsg, rfl, rfl⟩ := hmin
      refine ⟨?_, remRes_neg_one t _⟩
      simp only [lo, hi, hsg, if_true]
      exact divRes_min t sat hsg
    next hmin =>
      have hquot := tdiv_mem_intRange ha (b := b) (by rw [hrange]; exact hlob) (by rw [hrange]; exact hmin)
      have hmod : a - b * a.tdiv b = a.tmod b := (Int.tmod_def a b).symm
      obtain ⟨hsmall, hpos, hneg⟩ := tmod_facts a hb
      rw [hmod, divRes, remRes, if_neg hb, if_neg hb, Res.int_of_mem t sat hquot,
        Res.int_of_mem t false (tmod_mem_intRange b ha)]
      exact ⟨rfl, rfl, hsmall, Int.natAbs_tdiv a b, hpos, hneg⟩

end Sys2Proof.Machine
end

section
/-! PROOFS. Codes, values and comparisons of symmetric level-index numbers (R64 to R74): obligation O17. -/

namespace Sys2Proof.Machine

/-! ## Codes and operands (R65) -/

/-- The code of an operand: its sign, `r`, and `x` in units of `2^-F`. -/
def sliCode (F : Nat) (n r : Bool) (x : Nat) : Nat :=
  (if n then 2 ^ (F + 4) else 0) + (if r then 2 ^ (F + 3) else 0) + x

/-- The `r` and the `x` of a nonzero operand: the levels are 1 to 7, and a one has `r` clear. -/
structure SliOperand (F : Nat) (r : Bool) (x : Nat) : Prop where
  ge : 2 ^ F ≤ x
  lt : x < 2 ^ (F + 3)
  one : r = true → x ≠ 2 ^ F

theorem two_pow_add_three (F : Nat) : 2 ^ (F + 3) = 8 * 2 ^ F := by rw [pow_add, mul_comm]; rfl

/-- The code as its two upper bits over the lower `F + 3`. -/
theorem sliCode_eq (F : Nat) (n r : Bool) (x : Nat) : sliCode F n r x = (2 * n.toNat + r.toNat) * 2 ^ (F + 3) + x := by
  have hpow : 2 ^ (F + 4) = 2 * 2 ^ (F + 3) := by ring
  rw [sliCode, hpow]
  cases n <;> cases r <;> simp only [Bool.toNat_true, Bool.toNat_false, Bool.false_eq_true, if_true, if_false] <;> ring

section
variable {F x : Nat} (n r : Bool) (hx : x < 2 ^ (F + 3))
include hx

theorem sliCode_mod : sliCode F n r x % 2 ^ (F + 3) = x := by
  rw [sliCode_eq, Nat.mul_add_mod', Nat.mod_eq_of_lt hx]

theorem sliCode_div : sliCode F n r x / 2 ^ (F + 3) = 2 * n.toNat + r.toNat := by
  rw [sliCode_eq, Nat.add_comm, Nat.add_mul_div_right _ _ (by positivity), Nat.div_eq_of_lt hx, Nat.zero_add]

theorem sliCode_r : (sliCode F n r x / 2 ^ (F + 3) % 2 == 1) = r := by
  rw [sliCode_div n r hx]; cases n <;> cases r <;> rfl

theorem sliCode_sign : (sliCode F n r x / 2 ^ (F + 4) % 2 == 1) = n := by
  rw [show F + 4 = (F + 3) + 1 from rfl, pow_succ, ← Nat.div_div_eq_div_mul, sliCode_div n r hx]
  cases n <;> cases r <;> rfl

theorem sdecode_sliCode : sdecode F (sliCode F n r x)
    = if x < 2 ^ F then (if r then .nar else .zero) else .val n (r && x != 2 ^ F) x := by
  simp only [sdecode, sliCode_mod n r hx, sliCode_r n r hx, sliCode_sign n r hx]

end

/-- A nonzero operand's code stands for it. -/
theorem SliOperand.sdecode_val {F : Nat} {r : Bool} {x : Nat} (h : SliOperand F r x) (n : Bool) :
    sdecode F (sliCode F n r x) = .val n r x := by
  have hr : (r && x != 2 ^ F) = r := by
    cases hr : r
    · rfl
    · simpa using h.one hr
  rw [sdecode_sliCode n r h.lt, if_neg (Nat.not_lt.2 h.ge), hr]

/-- The one with `r` set reads as the one without. -/
theorem sdecode_one (F : Nat) (n : Bool) : sdecode F (sliCode F n true (2 ^ F)) = .val n false (2 ^ F) := by
  rw [sdecode_sliCode n true (Nat.pow_lt_pow_right (by decide) (by omega)), if_neg (Nat.lt_irrefl _)]
  simp

/-- A code of level 0 stands for zero or NaR. -/
theorem sdecode_low {F x : Nat} (n r : Bool) (hx : x < 2 ^ F) :
    sdecode F (sliCode F n r x) = if r then .nar else .zero := by
  rw [sdecode_sliCode n r (hx.trans (Nat.pow_lt_pow_right (by decide) (by omega))), if_pos hx]

/-! ## The index of an operand (R66) -/

section
variable {F : Nat} {r : Bool} {x : Nat} (h : SliOperand F r x)
include h

theorem SliOperand.lt_eight : x < 8 * 2 ^ F := two_pow_add_three F ▸ h.lt

/-- Above one with `r` clear, and below one with `r` set; always within the range of the type. -/
theorem SliOperand.svMu_mem : sliMin F ≤ svMu F r x ∧ svMu F r x ≤ sliMax F
    ∧ (sliOne F ≤ svMu F r x ↔ r = false) := by
  have hge : (2 ^ F : Int) ≤ x := by exact_mod_cast h.ge
  have hlt : (x : Int) < 8 * 2 ^ F := by exact_mod_cast h.lt_eight
  unfold sliMin sliMax sliOne svMu sliOne
  cases hr : r
  · simp only [Bool.false_eq_true, if_false, iff_true]; omega
  · have hone : (x : Int) ≠ 2 ^ F := by exact_mod_cast h.one hr
    simp only [if_true, Bool.true_eq_false, iff_false]; omega

/-- The code of an operand's index is the operand's. -/
theorem SliOperand.sencode_svMu (n : Bool) : sencode F n (svMu F r x) = sliCode F n r x := by
  obtain ⟨hmin, hmax, hone⟩ := h.svMu_mem
  unfold sencode
  simp only
  rw [min_eq_right hmax, max_eq_right hmin, sliCode, Nat.add_assoc]
  congr 1
  cases r
  · rw [if_pos (hone.2 rfl)]
    simp [svMu]
  · rw [if_neg (by rw [hone]; simp)]
    simp [svMu]

/-- An exact result that is an operand: its code, and LUP or LDN by its level and the one before (R77, R288). -/
theorem SliOperand.sliValue_svMu (n : Bool) (l : Nat) : sliValue F [l] n (svMu F r x) true
    = (sliCode F n r x, if l < x / 2 ^ F then fLUP else if x / 2 ^ F < l then fLDN else 0) := by
  unfold sliValue
  simp only [h.sencode_svMu, sliCode_mod n r h.lt, List.isEmpty_cons, List.all_cons, List.all_nil, Bool.not_false,
    Bool.true_and, Bool.and_true, decide_eq_true_eq, if_true]
  by_cases hup : l < x / 2 ^ F
  · rw [if_pos hup, if_neg (Nat.lt_asymm hup), if_pos hup]; rfl
  · rw [if_neg hup, if_neg hup]; simp

theorem SliOperand.sliValue_same (n : Bool) : sliValue F [x / 2 ^ F] n (svMu F r x) true = (sliCode F n r x, 0) := by
  rw [h.sliValue_svMu, if_neg (Nat.lt_irrefl _), if_neg (Nat.lt_irrefl _)]

end

/-- The index tells operands apart. -/
theorem SliOperand.svMu_inj {F : Nat} {r1 r2 : Bool} {x1 x2 : Nat} (h1 : SliOperand F r1 x1) (h2 : SliOperand F r2 x2) :
    svMu F r1 x1 = svMu F r2 x2 ↔ r1 = r2 ∧ x1 = x2 := by
  refine ⟨fun he => ?_, fun ⟨hr, hx⟩ => hr ▸ hx ▸ rfl⟩
  have hr : r1 = r2 := by
    have := h1.svMu_mem.2.2.symm.trans (he ▸ h2.svMu_mem.2.2)
    revert this; cases r1 <;> cases r2 <;> simp
  subst hr
  cases r1
  · exact ⟨rfl, by simpa [svMu] using he⟩
  · exact ⟨rfl, by simpa [svMu] using he⟩

/-- The largest index is that of a code. -/
theorem sliOperand_max (F : Nat) : SliOperand F false (2 ^ (F + 3) - 1) where
  ge := by have := two_pow_add_three F; have := Nat.two_pow_pos F; omega
  lt := by have := Nat.two_pow_pos (F + 3); omega
  one := nofun

theorem sliMax_eq (F : Nat) : sliMax F = svMu F false (2 ^ (F + 3) - 1) := by
  simp [sliMax, svMu, two_pow_add_three, Nat.cast_sub (Nat.one_le_two_pow.trans (Nat.le_mul_of_pos_left _ _))]

theorem sencode_sliMax (F : Nat) (n : Bool) : sencode F n (sliMax F) = sliCode F n false (2 ^ (F + 3) - 1) := by
  rw [sliMax_eq, (sliOperand_max F).sencode_svMu]

theorem sliOperand_one (F : Nat) : SliOperand F false (2 ^ F) where
  ge := le_refl _
  lt := Nat.pow_lt_pow_right (by decide) (by omega)
  one := nofun

theorem sencode_sliOne (F : Nat) (n : Bool) : sencode F n (sliOne F) = sliCode F n false (2 ^ F) := by
  have h := (sliOperand_one F).sencode_svMu n
  simpa [svMu, sliOne] using h

/-- No index has the code of zero. -/
theorem sencode_ne_zero (F : Nat) (n : Bool) (mu : Int) : sencode F n mu ≠ 0 := by
  have hone : 0 < sliOne F := by unfold sliOne; positivity
  have hpow := Nat.two_pow_pos (F + 3)
  unfold sencode
  simp only
  generalize max (sliMin F) (min (sliMax F) mu) = m
  by_cases hm : sliOne F ≤ m
  · rw [if_pos hm]; omega
  · rw [if_neg hm]; omega

theorem sliValue_ne_zero (F : Nat) (lv : List Nat) (n : Bool) (mu : Int) (ex : Bool) : (sliValue F lv n mu ex).1 ≠ 0 :=
  sencode_ne_zero F n mu

/-! ## NaR and zero (R70, R289) -/

theorem sliAdd_nar_right (F : Nat) (y : SV) : sliAdd F y .nar = sliNar F false := by cases y <;> rfl

theorem sliMul_nar_right (F : Nat) (y : SV) : sliMul F y .nar = sliNar F false := by cases y <;> rfl

theorem sliDiv_nar_right (F : Nat) (y : SV) : sliDiv F y .nar = sliNar F false := by cases y <;> rfl

section
variable {F : Nat} {r : Bool} {x : Nat} (h : SliOperand F r x) (n : Bool)
include h

theorem SliOperand.sliAdd_zero : sliAdd F (.val n r x) .zero = (sliCode F n r x, 0) := h.sliValue_same n

theorem SliOperand.zero_sliAdd : sliAdd F .zero (.val n r x) = (sliCode F n r x, 0) := h.sliValue_same n

/-- A quotient by zero is the largest magnitude, with DZ, and LUP from a lower level. -/
theorem SliOperand.sliDiv_zero : sliDiv F (.val n r x) .zero
    = (sliCode F n false (2 ^ (F + 3) - 1), if x / 2 ^ F < 7 then fLUP ||| fDZ else fDZ) := by
  have hlt := h.lt_eight
  have hpow := Nat.two_pow_pos F
  have htop : (2 ^ (F + 3) - 1) / 2 ^ F = 7 := by
    rw [two_pow_add_three]
    exact Nat.div_eq_of_lt_le (by omega) (by omega)
  have hlevel : ¬7 < x / 2 ^ F := by
    rw [Nat.not_lt, ← Nat.lt_succ_iff, Nat.div_lt_iff_lt_mul hpow]
    exact hlt
  unfold sliDiv
  simp only [sliMax_eq, (sliOperand_max F).sliValue_svMu, htop, if_neg hlevel]
  split <;> simp

/-! ## Reciprocals, exponentials and logarithms (R71) -/

/-- A reciprocal has the same `x` and the other `r`; that of a one is the one itself. -/
theorem SliOperand.sliRcp_val : sliRcp F (.val n r x) = (sliCode F n (decide (x ≠ 2 ^ F) && !r) x, 0) := by
  have hswap : SliOperand F (decide (x ≠ 2 ^ F) && !r) x := ⟨h.ge, h.lt, by simp +contextual⟩
  have hmu : 2 * sliOne F - svMu F r x = svMu F (decide (x ≠ 2 ^ F) && !r) x := by
    cases hr : r
    · by_cases hone : x = 2 ^ F
      · simp [svMu, sliOne, hone]; ring
      · simp [svMu, hone]
    · simp [svMu]
  unfold sliRcp
  simp only [hmu]
  exact hswap.sliValue_same n

end

/-- The exponential of an operand with `r` clear below level 7 is one level up, below one for a negative operand. -/
theorem SliOperand.sliExp_val {F x : Nat} (h : SliOperand F false x) (hlow : x < 7 * 2 ^ F) (n : Bool) :
    sliExp F (.val n false x) = (sliCode F false n (x + 2 ^ F), fLUP) := by
  have hge := h.ge
  have hpow := Nat.two_pow_pos F
  have hup : SliOperand F n (x + 2 ^ F) :=
    ⟨by omega, by rw [two_pow_add_three]; omega, fun _ => by omega⟩
  have hmu : (if n then sliOne F - x else sliOne F + x) = svMu F n (x + 2 ^ F) := by
    cases n <;> simp [svMu, sliOne] <;> ring
  unfold sliExp
  simp only [Bool.not_false, if_true, if_pos hlow, hmu, hup.sliValue_svMu]
  rw [Nat.add_div_right x hpow, if_pos (Nat.lt_succ_self _)]

/-- The logarithm of an operand of level 2 or more is one level down, negative for one below one. -/
theorem SliOperand.sliLn_val {F x : Nat} {r : Bool} (h : SliOperand F r x) (hhigh : 2 * 2 ^ F ≤ x) :
    sliLn F (.val false r x) = (sliCode F r false (x - 2 ^ F), fLDN) := by
  have hlt := h.lt
  have hpow := Nat.two_pow_pos F
  have hdown : SliOperand F false (x - 2 ^ F) := ⟨by omega, by omega, nofun⟩
  have hmu : (x : Int) - sliOne F = svMu F false (x - 2 ^ F) := by
    simp [svMu, sliOne, Nat.cast_sub h.ge]
  have hlevel : (x - 2 ^ F) / 2 ^ F < x / 2 ^ F := by
    obtain ⟨y, rfl⟩ := Nat.exists_eq_add_of_le' h.ge
    rw [Nat.add_sub_cancel, Nat.add_div_right y hpow]
    exact Nat.lt_succ_self _
  unfold sliLn
  simp only [Bool.false_eq_true, if_false, if_pos hhigh, hmu, hdown.sliValue_svMu]
  rw [if_neg (Nat.lt_asymm hlevel), if_pos hlevel]

theorem sliLn_one (F : Nat) : sliLn F (.val false false (2 ^ F)) = (0, 0) := by
  have hpow := Nat.two_pow_pos F
  simp [sliLn, sliZero, show ¬2 * 2 ^ F ≤ 2 ^ F by omega]

/-! ## Sums (R70) -/

/-- A sum is zero exactly when its operands are opposite. -/
theorem SliOperand.sliAdd_eq_zero {F : Nat} {r1 r2 : Bool} {x1 x2 : Nat} (h1 : SliOperand F r1 x1) (h2 : SliOperand F r2 x2)
    (n1 n2 : Bool) : (sliAdd F (.val n1 r1 x1) (.val n2 r2 x2)).1 = 0 ↔ n1 ≠ n2 ∧ r1 = r2 ∧ x1 = x2 := by
  have hinj := h1.svMu_inj h2
  unfold sliAdd
  simp only
  by_cases hzero : svMu F r1 x1 = svMu F r2 x2 ∧ n1 ≠ n2
  · rw [if_pos (by simpa using hzero)]
    exact iff_of_true rfl ⟨hzero.2, hinj.1 hzero.1⟩
  · rw [if_neg (by simpa using hzero)]
    refine iff_of_false ?_ fun ⟨hn, hrx⟩ => hzero ⟨hinj.2 hrx, hn⟩
    split
    · exact sliValue_ne_zero _ _ _ _ _
    · exact sliValue_ne_zero _ _ _ _ _

/-! ## Conversions (R73) -/

/-- A one converts to the code of 1.0: the exponent field holds the bias. -/
theorem sliToF_one {F : Nat} {g : Fmt} (hg : g ∈ [fmtF64, fmtF32, fmtF16, fmtBF16]) (sat n : Bool) :
    sliToF F g sat (.val n false (2 ^ F)) = (signOf g n + g.bias * 2 ^ g.mb, 0) := by
  have hround : ∀ g ∈ [fmtF64, fmtF32, fmtF16, fmtBF16], ∀ sat n,
      fround g .rn sat n 1 0 false = (signOf g n + g.bias * 2 ^ g.mb, 0) := by decide +kernel
  simp only [sliToF, if_true]
  exact hround g hg sat n

/-- The widening of SLI16 appends 16 zero bits. -/
theorem SliOperand.sliResize_widen {r : Bool} {x : Nat} (h : SliOperand 11 r x) (n : Bool) :
    sliResize 11 27 (.val n r x) = (2 ^ 16 * sliCode 11 n r x, 0) := by
  obtain ⟨hge, hlt, hone⟩ := h
  have hwide : SliOperand 27 r (x * 2 ^ 16) := ⟨by omega, by omega, fun hr => by have := hone hr; omega⟩
  have hcode : sliCode 27 n r (x * 2 ^ 16) = 2 ^ 16 * sliCode 11 n r x := by
    simp only [sliCode_eq]; ring
  have hlevel : x / 2 ^ 11 = x * 2 ^ 16 / 2 ^ 27 := by omega
  simp only [sliResize, Nat.reduceLeDiff, if_true, Nat.reduceSub]
  rw [hlevel, hwide.sliValue_same, hcode]

/-! ## Order (R74) -/

/-- What a comparison compares: the index, moved up so that it is positive, with the sign of the value; zero for zero. -/
def SV.key (F : Nat) : SV → Int
  | .val n r x => signed n (svMu F r x + 8 * sliOne F).toNat
  | _ => 0

theorem SV.val_ne_nar (n r : Bool) (x : Nat) : SV.val n r x ≠ .nar := nofun

theorem SV.zero_ne_nar : SV.zero ≠ .nar := nofun

theorem sliCmp_nar (F : Nat) (c : Cmp) {a b : SV} (h : a = .nar ∨ b = .nar) : sliCmp F c a b = (c == .ne || c == .un) := by
  simp only [sliCmp, Bool.or_eq_true, decide_eq_true_eq, if_pos h]

theorem sliCmp_eq (F : Nat) {a b : SV} (ha : a ≠ .nar) (hb : b ≠ .nar) :
    sliCmp F .eq a b = decide (a.key F = b.key F) := by
  simp only [sliCmp, ha, hb, decide_false, Bool.or_self, Bool.false_eq_true, if_false]
  cases a <;> cases b <;> rfl

theorem sliCmp_lt (F : Nat) {a b : SV} (ha : a ≠ .nar) (hb : b ≠ .nar) :
    sliCmp F .lt a b = decide (a.key F < b.key F) := by
  simp only [sliCmp, ha, hb, decide_false, Bool.or_self, Bool.false_eq_true, if_false]
  cases a <;> cases b <;> rfl

/-- The size of a value among those of its sign. -/
theorem SliOperand.key_val {F : Nat} {r : Bool} {x : Nat} (h : SliOperand F r x) (n : Bool) :
    0 < svMu F r x + 8 * sliOne F
    ∧ SV.key F (.val n r x) = if n then -(svMu F r x + 8 * sliOne F) else svMu F r x + 8 * sliOne F := by
  have hmin := h.svMu_mem.1
  have hone : 0 < sliOne F := by unfold sliOne; positivity
  have hpos : 0 < svMu F r x + 8 * sliOne F := by
    unfold sliMin at hmin
    unfold sliOne at hone ⊢
    omega
  refine ⟨hpos, ?_⟩
  simp only [SV.key, signed, Int.toNat_of_nonneg hpos.le]

theorem SliOperand.sliCmp_lt_zero {F : Nat} {r : Bool} {x : Nat} (h : SliOperand F r x) (n : Bool) :
    sliCmp F .lt .zero (.val n r x) = !n ∧ sliCmp F .lt (.val n r x) .zero = n
    ∧ sliCmp F .eq .zero (.val n r x) = false := by
  obtain ⟨hpos, hkey⟩ := h.key_val n
  have hzero : SV.key F .zero = 0 := rfl
  have hval := SV.val_ne_nar n r x
  rw [sliCmp_lt F SV.zero_ne_nar hval, sliCmp_lt F hval SV.zero_ne_nar, sliCmp_eq F SV.zero_ne_nar hval, hkey, hzero]
  cases n
  · simp only [Bool.false_eq_true, if_false, decide_eq_true_eq, decide_eq_false_iff_not, Bool.not_false]; omega
  · simp only [if_true, decide_eq_true_eq, decide_eq_false_iff_not, Bool.not_true]; omega

section
variable {F : Nat} {r1 r2 : Bool} {x1 x2 : Nat} (h1 : SliOperand F r1 x1) (h2 : SliOperand F r2 x2)
include h1 h2

/-- Operands are equal when sign, `r` and `x` are. -/
theorem SliOperand.sliCmp_eq_val (n1 n2 : Bool) :
    sliCmp F .eq (.val n1 r1 x1) (.val n2 r2 x2) = decide (n1 = n2 ∧ r1 = r2 ∧ x1 = x2) := by
  obtain ⟨hpos1, hkey1⟩ := h1.key_val n1
  obtain ⟨hpos2, hkey2⟩ := h2.key_val n2
  rw [sliCmp_eq F (SV.val_ne_nar _ _ _) (SV.val_ne_nar _ _ _), hkey1, hkey2, decide_eq_decide, ← h1.svMu_inj h2]
  cases n1 <;> cases n2 <;> simp only [Bool.false_eq_true, if_false, if_true, true_and, false_and, iff_false,
    Bool.true_eq_false] <;> omega

/-- Operands of one sign lie in the order of their indices, or against it when they are negative. -/
theorem SliOperand.sliCmp_lt_val (n1 n2 : Bool) :
    sliCmp F .lt (.val n1 r1 x1) (.val n2 r2 x2) = match n1, n2 with
      | true, false => true
      | false, true => false
      | false, false => decide (svMu F r1 x1 < svMu F r2 x2)
      | true, true => decide (svMu F r2 x2 < svMu F r1 x1) := by
  obtain ⟨hpos1, hkey1⟩ := h1.key_val n1
  obtain ⟨hpos2, hkey2⟩ := h2.key_val n2
  rw [sliCmp_lt F (SV.val_ne_nar _ _ _) (SV.val_ne_nar _ _ _), hkey1, hkey2]
  cases n1 <;> cases n2 <;> simp only [Bool.false_eq_true, if_false, if_true, decide_eq_true_eq,
    decide_eq_false_iff_not, decide_eq_decide] <;> omega

end

/-! ## The obligation -/

/-- Settles O17: every clause is one about codes and indices of operands. -/
theorem sliResults : Obligations.SliResults := by
  refine ⟨fun o m => ?results, fun o m => .of_alu (fun _ => rfl) rfl fun _ _ => rfl,
    fun o m => .of_alu (fun _ => rfl) rfl fun _ _ => rfl, ?_⟩
  case results => and_intros <;> exact .of_alu (fun _ => rfl) rfl fun _ _ => rfl
  intro F _ n1 n2 r1 r2 x1 x2 hge1 hlt1 hge2 hlt2 hone1 hone2 code big nar bad a b size
  have h1 : SliOperand F r1 x1 := ⟨hge1, hlt1, hone1⟩
  have h2 : SliOperand F r2 x2 := ⟨hge2, hlt2, hone2⟩
  have hcmp := h1.sliCmp_lt_zero n1
  refine ⟨⟨h1.sdecode_val n1, sdecode_one F n1, fun x hx => sdecode_low n1 r1 hx⟩,
    fun y => ⟨rfl, sliAdd_nar_right F y, rfl, sliMul_nar_right F y, rfl, sliDiv_nar_right F y⟩, rfl, rfl, rfl,
    h1.sliAdd_eq_zero h2 n1 n2, rfl, h1.sliAdd_zero n1, h1.zero_sliAdd n1, rfl, rfl, rfl, rfl, rfl, h1.sliDiv_zero n1,
    congrArg (·, fDZ) (sencode_sliMax F false), h1.sliRcp_val n1, congrArg (·, 0) (sencode_sliOne F false), ?exp, rfl,
    fun hn => ?lnNegative, sliLn_one F, ?ln, fun _ => rfl, congrArg (·, fSAT) (sencode_sliMax F n1), fun _ => rfl,
    fun g hg sat => ⟨rfl, rfl, sliToF_one hg sat n1⟩, ?widen, ?nar, h1.sliCmp_eq_val h2 n1 n2, h1.sliCmp_lt_val h2 n1 n2,
    hcmp.1, hcmp.2.1, hcmp.2.2, rfl⟩
  case exp =>
    rintro rfl hlow
    exact h1.sliExp_val hlow n1
  case lnNegative =>
    subst hn
    rfl
  case ln =>
    rintro rfl hhigh
    exact h1.sliLn_val hhigh
  case widen =>
    rintro rfl
    exact ⟨h1.sliResize_widen n1, rfl, rfl⟩
  case nar =>
    intro y
    simp [sliCmp_nar]

end Sys2Proof.Machine
end

section
/-! PROOFS. One rounding (R52 to R54): `fround` gives what `IsRounded` says of the exact value. -/

namespace Sys2Proof.Machine

/-! ## Magnitudes of codes (R49) -/

/-- A code as an exponent step `e` and a significand `k`, which is a subnormal one in the lowest step only; the last `k` of a
step is the first of the next. -/
structure Fmt.Parts (f : Fmt) (e k : Nat) : Prop where
  le : k ≤ 2 ^ (f.mb + 1)
  low : e = 0 ∨ 2 ^ f.mb ≤ k

/-- The magnitude of a code in parts. -/
theorem Fmt.Parts.mag {f : Fmt} {e k : Nat} (h : f.Parts e k) :
    f.mag (e * 2 ^ f.mb + k) = k * 2 ^ ((e : Int) + 1 - f.bias - f.mb) := by
  obtain ⟨hle, hlow⟩ := h
  have hpow := Nat.two_pow_pos f.mb
  have hsucc : 2 ^ (f.mb + 1) = 2 * 2 ^ f.mb := by ring
  rcases Nat.lt_or_ge k (2 ^ f.mb) with hsub | hnormal
  · obtain rfl := hlow.resolve_right (Nat.not_le.2 hsub)
    simp [Fmt.mag, Nat.div_eq_of_lt hsub]
  · obtain ⟨j, rfl⟩ := Nat.exists_eq_add_of_le hnormal
    rcases Nat.lt_or_ge j (2 ^ f.mb) with hj | hj
    · have hdiv : (e * 2 ^ f.mb + (2 ^ f.mb + j)) / 2 ^ f.mb = e + 1 := by
        rw [show e * 2 ^ f.mb + (2 ^ f.mb + j) = j + (e + 1) * 2 ^ f.mb by ring, Nat.add_mul_div_right _ _ hpow,
          Nat.div_eq_of_lt hj, Nat.zero_add]
      have hmod : (e * 2 ^ f.mb + (2 ^ f.mb + j)) % 2 ^ f.mb = j := by
        rw [show e * 2 ^ f.mb + (2 ^ f.mb + j) = j + (e + 1) * 2 ^ f.mb by ring, Nat.add_mul_mod_self_right,
          Nat.mod_eq_of_lt hj]
      rw [Fmt.mag, hdiv, hmod, if_neg (by omega), max_eq_right (by omega)]
      push_cast
      ring_nf
    · obtain rfl : j = 2 ^ f.mb := by omega
      have hcode : e * 2 ^ f.mb + (2 ^ f.mb + 2 ^ f.mb) = (e + 2) * 2 ^ f.mb := by ring
      rw [Fmt.mag, hcode, Nat.mul_div_cancel _ hpow, Nat.mul_mod_left, if_neg (by omega), max_eq_right (by omega),
        show ((e + 2 : Nat) : Int) - f.bias - f.mb = ((e : Int) + 1 - f.bias - f.mb) + 1 by push_cast; ring,
        zpow_add_one₀ two_ne_zero]
      push_cast
      ring

/-- The code after one whose significand is not the last of its step. -/
theorem Fmt.Parts.mag_succ {f : Fmt} {e k : Nat} (h : f.Parts e k) (hk : k < 2 ^ (f.mb + 1)) :
    f.mag (e * 2 ^ f.mb + k + 1) = (k + 1) * 2 ^ ((e : Int) + 1 - f.bias - f.mb) := by
  have hnext : f.Parts e (k + 1) := ⟨hk, h.low.imp_right fun h => h.trans (Nat.le_succ k)⟩
  rw [Nat.add_assoc, hnext.mag]
  push_cast
  rfl

/-- Every code has parts, its significand not the last of its step. -/
theorem Fmt.exists_parts (f : Fmt) (c : Nat) : ∃ e k, c = e * 2 ^ f.mb + k ∧ f.Parts e k ∧ k < 2 ^ (f.mb + 1) := by
  have hpow := Nat.two_pow_pos f.mb
  have hsucc : 2 ^ (f.mb + 1) = 2 * 2 ^ f.mb := by ring
  have hmod := Nat.mod_lt c hpow
  have hsplit := Nat.div_add_mod' c (2 ^ f.mb)
  rcases Nat.eq_zero_or_pos (c / 2 ^ f.mb) with hzero | hpos
  · rw [hzero] at hsplit
    exact ⟨0, c, by omega, ⟨by omega, .inl rfl⟩, by omega⟩
  · obtain ⟨e, he⟩ := Nat.exists_eq_add_of_le' hpos
    rw [he, Nat.add_mul] at hsplit
    exact ⟨e, 2 ^ f.mb + c % 2 ^ f.mb, by omega, ⟨by omega, .inr (by omega)⟩, by omega⟩

/-- Magnitudes rise with their codes. -/
theorem Fmt.mag_strictMono (f : Fmt) : StrictMono f.mag := by
  refine strictMono_nat_of_lt_succ fun c => ?_
  obtain ⟨e, k, rfl, hparts, hk⟩ := f.exists_parts c
  rw [hparts.mag, hparts.mag_succ hk]
  have hpos : (0 : ℚ) < 2 ^ ((e : Int) + 1 - f.bias - f.mb) := by positivity
  linarith

theorem Fmt.mag_zero (f : Fmt) : f.mag 0 = 0 := by
  have hparts : f.Parts 0 0 := ⟨Nat.zero_le _, .inl rfl⟩
  simpa using hparts.mag

/-- The code at or below a magnitude is the only one. -/
theorem Fmt.code_unique {f : Fmt} {c d : Nat} {v : ℚ} (hc : f.mag c ≤ v ∧ v < f.mag (c + 1))
    (hd : f.mag d ≤ v ∧ v < f.mag (d + 1)) : c = d := by
  have h1 := f.mag_strictMono.lt_iff_lt.1 (hc.1.trans_lt hd.2)
  have h2 := f.mag_strictMono.lt_iff_lt.1 (hd.1.trans_lt hc.2)
  omega

/-! ## The rounded result -/

/-- What `IsRounded` gives for the code `c` at or below the magnitude. -/
def Fmt.roundedFrom (f : Fmt) (rnd : Rnd) (sat neg : Bool) (v : ℚ) (c : Nat) : FRes :=
  let k := if goesUp rnd neg (c % 2 == 1) (f.mag c) (f.mag (c + 1)) v then c + 1 else c
  let inf := rnd == .rn || rnd == .rna || (rnd == .ru && !neg) || (rnd == .rd && neg)
  if k ≤ f.maxCode then
    (signOf f neg + k, if f.mag c = v then 0 else if f.tiny rnd neg v then fUF ||| fNX else fNX)
  else if !f.hasInf || (sat && (inf || f == fmtE5M2)) then (signOf f neg + f.maxCode, fOF ||| fNX ||| fSAT)
  else (signOf f neg + (if inf then f.infCode else f.maxCode), fOF ||| fNX)

theorem isRounded_iff {f : Fmt} {rnd : Rnd} {sat neg : Bool} {v : ℚ} {r : FRes} {c : Nat} (hc : f.mag c ≤ v)
    (hv : v < f.mag (c + 1)) : IsRounded f rnd sat neg v r ↔ r = f.roundedFrom rnd sat neg v c := by
  refine ⟨fun h => h c hc hv, fun h d hd hd' => ?_⟩
  obtain rfl := Fmt.code_unique ⟨hc, hv⟩ ⟨hd, hd'⟩
  exact h

/-! ## The multiple of a power of two at or below a value -/

/-- `k` is the multiple of `2^q` at or below the value. -/
structure FloorAt (q : Int) (v : ℚ) (k : Nat) : Prop where
  le : k * 2 ^ q ≤ v
  lt : v < (k + 1) * 2 ^ q

theorem exists_floorAt {v : ℚ} (hv : 0 ≤ v) (q : Int) : ∃ k, FloorAt q v k := by
  have hpos : (0 : ℚ) < 2 ^ q := by positivity
  refine ⟨⌊v / 2 ^ q⌋₊, ?_, ?_⟩
  · exact (le_div_iff₀ hpos).1 (Nat.floor_le (by positivity))
  · exact (div_lt_iff₀ hpos).1 (Nat.lt_floor_add_one _)

section
variable {q : Int} {v : ℚ} {k : Nat} (h : FloorAt q v k)
include h

theorem FloorAt.two_pow_le {b : Nat} (hv : 2 ^ (q + b) ≤ v) : 2 ^ b ≤ k := by
  have hpos : (0 : ℚ) < 2 ^ q := by positivity
  have hlt := hv.trans_lt h.lt
  rw [add_comm, zpow_add₀ two_ne_zero, zpow_natCast, mul_lt_mul_iff_left₀ hpos] at hlt
  exact Nat.lt_succ_iff.1 (by exact_mod_cast hlt)

theorem FloorAt.lt_two_pow {b : Nat} (hv : v < 2 ^ (q + b)) : k < 2 ^ b := by
  have hpos : (0 : ℚ) < 2 ^ q := by positivity
  have hlt := h.le.trans_lt hv
  rw [add_comm, zpow_add₀ two_ne_zero, zpow_natCast, mul_lt_mul_iff_left₀ hpos] at hlt
  exact_mod_cast hlt

end

/-- The multiple that a value from the `k`-th up to the next is rounded to. -/
def roundedInt (rnd : Rnd) (neg : Bool) (q : Int) (v : ℚ) (k : Nat) : Nat :=
  if goesUp rnd neg (k % 2 == 1) (k * 2 ^ q) ((k + 1) * 2 ^ q) v then k + 1 else k

theorem roundedInt_le (rnd : Rnd) (neg : Bool) (q : Int) (v : ℚ) (k : Nat) : roundedInt rnd neg q v k ≤ k + 1 := by
  unfold roundedInt
  split <;> omega

/-! ## Rounding to a multiple of a power of two -/

/-- An integer, an exponent and a sticky bit stand for the value `v`: it is `m * 2^e` exactly, or it lies strictly between
that and the next multiple of `2^e`. -/
structure Approximates (m : Nat) (e : Int) (sticky : Bool) (v : ℚ) : Prop where
  le : m * 2 ^ e ≤ v
  lt : v < (m + 1) * 2 ^ e
  exact : sticky = false ↔ m * 2 ^ e = v

theorem Approximates.of_exact (m : Nat) (e : Int) : Approximates m e false (m * 2 ^ e) where
  le := le_refl _
  lt := by
    have : (0 : ℚ) < 2 ^ e := by positivity
    linarith
  exact := by simp

section
variable {m : Nat} {e : Int} {sticky : Bool} {v : ℚ} (h : Approximates m e sticky v)
include h

/-- A multiple of `2^e` lies above the value exactly when its integer lies above `m`. -/
theorem Approximates.lt_iff (n : Nat) : v < n * 2 ^ e ↔ m < n := by
  have hpos : (0 : ℚ) < 2 ^ e := by positivity
  refine ⟨fun hv => ?_, fun hm => h.lt.trans_le ?_⟩
  · exact_mod_cast lt_of_mul_lt_mul_right (h.le.trans_lt hv) hpos.le
  · exact mul_le_mul_of_nonneg_right (by exact_mod_cast hm) hpos.le

theorem Approximates.le_iff (n : Nat) : n * 2 ^ e ≤ v ↔ n ≤ m := by
  rw [← not_lt, h.lt_iff, not_lt]

theorem Approximates.eq_iff (n : Nat) : n * 2 ^ e = v ↔ n = m ∧ sticky = false := by
  have hpos : (0 : ℚ) < 2 ^ e := by positivity
  refine ⟨fun hv => ?_, fun ⟨hn, hs⟩ => hn ▸ h.exact.1 hs⟩
  have hle := (h.le_iff n).1 hv.le
  have hlt := (h.lt_iff (n + 1)).1 (by push_cast; linarith)
  obtain rfl : n = m := by omega
  exact ⟨rfl, h.exact.2 hv⟩

theorem Approximates.gt_iff (n : Nat) : n * 2 ^ e < v ↔ n < m ∨ n = m ∧ sticky = true := by
  rw [lt_iff_le_and_ne, h.le_iff, Ne, h.eq_iff, Nat.le_iff_lt_or_eq]
  cases sticky <;> simp; omega

end

/-- A value that is representable stays as it is. -/
theorem goesUp_self {lo hi : ℚ} (rnd : Rnd) (neg odd : Bool) (h : lo < hi) : goesUp rnd neg odd lo hi lo = false := by
  have hmid : lo < (lo + hi) / 2 := by linarith
  cases rnd <;> simp [goesUp, hmid, hmid.le, hmid.ne']

/-- The model's test of the dropped part and that of `goesUp` agree. -/
theorem roundsUp_eq_goesUp {half : Ordering} {exact : Bool} {lo hi v : ℚ} (rnd : Rnd) (neg odd : Bool) (hle : lo ≤ v)
    (hbelow : half = .lt → v < (lo + hi) / 2) (htie : half = .eq → (lo + hi) / 2 = v)
    (habove : half = .gt → (lo + hi) / 2 < v) (hexact : exact = true ↔ lo = v) :
    roundsUp rnd neg odd half exact = goesUp rnd neg odd lo hi v := by
  have hlt : decide (lo < v) = !exact := by
    cases exact
    · simpa using hle.lt_of_ne (by simpa using hexact)
    · simp [hexact.1 rfl]
  have hmid : decide ((lo + hi) / 2 < v) = (half == .gt) ∧ decide ((lo + hi) / 2 = v) = (half == .eq)
      ∧ decide ((lo + hi) / 2 ≤ v) = (half != .lt) := by
    cases half with
    | lt =>
      have h := hbelow rfl
      simp [h.le, h, h.ne']
    | eq => simp [htie rfl]
    | gt =>
      have h := habove rfl
      simp [h, h.ne, h.le]
  obtain ⟨hgt, heq, hge⟩ := hmid
  cases rnd <;> simp only [roundsUp, goesUp, hgt, heq, hge, hlt]

/-- An exact multiple of `2^q` stays as it is. -/
theorem roundAt_multiple {m : Nat} {e q : Int} {v : ℚ} (rnd : Rnd) (neg : Bool) (hv : m * 2 ^ e = v) (hqe : q ≤ e)
    {k : Nat} (hk : FloorAt q v k) :
    roundAt rnd neg m e q false = (roundedInt rnd neg q v k, decide (k * 2 ^ q = v)) := by
  obtain ⟨s, rfl⟩ := Int.le.dest hqe
  have hvq : (m * 2 ^ s : Nat) * 2 ^ q = v := by
    rw [← hv, zpow_add₀ two_ne_zero, zpow_natCast]
    push_cast
    ring
  have happrox := Approximates.of_exact (m * 2 ^ s) q
  rw [hvq] at happrox
  have hmk : m * 2 ^ s = k := by
    have h1 := (happrox.le_iff k).1 hk.le
    have h2 := (happrox.lt_iff (k + 1)).1 (by exact_mod_cast hk.lt)
    omega
  rw [hmk] at hvq
  have hup : roundsUp rnd neg (k % 2 == 1) .lt true = goesUp rnd neg (k % 2 == 1) (k * 2 ^ q) ((k + 1) * 2 ^ q) v :=
    roundsUp_eq_goesUp rnd neg _ hvq.le (fun _ => by have := hk.lt; linarith) (by simp) (by simp) (by simp [hvq])
  rw [roundAt, if_pos (by omega), show (q + s - q).toNat = s by omega, hmk, roundedInt, ← hup, decide_eq_true hvq]
  rfl

/-- A value between multiples of a coarser power of two goes to the one below or to the one above. -/
theorem roundAt_coarser {m : Nat} {e q : Int} {sticky : Bool} {v : ℚ} (rnd : Rnd) (neg : Bool)
    (hv : Approximates m e sticky v) (heq : e < q) {k : Nat} (hk : FloorAt q v k) :
    roundAt rnd neg m e q sticky = (roundedInt rnd neg q v k, decide (k * 2 ^ q = v)) := by
  obtain ⟨s, rfl⟩ := Int.le.dest (Int.add_one_le_of_lt heq)
  have hq : (2 : ℚ) ^ (e + 1 + s) = 2 * 2 ^ s * 2 ^ e := by
    rw [zpow_add₀ two_ne_zero, zpow_add_one₀ two_ne_zero, zpow_natCast]
    ring
  have hlow : (k : ℚ) * 2 ^ (e + 1 + s) = (k * (2 * 2 ^ s) : Nat) * 2 ^ e := by rw [hq]; push_cast; ring
  have hhigh : ((k : ℚ) + 1) * 2 ^ (e + 1 + s) = ((k + 1) * (2 * 2 ^ s) : Nat) * 2 ^ e := by rw [hq]; push_cast; ring
  have hmid : ((k : ℚ) * 2 ^ (e + 1 + s) + (k + 1) * 2 ^ (e + 1 + s)) / 2 = (k * (2 * 2 ^ s) + 2 ^ s : Nat) * 2 ^ e := by
    rw [hq]; push_cast; ring
  have hkm := (hv.le_iff _).1 (hlow ▸ hk.le)
  have hmk := (hv.lt_iff _).1 (hhigh ▸ hk.lt)
  have hdiv : m / (2 * 2 ^ s) = k := Nat.div_eq_of_lt_le hkm hmk
  have hmod : m = k * (2 * 2 ^ s) + m % (2 * 2 ^ s) := by
    have := Nat.div_add_mod' m (2 * 2 ^ s); rw [hdiv] at this; exact this.symm
  generalize hr : m % (2 * 2 ^ s) = r at hmod
  have hexact : (r == 0 && !sticky) = true ↔ (k : ℚ) * 2 ^ (e + 1 + s) = v := by
    rw [hlow, hv.eq_iff, Bool.and_eq_true, beq_iff_eq, Bool.not_eq_true']
    exact and_congr_left' (by omega)
  have hup : ∀ odd, roundsUp rnd neg odd (if r < 2 ^ s then .lt else if r = 2 ^ s && !sticky then .eq else .gt)
      (r == 0 && !sticky) = goesUp rnd neg odd (k * 2 ^ (e + 1 + s)) ((k + 1) * 2 ^ (e + 1 + s)) v := by
    intro odd
    by_cases hbelow : r < 2 ^ s
    · rw [if_pos hbelow]
      exact roundsUp_eq_goesUp rnd neg odd hk.le (fun _ => by rw [hmid, hv.lt_iff]; omega) (by simp) (by simp) hexact
    · by_cases htie : (r = 2 ^ s && !sticky) = true
      · rw [if_neg hbelow, if_pos htie]
        simp only [Bool.and_eq_true, decide_eq_true_eq, Bool.not_eq_true'] at htie
        exact roundsUp_eq_goesUp rnd neg odd hk.le (by simp)
          (fun _ => by rw [hmid, hv.eq_iff]; exact ⟨by omega, htie.2⟩) (by simp) hexact
      · rw [if_neg hbelow, if_neg htie]
        simp only [Bool.and_eq_true, decide_eq_true_eq, Bool.not_eq_true', not_and] at htie
        exact roundsUp_eq_goesUp rnd neg odd hk.le (by simp) (by simp) (fun _ => by rw [hmid, hv.gt_iff]; grind) hexact
  rw [roundAt, if_neg (by omega), show (e + 1 + s - e).toNat = s + 1 by omega]
  simp only [Nat.add_sub_cancel, pow_succ', hdiv, hr, hup]
  rw [Bool.eq_iff_iff.2 (hexact.trans decide_eq_true_iff.symm), roundedInt]

/-- Rounding to a multiple of `2^q` goes from the multiple below to that or to the next one. -/
theorem roundAt_eq {m : Nat} {e q : Int} {sticky : Bool} {v : ℚ} (rnd : Rnd) (neg : Bool) (hv : Approximates m e sticky v)
    (hsticky : sticky = true → e < q) {k : Nat} (hk : FloorAt q v k) :
    roundAt rnd neg m e q sticky = (roundedInt rnd neg q v k, decide (k * 2 ^ q = v)) := by
  by_cases heq : e < q
  · exact roundAt_coarser rnd neg hv heq hk
  · have hexact : sticky = false := by simpa using mt hsticky heq
    subst hexact
    exact roundAt_multiple rnd neg (hv.exact.1 rfl) (Int.not_lt.1 heq) hk

/-- Rounding to an integer. -/
theorem roundAt_integer {m k : Nat} {e : Int} (rnd : Rnd) (neg : Bool) (hlo : (k : ℚ) ≤ m * 2 ^ e)
    (hhi : (m : ℚ) * 2 ^ e < k + 1) : roundAt rnd neg m e 0 false
      = (if goesUp rnd neg (k % 2 == 1) k (k + 1) (m * 2 ^ e) then k + 1 else k, decide ((k : ℚ) = m * 2 ^ e)) := by
  have hk : FloorAt 0 (m * 2 ^ e) k := ⟨by simpa using hlo, by simpa using hhi⟩
  simpa only [roundedInt, zpow_zero, mul_one] using roundAt_eq rnd neg (.of_exact m e) nofun hk

/-! ## Lengths of integers -/

theorem bitLen_le_iff (m b : Nat) : bitLen m ≤ b ↔ m < 2 ^ b := by
  unfold bitLen
  by_cases hm : m = 0
  · simp [hm]
  · rw [if_neg hm, Nat.succ_le_iff, Nat.log2_lt hm]

theorem bitLen_pos {m : Nat} (hm : 0 < m) : 0 < bitLen m := by
  rw [← Nat.not_le, bitLen_le_iff]
  omega

/-- The leading bit of the integer bounds the value, whatever the sticky bit. -/
theorem Approximates.bounds {m : Nat} {e : Int} {sticky : Bool} {v : ℚ} (h : Approximates m e sticky v) (hm : 0 < m) :
    2 ^ (e + bitLen m - 1) ≤ v ∧ v < 2 ^ (e + bitLen m) := by
  obtain ⟨b, hb⟩ := Nat.exists_eq_add_of_le' (bitLen_pos hm)
  have hlow : 2 ^ b ≤ m := by
    rw [← Nat.not_lt, ← bitLen_le_iff]; omega
  have hhigh : m < 2 ^ (b + 1) := (bitLen_le_iff _ _).1 hb.le
  rw [hb, show e + (b + 1 : Nat) - 1 = b + e by push_cast; ring, show e + (b + 1 : Nat) = (b + 1 : Nat) + e by ring,
    zpow_add₀ two_ne_zero, zpow_add₀ two_ne_zero, zpow_natCast, zpow_natCast]
  have h1 := (h.le_iff _).2 hlow
  have h2 := (h.lt_iff _).2 hhigh
  push_cast at h1 h2
  exact ⟨h1, h2⟩

/-! ## Tiny values (R53) -/

/-- The largest number of the precision below the smallest normal one is less by one unit of that precision. -/
theorem Fmt.tiny_eq (f : Fmt) (rnd : Rnd) (neg : Bool) (v : ℚ) :
    f.tiny rnd neg v = (decide (v < 2 ^ (1 - (f.bias : Int)) - 2 ^ (-(f.bias : Int) - f.mb))
      || (decide (v < 2 ^ (1 - (f.bias : Int)))
        && !goesUp rnd neg true (2 ^ (1 - (f.bias : Int)) - 2 ^ (-(f.bias : Int) - f.mb)) (2 ^ (1 - (f.bias : Int))) v)) := by
  have hunit : (2 : ℚ) ^ (1 - (f.bias : Int)) / 2 ^ (f.mb + 1) = 2 ^ (-(f.bias : Int) - f.mb) := by
    rw [← zpow_natCast, ← zpow_sub₀ two_ne_zero]
    congr 1
    push_cast
    ring
  simp only [Fmt.tiny, hunit]

theorem Fmt.tiny_of_ge {f : Fmt} {v : ℚ} (hv : 2 ^ (1 - (f.bias : Int)) ≤ v) (rnd : Rnd) (neg : Bool) :
    f.tiny rnd neg v = false := by
  have hunit : (0 : ℚ) < 2 ^ (-(f.bias : Int) - f.mb) := by positivity
  rw [Fmt.tiny_eq, decide_eq_false (not_lt.2 hv), Bool.false_and, Bool.or_false, decide_eq_false_iff_not]
  linarith

theorem Fmt.tiny_of_lt_half {f : Fmt} {v : ℚ} (hv : v < 2 ^ (-(f.bias : Int))) (rnd : Rnd) (neg : Bool) :
    f.tiny rnd neg v = true := by
  have hunit : (2 : ℚ) ^ (-(f.bias : Int) - f.mb) ≤ 2 ^ (-(f.bias : Int)) := zpow_le_zpow_right₀ one_le_two (by omega)
  have hleast : (2 : ℚ) ^ (1 - (f.bias : Int)) = 2 * 2 ^ (-(f.bias : Int)) := by
    rw [show 1 - (f.bias : Int) = -f.bias + 1 by ring, zpow_add_one₀ two_ne_zero, mul_comm]
  rw [Fmt.tiny_eq, decide_eq_true (by linarith), Bool.true_or]

/-- From half the smallest normal number up to it, a value is tiny when it does not round up to that number. -/
theorem Fmt.tiny_of_floorAt {f : Fmt} {v : ℚ} {k : Nat} (hk : FloorAt (-(f.bias : Int) - f.mb) v k)
    (hlt : k < 2 ^ (f.mb + 1)) (rnd : Rnd) (neg : Bool) :
    f.tiny rnd neg v = decide (roundedInt rnd neg (-(f.bias : Int) - f.mb) v k < 2 ^ (f.mb + 1)) := by
  have hunit : (0 : ℚ) < 2 ^ (-(f.bias : Int) - f.mb) := by positivity
  have hleast : (2 : ℚ) ^ (1 - (f.bias : Int)) = (2 ^ (f.mb + 1) : Nat) * 2 ^ (-(f.bias : Int) - f.mb) := by
    rw [show 1 - (f.bias : Int) = (f.mb + 1 : Nat) + (-f.bias - f.mb) by push_cast; ring, zpow_add₀ two_ne_zero, zpow_natCast]
    push_cast
    rfl
  have hsucc : (k : ℚ) + 1 ≤ (2 ^ (f.mb + 1) : Nat) := by exact_mod_cast hlt
  have hbelow := hk.lt.trans_le (mul_le_mul_of_nonneg_right hsucc hunit.le)
  rw [Fmt.tiny_eq, hleast, decide_eq_true hbelow, Bool.true_and]
  rcases Nat.lt_or_ge (k + 1) (2 ^ (f.mb + 1)) with hinner | hlast
  · have hnext : (k : ℚ) + 1 ≤ (2 ^ (f.mb + 1) : Nat) - 1 := by
      rw [le_sub_iff_add_le]
      exact_mod_cast hinner
    have hv := hk.lt.trans_le (mul_le_mul_of_nonneg_right hnext hunit.le)
    rw [sub_mul, one_mul] at hv
    have hle := roundedInt_le rnd neg (-(f.bias : Int) - f.mb) v k
    rw [decide_eq_true hv, Bool.true_or, eq_comm, decide_eq_true_eq]
    omega
  · have hpow : 2 ^ (f.mb + 1) = k + 1 := by omega
    have hodd : (k % 2 == 1) = true := by
      rw [pow_succ] at hpow
      rw [beq_iff_eq]
      omega
    have hv : ¬v < ((k + 1 : Nat) : ℚ) * 2 ^ (-(f.bias : Int) - f.mb) - 2 ^ (-(f.bias : Int) - f.mb) := by
      have := hk.le
      push_cast
      linarith
    rw [hpow, decide_eq_false hv, Bool.false_or, roundedInt, hodd]
    push_cast
    rw [add_mul, one_mul, add_sub_cancel_right]
    cases goesUp rnd neg true (k * 2 ^ (-(f.bias : Int) - f.mb))
      (k * 2 ^ (-(f.bias : Int) - f.mb) + 2 ^ (-(f.bias : Int) - f.mb)) v <;> simp

/-- The model's test for a tiny value rounds at the precision of the format as though exponents went on below. -/
theorem Approximates.tiny_eq {f : Fmt} {m : Nat} {e : Int} {sticky : Bool} {v : ℚ} (h : Approximates m e sticky v)
    (hm : 0 < m) (hsticky : sticky = true → f.mb + 2 ≤ bitLen m) (rnd : Rnd) (neg : Bool) :
    (decide (e + bitLen m - 1 < 1 - (f.bias : Int))
      && decide ((bitLen (roundAt rnd neg m e (e + bitLen m - 1 - f.mb) sticky).1 : Int) + (e + bitLen m - 1 - f.mb) - 1
          < 1 - (f.bias : Int))) = f.tiny rnd neg v := by
  obtain ⟨hlow, hhigh⟩ := h.bounds hm
  generalize htop : e + bitLen m - 1 = top at *
  rw [show e + (bitLen m : Int) = top + 1 by omega] at hhigh
  obtain ⟨k, hk⟩ := exists_floorAt (le_trans (by positivity) hlow) (top - f.mb)
  have hlt : k < 2 ^ (f.mb + 1) := hk.lt_two_pow (by rwa [show top - f.mb + (f.mb + 1 : Nat) = top + 1 by push_cast; ring])
  rw [roundAt_eq rnd neg h (fun hs => by have := hsticky hs; omega) hk]
  dsimp only
  rcases lt_trichotomy top (-(f.bias : Int)) with hless | rfl | hmore
  · have hhalf : v < 2 ^ (-(f.bias : Int)) := hhigh.trans_le (zpow_le_zpow_right₀ one_le_two (by omega))
    have hlen : bitLen (roundedInt rnd neg (top - f.mb) v k) ≤ f.mb + 2 := by
      have := roundedInt_le rnd neg (top - f.mb) v k
      rw [bitLen_le_iff, pow_succ]
      omega
    rw [Fmt.tiny_of_lt_half hhalf, Bool.and_eq_true, decide_eq_true_eq, decide_eq_true_eq]
    omega
  · rw [Fmt.tiny_of_floorAt hk hlt, decide_eq_true (by omega), Bool.true_and, decide_eq_decide, ← bitLen_le_iff]
    omega
  · rw [Fmt.tiny_of_ge ((zpow_le_zpow_right₀ one_le_two (by omega)).trans hlow), decide_eq_false (by omega), Bool.false_and]

/-! ## One rounding -/

/-- What the rounding of the model uses of its formats: the fraction has a bit, and of the formats with two E5M2 is the
one. -/
structure Fmt.Usual (f : Fmt) : Prop where
  mb : 0 < f.mb
  e5m2 : f.mb = 2 ↔ f = fmtE5M2

theorem Fmt.usual_of_mem : ∀ f ∈ [fmtF64, fmtF32, fmtF16, fmtBF16, fmtE5M2, fmtE4M3, fmtE2M1], f.Usual := by
  have h : ∀ f ∈ [fmtF64, fmtF32, fmtF16, fmtBF16, fmtE5M2, fmtE4M3, fmtE2M1],
      0 < f.mb ∧ (f.mb = 2 ↔ f = fmtE5M2) := by decide
  exact fun f hf => ⟨(h f hf).1, (h f hf).2⟩

/-- The overflowed result is that of `Fmt.roundedFrom`. -/
theorem Fmt.Usual.roundedFrom {f : Fmt} (hf : f.Usual) (rnd : Rnd) (sat neg : Bool) (v : ℚ) (c : Nat) :
    f.roundedFrom rnd sat neg v c =
      let k := if goesUp rnd neg (c % 2 == 1) (f.mag c) (f.mag (c + 1)) v then c + 1 else c
      if f.maxCode < k then foverflow f rnd sat neg
      else (signOf f neg + k, if f.mag c = v then 0 else if f.tiny rnd neg v then fNX ||| fUF else fNX) := by
  have haway : (rnd == .rn || rnd == .rna || (rnd == .ru && !neg) || (rnd == .rd && neg)) = roundsAway rnd neg := by
    cases rnd <;> cases neg <;> rfl
  have he5m2 : (f == fmtE5M2) = (f.mb == 2) := by
    rw [Bool.eq_iff_iff, beq_iff_eq, beq_iff_eq, hf.e5m2]
  simp only [Fmt.roundedFrom, foverflow, haway, he5m2, ← Nat.not_lt, ite_not]
  rfl

/-- The model's rounding goes from the code below the value. -/
theorem fround_eq {f : Fmt} (hf : f.Usual) {m : Nat} {e : Int} {sticky : Bool} {v : ℚ} (h : Approximates m e sticky v)
    (hm : 0 < m) (hsticky : sticky = true → f.mb + 2 ≤ bitLen m) (rnd : Rnd) (sat neg : Bool) :
    ∃ c, f.mag c ≤ v ∧ v < f.mag (c + 1) ∧ fround f rnd sat neg m e sticky = f.roundedFrom rnd sat neg v c := by
  obtain ⟨hlow, hhigh⟩ := h.bounds hm
  have htiny := h.tiny_eq hm hsticky rnd neg
  generalize htop : e + bitLen m - 1 = top at *
  rw [show e + (bitLen m : Int) = top + 1 by omega] at hhigh
  obtain ⟨step, hstep⟩ : ∃ step : Nat, max (top - f.mb) (1 - (f.bias : Int) - f.mb) = step + 1 - f.bias - f.mb :=
    ⟨(max (top - f.mb) (1 - (f.bias : Int) - f.mb) + f.mb + f.bias - 1).toNat, by omega⟩
  generalize hq : max (top - f.mb) (1 - (f.bias : Int) - f.mb) = q at *
  obtain ⟨k, hk⟩ := exists_floorAt (le_trans (by positivity) hlow) q
  have hlt : k < 2 ^ (f.mb + 1) := hk.lt_two_pow (hhigh.trans_le (zpow_le_zpow_right₀ one_le_two (by push_cast; omega)))
  have hparts : f.Parts step k := by
    refine ⟨hlt.le, or_iff_not_imp_left.2 fun hpos => hk.two_pow_le ?_⟩
    rwa [show q + f.mb = top by omega]
  have hmag : f.mag (step * 2 ^ f.mb + k) = k * 2 ^ q := hstep ▸ hparts.mag
  have hmag' : f.mag (step * 2 ^ f.mb + k + 1) = (k + 1) * 2 ^ q := hstep ▸ hparts.mag_succ hlt
  refine ⟨step * 2 ^ f.mb + k, hmag ▸ hk.le, hmag' ▸ hk.lt, ?_⟩
  have hparity : (step * 2 ^ f.mb + k) % 2 = k % 2 := by
    obtain ⟨b, hb⟩ := Nat.exists_eq_add_of_le' hf.mb
    rw [hb, pow_succ, ← Nat.mul_assoc, Nat.mul_add_mod']
  have hcode : ∀ k, (q + f.mb + f.bias).toNat * 2 ^ f.mb + k - 2 ^ f.mb = step * 2 ^ f.mb + k := by
    intro k
    rw [show (q + f.mb + f.bias).toNat = step + 1 by omega, Nat.add_mul]
    omega
  rw [hf.roundedFrom, hmag, hmag', hparity]
  unfold fround
  simp only [htop, hq, htiny, roundAt_eq rnd neg h (fun hs => by have := hsticky hs; omega) hk, roundedInt, hcode]
  simp only [hm.ne', decide_false, Bool.false_and, Bool.false_eq_true, if_false, decide_eq_true_eq]
  cases goesUp rnd neg (k % 2 == 1) (k * 2 ^ q) ((k + 1) * 2 ^ q) v <;> rfl

/-- `fround` rounds once what an integer, an exponent and a sticky bit stand for; a sticky integer needs two bits more than
the format's fraction. -/
theorem fround_isRounded {f : Fmt} (hf : f.Usual) {m : Nat} {e : Int} {sticky : Bool} {v : ℚ}
    (h : Approximates m e sticky v) (hm : 0 < m) (hsticky : sticky = true → f.mb + 2 ≤ bitLen m)
    (rnd : Rnd) (sat neg : Bool) : IsRounded f rnd sat neg v (fround f rnd sat neg m e sticky) := by
  obtain ⟨c, hle, hlt, hround⟩ := fround_eq hf h hm hsticky rnd sat neg
  exact (isRounded_iff hle hlt).2 hround

/-- A finite nonzero value is rounded once. -/
theorem fround_exact_isRounded {f : Fmt} (hf : f.Usual) {m : Nat} (hm : 0 < m) (e : Int) (rnd : Rnd) (sat neg : Bool) :
    IsRounded f rnd sat neg (m * 2 ^ e) (fround f rnd sat neg m e false) :=
  fround_isRounded hf (.of_exact m e) hm nofun rnd sat neg

@[simp] theorem fround_zero (f : Fmt) (rnd : Rnd) (sat neg : Bool) (e : Int) :
    fround f rnd sat neg 0 e false = (signOf f neg, 0) := rfl

end Sys2Proof.Machine
end

section
/-! PROOFS. Floating-point sums, products, comparisons, classes and roundings (R52 to R54, R272 to R277): obligation O14. -/

namespace Sys2Proof.Machine

/-- The formats of the arithmetic instructions. -/
def arithFmts : List Fmt := [fmtF64, fmtF32, fmtF16, fmtBF16]

theorem Fmt.usual_of_arith {f : Fmt} (hf : f ∈ arithFmts) : f.Usual :=
  f.usual_of_mem (List.mem_append_left [fmtE5M2, fmtE4M3, fmtE2M1] hf)

@[simp] theorem FV.isSig_fin (n : Bool) (m : Nat) (e : Int) : (FV.fin n m e).isSig = false := rfl

@[simp] theorem FV.isSig_inf (n : Bool) : (FV.inf n).isSig = false := rfl

@[simp] theorem FV.isSig_nan (s : Bool) : (FV.nan s).isSig = s := rfl

theorem FV.isSig_of_not_isNaN {x : FV} (h : x.isNaN = false) : x.isSig = false := by
  cases x with
  | nan s => cases h
  | inf n => rfl
  | fin n m e => rfl

theorem FV.eq_quiet {x : FV} (hsig : x.isSig = false) (hnan : x.isNaN = true) : x = .nan false := by
  cases x with
  | nan s => exact congrArg FV.nan hsig
  | inf n => cases hnan
  | fin n m e => cases hnan

/-! ## Finite sums and products (R272) -/

theorem signed_cast (n : Bool) (m : Nat) : (signed n m : ℚ) = (if n then -1 else 1) * m := by
  cases n <;> simp [signed]

/-- The exact sum is the sum of the values. -/
theorem addExact_value (n1 n2 : Bool) (m1 m2 : Nat) (e1 e2 : Int) :
    ((addExact n1 m1 e1 n2 m2 e2).1 : ℚ) * 2 ^ (addExact n1 m1 e1 n2 m2 e2).2
      = (FV.fin n1 m1 e1).value + (FV.fin n2 m2 e2).value := by
  have hshift : ∀ e : Int, min e1 e2 ≤ e → (2 : ℚ) ^ (e - min e1 e2).toNat * 2 ^ min e1 e2 = 2 ^ e := by
    intro e he
    rw [← zpow_natCast, ← zpow_add₀ two_ne_zero]
    congr 1
    omega
  simp only [addExact, FV.value]
  push_cast
  rw [signed_cast, signed_cast, add_mul, mul_assoc, hshift e1 (by omega), mul_assoc (_ * (m2 : ℚ)), hshift e2 (by omega)]

theorem mulExact_value (n1 n2 : Bool) (m1 m2 : Nat) (e1 e2 : Int) :
    (FV.fin (n1 != n2) (m1 * m2) (e1 + e2)).value = (FV.fin n1 m1 e1).value * (FV.fin n2 m2 e2).value := by
  simp only [FV.value, zpow_add₀ (two_ne_zero (α := ℚ))]
  cases n1 <;> cases n2 <;> push_cast <;> simp <;> ring

/-- A finite value is zero when its integer is. -/
theorem FV.value_eq_zero_iff (n : Bool) (m : Nat) (e : Int) : (FV.fin n m e).value = 0 ↔ m = 0 := by
  have hpow : (2 : ℚ) ^ e ≠ 0 := by positivity
  cases n <;> simp [FV.value, hpow]

/-- The sign and the magnitude of a nonzero finite value. -/
theorem FV.value_eq_signed {n neg : Bool} {m : Nat} {e : Int} {v : ℚ} (hv : 0 < v)
    (h : (FV.fin n m e).value = if neg then -v else v) : n = neg ∧ 0 < m ∧ m * 2 ^ e = v := by
  have hpow : (0 : ℚ) < 2 ^ e := by positivity
  have hmag : (0 : ℚ) ≤ m * 2 ^ e := by positivity
  have hm : 0 < m := by
    rw [Nat.pos_iff_ne_zero, Ne, ← FV.value_eq_zero_iff n m e, h]
    cases neg <;> simp [hv.ne']
  cases n <;> cases neg <;> simp only [FV.value, Bool.false_eq_true, if_false, if_true] at h
  · exact ⟨rfl, hm, by linarith⟩
  · linarith
  · linarith
  · exact ⟨rfl, hm, by linarith⟩

/-- A nonzero finite value is rounded once. -/
theorem froundV_isRounded {f : Fmt} (hf : f.Usual) (rnd : Rnd) (sat : Bool) {n neg : Bool} {m : Nat} {e : Int} {v : ℚ}
    (hv : 0 < v) (h : (FV.fin n m e).value = if neg then -v else v) :
    IsRounded f rnd sat neg v (froundV f rnd sat (.fin n m e)) := by
  obtain ⟨rfl, hm, rfl⟩ := FV.value_eq_signed hv h
  exact fround_exact_isRounded hf hm e rnd sat n

/-- The exact sum as a value. -/
theorem addExact_fin_value (z : Int) (e : Int) : (FV.fin (decide (z < 0)) z.natAbs e).value = z * 2 ^ e := by
  rcases lt_or_ge z 0 with hz | hz
  · rw [FV.value, decide_eq_true hz, if_pos rfl, Nat.cast_natAbs, abs_of_neg hz]
    push_cast
    ring
  · rw [FV.value, decide_eq_false (not_lt.2 hz), if_neg (by simp), Nat.cast_natAbs, abs_of_nonneg hz, one_mul]

section
variable {f : Fmt} (rnd : Rnd) (sat n1 n2 : Bool) (m1 m2 : Nat) (e1 e2 : Int)

theorem fadd_fin : fadd f rnd sat (.fin n1 m1 e1) (.fin n2 m2 e2)
    = if (addExact n1 m1 e1 n2 m2 e2).1 = 0 then
        (if n1 = n2 then (signOf f n1, 0) else (signOf f (rnd == .rd), 0))
      else froundV f rnd sat (.fin (decide ((addExact n1 m1 e1 n2 m2 e2).1 < 0)) (addExact n1 m1 e1 n2 m2 e2).1.natAbs
        (addExact n1 m1 e1 n2 m2 e2).2) := rfl

/-- A nonzero sum is rounded once. -/
theorem fadd_isRounded (hf : f.Usual) (neg : Bool) (v : ℚ) (hv : 0 < v)
    (h : (FV.fin n1 m1 e1).value + (FV.fin n2 m2 e2).value = if neg then -v else v) :
    IsRounded f rnd sat neg v (fadd f rnd sat (.fin n1 m1 e1) (.fin n2 m2 e2)) := by
  rw [← addExact_value] at h
  have hz : (addExact n1 m1 e1 n2 m2 e2).1 ≠ 0 := by
    intro hz
    rw [hz] at h
    cases neg <;> simp at h <;> linarith
  rw [fadd_fin, if_neg hz]
  rw [← addExact_fin_value] at h
  exact froundV_isRounded hf rnd sat hv h

/-- A zero sum has the sign of its equal-signed operands, or that of the mode. -/
theorem fadd_zero (h : (FV.fin n1 m1 e1).value + (FV.fin n2 m2 e2).value = 0) :
    fadd f rnd sat (.fin n1 m1 e1) (.fin n2 m2 e2) = (signOf f (if n1 = n2 then n1 else rnd == .rd), 0) := by
  have hz : (addExact n1 m1 e1 n2 m2 e2).1 = 0 := by
    have hpow : (2 : ℚ) ^ (addExact n1 m1 e1 n2 m2 e2).2 ≠ 0 := by positivity
    rw [← addExact_value] at h
    exact_mod_cast (mul_eq_zero.1 h).resolve_right hpow
  rw [fadd_fin, if_pos hz]
  split <;> rfl

theorem fmul_fin : fmul f rnd sat (.fin n1 m1 e1) (.fin n2 m2 e2)
    = froundV f rnd sat (.fin (n1 != n2) (m1 * m2) (e1 + e2)) := rfl

theorem ffma_fin (z : FV) (hz : z.isSig = false) : ffma f rnd sat (.fin n1 m1 e1) (.fin n2 m2 e2) z
    = fadd f rnd sat (.fin (n1 != n2) (m1 * m2) (e1 + e2)) z := by
  rw [ffma, if_neg (by simp [hz])]
  rfl

theorem fmul_zero (h : (FV.fin n1 m1 e1).value * (FV.fin n2 m2 e2).value = 0) :
    fmul f rnd sat (.fin n1 m1 e1) (.fin n2 m2 e2) = (signOf f (n1 != n2), 0) := by
  rw [← mulExact_value, FV.value_eq_zero_iff] at h
  rw [fmul_fin, h]
  rfl

end

/-! ## Special operands (R53) -/

section
variable (f : Fmt) (rnd : Rnd) (sat : Bool) (x y z : FV)

theorem fadd_sig (h : (x.isSig || y.isSig) = true) : fadd f rnd sat x y = (f.nanCode, fIV) := by
  unfold fadd
  rw [if_pos h]
  rfl

theorem fmul_sig (h : (x.isSig || y.isSig) = true) : fmul f rnd sat x y = (f.nanCode, fIV) := by
  rw [fmul, if_pos h]
  rfl

theorem ffma_sig (h : (x.isSig || y.isSig || z.isSig) = true) : ffma f rnd sat x y z = (f.nanCode, fIV) := by
  rw [ffma, if_pos h]
  rfl

theorem fadd_quiet (hsig : (x.isSig || y.isSig) = false) (h : (x.isNaN || y.isNaN) = true) :
    fadd f rnd sat x y = (f.nanCode, 0) := by
  rw [Bool.or_eq_false_iff] at hsig
  obtain ⟨hx, hy⟩ := hsig
  rcases Bool.or_eq_true_iff.1 h with hnan | hnan
  · obtain rfl := FV.eq_quiet hx hnan
    unfold fadd
    rw [if_neg (by simp [hy])]
    rfl
  · obtain rfl := FV.eq_quiet hy hnan
    unfold fadd
    rw [if_neg (by simp [hx])]
    cases x <;> rfl

theorem fmul_quiet (hsig : (x.isSig || y.isSig) = false) (h : (x.isNaN || y.isNaN) = true) :
    fmul f rnd sat x y = (f.nanCode, 0) := by
  rw [Bool.or_eq_false_iff] at hsig
  obtain ⟨hx, hy⟩ := hsig
  rcases Bool.or_eq_true_iff.1 h with hnan | hnan
  · obtain rfl := FV.eq_quiet hx hnan
    rw [fmul, if_neg (by simp [hy])]
    rfl
  · obtain rfl := FV.eq_quiet hy hnan
    rw [fmul, if_neg (by simp [hx])]
    cases x with
    | nan s =>
      obtain rfl : s = false := hx
      rfl
    | inf a => rfl
    | fin n m e => rfl

end

/-! ## Order (R274) -/

theorem fcompare_fin (n1 n2 : Bool) (m1 m2 : Nat) (e1 e2 : Int) :
    fcompare (.fin n1 m1 e1) (.fin n2 m2 e2) = compare (addExact n1 m1 e1 (!n2) m2 e2).1 0 := rfl

theorem FV.value_not (n : Bool) (m : Nat) (e : Int) : (FV.fin (!n) m e).value = -(FV.fin n m e).value := by
  cases n <;> simp [FV.value]

/-- The exact difference has the sign of the order. -/
theorem fcompare_fin_value (n1 n2 : Bool) (m1 m2 : Nat) (e1 e2 : Int) :
    (fcompare (.fin n1 m1 e1) (.fin n2 m2 e2) = .lt ↔ (FV.fin n1 m1 e1).value < (FV.fin n2 m2 e2).value)
    ∧ (fcompare (.fin n1 m1 e1) (.fin n2 m2 e2) = .gt ↔ (FV.fin n2 m2 e2).value < (FV.fin n1 m1 e1).value) := by
  have hpow : (0 : ℚ) < 2 ^ (addExact n1 m1 e1 (!n2) m2 e2).2 := by positivity
  have hdiff := addExact_value n1 (!n2) m1 m2 e1 e2
  rw [FV.value_not, ← sub_eq_add_neg] at hdiff
  rw [fcompare_fin, compare_lt_iff_lt, compare_gt_iff_gt]
  generalize (addExact n1 m1 e1 (!n2) m2 e2).1 = z at *
  have hneg : (z : ℚ) * 2 ^ (addExact n1 m1 e1 (!n2) m2 e2).2 < 0 ↔ z < 0 := by
    rw [← neg_pos, ← neg_mul, mul_pos_iff_of_pos_right hpow, neg_pos, Int.cast_lt_zero]
  rw [← sub_neg (b := (FV.fin n2 m2 e2).value), ← sub_pos (a := (FV.fin n1 m1 e1).value), ← hdiff, hneg,
    mul_pos_iff_of_pos_right hpow, Int.cast_pos]
  exact ⟨Iff.rfl, Iff.rfl⟩

/-- A comparison of two values that are not NaN follows `FV.below`. -/
theorem fcompare_iff {x y : FV} (hx : x.isNaN = false) (hy : y.isNaN = false) :
    (fcompare x y = .lt ↔ x.below y) ∧ (fcompare x y = .gt ↔ y.below x) := by
  cases x with
  | nan s => cases hx
  | inf a => cases y with
    | nan s => cases hy
    | inf b => cases a <;> cases b <;> simp [fcompare, FV.below]
    | fin n m e => cases a <;> simp [fcompare, FV.below]
  | fin n1 m1 e1 => cases y with
    | nan s => cases hy
    | inf b => cases b <;> simp [fcompare, FV.below]
    | fin n2 m2 e2 => exact fcompare_fin_value n1 n2 m1 m2 e1 e2

/-- The flag of a comparison (R274). -/
theorem fcmpRes_flags (c : Cmp) (x y : FV) : (fcmpRes c x y).2 = if x.isSig = true ∨ y.isSig = true
    ∨ (c = .lt ∨ c = .le ∨ c = .gt ∨ c = .ge) ∧ (x.isNaN = true ∨ y.isNaN = true) then fIV else 0 := by
  simp only [fcmpRes, Bool.or_eq_true, Bool.and_eq_true, beq_iff_eq, or_assoc]

/-- A comparison with a NaN. -/
theorem fcmpRes_nan (c : Cmp) {x y : FV} (h : x.isNaN = true ∨ y.isNaN = true) :
    (fcmpRes c x y).1 = true ↔ c = .ne ∨ c = .un := by
  simp only [fcmpRes, fcmpHolds, Bool.or_eq_true, if_pos h, beq_iff_eq]

/-- A comparison of two values that are not NaN. -/
theorem fcmpRes_values (c : Cmp) {x y : FV} (hx : x.isNaN = false) (hy : y.isNaN = false) :
    (fcmpRes c x y).1 = true ↔ match c with
      | .eq => ¬x.below y ∧ ¬y.below x
      | .ne => x.below y ∨ y.below x
      | .lt => x.below y
      | .le => ¬y.below x
      | .gt => y.below x
      | .ge => ¬x.below y
      | .un => False
      | .ord => True := by
  obtain ⟨hlt, hgt⟩ := fcompare_iff hx hy
  simp only [fcmpRes, fcmpHolds, hx, hy, Bool.or_self, Bool.false_eq_true, if_false, ← hlt, ← hgt]
  cases c <;> cases fcompare x y <;> simp

/-! ## Minimum and maximum (R273) -/

theorem mod_F32 {a : Nat} (ha : a < 2 ^ 32) : a % (2 * fmtF32.signBit) = a := Nat.mod_eq_of_lt ha

/-- Of a NaN and a value the value is chosen. -/
theorem fminmax_nan_left {a b : Nat} (hb : b < 2 ^ 32) (hx : (fdecode fmtF32 a).isNaN = true)
    (hy : (fdecode fmtF32 b).isNaN = false) (big : Bool) :
    fminmax fmtF32 big a b = (b, if (fdecode fmtF32 a).isSig || (fdecode fmtF32 b).isSig then fIV else 0) := by
  simp only [fminmax, hx, hy, Bool.and_false, Bool.false_eq_true, if_false, if_true, mod_F32 hb]

theorem fminmax_nan_right {a b : Nat} (ha : a < 2 ^ 32) (hx : (fdecode fmtF32 a).isNaN = false)
    (hy : (fdecode fmtF32 b).isNaN = true) (big : Bool) :
    fminmax fmtF32 big a b = (a, if (fdecode fmtF32 a).isSig || (fdecode fmtF32 b).isSig then fIV else 0) := by
  simp only [fminmax, hx, hy, Bool.false_and, Bool.false_eq_true, if_false, if_true, mod_F32 ha]

/-- The operand that lies below, or the negative one of two equal ones, is the minimum; the other is the maximum. -/
theorem fminmax_values {a b : Nat} (ha : a < 2 ^ 32) (hb : b < 2 ^ 32) (hx : (fdecode fmtF32 a).isNaN = false)
    (hy : (fdecode fmtF32 b).isNaN = false) (big : Bool) {less : Bool} (hless : less = true ↔ (fdecode fmtF32 a).below (fdecode fmtF32 b)
      ∨ ¬(fdecode fmtF32 b).below (fdecode fmtF32 a) ∧ (fdecode fmtF32 a).isNeg = true) :
    fminmax fmtF32 big a b = (if less == big then b else a, 0) := by
  obtain ⟨hlt, hgt⟩ := fcompare_iff hx hy
  rw [← hlt, ← hgt] at hless
  simp only [fminmax, hx, hy, Bool.and_self, FV.isSig_of_not_isNaN hx, FV.isSig_of_not_isNaN hy, Bool.or_self,
    Bool.false_eq_true, if_false, mod_F32 ha, mod_F32 hb]
  generalize fcompare (fdecode fmtF32 a) (fdecode fmtF32 b) = order at hless ⊢
  generalize (fdecode fmtF32 a).isNeg = neg at hless ⊢
  cases order with
  | lt =>
    obtain rfl : less = true := hless.2 (.inl rfl)
    rfl
  | gt =>
    obtain rfl : less = false := by simpa using hless
    rfl
  | eq =>
    obtain rfl : less = neg := by simpa using hless
    rfl

theorem fminmax_nans {a b : Nat} (hx : (fdecode fmtF32 a).isNaN = true) (hy : (fdecode fmtF32 b).isNaN = true) (big : Bool) :
    fminmax fmtF32 big a b
      = (fmtF32.nanCode, if (fdecode fmtF32 a).isSig || (fdecode fmtF32 b).isSig then fIV else 0) := by
  simp only [fminmax, hx, hy, Bool.and_self, if_true]

end Sys2Proof.Machine
end

section
/-! PROOFS. Codes of finite values (R49), and what FCLASS, FRND and FSCALE give (R272, R275). -/

namespace Sys2Proof.Machine

/-! ## Codes of finite values (R49, R51) -/

/-- The sign of a code. -/
def Fmt.signField (f : Fmt) (code : Nat) : Bool := decide (f.signBit ≤ code % (2 * f.signBit))

/-- The code of the magnitude. -/
def Fmt.magCode (f : Fmt) (code : Nat) : Nat := code % (2 * f.signBit) % f.signBit

/-- The value of a code of a format with infinities, by its exponent field. -/
theorem fdecode_eq {f : Fmt} (hinf : f.hasInf = true) (code : Nat) : fdecode f code =
    if f.magCode code / 2 ^ f.mb = 2 ^ f.eb - 1 then
      (if f.magCode code % 2 ^ f.mb = 0 then .inf (f.signField code)
        else .nan (decide (f.magCode code % 2 ^ f.mb < 2 ^ (f.mb - 1))))
    else if f.magCode code / 2 ^ f.mb = 0 then .fin (f.signField code) (f.magCode code % 2 ^ f.mb) (1 - (f.bias : Int) - f.mb)
    else .fin (f.signField code) (2 ^ f.mb + f.magCode code % 2 ^ f.mb)
      ((f.magCode code / 2 ^ f.mb : Nat) - (f.bias : Int) - f.mb) := by
  simp only [fdecode, hinf, Fmt.magCode, Fmt.signField, Bool.true_and, beq_iff_eq, Bool.not_true, Bool.false_and,
    Bool.false_eq_true, if_false]
  rfl

/-- A code of a finite value: its sign, and the magnitude that `Fmt.mag` gives. -/
structure FiniteCode (f : Fmt) (code : Nat) (n : Bool) (m : Nat) (e : Int) : Prop where
  sign : n = f.signField code
  le : f.magCode code ≤ f.maxCode
  mag : f.mag (f.magCode code) = m * 2 ^ e
  lt : m < 2 ^ (f.mb + 1)
  expLo : 1 - (f.bias : Int) - f.mb ≤ e
  expHi : e + 2 ≤ 2 ^ f.eb - f.bias - f.mb

theorem Fmt.magCode_lt (f : Fmt) (code : Nat) : f.magCode code < 2 ^ f.eb * 2 ^ f.mb := by
  rw [← pow_add]
  exact Nat.mod_lt _ (Nat.two_pow_pos _)

theorem finiteCode_of_fdecode {f : Fmt} (hinf : f.hasInf = true) (heb : 2 ≤ f.eb) {code : Nat} {n : Bool} {m : Nat} {e : Int}
    (h : fdecode f code = .fin n m e) : FiniteCode f code n m e := by
  have hpow := Nat.two_pow_pos f.mb
  have hmod := Nat.mod_lt (f.magCode code) hpow
  have hexp : f.magCode code / 2 ^ f.mb < 2 ^ f.eb := (Nat.div_lt_iff_lt_mul hpow).2 (f.magCode_lt code)
  have hfour : 2 ^ 2 ≤ 2 ^ f.eb := Nat.pow_le_pow_right two_pos heb
  have hcast : ((2 ^ f.eb : Nat) : Int) = 2 ^ f.eb := by push_cast; rfl
  have hsucc : 2 ^ (f.mb + 1) = 2 * 2 ^ f.mb := by ring
  rw [fdecode_eq hinf] at h
  generalize hE : f.magCode code / 2 ^ f.mb = E at h hexp
  generalize hM : f.magCode code % 2 ^ f.mb = M at h hmod
  split at h
  next hspecial => split at h <;> cases h
  next hfinite =>
    have hle : f.magCode code ≤ f.maxCode := by
      have hlt : f.magCode code / 2 ^ f.mb < 2 ^ f.eb - 1 := by omega
      rw [Nat.div_lt_iff_lt_mul hpow] at hlt
      rw [Fmt.maxCode, if_pos hinf]
      omega
    split at h
    next hzero =>
      injection h with hn hm he
      have hsmall : f.magCode code = M := by
        rw [← hM, Nat.mod_eq_of_lt ((Nat.div_eq_zero_iff_lt hpow).1 (hE.trans hzero))]
      refine ⟨hn.symm, hle, ?_, by omega, by omega, by omega⟩
      rw [Fmt.mag, if_pos (hE.trans hzero), hE, hzero, ← he, hsmall, hm]
      simp
    next hnormal =>
      injection h with hn hm he
      refine ⟨hn.symm, hle, ?_, by omega, by omega, by omega⟩
      rw [Fmt.mag, hE, hM, if_neg hnormal, max_eq_right (by omega), hm, he]

/-- A value that a code of the format has comes out of the rounding as that code, without a flag. -/
theorem fround_of_mag {f : Fmt} (hf : f.Usual) {c m : Nat} {e : Int} (hc : c ≤ f.maxCode) (hv : f.mag c = m * 2 ^ e)
    (rnd : Rnd) (sat neg : Bool) : fround f rnd sat neg m e false = (signOf f neg + c, 0) := by
  rcases Nat.eq_zero_or_pos m with rfl | hm
  · have hzero : f.mag c = f.mag 0 := by rw [hv, f.mag_zero]; simp
    rw [fround_zero, f.mag_strictMono.injective hzero, Nat.add_zero]
  · have hround := fround_exact_isRounded hf hm e rnd sat neg
    rw [← hv, isRounded_iff le_rfl (f.mag_strictMono (Nat.lt_succ_self c))] at hround
    have hstay : goesUp rnd neg (c % 2 == 1) (f.mag c) (f.mag (c + 1)) (f.mag c) = false :=
      goesUp_self rnd neg _ (f.mag_strictMono (Nat.lt_succ_self c))
    rw [hround]
    simp only [Fmt.roundedFrom, hstay, Bool.false_eq_true, if_false, if_pos hc, if_true]

/-- Every integer below 2^24 is the magnitude of an F32 code. -/
theorem exists_mag_F32 {k : Nat} (hk : k < 2 ^ 24) : ∃ c, c ≤ fmtF32.maxCode ∧ fmtF32.mag c = k := by
  rcases Nat.eq_zero_or_pos k with rfl | hpos
  · exact ⟨0, Nat.zero_le _, by rw [Fmt.mag_zero]; rfl⟩
  · obtain ⟨b, hb⟩ := Nat.exists_eq_add_of_le' (bitLen_pos hpos)
    have hlow : 2 ^ b ≤ k := by
      rw [← Nat.not_lt, ← bitLen_le_iff]; omega
    have hhigh : k < 2 ^ (b + 1) := (bitLen_le_iff _ _).1 hb.le
    have hb23 : b ≤ 23 := by
      have := (bitLen_le_iff k 24).2 hk
      omega
    have hsplit : 2 ^ (23 - b) * 2 ^ b = 2 ^ 23 := by rw [← pow_add, Nat.sub_add_cancel hb23]
    have hparts : fmtF32.Parts (b + 126) (k * 2 ^ (23 - b)) := by
      constructor
      · calc k * 2 ^ (23 - b) ≤ 2 ^ (b + 1) * 2 ^ (23 - b) := Nat.mul_le_mul_right _ hhigh.le
          _ = 2 * (2 ^ (23 - b) * 2 ^ b) := by ring
          _ = 2 ^ (fmtF32.mb + 1) := by rw [hsplit]; rfl
      · refine .inr ?_
        calc 2 ^ fmtF32.mb = 2 ^ b * 2 ^ (23 - b) := by rw [mul_comm, hsplit]; rfl
          _ ≤ k * 2 ^ (23 - b) := Nat.mul_le_mul_right _ hlow
    refine ⟨_, ?_, hparts.mag.trans ?_⟩
    · have hle : k * 2 ^ (23 - b) ≤ 2 ^ 24 := hparts.le
      show (b + 126) * 2 ^ 23 + k * 2 ^ (23 - b) ≤ 255 * 2 ^ 23 - 1
      omega
    · rw [show ((b + 126 : Nat) : Int) + 1 - fmtF32.bias - fmtF32.mb = -((23 - b : Nat) : Int) by
        simp only [fmtF32]; omega]
      push_cast
      rw [mul_assoc, ← zpow_natCast, ← zpow_add₀ two_ne_zero, add_neg_cancel, zpow_zero, mul_one]

/-! ## FRND (R272) -/

/-- A finite value of F32 becomes one of the integers beside it, as the mode rounds, without a flag. -/
theorem frndRes_fin {code : Nat} {n : Bool} {m k : Nat} {e : Int} (rnd : Rnd) (h : fdecode fmtF32 code = .fin n m e)
    (hlo : (k : ℚ) ≤ m * 2 ^ e) (hhi : (m : ℚ) * 2 ^ e < k + 1) :
    ∃ c, frndRes rnd (.fin n m e) = (signOf fmtF32 n + c, 0) ∧ c ≤ fmtF32.maxCode
      ∧ fmtF32.mag c = if goesUp rnd n (k % 2 == 1) k (k + 1) (m * 2 ^ e) then (k + 1 : ℚ) else k := by
  have hcode := finiteCode_of_fdecode rfl (by decide) h
  have husual : fmtF32.Usual := Fmt.usual_of_arith (by decide)
  by_cases he : 0 ≤ e
  · have hint : (k : ℚ) = m * 2 ^ e := by
      obtain ⟨s, rfl⟩ := Int.eq_ofNat_of_zero_le he
      rw [zpow_natCast] at hlo hhi ⊢
      norm_cast at hlo hhi ⊢
      omega
    refine ⟨fmtF32.magCode code, ?_, hcode.le, ?_⟩
    · rw [frndRes, if_pos he]
      exact fround_of_mag husual hcode.le hcode.mag _ _ _
    · rw [← hint, goesUp_self rnd n _ (by linarith), hcode.mag, ← hint]
      simp
  · have hround := roundAt_integer rnd n hlo hhi
    have hk : k < 2 ^ 23 := by
      have hm : (m : ℚ) < 2 ^ 24 := by exact_mod_cast hcode.lt
      have hpow : (2 : ℚ) ^ e ≤ 2 ^ (-1 : Int) := zpow_le_zpow_right₀ one_le_two (by omega)
      have hprod : (m : ℚ) * 2 ^ e ≤ m * 2 ^ (-1 : Int) := mul_le_mul_of_nonneg_left hpow (Nat.cast_nonneg m)
      have : (k : ℚ) < 2 ^ 23 := by
        rw [zpow_neg_one] at hprod
        linarith
      exact_mod_cast this
    obtain ⟨c, hc, hmag⟩ := exists_mag_F32 (k := (roundAt rnd n m e 0 false).1)
      (by rw [hround]; dsimp only; split <;> omega)
    refine ⟨c, ?_, hc, ?_⟩
    · rw [frndRes, if_neg he]
      exact fround_of_mag husual hc (by simpa using hmag) _ _ _
    · rw [hmag, hround]
      dsimp only
      split <;> push_cast <;> rfl

/-! ## FSCALE (R272) -/

theorem goesUp_low {hi v : ℚ} (rnd : Rnd) (neg : Bool) (hv : 0 < v) (hhalf : v < hi / 2) :
    goesUp rnd neg false 0 hi v = ((rnd == .ru && !neg) || (rnd == .rd && neg)) := by
  have hnlt : ¬hi / 2 < v := not_lt.2 hhalf.le
  have hnle : ¬hi / 2 ≤ v := not_le.2 hhalf
  cases rnd <;> cases neg <;> simp [goesUp, hv, hnlt, hnle]

section
variable {f : Fmt} (hf : f.Usual) {m : Nat} (hm : 0 < m) {e : Int} (rnd : Rnd) (sat neg : Bool)
include hf hm

/-- A value beyond the code that would follow the largest one overflows. -/
theorem fround_huge (h : f.mag (f.maxCode + 1) ≤ m * 2 ^ e) : fround f rnd sat neg m e false = foverflow f rnd sat neg := by
  obtain ⟨c, hle, hlt, hround⟩ := fround_eq hf (.of_exact m e) hm nofun rnd sat neg
  have hc : f.maxCode < c := by
    have := f.mag_strictMono.lt_iff_lt.1 (h.trans_lt hlt)
    omega
  rw [hround, hf.roundedFrom]
  exact if_pos (by split <;> omega)

/-- A value below half the smallest subnormal becomes zero, or that subnormal where the mode rounds away from zero. -/
theorem fround_small (hcode : 0 < f.maxCode) (h : m * 2 ^ e < (2 : ℚ) ^ (-(f.bias : Int) - f.mb)) :
    fround f rnd sat neg m e false
      = (signOf f neg + (if (rnd == .ru && !neg) || (rnd == .rd && neg) then 1 else 0), fNX ||| fUF) := by
  have hv : (0 : ℚ) < m * 2 ^ e := by positivity
  have hparts : f.Parts 0 1 := ⟨Nat.one_le_two_pow, .inl rfl⟩
  have hone : f.mag 1 = 2 * 2 ^ (-(f.bias : Int) - f.mb) := by
    have := hparts.mag
    rw [Nat.zero_mul, Nat.zero_add] at this
    rw [this, ← zpow_one_add₀ two_ne_zero]
    push_cast
    ring_nf
  obtain ⟨c, hle, hlt, hround⟩ := fround_eq hf (.of_exact m e) hm nofun rnd sat neg
  obtain rfl : c = 0 := Fmt.code_unique ⟨hle, hlt⟩ ⟨by rw [f.mag_zero]; exact hv.le, by rw [hone]; linarith⟩
  have htiny : f.tiny rnd neg (m * 2 ^ e) = true :=
    Fmt.tiny_of_lt_half (h.trans_le (zpow_le_zpow_right₀ one_le_two (by omega))) rnd neg
  have hup : goesUp rnd neg (0 % 2 == 1) 0 (f.mag (0 + 1)) (m * 2 ^ e) = ((rnd == .ru && !neg) || (rnd == .rd && neg)) :=
    goesUp_low rnd neg hv (by rw [Nat.zero_add, hone]; linarith)
  rw [hround, hf.roundedFrom]
  simp only [f.mag_zero, hup, htiny, hv.ne, if_true, if_false]
  exact if_neg (by split <;> omega)

end

/-- Beyond 4,096 the power of two no longer matters: the value overflows, or is below half the smallest subnormal. -/
theorem fscaleRes_isRounded {code : Nat} {n : Bool} {m : Nat} {e : Int} (rnd : Rnd) (sat : Bool) (b : Int)
    (h : fdecode fmtF32 code = .fin n m e) (hm : 0 < m) :
    IsRounded fmtF32 rnd sat n (m * 2 ^ (e + b)) (fscaleRes rnd sat (.fin n m e) b) := by
  have husual : fmtF32.Usual := Fmt.usual_of_arith (by decide)
  obtain ⟨_, _, _, hlt, hlo, hhi⟩ := finiteCode_of_fdecode rfl (by decide) h
  have hlo : -149 ≤ e := hlo
  have hhi : e ≤ 104 := by
    have : e + 2 ≤ 2 ^ 8 - 127 - 23 := hhi
    omega
  have hone : (1 : ℚ) ≤ m := by exact_mod_cast hm
  have hm24 : (m : ℚ) ≤ 2 ^ (24 : Int) := by exact_mod_cast hlt.le
  have hround := fround_exact_isRounded husual hm (e + b) rnd sat n
  rw [fscaleRes]
  by_cases hbig : 4096 < b
  · have hhuge : ∀ q : Int, 128 ≤ q → fround fmtF32 rnd sat n m q false = foverflow fmtF32 rnd sat n := by
      intro q hq
      have hmax : fmtF32.mag (fmtF32.maxCode + 1) = 2 ^ (128 : Int) := by norm_num [Fmt.mag, Fmt.maxCode, fmtF32]
      have hpow : (2 : ℚ) ^ (128 : Int) ≤ 2 ^ q := zpow_le_zpow_right₀ one_le_two hq
      refine fround_huge husual hm rnd sat n (hmax ▸ hpow.trans ?_)
      exact le_mul_of_one_le_left (by positivity) hone
    rw [hhuge _ (by omega)] at hround ⊢
    exact hround
  · by_cases hsmall : b < -4096
    · have htiny : ∀ q : Int, q < -174 → fround fmtF32 rnd sat n m q false
          = (signOf fmtF32 n + (if (rnd == .ru && !n) || (rnd == .rd && n) then 1 else 0), fNX ||| fUF) := by
        intro q hq
        refine fround_small husual hm rnd sat n (by decide) ?_
        calc (m : ℚ) * 2 ^ q ≤ 2 ^ (24 : Int) * 2 ^ q := mul_le_mul_of_nonneg_right hm24 (by positivity)
          _ = 2 ^ (24 + q) := by rw [zpow_add₀ two_ne_zero]
          _ < 2 ^ (-(fmtF32.bias : Int) - fmtF32.mb) :=
            zpow_lt_zpow_right₀ one_lt_two (by simp only [fmtF32]; omega)
      rw [htiny _ (by omega)] at hround ⊢
      exact hround
    · rw [show max (-4096) (min 4096 b) = b by omega]
      exact hround

/-! ## FCLASS (R275) -/

/-- A finite code is that of a normal number when its magnitude is at least the smallest normal one. -/
theorem FiniteCode.normal_iff {f : Fmt} {code : Nat} {n : Bool} {m : Nat} {e : Int} (h : FiniteCode f code n m e) :
    (m : ℚ) * 2 ^ e < 2 ^ (1 - (f.bias : Int)) ↔ f.magCode code < 2 ^ f.mb := by
  have hparts : f.Parts 0 (2 ^ f.mb) := ⟨Nat.pow_le_pow_right two_pos (Nat.le_succ _), .inl rfl⟩
  have hleast : f.mag (2 ^ f.mb) = 2 ^ (1 - (f.bias : Int)) := by
    have hmag := hparts.mag
    rw [Nat.zero_mul, Nat.zero_add] at hmag
    rw [hmag]
    push_cast
    rw [← zpow_natCast, ← zpow_add₀ two_ne_zero]
    congr 1
    ring
  rw [← h.mag, ← hleast, f.mag_strictMono.lt_iff_lt]

theorem sign_of_fdecode_inf {f : Fmt} (hinf : f.hasInf = true) {code : Nat} {n : Bool} (h : fdecode f code = .inf n) :
    n = f.signField code := by
  rw [fdecode_eq hinf] at h
  split at h
  · split at h
    · exact (FV.inf.inj h).symm
    · cases h
  · split at h <;> cases h

/-- The class word has the bit of the sign and of the kind. -/
theorem fclass_eq {f : Fmt} (hinf : f.hasInf = true) (heb : 2 ≤ f.eb) (code : Nat) :
    fclass f code = 2 ^ match fdecode f code with
      | .nan sig => if sig then 8 else 9
      | .inf n => if n then 0 else 7
      | .fin n m e => if m = 0 then (if n then 3 else 4)
        else if (m : ℚ) * 2 ^ e < 2 ^ (1 - (f.bias : Int)) then (if n then 2 else 5) else if n then 1 else 6 := by
  unfold fclass
  cases hx : fdecode f code with
  | nan sig => cases sig <;> rfl
  | inf n =>
    have hn := sign_of_fdecode_inf hinf hx
    rw [Fmt.signField] at hn
    rw [← hn]
    cases n <;> rfl
  | fin n m e =>
    have hfin := finiteCode_of_fdecode hinf heb hx
    have hn := hfin.sign
    rw [Fmt.signField] at hn
    have hnormal : decide (2 ^ f.mb ≤ code % f.signBit) = !decide ((m : ℚ) * 2 ^ e < 2 ^ (1 - (f.bias : Int))) := by
      have hmod : code % f.signBit = f.magCode code := (Nat.mod_mod_of_dvd code (Dvd.intro_left 2 rfl)).symm
      rw [← decide_not, decide_eq_decide, hfin.normal_iff, Nat.not_lt, hmod]
    simp only [← hn, hnormal]
    by_cases hm : m = 0
    · cases n <;> simp [hm]
    · by_cases hsub : (m : ℚ) * 2 ^ e < 2 ^ (1 - (f.bias : Int))
      · cases n <;> simp [hm, hsub]
      · cases n <;> simp [hm, hsub]

/-! ## The obligation -/

/-- Settles O14: one rounding of exact sums and products, the special operands, and the order of values. -/
theorem floatResults : Obligations.FloatResults := by
  refine ⟨fun o m => ?results, fun o m => .of_alu (fun _ => rfl) rfl fun _ _ => rfl, ?finite, ?special, ?minmax, ?compare,
    ?round, ?classes⟩
  case results => and_intros <;> exact .of_alu (fun _ => rfl) rfl fun _ _ => rfl
  case finite =>
    intro f hf rnd sat n1 n2 n3 m1 m2 m3 e1 e2 e3 x y z rounds
    have husual := Fmt.usual_of_arith hf
    have hmul : x.value * y.value = (FV.fin (n1 != n2) (m1 * m2) (e1 + e2)).value :=
      (mulExact_value n1 n2 m1 m2 e1 e2).symm
    refine ⟨fadd_isRounded rnd sat n1 n2 m1 m2 e1 e2 husual, fun neg v hv hw => ?_, fun neg v hv hw => ?_,
      fadd_zero rnd sat n1 n2 m1 m2 e1 e2, fmul_zero rnd sat n1 n2 m1 m2 e1 e2, fun hw => ?_⟩
    · exact froundV_isRounded husual rnd sat hv (hmul.symm.trans hw)
    · rw [ffma_fin rnd sat n1 n2 m1 m2 e1 e2 z rfl]
      exact fadd_isRounded rnd sat _ _ _ _ _ _ husual neg v hv (hmul ▸ hw)
    · rw [ffma_fin rnd sat n1 n2 m1 m2 e1 e2 z rfl, fadd_zero rnd sat _ _ _ _ _ _ (hmul ▸ hw)]
      split
      next h => rw [h]
      next h => rfl
  case special =>
    intro f _ rnd sat x y z a n m e
    refine ⟨fun h => ⟨fadd_sig f rnd sat x y h, fmul_sig f rnd sat x y h⟩, ffma_sig f rnd sat x y z,
      fun hsig h => ⟨fadd_quiet f rnd sat x y hsig h, fmul_quiet f rnd sat x y hsig h⟩, ?_, rfl, rfl, ?_,
      rfl, rfl, rfl, ?_⟩
    · cases a <;> rfl
    · cases a <;> rfl
    · exact fun hm => by simp [fmul, fmulExact, froundV, hm.ne']
  case minmax =>
    intro a b ha hb x y iv
    refine ⟨fminmax_nans, fun hx hy big => ⟨fminmax_nan_left hb hx hy big, ?_⟩, fun hx hy hless => ?_,
      fun hx hy hless => ?_⟩
    · rw [fminmax_nan_right hb hy hx big, Bool.or_comm]
    · exact ⟨fminmax_values ha hb hx hy false (less := true) (by simpa using hless),
        fminmax_values ha hb hx hy true (less := true) (by simpa using hless)⟩
    · exact ⟨fminmax_values ha hb hx hy false (less := false) (by simpa using hless),
        fminmax_values ha hb hx hy true (less := false) (by simpa using hless)⟩
  case compare =>
    exact fun c x y => ⟨fcmpRes_flags c x y, fcmpRes_nan c, fcmpRes_values c⟩
  case round =>
    intro rnd sat n sig code m k e b x
    refine ⟨fun _ hx hlo hhi => frndRes_fin rnd hx hlo hhi, rfl, rfl, fun _ hx hm => fscaleRes_isRounded rnd sat b hx hm,
      rfl, rfl, rfl⟩
  case classes =>
    intro f hf code _
    have hwide : ∀ f ∈ arithFmts, f.hasInf = true ∧ 2 ≤ f.eb := by decide
    exact fclass_eq (hwide f hf).1 (hwide f hf).2 code

end Sys2Proof.Machine
end

section
/-! PROOFS. Conversions and block scales (R57 to R60, R278 to R282): obligation O15. -/

namespace Sys2Proof.Machine

/-! ## Float to float (R57) -/

/-- The formats of the conversions. -/
def cvtFmts : List Fmt := [fmtF64, fmtF32, fmtF16, fmtBF16, fmtE5M2, fmtE4M3, fmtE2M1]

theorem fconvert_inf (rnd : Rnd) : ∀ g ∈ cvtFmts, ∀ sat n, fconvert g rnd sat (.inf n)
    = if g = fmtE4M3 ∨ g = fmtE2M1 ∨ g = fmtE5M2 ∧ sat = true then (signOf g n + g.maxCode, fSAT)
      else (signOf g n + g.infCode, 0) := by
  cases rnd <;> decide

theorem fconvert_nan (rnd : Rnd) (sat : Bool) : ∀ g ∈ cvtFmts, ∀ sig, fconvert g rnd sat (.nan sig)
    = if g = fmtE2M1 then (0, fIV) else (g.nanCode, if sig then fIV else 0) := by
  cases rnd <;> cases sat <;> decide

/-- An integer is rounded once. -/
theorem intToF_isRounded {g : Fmt} (hg : g.Usual) (rnd : Rnd) (sat : Bool) {z : Int} (hz : z ≠ 0) :
    IsRounded g rnd sat (decide (z < 0)) z.natAbs (intToF g rnd sat z) := by
  have h := fround_exact_isRounded hg (Int.natAbs_pos.2 hz) 0 rnd sat (decide (z < 0))
  rwa [zpow_zero, mul_one] at h

/-! ## Float to integer (R58) -/

theorem signed_eq (n : Bool) (k : Nat) : signed n k = if n then -(k : Int) else k := by
  cases n <;> rfl

/-- The clamp of the model and that of the statement. -/
theorem clamp_eq {lo hi z : Int} (h : lo ≤ hi) (w : W32) :
    (if z < lo then (lo, fSAT ||| fNX) else if hi < z then (hi, fSAT ||| fNX) else (z, w))
      = if lo ≤ z ∧ z ≤ hi then (z, w) else (max lo (min hi z), fSAT ||| fNX) := by
  by_cases hlow : z < lo
  · rw [if_pos hlow, if_neg (by omega), max_eq_left (by omega)]
  · by_cases hhigh : hi < z
    · rw [if_neg hlow, if_pos hhigh, if_neg (by omega), min_eq_left hhigh.le, max_eq_right h]
    · rw [if_neg hlow, if_neg hhigh, if_pos (by omega)]

/-- A finite value becomes the integer that the mode rounds to, clamped. -/
theorem fToInt_fin (w : Nat) (sg : Bool) {n : Bool} {m k : Nat} {e : Int} (rnd : Rnd) (hlo : (k : ℚ) ≤ m * 2 ^ e)
    (hhi : (m : ℚ) * 2 ^ e < k + 1) {j : Nat}
    (hj : j = if goesUp rnd n (k % 2 == 1) k (k + 1) (m * 2 ^ e) then k + 1 else k) {z : Int}
    (hz : z = if n then -(j : Int) else j) :
    fToInt w sg rnd (.fin n m e) = if (intRange w sg).1 ≤ z ∧ z ≤ (intRange w sg).2 then
        (z, if (k : ℚ) = m * 2 ^ e then 0 else fNX)
      else (max (intRange w sg).1 (min (intRange w sg).2 z), fSAT ||| fNX) := by
  have hrange := intRange_zero_mem w sg
  rw [← clamp_eq (hrange.1.trans hrange.2)]
  simp only [fToInt, roundAt_integer rnd n hlo hhi, signed_eq, ← hj, ← hz, decide_eq_true_eq]

/-! ## Narrow formats (R281) -/

/-- A rounded integer is clamped to a signed byte, with SAT and NX where the clamp changes it. -/
theorem sat8Res_eq (z : Int) (exact : Bool) : sat8Res z exact = ((max (-128) (min 127 z) % 256).toNat,
    if -128 ≤ z ∧ z ≤ 127 then (if exact then 0 else fNX) else fSAT ||| fNX) := by
  simp only [sat8Res]
  congr 1
  by_cases h : -128 ≤ z ∧ z ≤ 127
  · rw [if_neg (by omega), if_pos h]
  · rw [if_pos (by omega), if_neg h]

section
variable {f : NarrowFmt} {code : Nat} (hcode : code < 255) (rnd : Rnd) (n : Bool) (m : Nat) (e : Int)
include hcode

theorem quantise_fin : quantise f rnd code (.fin n m e) =
    if f = .int8 then
      sat8Res (signed n (roundAt rnd n m (e + 127 - code) 0 false).1) (roundAt rnd n m (e + 127 - code) 0 false).2
    else fround (NarrowFmt.fmt f) rnd true n m (e + 127 - code) false := by
  simp only [quantise, FV.isNaN, Bool.false_or, beq_iff_eq, hcode.ne, if_false]

theorem quantise_inf : quantise f rnd code (.inf n) = (if f = .int8 then (if n then 0x80 else 0x7F)
    else signOf (NarrowFmt.fmt f) n + (NarrowFmt.fmt f).maxCode, fSAT) := by
  simp only [quantise, FV.isNaN, Bool.false_or, beq_iff_eq, hcode.ne, if_false]

/-- A value becomes a signed byte as the mode rounds it, clamped. -/
theorem quantise_int8 {k : Nat} (hlo : (k : ℚ) ≤ m * 2 ^ (e + 127 - code)) (hhi : (m : ℚ) * 2 ^ (e + 127 - code) < k + 1)
    {j : Nat} (hj : j = if goesUp rnd n (k % 2 == 1) k (k + 1) (m * 2 ^ (e + 127 - code)) then k + 1 else k) {z : Int}
    (hz : z = if n then -(j : Int) else j) :
    quantise .int8 rnd code (.fin n m e) = ((max (-128) (min 127 z) % 256).toNat,
      if -128 ≤ z ∧ z ≤ 127 then (if (k : ℚ) = m * 2 ^ (e + 127 - code) then 0 else fNX) else fSAT ||| fNX) := by
  rw [quantise_fin hcode, if_pos rfl, sat8Res_eq, roundAt_integer rnd n hlo hhi, ← hj, signed_eq, ← hz]
  simp only [decide_eq_true_eq]

/-- The expansion of a finite narrow code. -/
theorem expandN_fin {field : Nat} (h : narrowVal f field = .fin n m e) :
    expandN f rnd code field = fround fmtF32 rnd false n m (e + code - 127) false := by
  simp only [expandN, h, if_neg hcode.ne]

end

/-- A NaN, or the scale code of a NaN, gives the NaN of the format, and 0 with IV where it has none. -/
theorem quantise_nan (f : NarrowFmt) (rnd : Rnd) {code : Nat} {x : FV} {sig : Bool}
    (h : code = 255 ∧ x.isSig = false ∧ sig = false ∨ x = .nan sig) : quantise f rnd code x = match f with
      | .e4m3 => (0x7F, if sig then fIV else 0)
      | .e5m2 => (0x7E, if sig then fIV else 0)
      | _ => (0, fIV) := by
  have htest : (x.isNaN || code == 255) = true ∧ x.isSig = sig := by
    rcases h with ⟨rfl, hx, rfl⟩ | rfl
    · exact ⟨Bool.or_true _, hx⟩
    · exact ⟨rfl, rfl⟩
  obtain ⟨hnan, hsig⟩ := htest
  simp only [quantise, hnan, hsig, if_true]
  cases f <;> cases sig <;> rfl

/-! ## Block scales (R60) -/

/-- The code of a block's scale is that of the power of two of its largest magnitude, less the largest exponent. -/
theorem blockCode_fin (f : NarrowFmt) (n : Bool) {m : Nat} {e k : Int} (hlo : (2 : ℚ) ^ k ≤ m * 2 ^ e)
    (hhi : (m : ℚ) * 2 ^ e < 2 ^ (k + 1)) :
    blockCode f (.fin n m e) = (max (-127) (min 127 (k - emaxOf f)) + 127).toNat := by
  have hm : 0 < m := by
    rw [Nat.pos_iff_ne_zero]
    rintro rfl
    have : (0 : ℚ) < 2 ^ k := by positivity
    simp at hlo
    linarith
  obtain ⟨hlow, hhigh⟩ := (Approximates.of_exact m e).bounds hm
  have h1 := (zpow_lt_zpow_iff_right₀ one_lt_two).1 (hlow.trans_lt hhi)
  have h2 := (zpow_lt_zpow_iff_right₀ one_lt_two).1 (hlo.trans_lt hhigh)
  simp only [blockCode, if_neg hm.ne', show e + (bitLen m : Int) - 1 = k by omega]

/-! ## The obligation -/

theorem convert_flt (dt st : NumType) (rnd : Rnd) (sat : Bool) (code : Nat) : (convert dt st rnd sat code).flt = none := by
  unfold convert
  simp only
  split
  · split <;> rfl
  · rfl
  · rfl
  · rfl

/-- Settles O15: every conversion of a finite value is one rounding, and the special operands are a table. -/
theorem conversionResults : Obligations.ConversionResults := by
  refine ⟨fun o m => ⟨.of_alu (fun _ => rfl) rfl fun _ _ => convert_flt _ _ _ _ _,
      .of_alu (fun _ => rfl) rfl fun _ _ => rfl⟩,
    fun o m => .of_alu (fun _ => rfl) rfl fun r l => ?_, fun o m => .of_alu (fun _ => rfl) rfl fun _ _ => rfl,
    ?toFloat, rfl, ?toInt, ?narrow, ?block⟩
  · dsimp only
    split <;> rfl
  case toFloat =>
    intro g hg rnd sat n sig m e z
    have husual := g.usual_of_mem hg
    exact ⟨fun hm => fround_exact_isRounded husual hm e rnd sat n, rfl, intToF_isRounded husual rnd sat, rfl,
      fconvert_inf rnd g hg sat n, fconvert_nan rnd sat g hg sig⟩
  case toInt =>
    intro w sg rnd n sig m k e _ v lo hi j z
    have hrange : intRange w sg = (lo, hi) := by
      simp only [intRange, lo, hi]; split <;> rfl
    refine ⟨fun hlo hhi => ?_, ?_, rfl⟩
    · have h := fToInt_fin w sg rnd hlo hhi (j := j) rfl (z := z) rfl
      rwa [hrange] at h
    · simp only [fToInt, hrange]
  case narrow =>
    intro f rnd code n sig m k e hcode g v j z
    refine ⟨fun hf hm => ?_, ?_, quantise_inf hcode rnd n, ?_, ?_⟩
    · rw [quantise_fin hcode, if_neg hf]
      exact fround_exact_isRounded (g.usual_of_mem (by cases f <;> decide)) hm _ rnd true n
    · rintro rfl hlo hhi
      exact quantise_int8 hcode rnd n m e hlo hhi rfl rfl
    · rintro c x (⟨rfl, rfl, rfl⟩ | rfl)
      · exact quantise_nan f rnd (.inl ⟨rfl, rfl, rfl⟩)
      · exact quantise_nan f rnd (.inr rfl)
    · intro field hfield hm
      rw [expandN_fin hcode rnd n m e hfield]
      exact fround_exact_isRounded (fmtF32.usual_of_mem (by decide)) hm _ rnd false n
  case block =>
    intro f n sig m e k emax
    have hemax : emaxOf f = emax := by cases f <;> rfl
    exact ⟨fun hlo hhi => hemax ▸ blockCode_fin f n hlo hhi, rfl, rfl, rfl⟩

end Sys2Proof.Machine
end

section
/-! PROOFS. Obligation O58: the registers and rings of the host, launch queues and CXL.mem (R445 to R456). -/

namespace Sys2Proof.Machine

/-! ## The slots of a ring in host memory -/

/-- Host memory after slots of a ring, from slot `i` on. -/
def withSlots (base : W64) (size i : Nat) (xs : List HostSlot) (m : KMap HostSlot) : KMap HostSlot :=
  xs.zipIdx.foldl (fun m p => mapSet m (slotAddr base size (i + p.2)) p.1) m

theorem State.placeSlots_zipIdx (base : W64) (size i : Nat) (xs : List HostSlot) : ∀ (k : Nat) (s : State),
    s.placeSlots base size (i + k) xs = { s with
      hostMem := (xs.zipIdx k).foldl (fun m p => mapSet m (slotAddr base size (i + p.2)) p.1) s.hostMem } := by
  induction xs with
  | nil => exact fun _ _ => rfl
  | cons x xs ih => exact fun k s => ih (k + 1) _

theorem State.placeSlots_eq (s : State) (base : W64) (size i : Nat) (xs : List HostSlot) :
    s.placeSlots base size i xs = { s with hostMem := withSlots base size i xs s.hostMem } :=
  s.placeSlots_zipIdx base size i xs 0

/-- What stands at a key after writes at other keys. -/
theorem mapGet_foldl_mapSet_ne {α β : Type} (key : α → Nat) (val : α → β) (j : Nat) (xs : List α) : ∀ m : KMap β,
    mapSorted none m = true → (∀ x ∈ xs, key x ≠ j) →
    mapGet (xs.foldl (fun m x => mapSet m (key x) (val x)) m) j = mapGet m j := by
  induction xs with
  | nil => exact fun _ _ _ => rfl
  | cons x xs ih =>
    intro m hm hk
    obtain ⟨hx, hxs⟩ := List.forall_mem_cons.1 hk
    refine (ih _ (mapSorted_mapSet m _ _ none hm nofun) hxs).trans ?_
    rw [mapGet_mapSet m _ _ _ hm, if_neg hx.symm]

/-- What stands at a key that is written once. -/
theorem mapGet_foldl_mapSet {α β : Type} (key : α → Nat) (val : α → β) (xs : List α) : ∀ m : KMap β,
    mapSorted none m = true → xs.Pairwise (fun x y => key x ≠ key y) → ∀ x ∈ xs,
    mapGet (xs.foldl (fun m x => mapSet m (key x) (val x)) m) (key x) = some (val x) := by
  induction xs with
  | nil => exact fun _ _ _ _ h => nomatch h
  | cons y ys ih =>
    intro m hm hp x hx
    obtain ⟨hy, hys⟩ := List.pairwise_cons.1 hp
    have hm' := mapSorted_mapSet m (key y) (val y) none hm nofun
    rcases List.mem_cons.1 hx with rfl | hx
    · refine (mapGet_foldl_mapSet_ne key val _ ys _ hm' fun z hz => (hy z hz).symm).trans ?_
      rw [mapGet_mapSet m _ _ _ hm, if_pos rfl]
    · exact ih _ hm' hys x hx

/-- Slots of a ring less than its size apart stand at different addresses. -/
theorem slotAddr_injective {base : W64} {size i a b : Nat} (hs : size ≤ 65536) (ha : a < size) (hb : b < size)
    (h : slotAddr base size (i + a) = slotAddr base size (i + b)) : a = b := by
  have hlt : ∀ k, 64 * ((i + k) % size) < 2 ^ 64 := fun k => by
    have := Nat.mod_lt (i + k) (show 0 < size by omega)
    omega
  have h1 : BitVec.ofNat 64 (64 * ((i + a) % size)) = BitVec.ofNat 64 (64 * ((i + b) % size)) :=
    BitVec.add_right_inj base |>.1 (BitVec.eq_of_toNat_eq h)
  have h2 : 64 * ((i + a) % size) = 64 * ((i + b) % size) := by
    simpa only [BitVec.toNat_ofNat, Nat.mod_eq_of_lt (hlt _)] using congrArg BitVec.toNat h1
  have h3 : (i + a) ≡ (i + b) [MOD size] := by unfold Nat.ModEq; omega
  exact Nat.ModEq.eq_of_lt_of_lt (Nat.ModEq.add_left_cancel' i h3) ha hb

/-- The host reads back the slots that it has placed, up to a ring of them. -/
theorem mapGet_withSlots {base : W64} {size : Nat} (i : Nat) {xs : List HostSlot} {m : KMap HostSlot} (hs : size ≤ 65536)
    (hx : xs.length ≤ size) (hm : mapSorted none m = true) {k : Nat} (hk : k < xs.length) :
    mapGet (withSlots base size i xs m) (slotAddr base size (i + k)) = some xs[k] := by
  refine mapGet_foldl_mapSet (fun p : HostSlot × Nat => slotAddr base size (i + p.2)) (·.1) xs.zipIdx m hm ?_ (xs[k], k) ?_
  · rw [List.pairwise_iff_getElem]
    intro a b ha hb hab
    simp only [List.length_zipIdx] at ha hb
    simp only [List.getElem_zipIdx, Nat.zero_add]
    exact fun h => hab.ne (slotAddr_injective hs (ha.trans_le hx) (hb.trans_le hx) h)
  · exact List.mk_mem_zipIdx_iff_getElem?.2 (List.getElem?_eq_getElem hk)

/-- The slots up to a new tail that has moved by no more than the ring's size. -/
theorem newSlots_add {size n : Nat} (old : W64) (hn : n ≤ size) (hs : size < 2 ^ 64) :
    newSlots size old (old + BitVec.ofNat 64 n) = (List.range n).map (old.toNat + ·) := by
  have hlt : n < 2 ^ 64 := by omega
  have hsub : (old + BitVec.ofNat 64 n - old).toNat = n := by
    rw [BitVec.add_comm, BitVec.add_sub_cancel, BitVec.toNat_ofNat, Nat.mod_eq_of_lt hlt]
  rcases Nat.eq_zero_or_pos n with rfl | hpos
  · rw [newSlots, if_pos (by simp)]
    rfl
  · have hne : old + BitVec.ofNat 64 n ≠ old := fun h => by
      rw [h, BitVec.sub_self] at hsub
      exact hpos.ne hsub
    rw [newSlots, if_neg hne]
    simp only [hsub]
    congr 2
    rcases hn.lt_or_eq with h | rfl
    · rw [Nat.mod_eq_of_lt h, if_neg hpos.ne']
    · rw [Nat.mod_self, if_pos rfl]

/-- Commands that the host has placed are what the device reads. -/
theorem State.hostCmd_withSlots {s : State} {base : W64} {size : Nat} (i : Nat) {cs : List CmdSlot} (hs : size ≤ 65536)
    (hx : cs.length ≤ size) (hm : mapSorted none s.hostMem = true) :
    ((List.range cs.length).map (i + ·)).map (fun j => State.hostCmd
      { s with hostMem := withSlots base size i (cs.map .cmd) s.hostMem } (slotAddr base size j)) = cs := by
  apply List.ext_getElem (by simp)
  intro k h1 h2
  have := mapGet_withSlots (base := base) i hs (xs := cs.map .cmd) (by simpa using hx) hm (k := k) (by simpa using h2)
  simp only [List.getElem_map, List.getElem_range, State.hostCmd, this]

/-- So are entries of a launch queue. -/
theorem State.hostEntry_withSlots {s : State} {base : W64} {size : Nat} (i : Nat) {es : List LqEntry} (hs : size ≤ 65536)
    (hx : es.length ≤ size) (hm : mapSorted none s.hostMem = true) :
    ((List.range es.length).map (i + ·)).map (fun j => State.hostEntry
      { s with hostMem := withSlots base size i (es.map .entry) s.hostMem } (slotAddr base size j)) = es := by
  apply List.ext_getElem (by simp)
  intro k h1 h2
  have := mapGet_withSlots (base := base) i hs (xs := es.map .entry) (by simpa using hx) hm (k := k) (by simpa using h2)
  simp only [List.getElem_map, List.getElem_range, State.hostEntry, this]

/-! ## MBTAIL -/

theorem isPow2_iff (n : Nat) : isPow2 n = true ↔ ∃ k, n = 2 ^ k := by
  simp only [isPow2, Bool.and_eq_true, bne_iff_ne, beq_iff_eq]
  constructor
  · rintro ⟨-, h⟩
    exact ⟨_, h.symm⟩
  · rintro ⟨k, rfl⟩
    exact ⟨by positivity, by rw [Nat.log2_two_pow]⟩

theorem Mailbox.ready_iff (m : Mailbox) :
    m.ready = true ↔ (∃ k, m.size.toNat = 2 ^ k) ∧ 16 ≤ m.size.toNat ∧ m.size.toNat ≤ 4096 := by
  rw [Mailbox.ready, Bool.and_eq_true, isPow2_iff, decide_eq_true_eq]

theorem exec_mbTailWrite (tail : W64) (cmds : List CmdSlot) (s : State) : exec (.mbTailWrite tail cmds) s
    = .next (State.takeTail { s with
        hostMem := withSlots s.mailbox.base s.mailbox.size.toNat s.mailbox.tail.toNat (cmds.map .cmd) s.hostMem } tail) := by
  show execMbTailWrite tail cmds s = _
  rw [execMbTailWrite, State.placeSlots_eq]

theorem State.takeTail_ready {s : State} (tail : W64) (h : s.mailbox.ready = true) :
    s.takeTail tail = { s with mailbox := { s.mailbox with
      tail := tail
      cmds := s.mailbox.cmds ++ (newSlots s.mailbox.size.toNat s.mailbox.tail tail).map fun i =>
        s.hostCmd (slotAddr s.mailbox.base s.mailbox.size.toNat i) } } := by
  simp only [State.takeTail, h, if_true]

theorem State.takeTail_notReady {s : State} (tail : W64) (h : ¬s.mailbox.ready = true) :
    s.takeTail tail = { s with mailbox := { s.mailbox with tail := tail } } := by
  simp only [State.takeTail, if_neg h, List.append_nil]

/-! ## Doorbells -/

theorem exec_doorbellWrite_none {d : Nat} {s : State} (tail : W64) (es : List LqEntry) (hd : d < 1024)
    (h : ∀ p ∈ s.lqs, p.2.doorbell ≠ d) :
    exec (.doorbellWrite d tail es) s = .next { s with errLog := s.errLog ++ [.doorbell (0x1000 + 8 * d) tail.toNat] } := by
  have hf : s.lqs.find? (fun p => p.2.doorbell == d) = none := by
    rw [List.find?_eq_none]
    exact fun p hp => by simpa using h p hp
  show execDoorbellWrite d tail es s = _
  simp only [execDoorbellWrite, if_pos hd, State.placeEntries, hf, State.ring]

theorem exec_doorbellWrite_some {d : Nat} {s : State} (tail : W64) (es : List LqEntry) (hd : d < 1024) {q : Nat} {x : LQueue}
    (h : s.lqs.find? (fun p => p.2.doorbell == d) = some (q, x)) :
    let u : State := { s with hostMem := withSlots x.ring x.entries x.tail.toNat (es.map .entry) s.hostMem }
    let new := (newSlots x.entries x.tail tail).map fun i => u.hostEntry (slotAddr x.ring x.entries i)
    exec (.doorbellWrite d tail es) s = .next (new.foldl (fun s e => s.hostRelease x.ctx e)
      { u with lqs := mapSet s.lqs q { x with tail := tail, waiting := x.waiting ++ new } }) := by
  show execDoorbellWrite d tail es s = _
  simp only [execDoorbellWrite, if_pos hd, State.placeEntries, h, State.placeSlots_eq, State.ring]

theorem State.hostRelease_stays {s : State} {c : Nat} {e : LqEntry}
    (h : ∀ y, s.node c e.node = some y → e.op ≠ 1 ∨ y.desc.ctl ≠ 2) : s.hostRelease c e = s := by
  have hf : ((s.node c e.node).filter fun y => e.op == 1 && y.desc.ctl == 2) = none := by
    rw [Option.filter_eq_none_iff]
    intro y hy
    simpa [Decidable.imp_iff_not_or] using h y hy
  simp only [State.hostRelease, hf]

theorem State.hostRelease_device {s : State} {c : Nat} {e : LqEntry} {y : Node} {o : Obj} (hy : s.node c e.node = some y)
    (he : e.op = 1) (hc : y.desc.ctl = 2) (ho : s.obj c (capObj (y.desc.ops.getD 0 0)) = some o) :
    s.hostRelease c e
      = s.teach (fun x => x.by_ == .host && x.ctx == c && s.mapsFrame c o (x.addr / 65536)) [.node c e.node] := by
  have hf : ((s.node c e.node).filter fun y => e.op == 1 && y.desc.ctl == 2) = some y := by
    rw [hy, Option.filter_some, if_pos (by simp [he, hc])]
  simp only [State.hostRelease, hf, ho]

/-! ## Registers -/

theorem State.placeEntries_nil (s : State) (d : Nat) : s.placeEntries d [] = s := by
  unfold State.placeEntries
  split <;> rfl

theorem exec_registerWrite_doorbell {d : Nat} (hd : d < 1024) (v : W64) (s : State) :
    exec (.registerWrite (BitVec.ofNat 64 (0x1000 + 8 * d)) v) s = exec (.doorbellWrite d v []) s := by
  have hn : (BitVec.ofNat 64 (0x1000 + 8 * d)).toNat = 0x1000 + 8 * d := by
    rw [BitVec.toNat_ofNat, Nat.mod_eq_of_lt (by omega)]
  show execRegisterWrite _ v s = execDoorbellWrite d v [] s
  rw [execDoorbellWrite, if_pos hd, State.placeEntries_nil]
  simp only [execRegisterWrite, hn]
  split
  · omega
  · omega
  · omega
  · omega
  · rw [if_pos (by omega)]
    congr 2
    omega

/-! ## SUBMIT -/

theorem exec_submit {c q : Nat} {s : State} {x : LQueue} {e : LqEntry} {rest : List LqEntry} (hq : q < 256)
    (hx : mapGet s.lqs (lqKey c q) = some x) (hw : x.waiting = e :: rest) :
    exec (.submit ⟨c, q⟩) s = .next (s.submitEntry q x e rest) := by
  show execSubmit ⟨c, q⟩ s = _
  simp only [execSubmit, if_neg (show ¬256 ≤ q by omega), hx, hw]

/-- A node that an entry makes live enters the callboard when its count is 0 (R396, R398). -/
theorem State.enterBoard_submitted {s : State} {c n : Nat} {y : Node} (hy : s.node c n = some y) (tag : W64) (place : Nat)
    (hc : y.complete = false) (hb : y.board = none) (hd : y.count ≠ 0 ∨ y.desc.ctl ≠ 0 ∨ y.desc.cueMask = 0) :
    let v := (s.modNode c n fun n => { n with live := true, tag := tag, place := place, order := s.stamp }).nextStamp
    v.enterBoard c n = if y.count = 0 then (v.modNode c n fun n => { n with
      board := some (if y.desc.ctl = 0 ∧ y.desc.qrec = 0 then s.stamp else s.stamp + 1) }).nextStamp else v := by
  intro v
  have hv : v.node c n = some { y with live := true, tag := tag, place := place, order := s.stamp } :=
    State.node_modNode_same hy _
  split
  · rename_i h0
    exact State.enterBoard_enters hv rfl h0 hb hc (hd.resolve_left (not_not_intro h0))
  · rename_i h0
    exact State.enterBoard_stays hv (.inl h0)

/-! ## CXL.mem -/

/-- An error response to an access that no HOST object serves (R118, R445). -/
theorem exec_cxlMemRead_error {addr : Nat} {s : State} (h41 : addr < 2 ^ 41) (h64 : addr % 64 = 0)
    (h : 2 ^ 40 ≤ addr ∨ s.hostFrame (addr / 65536) = none) :
    exec (.cxlMemRead addr) s = .next (s.cxlError addr false) := by
  show execCxlMemRead addr s = _
  rw [execCxlMemRead, if_neg (by omega)]
  rcases h with h | h
  · rw [if_pos (show isRaw addr = true from decide_eq_true h)]
  · simp only [h, ite_self]

theorem exec_cxlMemRead_frame {addr : Nat} {s : State} {c : Nat} {o : Obj} (h40 : addr < 2 ^ 40) (h64 : addr % 64 = 0)
    (h : s.hostFrame (addr / 65536) = some (c, o)) :
    exec (.cxlMemRead addr) s = .next (if s.badRead .hbm addr 64 then s.cxlError addr false else { s with
      cxlOut := s.cxlOut ++ [{ addr := addr, write := false, poison := false
                               data := s.readHome (s.keyOf c) .hbm addr 64 }] }) := by
  show execCxlMemRead addr s = _
  rw [execCxlMemRead, if_neg (by omega), if_neg (by simpa [isRaw] using h40)]
  simp only [h]

theorem exec_cxlMemWrite_error {addr : Nat} {s : State} {bs : List Byte} (h41 : addr < 2 ^ 41) (h64 : addr % 64 = 0)
    (hbs : bs.length = 64) (h : 2 ^ 40 ≤ addr ∨ s.hostFrame (addr / 65536) = none) :
    exec (.cxlMemWrite addr bs) s = .next (s.cxlError addr true) := by
  show execCxlMemWrite addr bs s = _
  rw [execCxlMemWrite, if_neg (by omega)]
  rcases h with h | h
  · rw [if_pos (show isRaw addr = true from decide_eq_true h)]
  · simp only [h, ite_self]

theorem exec_cxlMemWrite_frame {addr : Nat} {s : State} {bs : List Byte} {c : Nat} {o : Obj} (h40 : addr < 2 ^ 40)
    (h64 : addr % 64 = 0) (hbs : bs.length = 64) (h : s.hostFrame (addr / 65536) = some (c, o)) :
    exec (.cxlMemWrite addr bs) s = .next (if o.hostOwned = false then s.cxlError addr true
      else if (s.hostWrite c addr bs).2 then (s.hostWrite c addr bs).1.cxlError addr true
      else { (s.hostWrite c addr bs).1 with
        cxlOut := (s.hostWrite c addr bs).1.cxlOut ++ [{ addr := addr, write := true, poison := false, data := [] }] }) := by
  show execCxlMemWrite addr bs s = _
  rw [execCxlMemWrite, if_neg (by omega), if_neg (by simpa [isRaw] using h40)]
  simp only [h, Bool.not_eq_true']

/-! ## The obligation -/

/-- Settles O58: what the host writes to registers, doorbells and CXL.mem, and what it submits, does as R445 to R456 say. -/
theorem hostAccesses : Obligations.HostAccesses := by
  unfold Obligations.HostAccesses
  intro slot placed
  refine ⟨fun size n old => newSlots_add old, fun tail cmds s => ?_, fun d tail es s hd => ⟨fun h => ?_, fun q x hx => ?_⟩,
    fun c e s => ⟨fun h => ?_, fun y o hy he hc ho => ?_⟩, fun v s => ⟨rfl, rfl, rfl, rfl, fun d hd => ?_⟩,
    fun c q s x e rest hq hx hc hw => ?_, fun addr s h41 h64 => ?_⟩
  · intro m n u legal
    have hu : exec (.mbTailWrite tail cmds) s = .next (u.takeTail tail) := exec_mbTailWrite tail cmds s
    have hready : u.mailbox.ready = true ↔ legal := Mailbox.ready_iff m
    refine ⟨fun hl => ?_, fun hl hlen hm ht => ?_, fun hl => ?_, ?_⟩
    · rw [hu, State.takeTail_ready tail (hready.2 hl)]
      rfl
    · rw [hu, State.takeTail_ready tail (hready.2 hl)]
      have hread : (newSlots n m.tail tail).map (fun i => u.hostCmd (slotAddr m.base n i)) = cmds := by
        rw [ht, newSlots_add m.tail hlen (by omega)]
        exact State.hostCmd_withSlots _ (by omega) hlen hm
      refine congrArg (fun new => Host.Outcome.next { u with mailbox := { m with tail := tail, cmds := m.cmds ++ new } }) hread
    · rw [hu, State.takeTail_notReady tail fun h => hl (hready.1 h)]
    · exact (exec_mbTailWrite tail [] s).symm
  · exact exec_doorbellWrite_none tail es hd h
  · intro u given
    refine ⟨exec_doorbellWrite_some tail es hd hx, fun h0 h16 hlen hm ht => ?_⟩
    have hread : (newSlots x.entries x.tail tail).map (fun i => u.hostEntry (slotAddr x.ring x.entries i)) = es := by
      rw [ht, newSlots_add x.tail hlen (by omega)]
      exact State.hostEntry_withSlots _ h16 hlen hm
    exact (exec_doorbellWrite_some tail es hd hx).trans (congrArg (fun new => Host.Outcome.next (given new)) hread)
  · exact State.hostRelease_stays h
  · exact State.hostRelease_device hy he hc ho
  · exact exec_registerWrite_doorbell hd v s
  · subst hc
    intro place u
    refine ⟨fun y hy he hz hl hco hlq hd hb => ?_, fun hbad => ?_⟩
    · have hok : lqEntryOk (u.node x.ctx e.node) q e = true := by
        simp [lqEntryOk, show u.node x.ctx e.node = some y from hy, he, hz, hl, hco, hlq]
      refine (exec_submit hq hx hw).trans (congrArg _ ?_)
      rw [State.submitEntry, if_pos hok]
      exact State.enterBoard_submitted (s := u) hy e.tag place hco hb hd
    · have hok : ¬lqEntryOk (u.node x.ctx e.node) q e = true := by
        rcases hbad with h | h | h
        · simp [lqEntryOk, show u.node x.ctx e.node = none from h]
        · exact fun h1 => h (by simp [lqEntryOk] at h1; exact h1.1.1)
        · simp [lqEntryOk, h]
      refine (exec_submit hq hx hw).trans (congrArg _ ?_)
      rw [State.submitEntry, if_neg hok]
      rfl
  · intro bad
    refine ⟨fun h => ⟨exec_cxlMemRead_error h41 h64 h, fun bs hbs => exec_cxlMemWrite_error h41 h64 hbs h⟩,
      fun c o h40 h => ⟨fun hb => ?_, fun hb => ?_, fun bs hbs => ⟨fun ho => ?_, fun t => ?_⟩⟩⟩
    · rw [exec_cxlMemRead_frame h40 h64 h, if_neg (by simp [hb])]
    · rw [exec_cxlMemRead_frame h40 h64 h, if_pos hb]
      rfl
    · rw [exec_cxlMemWrite_frame h40 h64 hbs h, if_pos ho]
      rfl
    · intro w ho ht
      have ht' : s.hostWrite c addr bs = (t, false) := ht
      rw [exec_cxlMemWrite_frame h40 h64 hbs h, ht', if_neg (by simp [ho]), if_neg nofun]

end Sys2Proof.Machine
end

section
/-! PROOFS. Obligation O53: lines that arrive, are fetched again or park, and page walks (R105 to R107, R156 to R159, R432). -/

namespace Sys2Proof.Machine

/-! ## Translation does not look at the fetches and walks under way -/

theorem walkFrom_fetchesIrrelevant (s : State) (rs : List Refetch) (ws : List Walk) (stack va : Nat) : ∀ level table,
    walkFrom { s with refetches := rs, walks := ws } stack va level table = walkFrom s stack va level table
  | 0, _ => rfl
  | level + 1, table => by
    rw [walkFrom, walkFrom, walkFrom_fetchesIrrelevant s rs ws stack va level]
    rfl

theorem walk_fetchesIrrelevant (s : State) (rs : List Refetch) (ws : List Walk) (die c va : Nat) :
    walk { s with refetches := rs, walks := ws } die c va = walk s die c va := by
  simp only [walk, walkFrom_fetchesIrrelevant]
  rfl

theorem leafOf_fetchesIrrelevant (s : State) (rs : List Refetch) (ws : List Walk) (u : Looker) (c va : Nat) :
    leafOf { s with refetches := rs, walks := ws } u c va = leafOf s u c va := by
  simp only [leafOf, walk_fetchesIrrelevant]
  cases u <;> rfl

theorem translateAll_fetchesIrrelevant (s : State) (rs : List Refetch) (ws : List Walk) (u : Looker) (c : Nat) (acc : Acc) :
    ∀ ps, translateAll { s with refetches := rs, walks := ws } u c acc ps = translateAll s u c acc ps
  | [] => rfl
  | (va, k) :: ps => by
    have ht : translate { s with refetches := rs, walks := ws } u c va acc = translate s u c va acc := by
      simp only [translate, leafOf_fetchesIrrelevant]
      rfl
    rw [translateAll, translateAll, ht, translateAll_fetchesIrrelevant s rs ws u c acc ps]

theorem State.readCode_fetchesIrrelevant (s : State) (rs : List Refetch) (ws : List Walk) (c die core : Nat) (d : Desc) (off n : Nat) :
    State.readCode { s with refetches := rs, walks := ws } c die core d off n = s.readCode c die core d off n := by
  simp only [State.readCode, translateAll_fetchesIrrelevant]
  rfl

/-! ## A fault of the lanes that stand at one PC -/

theorem lanesIn_ne_nil {m : W64} (h : m ≠ 0) : lanesIn m ≠ [] := by
  intro hl
  refine h (BitVec.eq_of_getLsbD_eq fun l _ => ?_)
  have : l ∉ lanesIn m := by simp [hl]
  simpa using this

theorem eraseDups_of_forall_eq {α : Type} [BEq α] [LawfulBEq α] {xs : List α} {a : α} (hx : xs ≠ []) (h : ∀ x ∈ xs, x = a) :
    xs.eraseDups = [a] := by
  obtain ⟨y, ys, rfl⟩ := List.exists_cons_of_ne_nil hx
  obtain ⟨rfl, hys⟩ := List.forall_mem_cons.1 h
  have hf : ys.filter (fun b => !b == y) = [] := by
    rw [List.filter_eq_nil_iff]
    intro b hb
    simp [hys b hb]
  rw [List.eraseDups_cons, hf]
  rfl

/-- Lanes at one PC fault together. -/
theorem State.raiseAt_together {s : State} {gid w : Nat} {ls : List Nat} {pc : W64} (f : Flt) (hls : ls ≠ [])
    (h : ∀ l ∈ ls, ((s.warp gid w).lane l).pc = pc) :
    s.raiseAt gid w ls f = s.raise gid w pc (ls.map fun l => (l, f)) := by
  have hpcs : (ls.map fun l => ((s.warp gid w).lane l).pc).eraseDups = [pc] := by
    refine eraseDups_of_forall_eq (by simpa using hls) fun x hx => ?_
    obtain ⟨l, hl, rfl⟩ := List.mem_map.1 hx
    exact h l hl
  have hfilter : ls.filter (fun l => ((s.warp gid w).lane l).pc == pc) = ls :=
    List.filter_eq_self.2 fun l hl => by simp [h l hl]
  simp only [State.raiseAt, hpcs, List.foldl_cons, List.foldl_nil, hfilter]

/-- A failure of a line for lanes that stand at one PC and wait for nothing (R159). -/
theorem State.failLine_together {s : State} {gid w n : Nat} {g : Group} {pc : W64} (f : Flt) (hg : s.group gid = some g) :
    let want := (s.warp gid w).where (s.wantsLine gid g (s.warp gid w) n)
    want ≠ 0 → (∀ l, want.getLsbD l = true → ((s.warp gid w).lane l).pc = pc ∧ ((s.warp gid w).lane l).wait = .none) →
    s.failLine gid w n f = s.raise gid w pc ((lanesIn want).map fun l => (l, f)) := by
  intro want hne hpc
  have hid : s.modWarp gid w (fun x => x.modLanes want fun _ y => { y with wait := .none }) = s := by
    refine State.modWarp_id s gid w _ (Warp.modLanes_id _ _ _ fun l hl => ?_)
    show ({ (s.warp gid w).lane l with wait := Wait.none } : Lane) = _
    rw [← (hpc l hl).2]
  simp only [State.failLine, hg]
  rw [show s.modWarp gid w (fun x => x.modLanes _ fun _ y => { y with wait := .none }) = s from hid]
  exact State.raiseAt_together f (lanesIn_ne_nil hne) fun l hl => (hpc l ((mem_lanesIn _ _).1 hl)).1

/-! ## Lines -/

theorem State.group_cacheLeaf (s : State) (u : Looker) (c va gid : Nat) : (s.cacheLeaf u c va).group gid = s.group gid := by
  unfold State.cacheLeaf
  split
  · rfl
  · cases u <;> rfl

theorem State.cacheCode_eq {s : State} {gid : Nat} {g : Group} (hg : s.group gid = some g) (n : Nat) :
    s.cacheCode gid n = s.cacheLeaf (.code g.die g.core) g.ctx (s.lineVa g n) := by
  simp only [State.cacheCode, hg]

theorem State.enterLine_legal {bs : List Byte} (h : lineIllegal bs = 0) (s : State) (gid w n : Nat) :
    s.enterLine gid w n bs = s.modWarp gid w fun x => { x with lines := mapSet x.lines n bs } := by
  simp only [State.enterLine, h]

theorem State.enterLine_illegal {bs : List Byte} (h : lineIllegal bs ≠ 0) (s : State) (gid w n : Nat) :
    s.enterLine gid w n bs = s.failLine gid w n { code := .illegalLine, s45 := BitVec.ofNat 64 (lineIllegal bs) } := by
  unfold State.enterLine
  split
  · contradiction
  · rfl

theorem exec_lineFetchComplete_ok {k gid w n : Nat} {s : State} {g : Group} {raw : List Byte} (fl : List Nat)
    (hk : s.fetches[k]? = some (gid, w, n)) (hg : s.group gid = some g)
    (hraw : s.readCode g.ctx g.die g.core (s.desc g) (64 * n) 64 = .ok raw) :
    exec (.lineFetchComplete k fl) s = .next (if lineGood (flipBits raw fl) then
        (s.cacheLeaf (.code g.die g.core) g.ctx (s.lineVa g n)).enterLine gid w n (flipBits raw fl)
      else { s with refetches := s.refetches ++ [{ gid := gid, warp := w, line := n, first := flipBits raw fl }] }) := by
  show execLineFetchComplete k fl s = _
  simp only [execLineFetchComplete, hk, State.withLine, hg, hraw, State.cacheCode_eq hg]

theorem exec_lineRefetchComplete_ok {k : Nat} {s : State} {x : Refetch} {g : Group} {raw : List Byte} (fl : List Nat)
    (hk : s.refetches[k]? = some x) (hg : s.group x.gid = some g)
    (hraw : s.readCode g.ctx g.die g.core (s.desc g) (64 * x.line) 64 = .ok raw) :
    let bs := flipBits raw fl
    let u : State := { s with refetches := s.refetches.eraseIdx k }
    exec (.lineRefetchComplete k fl) s = .next (if lineGood bs then u.enterLine x.gid x.warp x.line bs
      else u.failLine x.gid x.warp x.line (if bs = x.first
        then { code := .lineParity, s45 := (lineParity bs ^^^ bs.getD 63 0).zeroExtend 64 }
        else { code := .machineCheck, s45 := 3 })) := by
  intro bs u
  have hu : u.group x.gid = some g := hg
  have hread : u.readCode g.ctx g.die g.core (u.desc g) (64 * x.line) 64 = .ok raw :=
    (s.readCode_fetchesIrrelevant _ s.walks _ _ _ _ _ _).trans hraw
  show execLineRefetchComplete k fl s = _
  simp only [execLineRefetchComplete, hk]
  change Host.Outcome.next (u.withLine _ _ _ _ _) = _
  simp only [State.withLine, hu, hread, apply_ite (u.failLine x.gid x.warp x.line)]
  rfl

theorem pairBit_of_lineWord {bs : List Byte} {k : Nat} (hk : k < 4) : pairBit bs k = (lineWord bs).getLsbD (5 + k) := by
  simp [pairBit, hk]

theorem lineIllegal_reserved {bs : List Byte} (h : (lineWord bs).extractLsb' 9 15 ≠ 0) : lineIllegal bs = 1 := by
  simp only [lineIllegal, if_pos h]

theorem lineIllegal_noPairs {bs : List Byte} (h : (lineWord bs).extractLsb' 9 15 = 0)
    (hp : (lineWord bs).extractLsb' 5 4 = 0) : lineIllegal bs = 0 := by
  have hbit : ∀ k < 4, pairBit bs k = false := fun k hk => by
    have := congrArg (fun x : BitVec 4 => x.getLsbD k) hp
    rw [pairBit_of_lineWord hk]
    simpa [BitVec.getLsbD_extractLsb', hk] using this
  have hpairs : (List.range 4).filter (pairBit bs) = [] :=
    List.filter_eq_nil_iff.2 fun k hk => by simp [hbit k (List.mem_range.1 hk)]
  simp [lineIllegal, h, hpairs]

theorem lineIllegal_overlap {bs : List Byte} (h : (lineWord bs).extractLsb' 9 15 = 0)
    (hp : (lineWord bs).extractLsb' 5 2 = 3) : lineIllegal bs = 2 := by
  have hbit : ∀ k < 2, pairBit bs k = true := fun k hk => by
    have := congrArg (fun x : BitVec 2 => x.getLsbD k) hp
    rw [pairBit_of_lineWord (by omega)]
    have h3 : (3#2).getLsbD k = true := by interval_cases k <;> rfl
    simpa only [BitVec.getLsbD_extractLsb', hk, decide_true, Bool.true_and] using this.trans h3
  have hany : ((List.range 4).filter (pairBit bs)).any (fun k => pairBit bs (k + 1)) = true :=
    List.any_eq_true.2 ⟨0, List.mem_filter.2 ⟨by simp, hbit 0 (by omega)⟩, hbit 1 (by omega)⟩
  simp only [lineIllegal, h, ne_eq, not_true_eq_false, if_false, hany, if_true]

/-! ## A fetch that parks -/

theorem State.partCheck_notDuet {s : State} {gid : Nat} {g : Group} (hg : s.group gid = some g)
    (hd : (s.desc g).isDuet = false) (w : Nat) : s.partCheck gid w = s := by
  simp only [State.partCheck, hg, hd, Bool.not_false, Bool.true_or, if_true]

theorem State.park_new {s : State} {gid w n : Nat} {g : Group} (hg : s.group gid = some g)
    (h : ∀ x ∈ s.walks, x.who ≠ .fetch gid w n) (va : Nat) : s.park gid w n va = { s with
      walks := s.walks ++ [{ who := .fetch gid w n, ctx := g.ctx, va := va }]
      notices := s.notices ++ [.pageAbsent g.ctx va] } := by
  have hany : (s.walks.any fun x => x.who == .fetch gid w n) = false := by simpa using h
  simp only [State.park, hg, hany, Bool.false_eq_true, if_false]

theorem exec_lineFetchComplete_absent {k gid w n va : Nat} {s : State} {g : Group} (fl : List Nat)
    (hk : s.fetches[k]? = some (gid, w, n)) (hg : s.group gid = some g)
    (hraw : s.readCode g.ctx g.die g.core (s.desc g) (64 * n) 64 = .error (.absent va)) :
    exec (.lineFetchComplete k fl) s = .next (s.parkLine gid w n va) := by
  show execLineFetchComplete k fl s = _
  simp only [execLineFetchComplete, hk, State.withLine, hg, hraw]

theorem State.parkLine_new {s : State} {gid w n : Nat} {g : Group} (hg : s.group gid = some g)
    (hd : (s.desc g).isDuet = false) (h : ∀ x ∈ s.walks, x.who ≠ .fetch gid w n) (va : Nat) :
    s.parkLine gid w n va = { s.modWarp gid w fun x =>
        x.modLanes ((s.warp gid w).where (s.wantsLine gid g (s.warp gid w) n)) fun _ y =>
          { y with wait := .page (y.wait.park n) } with
      walks := s.walks ++ [{ who := .fetch gid w n, ctx := g.ctx, va := va }]
      notices := s.notices ++ [.pageAbsent g.ctx va] } := by
  simp only [State.parkLine, hg]
  generalize hf : (fun x : Warp => x.modLanes _ fun _ y => { y with wait := .page (y.wait.park n) }) = f
  have hg' : (s.modWarp gid w f).group gid = some (g.modWarp w f) := by
    rw [State.modWarp, State.group_modGroup, if_pos rfl, hg]
    rfl
  rw [State.park_new hg' h]
  refine State.partCheck_notDuet (g := g.modWarp w f) ?_ ?_ w
  · exact hg'
  · exact hd

/-! ## Page walks -/

theorem exec_pageWalkComplete_absent {k : Nat} {s : State} {x : Walk} (hk : s.walks[k]? = some x)
    (h : leafOf s (s.walkerOf x.who) x.ctx x.va = .error .absent) : exec (.pageWalkComplete k) s = .next s := by
  show execPageWalkComplete k s = _
  simp only [execPageWalkComplete, hk, h]

theorem exec_pageWalkComplete_ok {k : Nat} {s : State} {x : Walk} {p : W64 × Nat} (hk : s.walks[k]? = some x)
    (h : leafOf s (s.walkerOf x.who) x.ctx x.va = .ok p) : exec (.pageWalkComplete k) s = .next
      ((State.cacheLeaf { s with walks := s.walks.eraseIdx k } (s.walkerOf x.who) x.ctx x.va).wake x) := by
  show execPageWalkComplete k s = _
  simp only [execPageWalkComplete, hk, h]

/-- No TLB holds the page: the leaf is the walk's. -/
theorem leafOf_miss {s : State} {u : Looker} {c va : Nat} (hn : s.isNever c va = false)
    (h : ∀ t ∈ s.firstLevel u ++ (s.die u.die).tlb, t.hits c va = false) : leafOf s u c va = walk s u.die c va := by
  have hf : (s.firstLevel u ++ (s.die u.die).tlb).find? (·.hits c va) = none :=
    List.find?_eq_none.2 fun t ht => by simp [h t ht]
  simp only [leafOf, hn, Bool.false_eq_true, if_false, hf]

theorem tlbAdd_miss {size : Nat} {t : Tlb} {l : List Tlb} (h : ∀ x ∈ l, x.hits t.ctx (t.page * 2 ^ t.bits) = false) :
    tlbAdd size t l = (t :: l).take size := by
  have ha : (l.any (·.hits t.ctx (t.page * 2 ^ t.bits))) = false := by simpa using h
  simp only [tlbAdd, ha, Bool.false_eq_true, if_false]

theorem State.modDie_congr {s : State} {d : Nat} {f h : Die → Die} (e : f (s.die d) = h (s.die d)) : s.modDie d f = s.modDie d h :=
  congrArg (fun ds => { s with dies := ds }) (listMod_congr s.dies d f h Die.reset fun _ => e)

theorem State.modCore_congr {s : State} {d c : Nat} {f h : Core → Core} (e : f (s.core d c) = h (s.core d c)) :
    s.modCore d c f = s.modCore d c h :=
  State.modDie_congr (congrArg (fun cs => { s.die d with cores := cs })
    (listMod_congr (s.die d).cores c f h (Core.reset c) fun _ => e))

/-- The second level of a die whose core changes. -/
theorem State.die_modCore_tlb (s : State) (d c : Nat) (f : Core → Core) : ((s.modCore d c f).die d).tlb = (s.die d).tlb := by
  simp only [State.die, State.modCore, State.modDie, listMod_getD]
  split <;> rfl

/-- The leaf of an operation's page is cached in the core and the die, when neither holds it (R107). -/
theorem State.cacheLeaf_data {s : State} {d k c va bits : Nat} {leaf : W64} (h : leafOf s (.data d k) c va = .ok (leaf, bits)) :
    let new : Tlb := { ctx := c, page := va / 2 ^ bits, bits := bits, leaf := leaf }
    (∀ t ∈ (s.core d k).dtlb ++ (s.die d).tlb, t.hits c (va / 2 ^ bits * 2 ^ bits) = false) →
    s.cacheLeaf (.data d k) c va = (s.modCore d k fun x => { x with dtlb := (new :: x.dtlb).take 512 }).modDie d fun x =>
      { x with tlb := (new :: x.tlb).take 16384 } := by
  intro new hmiss
  have hcore : s.modCore d k (fun x => { x with dtlb := tlbAdd 512 new x.dtlb })
      = s.modCore d k fun x => { x with dtlb := (new :: x.dtlb).take 512 } :=
    State.modCore_congr (congrArg (fun l => { s.core d k with dtlb := l })
      (tlbAdd_miss fun t ht => hmiss t (List.mem_append_left _ ht)))
  simp only [State.cacheLeaf, h]
  rw [hcore]
  refine State.modDie_congr (congrArg (fun l => { State.die _ d with tlb := l }) (tlbAdd_miss fun t ht => ?_))
  exact hmiss t (List.mem_append_right _ (State.die_modCore_tlb s d k _ ▸ ht))

/-! ## The obligation -/

/-- Settles O53: what becomes of lines and walks as they complete. -/
theorem instructionLines : Obligations.InstructionLines := by
  unfold Obligations.InstructionLines
  intro want fails entered together
  refine ⟨fun k gid w n fl s g raw hk hg hraw => ?_, fun k fl s x g raw hk hg hraw => ?_,
    fun k gid w n va fl s g hk hg hraw hd hw => ?_, fun bs => ⟨lineIllegal_reserved, fun hp h => lineIllegal_noPairs h hp,
      lineIllegal_overlap⟩, fun k s x hk => ⟨exec_pageWalkComplete_absent hk, ?_⟩⟩
  · intro bs good u
    have hgood : good → lineGood bs = true := fun h => beq_iff_eq.2 h
    have hbad : ¬good → ¬lineGood bs = true := fun h hb => h (beq_iff_eq.1 hb)
    have hu : u.group gid = some g := (State.group_cacheLeaf ..).trans hg
    rw [exec_lineFetchComplete_ok fl hk hg hraw]
    refine ⟨fun h hl => ?_, fun h => ?_, fun pc h hl ht => ?_⟩
    · rw [if_pos (hgood h), State.enterLine_legal hl]
    · rw [if_neg (hbad h)]
    · rw [if_pos (hgood h), State.enterLine_illegal hl]
      exact congrArg _ (State.failLine_together _ hu ht.1 ht.2)
  · intro bs sum u
    have hu : u.group x.gid = some g := hg
    rw [exec_lineRefetchComplete_ok fl hk hg hraw]
    refine ⟨fun h hl => ?_, fun pc h ht => ?_⟩
    · rw [if_pos (show lineGood bs = true from beq_iff_eq.2 h), State.enterLine_legal hl]
    · rw [if_neg (show ¬lineGood bs = true from fun hb => h (beq_iff_eq.1 hb))]
      exact congrArg _ (State.failLine_together _ hu ht.1 ht.2)
  · rw [exec_lineFetchComplete_absent fl hk hg hraw, State.parkLine_new hg hd hw]
  · intro leaf bits id y hwho hy hwalk hn hmiss new
    have hlook : s.walkerOf x.who = .data y.die y.core := by simp only [State.walkerOf, hwho, hy]
    have hhits : ∀ t ∈ (s.core y.die y.core).dtlb ++ (s.die y.die).tlb, ∀ a, a / 2 ^ bits = x.va / 2 ^ bits →
        t.hits x.ctx a = false := fun t ht a ha => by
      simpa [Tlb.hits] using hmiss t ht a ha
    have hleaf : leafOf s (.data y.die y.core) x.ctx x.va = .ok (leaf, bits) :=
      (leafOf_miss (u := .data y.die y.core) hn fun t ht => hhits t ht _ rfl).trans hwalk
    have hcache := State.cacheLeaf_data (s := { s with walks := s.walks.eraseIdx k })
      ((leafOf_fetchesIrrelevant s s.refetches _ _ _ _).trans hleaf)
      fun t ht => hhits t ht _ (Nat.mul_div_cancel _ (by positivity))
    rw [exec_pageWalkComplete_ok hk (hlook ▸ hleaf), hlook, hcache]
    simp only [State.wake, hwho]
    rfl

end Sys2Proof.Machine
end

section
/-! PROOFS. Obligation O56: the commands of the mailbox on contexts, objects, page tables and pools (R447, R448). -/

namespace Sys2Proof.Machine

/-- Writing what stands. -/
theorem mapSet_self {β : Type} {m : KMap β} {i : Nat} {x : β} (h : mapGet m i = some x) : mapSet m i x = m := by
  induction m with
  | nil => cases h
  | cons p m ih =>
    obtain ⟨k, v⟩ := p
    rw [mapGet] at h
    rw [mapSet]
    split_ifs at h ⊢ with hk hlt
    · rw [Option.some.inj h]
    · rw [ih h]

/-! ## Answers -/

theorem State.answerVal_ring {s : State} {c : Cmd} {x : CmdSlot} {rest : List CmdSlot} (st : Nat) (v : W64)
    (hm : s.mailbox.cmds = x :: rest) (hx : x.cmd = c) :
    let m := s.mailbox
    let r : Response := { status := st, value := v, report := .none }
    s.answerVal c st v = { s with
      mailbox := { m with cmds := rest, head := if m.size = 0 then m.head + 1 else (m.head + 1) % m.size
                          responses := m.responses ++ [r] }
      hostOut := s.hostOut ++ [{ addr := m.resp + 16 * m.head, bytes := r.bytes }] } := by
  simp only [State.answerVal, State.answerWith, hm, hx, if_true]

theorem State.answerVal_own {s : State} {c : Cmd} (st : Nat) (v : W64) (h : s.mailbox.cmds.head?.map (·.cmd) ≠ some c) :
    s.answerVal c st v = { s with mailbox := { s.mailbox with
      responses := s.mailbox.responses ++ [{ status := st, value := v, report := .none }] } } := by
  simp only [State.answerVal, State.answerWith]
  split
  · rename_i x xs hx
    rw [if_neg fun hc => h (by rw [hx, List.head?_cons, Option.map_some, hc])]
  · rfl

/-- A response changes the mailbox and what the device has written to the host alone. -/
theorem State.answerVal_eq (s : State) (c : Cmd) (st : Nat) (v : W64) :
    ∃ m out, s.answerVal c st v = { s with mailbox := m, hostOut := out } := by
  simp only [State.answerVal, State.answerWith]
  split
  · split
    · exact ⟨_, _, rfl⟩
    · exact ⟨_, _, rfl⟩
  · exact ⟨_, _, rfl⟩

/-- A response without a value of its own takes a free value. -/
theorem State.answer_eq (s : State) (c : Cmd) (st : Nat) :
    s.answer c st = { s.answerVal c st (Config.responseValue s.fresh) with fresh := s.fresh + 1 } := by
  obtain ⟨m, out, h⟩ := s.answerVal_eq c st (Config.responseValue s.fresh)
  rw [State.answer, h]
  rfl

theorem State.withCtx_some {s : State} {ctx : Nat} {x : Ctx} (h : s.ctx ctx = some x) (c : Cmd) (f : Ctx → State) :
    s.withCtx c ctx f = f x := by
  simp only [State.withCtx, h]

theorem State.withCtx_none {s : State} {ctx : Nat} (h : s.ctx ctx = none) (c : Cmd) (f : Ctx → State) :
    s.withCtx c ctx f = s.answer c stNotFound := by
  simp only [State.withCtx, h]

theorem State.modCtx_congr {s : State} {c : Nat} {f h : Ctx → Ctx} {x : Ctx} (hx : s.ctx c = some x) (e : f x = h x) :
    s.modCtx c f = s.modCtx c h :=
  congrArg (fun m => { s with ctxs := m }) (mapMod_congr s.ctxs c f h fun y hy => by
    cases hx.symm.trans (show s.ctx c = some y from hy)
    exact e)

/-! ## Contexts -/

theorem exec_ctxCreate_ok {c : CtxCreateArgs} {s : State} (h1 : 1 ≤ c.ctx) (h2 : c.ctx ≤ 4095) (hc : s.ctx c.ctx = none)
    (hu : ¬∃ p ∈ s.ctxs, p.2.scrim &&& c.scrim ≠ 0) :
    exec (.ctxCreate c) s = .next ((State.freshScrim { s with
      ctxs := mapSet s.ctxs c.ctx (Ctx.fresh (s.nextKey + 1) c.scrim), nextKey := s.nextKey + 1 } c.scrim).answer
        (.ctxCreate c) stOk) := by
  show execCtxCreate c s = _
  rw [execCtxCreate, if_neg (by simp only [hc, Option.isSome_none, Bool.false_eq_true, or_false]; omega), if_neg]
  simpa using hu

theorem exec_ctxCreate_refused {c : CtxCreateArgs} {s : State}
    (h : c.ctx = 0 ∨ 4095 < c.ctx ∨ (s.ctx c.ctx).isSome = true) :
    exec (.ctxCreate c) s = .next (s.answer (.ctxCreate c) stRefused) := by
  show execCtxCreate c s = _
  rw [execCtxCreate, if_pos h]

theorem exec_ctxCreate_noSpace {c : CtxCreateArgs} {s : State} (h1 : 1 ≤ c.ctx) (h2 : c.ctx ≤ 4095) (hc : s.ctx c.ctx = none)
    (hu : ∃ p ∈ s.ctxs, p.2.scrim &&& c.scrim ≠ 0) :
    exec (.ctxCreate c) s = .next (s.answer (.ctxCreate c) stNoSpace) := by
  show execCtxCreate c s = _
  rw [execCtxCreate, if_neg (by simp only [hc, Option.isSome_none, Bool.false_eq_true, or_false]; omega), if_pos]
  simpa using hu

theorem State.drainedCtx_iff (s : State) (c : Nat) : s.drainedCtx c = true
    ↔ (∀ x ∈ s.ops, x.ctx ≠ c) ∧ (∀ w ∈ s.writes, w.ctx ≠ c) ∧ ∀ p ∈ s.groups, p.2.ctx ≠ c := by
  simp only [State.drainedCtx, Bool.and_eq_true, Bool.not_eq_true', List.any_eq_false, beq_iff_eq, and_assoc]

/-- Nothing of a drained context is among operations, writes and groups. -/
theorem filter_ctx_ne {α : Type} {xs : List α} {f : α → Nat} {c : Nat} (h : ∀ x ∈ xs, f x ≠ c) :
    xs.filter (fun x => f x != c) = xs :=
  List.filter_eq_self.2 fun x hx => by simpa using h x hx

theorem exec_ctxDestroy_drained {c : Nat} {s : State} {x : Ctx} (hx : s.ctx c = some x) (hr : x.running = false)
    (hd : s.drainedCtx c = true) : exec (.ctxDestroy c) s = .next ((s.eraseCtx c).answer (.ctxDestroy c) stOk) := by
  show execCtxDestroy c s = _
  simp only [execCtxDestroy, State.withCtx_some hx, hr, Bool.false_eq_true, if_false, hd, if_true]

/-! ## Objects -/

/-- The extent of a loft object is of whole 64-byte units (R95). -/
theorem objOf_aligned {a : ObjInstallArgs} {o : Obj} (h : objOf a = some o) (hk : o.kind = .loft) : o.base % 64 = 0 := by
  obtain ⟨hbad, hval⟩ := Option.ite_none_left_eq_some.1 h
  have ho := Option.some.inj hval
  by_cases hl : ((a.w2.extractLsb' 12 2).toNat == 1) = true
  · simp only [hl, if_true, Bool.or_eq_true, bne_iff_ne, not_or, ne_eq, not_not] at hbad
    obtain ⟨⟨-, ⟨-, hbase⟩, -⟩, -⟩ := hbad
    rw [← ho]
    exact hbase
  · rw [← ho] at hk
    simp only [hl, Bool.false_eq_true, if_false] at hk
    split at hk <;> cases hk

/-- Units that are the owner's already stay as they are (R96). -/
theorem State.claimLoft_own {s : State} {d : Nat} {o : Obj} {key : Nat}
    (h : ∀ u, o.base / 64 ≤ u → u < (o.base + o.len) / 64 → mapGet s.loftOwner (d * 2 ^ 21 + u) = some key) :
    s.claimLoft d o key = s := by
  have hunit : ∀ u ∈ (List.range (o.len / 64)).map (fun k => o.base / 64 + k),
      mapGet s.loftOwner (d * 2 ^ 21 + u) = some key := fun u hu => by
    obtain ⟨k, hk, rfl⟩ := List.mem_map.1 hu
    exact h _ (by omega) (by have := List.mem_range.1 hk; omega)
  rw [State.claimLoft]
  revert hunit
  generalize (List.range (o.len / 64)).map (fun k => o.base / 64 + k) = us
  intro hunit
  induction us with
  | nil => rfl
  | cons u us ih =>
    obtain ⟨hu, hus⟩ := List.forall_mem_cons.1 hunit
    rw [List.foldl_cons]
    simp only [hu, if_true, mapSet_self hu]
    exact ih hus

theorem State.putHome_loftOwner (s : State) (key d a : Nat) (bs : List Byte) :
    (s.putHome key (.loft d) a bs).1.loftOwner = s.loftOwner := by
  have hfold : ∀ (kept : List Nat) (ps : List (Byte × Nat)) (t : State), (ps.foldl (fun s p =>
      if kept.contains ((a + p.2) / eccUnit (.loft d)) then s else s.poke key (.loft d) (a + p.2) [p.1]) t).loftOwner
      = t.loftOwner := by
    intro kept ps
    induction ps with
    | nil => exact fun _ => rfl
    | cons p ps ih =>
      intro t
      rw [List.foldl_cons, ih]
      split <;> rfl
  simp only [State.putHome]
  split
  · rfl
  · split
    · exact hfold _ _ _
    · exact hfold _ _ _

/-- One unit that was another owner's becomes zero (R96). -/
theorem State.claimLoft_other {s : State} {d : Nat} {o : Obj} {key old : Nat} (hb : o.base % 64 = 0) (hl : o.len = 64)
    (h : mapGet s.loftOwner (d * 2 ^ 21 + o.base / 64) = some old) (hne : old ≠ key) :
    s.claimLoft d o key = { (s.writeHome 0 (.loft d) o.base (List.replicate 64 0)).1 with
      loftOwner := mapSet s.loftOwner (d * 2 ^ 21 + o.base / 64) key } := by
  have hbase : o.base / 64 * 64 = o.base := by omega
  have hunits : (List.range (o.len / 64)).map (fun k => o.base / 64 + k) = [o.base / 64] := by rw [hl]; rfl
  have hown : ((s.writeHome 0 (.loft d) o.base (List.replicate 64 0)).1).loftOwner = s.loftOwner :=
    s.putHome_loftOwner 0 d _ _
  simp only [State.claimLoft, hunits, List.foldl_cons, List.foldl_nil, h, if_neg hne, hbase, hown]

theorem exec_objInstall_refused {a : ObjInstallArgs} {s : State} {x : Ctx} (hx : s.ctx a.ctx = some x)
    (h : a.idx = 0 ∨ (a.idx < sharedObj ∧ s.objQuiet a.ctx a.idx = true ∧ objOf a = none)) :
    exec (.objInstall a) s = .next (s.answer (.objInstall a) stRefused) := by
  show execObjInstall a s = _
  rw [execObjInstall, State.withCtx_some hx]
  split
  · rfl
  · rename_i hidx
    rcases h with h | ⟨-, hq, ho⟩
    · exact absurd (.inl h) hidx
    · simp only [hq, Bool.not_true, Bool.false_eq_true, if_false, ho, Option.bind_none]

theorem exec_objInstall_placed {a : ObjInstallArgs} {s t : State} {x : Ctx} {o : Obj} (hx : s.ctx a.ctx = some x)
    (h1 : 1 ≤ a.idx) (h2 : a.idx < sharedObj) (hq : s.objQuiet a.ctx a.idx = true) (ho : objOf a = some o)
    (ht : (s.objChanged a.ctx (· == a.idx)).place a.ctx a.idx x o = some t) :
    exec (.objInstall a) s = .next (t.answer (.objInstall a) stOk) := by
  show execObjInstall a s = _
  rw [execObjInstall, State.withCtx_some hx, if_neg (by omega), if_neg (by simp [hq])]
  simp only [ho, Option.bind_some, ht]

theorem State.place_unlofted {o : Obj} (h : o.kind ≠ .loft) (s : State) (c i : Nat) (x : Ctx) :
    s.place c i x o = some (s.modCtx c fun x => { x with objs := mapSet x.objs i o }) := by
  rw [State.place, if_pos h]

theorem State.place_absent {o : Obj} {x : Ctx} (h : o.kind = .loft) (hp : x.phys o.ldie = none) (s : State) (c i : Nat) :
    s.place c i x o = some (s.modCtx c fun x => { x with objs := mapSet x.objs i { o with placed := none } }) := by
  simp only [State.place, h, ne_eq, not_true_eq_false, if_false, hp]

theorem State.place_free {s : State} {o : Obj} {x : Ctx} {c i d : Nat} (h : o.kind = .loft) (hp : x.phys o.ldie = some d)
    (hf : s.loftFree d c i o = true) :
    s.place c i x o = some ((s.claimLoft d o x.key).modCtx c fun x => { x with
      objs := mapSet x.objs i { o with placed := some d } }) := by
  simp only [State.place, h, ne_eq, not_true_eq_false, if_false, hp, hf, if_true]

theorem exec_objInstall_free {a : ObjInstallArgs} {s : State} {x : Ctx} {o : Obj} {d : Nat} (hx : s.ctx a.ctx = some x)
    (h1 : 1 ≤ a.idx) (h2 : a.idx < sharedObj) (hq : s.objQuiet a.ctx a.idx = true) (ho : objOf a = some o)
    (hk : o.kind = .loft) (hp : x.phys o.ldie = some d) (hf : s.loftFree d a.ctx a.idx o = true) :
    exec (.objInstall a) s = .next ((((s.objChanged a.ctx (· == a.idx)).claimLoft d o x.key).modCtx a.ctx fun x => { x with
      objs := mapSet x.objs a.idx { o with placed := some d } }).answer (.objInstall a) stOk) := by
  have hf' : (s.objChanged a.ctx (· == a.idx)).loftFree d a.ctx a.idx o = true := hf
  exact exec_objInstall_placed hx h1 h2 hq ho (State.place_free hk hp hf')

theorem exec_objRemove_ok {c i : Nat} {s : State} {x : Ctx} (hx : s.ctx c = some x) (hi : (mapGet x.objs i).isSome = true)
    (hq : s.objQuiet c i = true) :
    exec (.objRemove c i) s = .next (((s.objChanged c (· == i)).modCtx c fun x => { x with objs := mapErase x.objs i }).answer
      (.objRemove c i) stOk) := by
  show execObjRemove c i s = _
  rw [execObjRemove, State.withCtx_some hx, if_neg (by rw [Option.isNone_iff_eq_none]; exact Option.isSome_iff_ne_none.1 hi),
    if_neg (by simp [hq])]

theorem exec_objRemove_notFound {c i : Nat} {s : State} {x : Ctx} (hx : s.ctx c = some x) (hi : mapGet x.objs i = none) :
    exec (.objRemove c i) s = .next (s.answer (.objRemove c i) stNotFound) := by
  show execObjRemove c i s = _
  rw [execObjRemove, State.withCtx_some hx, if_pos (by rw [hi]; rfl)]

theorem exec_load_loft {a : LoadArgs} {s : State} {x : Ctx} {o : Obj} {d : Nat} (hx : s.ctx a.ctx = some x)
    (ho : mapGet x.objs a.idx = some o) (hk : o.kind = .loft) (hd : o.placed = some d) (hl : a.off + a.data.length ≤ o.len) :
    exec (.load a) s = .next ((s.writeHome 0 (.loft d) (o.base + a.off) a.data).1.answer (.load a) stOk) := by
  show execLoad a s = _
  simp only [execLoad, State.withCtx_some hx, ho, if_neg (Nat.not_lt.2 hl), State.loadBytes, hk, hd]

theorem exec_load_refused {a : LoadArgs} {s : State} {x : Ctx} {o : Obj} (hx : s.ctx a.ctx = some x)
    (ho : mapGet x.objs a.idx = some o) (hl : o.len < a.off + a.data.length) :
    exec (.load a) s = .next (s.answer (.load a) stRefused) := by
  show execLoad a s = _
  simp only [execLoad, State.withCtx_some hx, ho, if_pos hl]

/-! ## Page tables -/

theorem bitsZero_of_extractLsb' {e : W64} {hi lo n : Nat} (hn : hi + 1 - lo = n) (h : e.extractLsb' lo n = 0) :
    bitsZero e hi lo = true := by
  have := congrArg BitVec.toNat h
  simpa [bitsZero, hn, BitVec.extractLsb'_toNat, BitVec.toNat_ushiftRight] using this

theorem exec_l3Write_ok {c i : Nat} {e : W64} {s : State} {x : Ctx} (hx : s.ctx c = some x) (hi : i < 1024)
    (h52 : e.extractLsb' 52 12 = 0) (h36 : e.extractLsb' 36 12 = 0) (h1 : e.extractLsb' 1 12 = 0) :
    exec (.l3Write c i e) s = .next ((((s.oldHome c).modCtx c fun x => { x with l3 := mapSet x.l3 i e }).shootdown c
      { level := 3, va := i * 2 ^ 46, entry := e }).answer (.l3Write c i e) stOk) := by
  have hz : (bitsZero e 63 52 && bitsZero e 47 36 && bitsZero e 12 1) = true := by
    rw [bitsZero_of_extractLsb' (n := 12) rfl h52, bitsZero_of_extractLsb' (n := 12) rfl h36,
      bitsZero_of_extractLsb' (n := 12) rfl h1]
    rfl
  show execL3Write c i e s = _
  rw [execL3Write, State.withCtx_some hx, if_neg (by simp [hz, hi])]

theorem exec_pteWrite_one {c : Nat} {s : State} {x y : Ctx} {p : PteArgs} {at_ : Nat} (hx : s.ctx c = some x)
    (hl : p.level ≤ 2) (hv : p.va < 2 ^ 56) (hy : (s.oldHome c).ctx c = some y)
    (ha : entryAddr (s.oldHome c) y p.level p.va = some at_) :
    exec (.pteWrite c [p]) s = .next ((((s.oldHome c).writeHome 0 .hbm at_ (bytesOfWord 8 p.entry.toNat)).1.shootdown c p).answer
      (.pteWrite c [p]) stOk) := by
  show execPteWrite c [p] s = _
  rw [execPteWrite, State.withCtx_some hx]
  simp only [State.writePtes, if_neg (show ¬(2 < p.level ∨ 2 ^ 56 ≤ p.va) by omega), hy, Option.bind_some, ha]

/-! ## PAGESTATE -/

theorem exec_pageState {c va : Nat} {s : State} {x : Ctx} (hx : s.ctx c = some x) (hv : va < 2 ^ 56) (present : Bool) :
    exec (.pageState c va present) s = .next ((if present then s.declarePresent c va else s.declareNever c va).answer
      (.pageState c va present) stOk) := by
  show execPageState c va present s = _
  simp only [execPageState, State.withCtx_some hx, if_neg (Nat.not_le.2 hv)]

/-- A page newly declared never arriving, when no received chunk of the context waits: what is parked on it ends (R433). -/
theorem State.declareNever_eq {s : State} {c va : Nat} {x : Ctx} (hx : s.ctx c = some x)
    (hn : x.never.contains (va / 65536) = false) (hc : ∀ y ∈ s.chunks, y.args.ctx ≠ c) :
    let mine := s.walks.filter fun y => y.ctx == c && y.va / 65536 == va / 65536
    s.declareNever c va = mine.foldl State.endNever { s.modCtx c fun x => { x with never := va / 65536 :: x.never } with
      walks := s.walks.filter fun y => !mine.contains y } := by
  intro mine
  have hwaits : ∀ f : ChunkIn → Bool, s.chunks.filter (fun y => y.args.ctx == c && f y) = [] := fun f =>
    List.filter_eq_nil_iff.2 fun y hy => by simp [hc y hy]
  have hmark : s.modCtx c (fun x => { x with never := if x.never.contains (va / 65536) then x.never else va / 65536 :: x.never })
      = s.modCtx c fun x => { x with never := va / 65536 :: x.never } :=
    State.modCtx_congr hx (by simp only [hn, Bool.false_eq_true, if_false])
  simp only [State.declareNever, hmark, hwaits, List.contains_nil, Bool.not_false, List.filter_true]
  rfl

theorem State.op_modOp {s : State} {id : Nat} {z : Op} (h : s.op id = some z) {f : Op → Op} (hf : ∀ y, (f y).id = y.id) :
    (s.modOp id f).op id = some (f z) := by
  simp only [State.op, State.modOp] at h ⊢
  have hz : (z.id == id) = true := List.find?_some (p := fun x : Op => x.id == id) h
  have hp : ((fun x : Op => x.id == id) ∘ fun x => if x.id == id then f x else x) = fun x => x.id == id := by
    funext y
    simp only [Function.comp]
    split
    · rw [hf]
    · rfl
  rw [List.find?_map, hp, h, Option.map_some, if_pos hz]

theorem State.endNever_op {s : State} {id c a : Nat} {z : Op} (h : s.op id = some z) :
    s.endNever { who := .op id, ctx := c, va := a }
      = (s.modOp id fun y => { y with parked := false }).startCopy { z with parked := false } none := by
  have hwake : (s.wake { who := .op id, ctx := c, va := a }).op id = some { z with parked := false } :=
    State.op_modOp h fun _ => rfl
  simp only [State.endNever, hwake]
  rfl

theorem State.isLapsed_iff {s : State} {o : Op} {x : Ctx} (hx : s.ctx o.ctx = some x) (va : Nat) :
    s.isLapsed o va = true ↔ ∃ p ∈ x.lapsed, p.1 = va / 65536 ∧ o.id < p.2 := by
  simp only [State.isLapsed, hx, Option.any_some, List.any_eq_true, Bool.and_eq_true, beq_iff_eq, decide_eq_true_eq]

/-! ## DIEMAP and FRAMEPOOL -/

theorem State.replace_unlofted (s : State) (c : Nat) (x : Ctx) {os : List (Nat × Obj)} (h : ∀ p ∈ os, p.2.kind ≠ .loft) :
    s.replace c x os = some s := by
  induction os with
  | nil => rfl
  | cons p os ih =>
    obtain ⟨hp, hos⟩ := List.forall_mem_cons.1 h
    rw [State.replace, if_neg fun hl => hp hl.1, ih hos]

/-- A map of eight dies, each physical die within 0 to 7, is legal. -/
theorem dieMap_legal {m : List (Option Nat)} (hm : m.length = 8) (hd : ∀ y ∈ m, ∀ d, y = some d → d < 8) :
    ¬(m.length ≠ 8 ∨ (m.any fun y => decide (8 ≤ y.getD 0)) = true) := by
  simp only [hm, ne_eq, not_true_eq_false, false_or, List.any_eq_true, decide_eq_true_eq, not_exists, not_and, not_le]
  intro y hy
  cases y with
  | none => exact Nat.zero_lt_succ 7
  | some d => exact hd _ hy d rfl

theorem State.anyOnCore_iff (s : State) (c : Nat) :
    (s.groups.any fun p => p.2.ctx == c && (p.2.res == .resident || p.2.res == .halted)) = true
      ↔ ∃ p ∈ s.groups, p.2.ctx = c ∧ (p.2.res = .resident ∨ p.2.res = .halted) := by
  simp only [List.any_eq_true, Bool.and_eq_true, Bool.or_eq_true, beq_iff_eq]

theorem exec_dieMap_busy {c : Nat} {s : State} {x : Ctx} {m : List (Option Nat)} (hx : s.ctx c = some x) (hm : m.length = 8)
    (hd : ∀ y ∈ m, ∀ d, y = some d → d < 8)
    (hon : ∃ p ∈ s.groups, p.2.ctx = c ∧ (p.2.res = .resident ∨ p.2.res = .halted)) :
    exec (.dieMap c m) s = .next (s.answer (.dieMap c m) stBusy) := by
  show execDieMap c m s = _
  rw [execDieMap, State.withCtx_some hx, if_neg (dieMap_legal hm hd), if_pos ((s.anyOnCore_iff c).2 hon)]

theorem exec_dieMap_unlofted {c : Nat} {s : State} {x : Ctx} {m : List (Option Nat)} (hx : s.ctx c = some x) (hm : m.length = 8)
    (hd : ∀ y ∈ m, ∀ d, y = some d → d < 8)
    (hon : ¬∃ p ∈ s.groups, p.2.ctx = c ∧ (p.2.res = .resident ∨ p.2.res = .halted))
    (hl : ∀ p ∈ x.objs, p.2.kind ≠ .loft) :
    exec (.dieMap c m) s = .next (((s.objChanged c fun _ => true).modCtx c fun x => { x with map := m }).answer
      (.dieMap c m) stOk) := by
  have hx' : (s.objChanged c fun _ => true).ctx c = some x := hx
  have hobjs : (x.objs.map fun p => (p.1, if p.2.kind = .loft ∧ p.2.placed ≠ Ctx.phys { x with map := m } p.2.ldie
      then { p.2 with placed := none } else p.2)) = x.objs :=
    (List.map_congr_left fun p hp => by rw [if_neg fun h => hl p hp h.1]; rfl).trans (List.map_id _)
  have hmap : ((s.objChanged c fun _ => true).modCtx c fun z => { z with map := m, objs := z.objs.map fun p =>
      (p.1, if p.2.kind = .loft ∧ p.2.placed ≠ Ctx.phys { x with map := m } p.2.ldie then { p.2 with placed := none } else p.2) })
      = (s.objChanged c fun _ => true).modCtx c fun x => { x with map := m } :=
    State.modCtx_congr hx' (by rw [hobjs])
  have hctx : ((s.objChanged c fun _ => true).modCtx c fun x => { x with map := m }).ctx c = some { x with map := m } :=
    (State.ctx_modCtx _ c c _).trans (by rw [if_pos rfl, hx']; rfl)
  show execDieMap c m s = _
  rw [execDieMap, State.withCtx_some hx, if_neg (dieMap_legal hm hd), if_neg fun h => hon ((s.anyOnCore_iff c).1 h)]
  simp only [hmap, hctx, Option.map_some, Option.getD_some, State.replace_unlofted _ _ _ hl]

theorem exec_framePool_ok {c : Nat} {s : State} {x : Ctx} {rs : List (Nat × Nat)} (hx : s.ctx c = some x)
    (h : ∀ r ∈ rs, r.1 % 65536 = 0 ∧ r.1 + 65536 * r.2 ≤ 2 ^ 40) :
    exec (.framePool c rs) s = .next ((s.modCtx c fun x => { x with pool := x.pool ++ rs }).answer (.framePool c rs) stOk) := by
  show execFramePool c rs s = _
  rw [execFramePool, State.withCtx_some hx, if_neg]
  simp only [List.any_eq_true, Bool.or_eq_true, bne_iff_ne, decide_eq_true_eq, not_exists, not_and, not_or, not_not, not_lt]
  exact h

/-! ## The obligation -/

/-- Settles O56: each command of the mailbox does what R448 says and answers with its status. -/
theorem mailboxMemory : Obligations.MailboxMemory := by
  unfold Obligations.MailboxMemory
  refine ⟨fun s c st v => ⟨fun x rest hm hx => State.answerVal_ring st v hm hx, State.answerVal_own st v, ⟨_, s.answer_eq c st⟩⟩,
    fun c s => ⟨exec_ctxCreate_ok, exec_ctxCreate_refused, exec_ctxCreate_noSpace⟩,
    fun c s hc => ⟨congrArg _ (State.withCtx_none hc _ _), fun i => congrArg _ (State.withCtx_none hc _ _),
      fun i e => congrArg _ (State.withCtx_none hc _ _)⟩,
    fun c s x hx hsorted => ?_⟩
  refine ⟨fun hr hd => ?_, fun a o ha h1 h2 hq ho => ?_, fun a ha h => ?_, fun i hi hq => exec_objRemove_ok hx hi hq,
    fun i hi => exec_objRemove_notFound hx hi, fun a o d ha ho hk hp hl => ?_, fun a o ha ho hl => ?_,
    fun i e hi h52 h36 h1 => exec_l3Write_ok hx hi h52 h36 h1, fun p y at_ hl hv hy ht => exec_pteWrite_one hx hl hv hy ht,
    fun va hv => ?_, fun o va ho hm => ?_, fun o va ho hm => ?_,
    fun m hm hd => ⟨exec_dieMap_busy hx hm hd, exec_dieMap_unlofted hx hm hd⟩, fun rs h => exec_framePool_ok hx h⟩
  · obtain ⟨hops, hwrites, hgroups⟩ := (s.drainedCtx_iff c).1 hd
    obtain ⟨m, out, ht⟩ := (s.eraseCtx c).answerVal_eq (.ctxDestroy c) stOk (Config.responseValue (s.eraseCtx c).fresh)
    refine ⟨_, exec_ctxDestroy_drained hx hr hd, ?_⟩
    rw [State.answer_eq, ht]
    refine ⟨(mapGet_mapErase s.ctxs c c hsorted).trans (if_pos rfl),
      fun d hne => (mapGet_mapErase s.ctxs c d hsorted).trans (if_neg hne), rfl, rfl, filter_ctx_ne hgroups,
      filter_ctx_ne hops, filter_ctx_ne hwrites, rfl⟩
  · subst ha
    refine ⟨fun hk => exec_objInstall_placed hx h1 h2 hq ho (State.place_unlofted hk _ _ _ _),
      fun hk hp => exec_objInstall_placed hx h1 h2 hq ho (State.place_absent hk hp _ _ _), fun d hk hp hf hu => ?_,
      fun d old hk hp hf hlen hold hne => ?_⟩
    · rw [exec_objInstall_free hx h1 h2 hq ho hk hp hf, State.claimLoft_own (s := s.objChanged a.ctx (· == a.idx)) hu]
      rfl
    · rw [exec_objInstall_free hx h1 h2 hq ho hk hp hf,
        State.claimLoft_other (s := s.objChanged a.ctx (· == a.idx)) (objOf_aligned ho hk) hlen hold hne]
      rfl
  · subst ha
    exact exec_objInstall_refused hx h
  · subst ha
    exact exec_load_loft hx ho hk hp hl
  · subst ha
    exact exec_load_refused hx ho hl
  · refine ⟨fun hn hc => ⟨fun hw => ?_, fun id a z hw ha hz => ?_⟩, exec_pageState hx hv true⟩
    · have hmine : (s.walks.filter fun y => y.ctx == c && y.va / 65536 == va / 65536) = [] :=
        List.filter_eq_nil_iff.2 fun y hy => by simpa using hw y hy
      refine (exec_pageState hx hv false).trans ?_
      simp only [Bool.false_eq_true, if_false, State.declareNever_eq hx hn hc, hmine, List.contains_nil, Bool.not_false,
        List.filter_true]
      rfl
    · have hmine : (s.walks.filter fun y => y.ctx == c && y.va / 65536 == va / 65536) = s.walks :=
        List.filter_eq_self.2 fun y hy => by
          rw [hw, List.mem_singleton] at hy
          simp [hy, ha]
      have hrest : (s.walks.filter fun y => !s.walks.contains y) = [] :=
        List.filter_eq_nil_iff.2 fun y hy => by simp [hy]
      refine (exec_pageState hx hv false).trans ?_
      simp only [Bool.false_eq_true, if_false, State.declareNever_eq hx hn hc, hmine, hrest]
      rw [hw]
      exact congrArg (fun t => Host.Outcome.next (State.answer t _ _)) (State.endNever_op hz)
  · exact (State.isLapsed_iff (ho ▸ hx) va).2 ⟨_, hm, rfl, Nat.lt_succ_self _⟩
  · rw [← Bool.not_eq_true, State.isLapsed_iff (ho ▸ hx)]
    rintro ⟨p, hp, hpage, hlt⟩
    exact Nat.not_lt.2 (hm p hp hpage) hlt

end Sys2Proof.Machine
end

section
/-! PROOFS. Obligation O41: `LDS`, `LDL` and `LDK` (R86 to R88, R97, R126, R132, R229, R231). -/

namespace Sys2Proof.Machine

/-! ## What a read of one agent leaves of the reads of another (R126) -/

/-- A recent write as an agent meets it: whether it knows the write, and all but who knows it. -/
def Recent.asMet (b : Agent) (e : Recent) : Recent × Bool := ({ e with known := [] }, b.knows e)

/-- A write on its way without the note that its agent has read it. -/
def PWrite.unseen (w : PWrite) : PWrite := { w with seen := false }

/-- `t` is `s` with notes on what agents other than `b` have read and know. -/
structure State.SameFor (b : Agent) (s t : State) : Prop where
  rest : t = { s with recent := t.recent, writes := t.writes, loads := t.loads, met := t.met }
  recent : t.recent.map (Recent.asMet b) = s.recent.map (Recent.asMet b)
  writes : t.writes.map PWrite.unseen = s.writes.map PWrite.unseen

namespace State.SameFor
variable {b : Agent} {s t u : State}

theorem refl (b : Agent) (s : State) : s.SameFor b s := ⟨rfl, rfl, rfl⟩

theorem trans (h : s.SameFor b t) (k : t.SameFor b u) : s.SameFor b u where
  rest := k.rest.trans (congrArg (fun x : State =>
    { x with recent := u.recent, writes := u.writes, loads := u.loads, met := u.met }) h.rest)
  recent := k.recent.trans h.recent
  writes := k.writes.trans h.writes

theorem of_notes (s : State) (ls : List Load) (ms : List (Agent × Rel)) : s.SameFor b { s with loads := ls, met := ms } :=
  ⟨rfl, rfl, rfl⟩

theorem teach (s : State) (p : Recent → Bool) {a : Agent} (hb : b ≠ a) (hg : ∀ g, a ≠ .group g) :
    s.SameFor b (s.teach p [a]) where
  rest := rfl
  writes := rfl
  recent := by
    refine (List.map_map ..).trans (List.map_congr_left fun e _ => ?_)
    have hknows : b.knows { e with known := e.known ++ [a].filter fun x => !e.known.contains x } = b.knows e := by
      have hc : ∀ x, x ≠ a → (e.known ++ [a].filter fun x => !e.known.contains x).contains x = e.known.contains x := by
        intro x hx
        rw [Bool.eq_iff_iff]
        simp only [List.contains_iff_mem, List.mem_append, List.mem_filter, List.mem_singleton, hx, false_and, or_false]
      simp only [Agent.knows, hc b hb, hc _ (hg _).symm]
    simp only [Function.comp]
    split
    · exact congrArg (Prod.mk _) hknows
    · rfl

theorem stamp (h : s.SameFor b t) : t.stamp = s.stamp := by rw [h.rest]

theorem badRead (h : s.SameFor b t) (sp : Space) (a n : Nat) : t.badRead sp a n = s.badRead sp a n := by
  rw [h.rest]
  cases sp <;> rfl

/-- The two states miss the same writes. -/
theorem misses (h : s.SameFor b t) (x : Stand) (hx : x.agent = b) {e f : Recent} (hf : f.asMet b = e.asMet b) :
    t.misses x f = s.misses x e := by
  have hk : b.knows f = b.knows e := congrArg (fun p : Recent × Bool => p.2) hf
  have hid : f.id = e.id := congrArg (fun p : Recent × Bool => p.1.id) hf
  have hord : f.ord = e.ord := congrArg (fun p : Recent × Bool => p.1.ord) hf
  have hctx : f.ctx = e.ctx := congrArg (fun p : Recent × Bool => p.1.ctx) hf
  have hby : f.by_ = e.by_ := congrArg (fun p : Recent × Bool => p.1.by_) hf
  have hwide : f.wide = e.wide := congrArg (fun p : Recent × Bool => p.1.wide) hf
  rw [h.rest]
  simp only [State.misses, Stand.sees, hx, hid, hord, hctx, hby, hwide, hk]
  rfl

theorem seenAt (h : s.SameFor b t) (x : Stand) (hx : x.agent = b) (sp : Space) (i : Nat) (es : List Recent) :
    ∀ (fs : List Recent) (v : Byte), fs.map (Recent.asMet b) = es.map (Recent.asMet b) →
    (t.seenAt x sp i fs v).1 = (s.seenAt x sp i es v).1 := by
  induction es with
  | nil =>
    intro fs v hm
    rw [List.map_nil, List.map_eq_nil_iff] at hm
    rw [hm]
    rfl
  | cons e es ih =>
    intro fs v hm
    obtain ⟨f, fs, rfl, hf, hfs⟩ := List.map_eq_cons_iff.1 hm
    have hspace : f.space = e.space := congrArg (fun p : Recent × Bool => p.1.space) hf
    have haddr : f.addr = e.addr := congrArg (fun p : Recent × Bool => p.1.addr) hf
    have hold : f.old = e.old := congrArg (fun p : Recent × Bool => p.1.old) hf
    simp only [State.seenAt, hspace, haddr, hold, h.misses x hx hf]
    split
    · exact ih fs v hfs
    · split
      · exact ih fs _ hfs
      · rfl

theorem ownAt (h : s.SameFor b t) (sp : Space) (i : Nat) : t.ownAt b sp i = s.ownAt b sp i := by
  have hmap : ∀ ws : List PWrite, ws.foldl (fun r w =>
      if w.agent == b && touches w.space w.addr w.bytes.length sp i 1 then some (w.bytes.getD (i - w.addr) 0) else r) none
      = (ws.map PWrite.unseen).foldl (fun r w =>
      if w.agent == b && touches w.space w.addr w.bytes.length sp i 1 then some (w.bytes.getD (i - w.addr) 0) else r) none :=
    fun ws => by rw [List.foldl_map]; rfl
  rw [State.ownAt, State.ownAt, hmap, hmap s.writes, h.writes]

theorem stand (h : s.SameFor b t) (a : Agent) : t.stand a = s.stand a := by
  rw [h.rest]
  rfl

end State.SameFor

theorem State.stand_agent (s : State) (a : Agent) : (s.stand a).agent = a := by
  unfold State.stand
  split <;> rfl

/-- The agent reads the same bytes. -/
theorem State.SameFor.readAs {b : Agent} {s t : State} (h : s.SameFor b t) (key : Nat) (sp : Space) (i n : Nat) :
    t.readAs b key sp i n = s.readAs b key sp i n := by
  have hhome : t.readHome key sp i n = s.readHome key sp i n := by
    rw [h.rest]
    cases sp <;> rfl
  have hrev : t.recent.reverse.map (Recent.asMet b) = s.recent.reverse.map (Recent.asMet b) := by
    rw [List.map_reverse, List.map_reverse, h.recent]
  simp only [State.readAs, hhome, h.ownAt, h.stand]
  exact List.map_congr_left fun p _ => by
    rw [h.seenAt _ (s.stand_agent b) sp _ _ _ _ hrev]

/-- A read of one agent leaves the reads of another as they are. -/
theorem State.SameFor.noteRead {b a : Agent} (s : State) (hb : b ≠ a) (hg : ∀ g, a ≠ .group g) (sp : Space) (i n : Nat)
    (acq : Option Scope) : s.SameFor b (s.noteRead a sp i n acq) := by
  have hnone : ∀ es : List Recent, s.SameFor b (s.noteFrom a es sp i n none) := fun es =>
    (State.SameFor.teach s _ hb hg).trans (State.SameFor.of_notes (s.teach _ [a]) _ _)
  have hfrom : ∀ es : List Recent, s.SameFor b (s.noteFrom a es sp i n acq) := by
    intro es
    cases acq with
    | none => exact hnone es
    | some sc =>
      have hacq : ∀ (t : State) (rels : List Rel), t.SameFor b (t.acquire (s.stand a) sc rels) := by
        intro t rels
        rw [State.acquire, State.stand_agent]
        exact .teach _ _ hb hg
      exact (hnone es).trans (hacq _ (es.flatMap (·.rels)))
  refine (hfrom _).trans ⟨rfl, rfl, ?_⟩
  refine (List.map_map ..).trans (List.map_congr_left fun w _ => ?_)
  simp only [Function.comp]
  split <;> rfl

/-! ## The value of a load (R231) -/

theorem leNat_lt (bs : List Byte) : leNat bs < 2 ^ (8 * bs.length) := by
  induction bs with
  | nil => exact Nat.one_pos
  | cons b bs ih =>
    have hb := b.isLt
    have hpow : 2 ^ (8 * (b :: bs).length) = 256 * 2 ^ (8 * bs.length) := by
      rw [List.length_cons, Nat.mul_succ, Nat.add_comm, Nat.pow_add]
    show b.toNat + 256 * leNat bs < _
    omega

/-- The bytes of a load, extended as SX says. -/
theorem loadVal_eq (m : MemMod) {bs : List Byte} (h : leNat bs < 2 ^ (8 * memBytes m)) :
    loadVal m bs = BitVec.ofInt 64 (if m.sx = true ∧ m.size ≠ 3 ∧ 2 ^ (8 * memBytes m - 1) ≤ leNat bs
      then (leNat bs : Int) - 2 ^ (8 * memBytes m) else leNat bs) := by
  rw [loadVal]
  by_cases h3 : m.size = 3
  · rw [if_pos h3, if_neg fun h => h.2.1 h3]
    exact (BitVec.ofInt_natCast 64 _).symm
  · have hmod : ((leNat bs : Int) % 2 ^ (8 * memBytes m)).toNat = leNat bs := by
      rw [Int.emod_eq_of_lt (by positivity) (by exact_mod_cast h), Int.toNat_natCast]
    rw [if_neg h3, extInt, hmod, toNum]
    simp only [h3, ne_eq, not_false_eq_true, true_and, Bool.and_eq_true, decide_eq_true_eq]

theorem readBytes_length (m : Memory) (n : Nat) : ∀ a, (readBytes m a n).length = n := by
  induction n with
  | zero => exact fun _ => rfl
  | succ n ih => exact fun a => congrArg (· + 1) (ih _)

theorem State.readAs_length (s : State) (a : Agent) (key : Nat) (sp : Space) (i n : Nat) : (s.readAs a key sp i n).length = n := by
  rw [State.readAs, List.length_map, List.length_zipIdx]
  unfold State.readHome
  split
  · split
    · exact List.length_replicate
    · exact readBytes_length ..
  · exact readBytes_length ..
  · rw [List.length_map, List.length_range]

/-! ## The accesses of the issuing lanes (R29, R232) -/

/-- The lane whose access gives a lane its result. -/
def Run.src (r : Run) (l : Nat) : Nat := if isS r.o.d then r.act.headD 0 else l

theorem Run.from_eq_src {r : Run} {l : Nat} (hl : l ∈ r.act) : r.from l = r.src l := by
  rw [Run.from, Run.src]
  cases h : r.act with
  | nil =>
    rw [h] at hl
    cases hl
  | cons a as => rfl

theorem Run.src_mem {r : Run} {l : Nat} (hl : l ∈ r.act) : r.src l ∈ r.act := by
  rw [Run.src]
  split
  · cases h : r.act with
    | nil =>
      rw [h] at hl
      cases hl
    | cons a as => exact List.mem_cons_self
  · exact hl

theorem Run.src_src (r : Run) (l : Nat) : r.src (r.src l) = r.src l := by
  unfold Run.src
  split <;> rfl

/-- Lanes read the operands of the lane whose access they share. -/
theorem Run.rd32_src {r : Run} {l : Nat} (hl : l ∈ r.act) (i : BitVec 8) : r.rd32 (r.src l) i = r.rd32 l i := by
  have h : r.from (r.src l) = r.from l := by
    rw [Run.from_eq_src (Run.src_mem hl), Run.src_src, Run.from_eq_src hl]
  simp only [Run.rd32, h]

theorem Run.rd64_src {r : Run} {l : Nat} (hl : l ∈ r.act) (e : Ext) (i : BitVec 8) : r.rd64 e (r.src l) i = r.rd64 e l i := by
  have h : r.from (r.src l) = r.from l := by
    rw [Run.from_eq_src (Run.src_mem hl), Run.src_src, Run.from_eq_src hl]
  simp only [Run.rd64, h]

/-- The lanes that access memory. -/
def Run.accessors (r : Run) : List Nat := if isS r.o.d then r.act.take 1 else r.act

theorem Run.accessors_sublist (r : Run) : r.accessors.Sublist r.act := by
  unfold Run.accessors
  split
  · exact List.take_sublist ..
  · exact .refl _

/-- The results of the accesses: those of the lanes that make them. -/
theorem Run.accesses_eq {r : Run} {f : State → Nat → State × Res} {s t : State} {val : Nat → Res}
    (h : r.accessors.foldl (fun (acc : State × List (Nat × Res)) l => ((f acc.1 l).1, acc.2 ++ [(l, (f acc.1 l).2)])) (s, [])
      = (t, r.accessors.map fun l => (l, val l))) :
    r.accesses f s = (t, r.act.map fun l => (l, val (r.src l))) := by
  simp only [Run.accessors] at h
  simp only [Run.accesses, h, Run.src]
  split
  · cases r.act with
    | nil => rfl
    | cons a as => rfl
  · rfl

/-- Accesses that leave the state as it is. -/
theorem Run.accesses_const {r : Run} {f : State → Nat → State × Res} {s : State} {val : Nat → Res}
    (h : ∀ l ∈ r.act, f s l = (s, val l)) : r.accesses f s = (s, r.act.map fun l => (l, val (r.src l))) := by
  have key : ∀ (ls : List Nat) (acc : List (Nat × Res)), (∀ l ∈ ls, f s l = (s, val l)) →
      ls.foldl (fun (acc : State × List (Nat × Res)) l => ((f acc.1 l).1, acc.2 ++ [(l, (f acc.1 l).2)])) (s, acc)
      = (s, acc ++ ls.map fun l => (l, val l)) := by
    intro ls
    induction ls with
    | nil => exact fun acc _ => by rw [List.map_nil, List.append_nil]; rfl
    | cons l ls ih =>
      intro acc hls
      obtain ⟨hl, hls⟩ := List.forall_mem_cons.1 hls
      rw [List.foldl_cons, hl, ih _ hls, List.append_assoc]
      rfl
  exact Run.accesses_eq (key _ [] fun l hl => h l (r.accessors_sublist.subset hl))

/-! ## Loads from legal locations -/

/-- What the load of a lane notes: what it has read, and its memory request when the load is long (R2, R126, R132). -/
def State.loadNotes (r : Run) (m : MemMod) (p : Nat → Loc) (long : Bool) (stamp : Nat) (u : State) (l : Nat) : State :=
  let v := u.noteRead (.lane r.gid r.w l) (p l).space (p l).addr (memBytes m)
    (if (m.kind = .acquire ∨ m.kind = .acqRel) ∧ (p l).ord ≠ .uo then some (scopeAt (p l).space m.scope) else none)
  { v with loads := v.loads ++ if long = true then
      [{ id := stamp, gid := r.gid, warp := r.w, lane := l, space := (p l).space, addr := (p l).addr, bytes := memBytes m
         signed := m.sx
         fixed := !decide ((m.kind = .plain ∨ m.kind = .release) ∧ (p l).ord ≠ .so ∧ r.d.isRehearsal = false) }]
      else [] }

/-- What a lane loads. -/
def State.loaded (u : State) (r : Run) (m : MemMod) (p : Nat → Loc) (l : Nat) : Res :=
  .ofVal (loadVal m (u.readAs (r.agent l) 0 (p l).space (p l).addr (memBytes m)))

theorem acquireAt_eq (k : OrdKind) (sc : Scope) (p : Loc) : acquireAt k sc p
    = if (k = .acquire ∨ k = .acqRel) ∧ p.ord ≠ .uo then some (scopeAt p.space sc) else none := by
  cases k <;> simp [acquireAt]

theorem Run.mayWait_eq (r : Run) (k : OrdKind) (p : Loc) :
    r.mayWait k p = decide ((k = .plain ∨ k = .release) ∧ p.ord ≠ .so ∧ r.d.isRehearsal = false) := by
  rw [Bool.eq_iff_iff]
  simp only [Run.mayWait, Bool.and_eq_true, Bool.or_eq_true, beq_iff_eq, bne_iff_ne, Bool.not_eq_true', decide_eq_true_eq, and_assoc]

theorem State.loadAt_ok {t : State} {r : Run} {m : MemMod} {l : Nat} {p : Nat → Loc} (long : Bool)
    (h : t.badRead (p l).space (p l).addr (memBytes m) = false) :
    t.loadAt r m long l (.ok (p l)) = (t.loadNotes r m p long t.stamp l,
      .ofVal (loadVal m (t.readAs (r.agent l) 0 (p l).space (p l).addr (memBytes m)))) := by
  have hst : ∀ a sp i n acq, (t.noteRead a sp i n acq).stamp = t.stamp := fun a sp i n acq => by
    cases acq <;> rfl
  simp only [State.loadAt, h, Bool.false_eq_true, if_false, State.loadNotes, acquireAt_eq, Run.mayWait_eq, State.request]
  cases long
  · simp only [Bool.false_eq_true, if_false, List.append_nil]
    rfl
  · simp only [hst]
    rfl

theorem State.loadNotes_groups (r : Run) (m : MemMod) (p : Nat → Loc) (long : Bool) (k : Nat) (u : State) (l : Nat) :
    (u.loadNotes r m p long k l).groups = u.groups := by
  have h : ∀ a sp i n acq, (u.noteRead a sp i n acq).groups = u.groups := fun a sp i n acq => by cases acq <;> rfl
  exact h ..

theorem State.SameFor.loadNotes (u : State) {r : Run} {l k : Nat} (hlk : k ≠ l) (m : MemMod) (p : Nat → Loc) (long : Bool)
    (i : Nat) : u.SameFor (r.agent k) (u.loadNotes r m p long i l) :=
  (State.SameFor.noteRead u (fun h => hlk (Agent.lane.inj h).2.2) (fun _ h => by cases h) ..).trans (.of_notes _ _ (State.met _))

/-- The loads of lanes, each of which reads what it would read first: a lane's read tells other lanes nothing. -/
theorem State.foldl_loadAt {r : Run} {m : MemMod} {p : Nat → Loc} {u : State} (long : Bool) : ∀ (ls : List Nat) (t : State)
    (acc : List (Nat × Res)), ls.Nodup → (∀ l ∈ ls, u.SameFor (r.agent l) t) →
    (∀ l ∈ ls, u.badRead (p l).space (p l).addr (memBytes m) = false) →
    ls.foldl (fun (acc : State × List (Nat × Res)) l => ((acc.1.loadAt r m long l (.ok (p l))).1,
      acc.2 ++ [(l, (acc.1.loadAt r m long l (.ok (p l))).2)])) (t, acc)
    = (ls.foldl (State.loadNotes r m p long u.stamp) t,
       acc ++ ls.map fun l => (l, u.loaded r m p l)) := by
  intro ls
  induction ls with
  | nil => exact fun t acc _ _ _ => by rw [List.map_nil, List.append_nil]; rfl
  | cons l ls ih =>
    intro t acc hnd hsame hbad
    obtain ⟨hl, hnd⟩ := List.nodup_cons.1 hnd
    obtain ⟨hsl, hsame⟩ := List.forall_mem_cons.1 hsame
    obtain ⟨hbl, hbad⟩ := List.forall_mem_cons.1 hbad
    have hstep := State.loadAt_ok (t := t) (r := r) (m := m) (l := l) (p := p) long ((hsl.badRead ..).trans hbl)
    rw [hsl.stamp, hsl.readAs] at hstep
    rw [List.foldl_cons, List.foldl_cons, List.map_cons]
    simp only [hstep]
    rw [ih _ _ hnd (fun k hk => (hsame k hk).trans (.loadNotes t (fun h : k = l => hl (h ▸ hk)) m p long _)) hbad, List.append_assoc]
    rfl

theorem State.foldl_loadNotes_groups (r : Run) (m : MemMod) (p : Nat → Loc) (long : Bool) (k : Nat) (ls : List Nat) :
    ∀ u : State, (ls.foldl (State.loadNotes r m p long k) u).groups = u.groups := by
  induction ls with
  | nil => exact fun _ => rfl
  | cons l ls ih => exact fun u => (ih _).trans (State.loadNotes_groups ..)

/-- The loads of a run's lanes from legal locations. -/
theorem Run.loads_ok {r : Run} {m : MemMod} {loc : Nat → Except MemFlt Loc} {p : Nat → Loc} {u : State} (long : Bool)
    (hnd : r.act.Nodup) (hp : ∀ l ∈ r.act, loc l = .ok (p l))
    (hb : ∀ l ∈ r.act, u.badRead (p l).space (p l).addr (memBytes m) = false) {res : Nat → Res}
    (hres : ∀ l ∈ r.act, res l = u.loaded r m p (r.src l)) :
    r.accesses (fun t l => t.loadAt r m long l (loc l)) u
      = (r.accessors.foldl (State.loadNotes r m p long u.stamp) u, r.act.map fun l => (l, res l)) := by
  have hacc : ∀ l ∈ r.accessors, l ∈ r.act := fun l hl => r.accessors_sublist.subset hl
  rw [List.map_congr_left fun l hl => congrArg (Prod.mk l) (hres l hl)]
  refine Run.accesses_eq (Eq.trans (List.foldl_ext _ _ _ fun acc l hl => ?_) (State.foldl_loadAt long r.accessors u []
    (hnd.sublist r.accessors_sublist) (fun l _ => .refl _ u) fun l hl => hb l (hacc l hl)))
  rw [hp l (hacc l hl)]

/-- Those of a run whose lanes have no legal location. -/
theorem Run.loads_error {r : Run} {m : MemMod} {loc : Nat → Except MemFlt Loc} {f : Nat → MemFlt} (u : State) (long : Bool)
    (hf : ∀ l ∈ r.act, loc l = .error (f l)) :
    r.accesses (fun t l => t.loadAt r m long l (loc l)) u = (u, r.act.map fun l => (l, (f (r.src l)).res long)) :=
  Run.accesses_const (val := fun l => (f l).res long) fun l hl => by rw [hf l hl]; rfl

/-- The lanes' own atomics on what they access have acted (R146). -/
def State.ownActed (s : State) (r : Run) (n : Nat) (p : Nat → Loc) : State :=
  r.act.foldl (fun u l => u.settleOwn (.lane r.gid r.w l) (p l).space (p l).addr n) s

theorem State.ownFirst_ok {r : Run} {loc : Nat → Except MemFlt Loc} {p : Nat → Loc} (s : State) (n : Nat)
    (hp : ∀ l ∈ r.act, loc l = .ok (p l)) : s.ownFirst r n loc = s.ownActed r n p :=
  List.foldl_ext _ _ _ fun t l hl => by rw [hp l hl]; rfl

theorem State.ownFirst_error {r : Run} {loc : Nat → Except MemFlt Loc} {f : Nat → MemFlt} (s : State) (n : Nat)
    (hf : ∀ l ∈ r.act, loc l = .error (f l)) : s.ownFirst r n loc = s :=
  (List.foldl_ext _ (fun t _ => t) _ fun t l hl => by rw [hf l hl]).trans (List.foldl_fixed ..)

theorem State.Lands.ownActed (s : State) (r : Run) (n : Nat) (p : Nat → Loc) : s.Lands (s.ownActed r n p) :=
  .foldl (fun _ _ => .settleOwn ..) _ _

/-! ## LDS -/

theorem exec_lds {o : Ops} {m : MemMod} {s : State} {r : Run} (h : Issues (.lds o m) s r) :
    exec (.lds o m) s = .next (State.finish
      (r.accesses (fun t l => t.loadAt r m false l (r.sharedLoc true (memBytes m) l))
        (s.ownFirst r (memBytes m) (r.sharedLoc true (memBytes m)))).1 r false false false (r.dst (memDst m))
      (r.accesses (fun t l => t.loadAt r m false l (r.sharedLoc true (memBytes m) l))
        (s.ownFirst r (memBytes m) (r.sharedLoc true (memBytes m)))).2) :=
  issued_next h _ _

/-- Shared loads from legal locations complete with what they read. -/
theorem exec_lds_ok {o : Ops} {m : MemMod} {s : State} {r : Run} (h : Issues (.lds o m) s r) (c : Calm s r) {p : Nat → Loc}
    (hp : ∀ l ∈ r.act, r.sharedLoc true (memBytes m) l = .ok (p l)) {u : State} (hu : u = s.ownActed r (memBytes m) p)
    (hb : ∀ l ∈ r.act, u.badRead (p l).space (p l).addr (memBytes m) = false) {res : Nat → Res}
    (hres : ∀ l ∈ r.act, res l = u.loaded r m p (r.src l)) :
    ∃ t, exec (.lds o m) s = .next t ∧ Completes (r.accessors.foldl (State.loadNotes r m p false u.stamp) u) t r false
      (r.dst (memDst m)) res := by
  have hnd : r.act.Nodup := h.toBegins.stands.nodup
  have k : s.Lands u := hu ▸ .ownActed ..
  have hg := State.foldl_loadNotes_groups r m p false u.stamp r.accessors u
  refine ⟨_, (exec_lds h).trans (congrArg _ ?_), State.finish_short ((h.toBegins.stands.lands k).of_groups hg)
    ((c.lands k).of_groups hg) false false (r.dst (memDst m)) res fun l hl => by rw [hres l hl]; rfl⟩
  rw [State.ownFirst_ok s _ hp, ← hu, Run.loads_ok false hnd hp hb hres]

/-- Those of a run whose lanes all fault. -/
theorem exec_lds_faults {o : Ops} {m : MemMod} {s : State} {r : Run} (h : Issues (.lds o m) s r) (ha : r.act = r.ls)
    {f : Nat → MemFlt} (hf : ∀ l ∈ r.act, r.sharedLoc true (memBytes m) l = .error (f l)) (hsrc : ∀ l ∈ r.act, f (r.src l) = f l) :
    exec (.lds o m) s = .next (s.nextStamp.faults r fun l => (f l).flt) := by
  rw [exec_lds h, State.ownFirst_error s _ hf, Run.loads_error s false hf]
  exact congrArg _ (h.noPre.finish_faults ha _ _ _ _ _ fun l hl => by rw [hsrc l hl]; rfl)

/-! ## LDL -/

/-- Rights that a capability and an entry give together are the capability's. -/
theorem and_eq_of_and_and_eq {w : Nat} {x a b : BitVec w} (h : x &&& (a &&& b) = x) : x &&& a = x := by
  rw [← h, BitVec.and_assoc, BitVec.and_comm (a &&& b) a, ← BitVec.and_assoc a a b, BitVec.and_self]

/-- The earlier SO writes of lanes that access SO objects have been acknowledged (R142). -/
def State.soActed (s : State) (r : Run) (p : Nat → Loc) : State :=
  r.act.foldl (fun u l => if (p l).ord = .so then u.drainSo r.gid r.w l else u) s

theorem State.Lands.soActed (s : State) (r : Run) (p : Nat → Loc) : s.Lands (s.soActed r p) :=
  .foldl (fun _ _ => .ite (.drain ..) (.refl _)) _ _

/-- Where `LDL` finds the bytes of a lane (R97). -/
abbrev State.ldlLoc (s : State) (r : Run) (m : MemMod) (l : Nat) : Except MemFlt Loc :=
  s.loftLoc r true (memBytes m) rightRD false l

/-- The accesses of `LDL`. -/
def State.ldlReads (s : State) (r : Run) (m : MemMod) : State × List (Nat × Res) :=
  r.accesses (fun t l => t.loadAt r m true l (s.ldlLoc r m l))
    ((r.act.foldl (fun t l => t.soWait r l (s.ldlLoc r m l)) s).ownFirst r (memBytes m) (s.ldlLoc r m))

theorem exec_ldl {o : Ops} {m : MemMod} {s : State} {r : Run} (h : Issues (.ldl o m) s r) :
    exec (.ldl o m) s = .next (((s.ldlReads r m).1.holdCaps r.g r.caps).finish r true false false (r.dst (memDst m))
      (s.ldlReads r m).2) :=
  issued_next h _ _

/-- Loft loads from legal locations open windows for what they read. -/
theorem exec_ldl_ok {o : Ops} {m : MemMod} {s : State} {r : Run} (h : Issues (.ldl o m) s r) (c : Calm s r) {p : Nat → Loc}
    (hp : ∀ l ∈ r.act, s.ldlLoc r m l = .ok (p l)) {u : State} (hu : u = (s.soActed r p).ownActed r (memBytes m) p)
    (hb : ∀ l ∈ r.act, u.badRead (p l).space (p l).addr (memBytes m) = false) {res : Nat → Res}
    (hres : ∀ l ∈ r.act, res l = u.loaded r m p (r.src l)) :
    ∃ t, exec (.ldl o m) s = .next t ∧ Opens ((r.accessors.foldl (State.loadNotes r m p true u.stamp) u).holdCaps r.g r.caps) t r
      false (r.dst (memDst m)) false res := by
  have hnd : r.act.Nodup := h.toBegins.stands.nodup
  have k : s.Lands u := hu ▸ (State.Lands.soActed ..).trans (.ownActed ..)
  have hg : ((r.accessors.foldl (State.loadNotes r m p true u.stamp) u).holdCaps r.g r.caps).groups = u.groups :=
    (State.holdCaps_groups ..).1.trans (State.foldl_loadNotes_groups ..)
  have hso : r.act.foldl (fun t l => t.soWait r l (s.ldlLoc r m l)) s = s.soActed r p :=
    List.foldl_ext _ _ _ fun t l hl => by rw [hp l hl]; rfl
  have hreads : s.ldlReads r m
      = (r.accessors.foldl (State.loadNotes r m p true u.stamp) u, r.act.map fun l => (l, res l)) := by
    rw [State.ldlReads, hso, State.ownFirst_ok _ _ hp, ← hu, Run.loads_ok true hnd hp hb hres]
  refine ⟨_, (exec_ldl h).trans (congrArg _ ?_), State.finish_long ((h.toBegins.stands.lands k).of_groups hg)
    ((c.lands k).of_groups hg) false false (r.dst (memDst m)) res fun l hl => by rw [hres l hl]; rfl⟩
  rw [hreads]

/-- Those of a run whose lanes have no legal location. -/
theorem State.ldlReads_error {s : State} {r : Run} {m : MemMod} {f : Nat → MemFlt}
    (hf : ∀ l ∈ r.act, s.ldlLoc r m l = .error (f l)) :
    s.ldlReads r m = (s, r.act.map fun l => (l, (f (r.src l)).res true)) := by
  have hso : r.act.foldl (fun t l => t.soWait r l (s.ldlLoc r m l)) s = s :=
    (List.foldl_ext _ (fun t _ => t) _ fun t l hl => by rw [hf l hl]; rfl).trans (List.foldl_fixed ..)
  rw [State.ldlReads, hso, State.ownFirst_error _ _ hf, Run.loads_error s true hf]

/-- A failure that the issuing unit finds. -/
theorem exec_ldl_faults {o : Ops} {m : MemMod} {s : State} {r : Run} (h : Issues (.ldl o m) s r) (ha : r.act = r.ls)
    {f : Nat → Flt} (hf : ∀ l ∈ r.act, s.ldlLoc r m l = .error { flt := f l, late := false })
    (hsrc : ∀ l ∈ r.act, f (r.src l) = f l) :
    exec (.ldl o m) s = .next ((s.holdCaps r.g r.caps).nextStamp.faults r f) := by
  rw [exec_ldl h, State.ldlReads_error hf]
  exact congrArg _ ((h.noPre.holdCaps r.g r.caps).finish_faults ha _ _ _ _ _ fun l hl => by rw [hsrc l hl]; rfl)

/-- A failure that the memory port finds goes with the window (R97, R181). -/
theorem exec_ldl_late {o : Ops} {m : MemMod} {s : State} {r : Run} (h : Issues (.ldl o m) s r) (c : Calm s r) {f : Nat → Flt}
    (hf : ∀ l ∈ r.act, s.ldlLoc r m l = .error { flt := f l, late := true }) {res : Nat → Res}
    (hres : ∀ l ∈ r.act, res l = { val := 0, late := some (f (r.src l)) }) :
    ∃ t, exec (.ldl o m) s = .next t ∧ Opens (s.holdCaps r.g r.caps) t r false (r.dst (memDst m)) false res := by
  have hg := (State.holdCaps_groups r.g r.caps s).1
  have hreads : s.ldlReads r m = (s, r.act.map fun l => (l, res l)) :=
    (State.ldlReads_error hf).trans (congrArg (Prod.mk s) (List.map_congr_left fun l hl => by rw [hres l hl]; rfl))
  refine ⟨_, (exec_ldl h).trans (congrArg _ ?_), State.finish_long (h.toBegins.stands.of_groups hg) (c.of_groups hg) false false
    (r.dst (memDst m)) res fun l hl => by rw [hres l hl]⟩
  rw [hreads]

/-! ## LDK -/

theorem exec_ldk {o : Ops} {m : MemMod} {s : State} {r : Run} (h : Issues (.ldk o m) s r) :
    exec (.ldk o m) s = .next (s.finish r true false false (r.dst (memDstV m))
      (r.act.map fun l => (l, stackLoad r m (s.warp r.gid r.w) l))) :=
  issued_next h _ _

theorem exec_ldk_ok {o : Ops} {m : MemMod} {s : State} {r : Run} (h : Issues (.ldk o m) s r) (c : Calm s r) {res : Nat → Res}
    (hr : ∀ l ∈ r.act, stackLoad r m (s.warp r.gid r.w) l = res l) (hf : ∀ l ∈ r.act, (res l).flt = none) :
    ∃ t, exec (.ldk o m) s = .next t ∧ Opens s t r false (r.dst (memDstV m)) false res := by
  have hres : (r.act.map fun l => (l, stackLoad r m (s.warp r.gid r.w) l)) = r.act.map fun l => (l, res l) :=
    List.map_congr_left fun l hl => by rw [hr l hl]
  exact ⟨_, (exec_ldk h).trans (congrArg (fun x => Host.Outcome.next (s.finish r true false false (r.dst (memDstV m)) x)) hres),
    State.finish_long h.toBegins.stands c false false (r.dst (memDstV m)) res hf⟩

theorem exec_ldk_faults {o : Ops} {m : MemMod} {s : State} {r : Run} (h : Issues (.ldk o m) s r) (ha : r.act = r.ls)
    {f : Nat → Flt} (hf : ∀ l ∈ r.act, r.stackLoc (memBytes m) l = .error { flt := f l }) :
    exec (.ldk o m) s = .next (s.nextStamp.faults r f) := by
  rw [exec_ldk h]
  exact congrArg _ (h.noPre.finish_faults ha _ _ _ _ _ fun l hl => by rw [stackLoad, hf l hl]; rfl)

/-- The bytes of a legal load from the stack (R86, R87). -/
theorem stackLoad_ok {r : Run} {m : MemMod} {w : Warp} {l k : Nat} (hk : r.stackLoc (memBytes m) l = .ok k)
    (he : ∀ i ∈ stackWords k l (memBytes m), i ∉ w.stackErr) : stackLoad r m w l
      = .ofVal (loadVal m ((stackWords k l (memBytes m)).flatMap fun i => readBytes w.stack (4 * i) 4)) := by
  have hany : ((stackWords k l (memBytes m)).any w.stackErr.contains) = false := by simpa using he
  simp only [stackLoad, hk, hany, Bool.false_eq_true, if_false]

theorem length_stackBytes (stack : Memory) (k l n : Nat) :
    ((stackWords k l n).flatMap fun i => readBytes stack (4 * i) 4).length = n / 4 * 4 := by
  simp only [stackWords, List.length_flatMap, readBytes_length, List.map_map, Function.comp_def, List.map_const',
    List.length_range, List.sum_replicate, smul_eq_mul]

/-! ## The obligation -/

/-- Settles O41: loads give the bytes of legal locations, extended, and fail with their faults, bounds first. -/
theorem loads : Obligations.Loads := by
  unfold Obligations.Loads
  intro value src disp at_ fails noted own
  have hvalue : ∀ (m : MemMod) (bs : List Byte), bs.length ≤ memBytes m → value m bs = .ofVal (loadVal m bs) := fun m bs hl =>
    congrArg Res.ofVal (loadVal_eq m ((leNat_lt bs).trans_le (Nat.pow_le_pow_right (by omega) (by omega)))).symm
  have hat : ∀ (r : Run) (l : Nat), l ∈ r.act → at_ r (r.src l) = at_ r l := fun r l hl => by
    simp only [at_, disp, Run.rd32_src hl]
  refine ⟨fun o m s r h c => ?_, fun o m s r e h c => ?_, fun o m s r h c => ?_⟩
  · obtain rfl : r.o = o := (Run.of_runOf h.run).2.2.1
    intro n loc u
    refine ⟨fun hl => ?_, fun ha hf => ?_, fun ha hf => ?_⟩
    · have hp : ∀ l ∈ r.act, r.sharedLoc true n l = .ok (loc l) := fun l hm => by
        obtain ⟨h0, h1, h2, -⟩ := hl l hm
        rw [Run.sharedLoc_eq, sharedAt_ok h0 h1 h2]
        rfl
      refine exec_lds_ok h c hp rfl (fun l hm => (hl l hm).2.2.2) fun l hm => ?_
      rw [State.loaded]
      refine (hvalue m _ (State.readAs_length ..).le).trans ?_
      simp only [loc, hat r l hm]
      rfl
    · refine (exec_lds_faults h ha (f := fun l => memFlt .bounds (at_ r l)) (fun l hm => ?_) fun l hm => by rw [hat r l hm]).trans rfl
      rw [Run.sharedLoc_eq, sharedAt_bounds (hf l hm)]
      rfl
    · refine (exec_lds_faults h ha (f := fun l => memFlt .misaligned (at_ r l)) (fun l hm => ?_)
        fun l hm => by rw [hat r l hm]).trans rfl
      obtain ⟨h0, h1, h2⟩ := hf l hm
      rw [Run.sharedLoc_eq, sharedAt_misaligned h0 h1 h2]
      rfl
  · obtain rfl : r.o = o := (Run.of_runOf h.run).2.2.1
    intro n cap off granted home addr he loc u kept
    have hcap : ∀ l ∈ r.act, cap (r.src l) = cap l := fun l hm => Run.rd64_src hm ..
    have hoff : ∀ l ∈ r.act, off (r.src l) = off l := fun l hm => by
      simp only [off, hcap l hm, disp, Run.rd32_src hm]
    have hent : ∀ l ∈ r.act, e (r.src l) = e l := fun l hm =>
      Option.some.inj ((he _ (Run.src_mem hm)).symm.trans
        ((congrArg (fun x => s.capEntry r.g.ctx x [.loft]) (hcap l hm)).trans (he l hm)))
    refine ⟨fun hl => ?_, fun ha hf => ?_, fun hf => ?_, fun ha hf => ?_⟩
    · have hp : ∀ l ∈ r.act, s.ldlLoc r m l = .ok (loc l) := fun l hm => by
        obtain ⟨hr, h0, h1, hpl, h2, hh, -, hlen⟩ := hl l hm
        exact State.loftLoc_ok rfl rfl (State.checkCap_ok (he l hm) hr h0 h1 hpl h2) h0 h1 hlen hh
      refine exec_ldl_ok h c hp rfl (fun l hm => (hl l hm).2.2.2.2.2.2.1) fun l hm => ?_
      rw [State.loaded]
      refine (hvalue m _ (State.readAs_length ..).le).trans ?_
      simp only [home, addr, loc, hent l hm, hoff l hm]
      rfl
    · refine exec_ldl_faults h ha (f := fun l => { code := .rights, s45 := BitVec.ofInt 64 (off l) }) (fun l hm => ?_)
        fun l hm => by rw [hoff l hm]
      have hno : rightRD &&& (capRights (cap l) &&& (e l).rights) ≠ rightRD := fun h => hf l hm (and_eq_of_and_and_eq h)
      refine (State.loftLoc_error (State.checkCap_rights (he l hm) hno)).trans ?_
      rw [show atPort (r.rd64 .zero l r.o.a) rightRD .rights = false from beq_false_of_ne (hf l hm)]
      rfl
    · refine exec_ldl_late h c (f := fun l => { code := .rights, s45 := BitVec.ofInt 64 (off l) }) (fun l hm => ?_)
        fun l hm => rfl
      refine (State.loftLoc_error (State.checkCap_rights (he l hm) (hf l hm).2)).trans ?_
      rw [show atPort (r.rd64 .zero l r.o.a) rightRD .rights = true from beq_iff_eq.2 (hf l hm).1]
      rfl
    · refine exec_ldl_faults h ha (f := fun l => { code := .bounds, s45 := BitVec.ofInt 64 (off l) }) (fun l hm => ?_)
        fun l hm => by rw [hoff l hm]
      exact State.loftLoc_error (State.checkCap_bounds (he l hm) (hf l hm).1 (hf l hm).2)
  · obtain rfl : r.o = o := (Run.of_runOf h.run).2.2.1
    intro n size words
    refine ⟨fun hl => ?_, fun ha hf => ?_⟩
    · refine exec_ldk_ok h c (fun l hm => ?_) fun l hm => rfl
      obtain ⟨h0, h1, h2, herr⟩ := hl l hm
      exact (stackLoad_ok (stackAt_ok h0 h1 h2) herr).trans
        (hvalue m _ ((length_stackBytes ..).le.trans (Nat.div_mul_le_self ..))).symm
    · exact exec_ldk_faults h ha fun l hm => stackAt_overflow (hf l hm)

end Sys2Proof.Machine
end

section
/-! PROOFS. Obligation O40: stores that reach their homes, and long-latency operations that complete (R99, R114, R125, R178,
R182). -/

namespace Sys2Proof.Machine

/-! ## Bytes at their homes -/

/-- Bytes written at their home, and no others. -/
theorem State.byteAt_poke {s : State} (hs : s.canon = true) (key : Nat) {sp : Space} {a : Nat} {bs : List Byte} (hsp : sp ≠ .hbm)
    (hin : s.InSpace sp a bs.length) {sq : Space} {b : Nat} (hb : s.InSpace sq b 1) :
    (s.poke key sp a bs).byteAt sq b
      = if sq = sp ∧ a ≤ b ∧ b < a + bs.length then bs.getD (b - a) 0 else s.byteAt sq b := by
  cases sp with
  | hbm => exact absurd rfl hsp
  | loft d =>
    have hwf : Memory.wf s.loft = true := by
      simp only [State.canon, Bool.and_eq_true] at hs
      exact hs.1.2
    cases sq with
    | hbm => rw [if_neg (by simp)]; rfl
    | shared i => rw [if_neg (by simp)]; rfl
    | loft e =>
      have hin : a + bs.length ≤ 2 ^ 27 := hin
      have hb : b + 1 ≤ 2 ^ 27 := hb
      refine (readByte_writeBytes bs s.loft (loftKey d a) (loftKey e b) hwf).trans ?_
      by_cases h : e = d
      · subst h
        have hk : loftKey e b - loftKey e a = b - a := by unfold loftKey; omega
        have hc : (loftKey e a ≤ loftKey e b ∧ loftKey e b < loftKey e a + bs.length) ↔ (a ≤ b ∧ b < a + bs.length) := by
          unfold loftKey; omega
        simp only [hk, hc, true_and]
        rfl
      · rw [if_neg (by unfold loftKey; omega), if_neg fun hc => h (Space.loft.inj hc.1)]
        rfl
  | shared i =>
    obtain ⟨g, hg⟩ := Option.isSome_iff_exists.1 (show (s.group i).isSome = true from hin)
    have hwf : Memory.wf g.shared = true := by
      have := State.canon_group hs hg
      simp only [Group.canon, Bool.and_eq_true] at this
      exact this.1
    cases sq with
    | hbm => rw [if_neg (by simp)]; rfl
    | loft e => rw [if_neg (by simp)]; rfl
    | shared j =>
      simp only [State.byteAt, State.poke, State.group_modGroup, Space.shared.injEq]
      by_cases h : j = i
      · subst h
        simp only [if_true, hg, Option.map_some, Option.getD_some, true_and]
        exact readByte_writeBytes bs g.shared a b hwf
      · simp only [h, false_and, if_false]

/-- No ECC unit of the bytes is in error (R440). -/
theorem State.putHome_clean {s : State} {sp : Space} {a : Nat} {bs : List Byte} (key : Nat)
    (h : ∀ u ∈ s.errUnits sp, ¬(a < (u + 1) * eccUnit sp ∧ u * eccUnit sp < a + bs.length)) :
    s.putHome key sp a bs = (s.poke key sp a bs, false) := by
  have hbad : (s.errUnits sp).filter (fun x => decide (a < (x + 1) * eccUnit sp) && decide (x * eccUnit sp < a + bs.length)) = [] :=
    List.filter_eq_nil_iff.2 fun u hu => by simpa using h u hu
  simp only [State.putHome, hbad, List.isEmpty_nil, if_true]

/-- A key is of main memory alone. -/
theorem State.readHome_key (s : State) (key : Nat) {sp : Space} (hsp : sp ≠ .hbm) (a n : Nat) :
    s.readHome key sp a n = s.readHome 0 sp a n := by
  cases sp with
  | hbm => exact absurd rfl hsp
  | _ => rfl

theorem State.poke_key (s : State) (key : Nat) {sp : Space} (hsp : sp ≠ .hbm) (a : Nat) (bs : List Byte) :
    s.poke key sp a bs = s.poke 0 sp a bs := by
  cases sp with
  | hbm => exact absurd rfl hsp
  | _ => rfl

/-- A write takes its place in the order of its location, none of its ECC units being in error (R114, R125). -/
theorem State.commit_clean {s : State} {e : Recent} {bs : List Byte} (hsp : e.space ≠ .hbm)
    (h : ∀ u ∈ s.errUnits e.space, ¬(e.addr < (u + 1) * eccUnit e.space ∧ u * eccUnit e.space < e.addr + bs.length)) :
    s.commit e bs = ({ s.poke 0 e.space e.addr bs with
      recent := s.recent ++ [{ e with id := s.stamp, old := s.readHome 0 e.space e.addr bs.length }]
      stamp := s.stamp + 1 }, false) := by
  have hput := State.putHome_clean (s.keyOf e.ctx) h
  rw [State.poke_key s _ hsp] at hput
  simp only [State.commit, hput, State.readHome_key s _ hsp]
  cases e.space <;> rfl

/-- What a write to a loft or to shared memory leaves. -/
theorem State.poke_frame (s : State) (key : Nat) {sp : Space} (hsp : sp ≠ .hbm) (a : Nat) (bs : List Byte) :
    s.poke key sp a bs = { s with loft := (s.poke key sp a bs).loft, groups := (s.poke key sp a bs).groups } := by
  cases sp with
  | hbm => exact absurd rfl hsp
  | _ => rfl

/-- Of a group, a write changes the shared memory alone. -/
theorem State.group_poke (s : State) (key : Nat) (sp : Space) (a : Nat) (bs : List Byte) (i : Nat) :
    (s.poke key sp a bs).group i = (s.group i).map fun g =>
      { g with shared := (((s.poke key sp a bs).group i).map (·.shared)).getD [] } := by
  have hsame : ∀ o : Option Group, o = o.map fun g => { g with shared := (o.map (·.shared)).getD [] } := by
    intro o
    cases o <;> rfl
  cases sp with
  | hbm => exact hsame _
  | loft d => exact hsame _
  | shared j =>
    simp only [State.poke, State.group_modGroup]
    split
    · cases s.group i <;> rfl
    · exact hsame _

/-! ## A release (R99) -/

theorem State.obj_modObj (s : State) (c i d j : Nat) (f : Obj → Obj) :
    (s.modObj c i f).obj d j = if d = c ∧ j = i then (s.obj d j).map f else s.obj d j := by
  simp only [State.obj, State.modObj, State.ctx_modCtx]
  by_cases hd : d = c
  · simp only [hd, true_and, if_true]
    cases s.ctx c with
    | none => simp
    | some x => exact mapGet_mapMod ..
  · simp only [hd, false_and, if_false]

theorem State.obj_releaseGen (s : State) (w : PWrite) (c i : Nat) : (s.releaseGen w).obj c i
    = if w.release = true ∧ w.obj = some (c, i) then (s.obj c i).map fun o => { o with gen := o.gen + 1 } else s.obj c i := by
  unfold State.releaseGen
  split
  · rename_i d j hr ho
    rw [State.bumpGen, State.obj_modObj]
    simp only [hr, ho, Option.some.injEq, Prod.mk.injEq, true_and]
    exact if_congr ⟨fun h => ⟨h.1.symm, h.2.symm⟩, fun h => ⟨h.1.symm, h.2.symm⟩⟩ rfl rfl
  · rename_i hno
    rw [if_neg fun h => hno c i h.1 h.2]

/-- A release changes objects alone. -/
theorem State.releaseGen_frame (s : State) (w : PWrite) : s.releaseGen w = { s with ctxs := (s.releaseGen w).ctxs } := by
  unfold State.releaseGen
  split <;> rfl

/-! ## A write that reaches its home (R114, R125) -/

/-- No write must go before: they all stay. -/
theorem splitWrites_none {p : PWrite → Bool} {ws : List PWrite} (h : ∀ x ∈ ws, p x = false) : splitWrites p ws = ([], ws) := by
  have key : ∀ (xs acc : List PWrite), (∀ x ∈ xs, p x = false) →
      xs.foldl (fun (acc : List PWrite × List PWrite) w =>
        if p w || acc.1.any (ahead w) then (w :: acc.1, acc.2) else (acc.1, w :: acc.2)) ([], acc) = ([], xs.reverse ++ acc) := by
    intro xs
    induction xs with
    | nil => exact fun _ _ => rfl
    | cons x xs ih =>
      intro acc hx
      obtain ⟨hx, hxs⟩ := List.forall_mem_cons.1 hx
      simp only [List.foldl_cons, hx, List.any_nil, Bool.or_self, Bool.false_eq_true, if_false, ih _ hxs, List.reverse_cons,
        List.append_assoc, List.singleton_append]
  rw [splitWrites, key _ _ fun x hx => h x (List.mem_reverse.1 hx), List.reverse_reverse, List.append_nil]

/-- Nothing is ahead of the write: it goes alone. -/
theorem exec_writeReachesHome_first {k : Nat} {late : Bool} {s : State} {w : PWrite} (hw : s.writes[k]? = some w)
    (h : ∀ x ∈ s.writes.take k, ahead x w = false) (hl : late = true → w.late = []) :
    exec (.writeReachesHome ⟨k, late⟩) s = .next (State.land1 { s with writes := s.writes.eraseIdx k } w) := by
  have hrest : s.writes.take k ++ s.writes.drop (k + 1) = s.writes.eraseIdx k := (List.eraseIdx_eq_take_drop_succ ..).symm
  show execWriteReachesHome ⟨k, late⟩ s = _
  simp only [execWriteReachesHome, hw, splitWrites_none h, hrest, List.foldl_nil]
  cases late with
  | false => rfl
  | true => simp only [if_true, State.reread, hl rfl, List.isEmpty_nil, Bool.true_or]

/-- The place of a store in the order of its location: what its agent wrote to a UO location, and has not read, it does not
know (R149, R150). -/
def PWrite.place (w : PWrite) (id : Nat) (old : List Byte) : Recent :=
  { id := id, by_ := w.agent, space := w.space, addr := w.addr, old := old, ord := w.ord
    rels := if w.ord = .uo then [] else w.rels, known := if w.ord = .uo ∧ w.seen = false then [] else [w.agent]
    wide := [], ctx := w.ctx, node := w.node }

theorem State.landPlain_eq (s : State) (w : PWrite) : s.landPlain w
    = (if (s.commit (w.place 0 []) w.bytes).2 then (s.commit (w.place 0 []) w.bytes).1.failWrite w.op
       else (s.commit (w.place 0 []) w.bytes).1).releaseGen w := by
  have hknown : (if (w.ord == .uo && !w.seen) = true then [] else [w.agent])
      = if w.ord = .uo ∧ w.seen = false then [] else [w.agent] := by
    simp only [Bool.and_eq_true, beq_iff_eq, Bool.not_eq_true']
  simp only [State.landPlain, hknown]
  rfl

/-- A store whose ECC units are not in error lands. -/
theorem State.land1_store {s : State} {w : PWrite} (hr : w.rmw = none) (hsp : w.space ≠ .hbm)
    (h : ∀ u ∈ s.errUnits w.space,
      ¬(w.addr < (u + 1) * eccUnit w.space ∧ u * eccUnit w.space < w.addr + w.bytes.length)) :
    s.land1 w = State.releaseGen { s.poke 0 w.space w.addr w.bytes with
      recent := s.recent ++ [w.place s.stamp (s.readHome 0 w.space w.addr w.bytes.length)]
      stamp := s.stamp + 1 } w := by
  rw [State.land1, hr]
  refine (State.landPlain_eq s w).trans ?_
  rw [State.commit_clean (e := w.place 0 []) hsp h]
  rfl

/-- What a store whose ECC units are not in error leaves. -/
theorem State.land1_store_spec {s : State} {w : PWrite} (hr : w.rmw = none) (hsp : w.space ≠ .hbm) (hs : s.canon = true)
    (hin : s.InSpace w.space w.addr w.bytes.length) (h : ∀ u ∈ s.errUnits w.space,
      ¬(w.addr < (u + 1) * eccUnit w.space ∧ u * eccUnit w.space < w.addr + w.bytes.length)) :
    let t := s.land1 w
    (∀ sp b, s.InSpace sp b 1 → t.byteAt sp b
      = if sp = w.space ∧ w.addr ≤ b ∧ b < w.addr + w.bytes.length then w.bytes.getD (b - w.addr) 0 else s.byteAt sp b)
    ∧ (∀ c i, t.obj c i = if w.release = true ∧ w.obj = some (c, i) then
        (s.obj c i).map fun o => { o with gen := o.gen + 1 } else s.obj c i)
    ∧ t.recent = s.recent ++ [w.place s.stamp (s.readHome 0 w.space w.addr w.bytes.length)]
    ∧ t = { s with loft := t.loft, groups := t.groups, ctxs := t.ctxs, recent := t.recent, stamp := s.stamp + 1 }
    ∧ ∀ i, t.group i = (s.group i).map fun g => { g with shared := ((t.group i).map (·.shared)).getD [] } := by
  intro t
  have ht : t = _ := State.land1_store hr hsp h
  have hp := s.poke_frame 0 hsp w.addr w.bytes
  have hrel := State.releaseGen_frame { s.poke 0 w.space w.addr w.bytes with
    recent := s.recent ++ [w.place s.stamp (s.readHome 0 w.space w.addr w.bytes.length)], stamp := s.stamp + 1 } w
  rw [← ht] at hrel
  have hgroups : t.groups = (s.poke 0 w.space w.addr w.bytes).groups := by rw [hrel]
  have hloft : t.loft = (s.poke 0 w.space w.addr w.bytes).loft := by rw [hrel]
  have hhbm : t.hbm = (s.poke 0 w.space w.addr w.bytes).hbm := by rw [hrel]
  have hgroup : ∀ i, t.group i = (s.poke 0 w.space w.addr w.bytes).group i := fun i => by simp only [State.group, hgroups]
  refine ⟨fun sp b hb => ?_, fun c i => ?_, by rw [hrel], ?_, fun i => ?_⟩
  · refine Eq.trans ?_ (State.byteAt_poke hs 0 hsp hin hb)
    cases sp <;> simp only [State.byteAt, hgroup, hloft, hhbm]
  · rw [ht, State.obj_releaseGen]
    have hobj : ∀ s' : State, s'.ctxs = s.ctxs → s'.obj c i = s.obj c i := fun s' e => by simp only [State.obj, State.ctx, e]
    rw [hobj _ (by rw [hp])]
  · calc t = _ := hrel
      _ = _ := by rw [hgroups, hloft, show t.recent = _ by rw [hrel], hp]
  · rw [hgroup]
    exact State.group_poke ..

/-! ## An atomic that reaches its home (R114, R126) -/

theorem State.land1_atomic {s : State} {w : PWrite} {m : Rmw} (hr : w.rmw = some m) :
    s.land1 w = (s.atomicHome w m none).1.giveWindows w m (s.atomicHome w m none).2 := by
  rw [State.land1, hr]

/-! ## Results that land (R78, R177, R239) -/

theorem getLsbD_setBit (g : BitVec 48) (n k : Nat) (hk : k < 48) :
    (g ||| (1#48 <<< n)).getLsbD k = (g.getLsbD k || decide (k = n)) := by
  rw [BitVec.getLsbD_or, BitVec.getLsbD_shiftLeft]
  by_cases hkn : k = n
  · subst hkn; simp [hk]
  · by_cases h2 : k < n
    · simp [h2, hkn]
    · have h3 : k - n ≠ 0 := by omega
      simp [hk, h2, hkn, h3]

/-- The tag of an s-register after a write of a result. -/
theorem Warp.tagged_put (a : Warp) (l : Nat) (d : Dst) (v : W64) (tag : Bool) {n : Nat} (hn : n < 48) :
    (a.put l d v tag).tagged n = if d = .s n then tag else a.tagged n && !decide (d = .sHi n) := by
  cases d with
  | s k =>
    simp only [Dst.s.injEq, reduceCtorEq, decide_false, Bool.not_false, Bool.and_true]
    show (if tag then a.tags ||| (1#48 <<< k) else a.tags &&& ~~~(1#48 <<< k)).getLsbD n = _
    cases tag
    · rw [if_neg nofun, tags_clear]
      by_cases h : k = n
      · simp [h]
      · simp [h, Warp.tagged]
    · rw [if_pos rfl, getLsbD_setBit _ _ _ hn]
      by_cases h : k = n
      · simp [h]
      · simp [h, Ne.symm h, Warp.tagged]
  | sHi k =>
    simp only [reduceCtorEq, if_false, Dst.sHi.injEq]
    exact tags_clear ..
  | _ => simp [Warp.put, Warp.tagged, Warp.clearErr, Warp.modLane]

/-- What a result leaves of the warp, and of its lanes. -/
theorem Warp.put_frame (a : Warp) (l : Nat) (d : Dst) (v : W64) (tag : Bool) :
    a.put l d v tag = { a with lanes := (a.put l d v tag).lanes, s := (a.put l d v tag).s, tags := (a.put l d v tag).tags
                               regErr := (a.put l d v tag).regErr } := by
  cases d <;> rfl

theorem Warp.lanes_put (a : Warp) (l : Nat) (d : Dst) (v : W64) (tag : Bool) :
    (a.put l d v tag).lanes = (a.modLane l (·.putDst d v)).lanes := by
  have hid : ∀ f : Lane → Lane, (∀ y, f y = y) → (a.modLane l f).lanes = a.lanes := fun f hf => by
    rw [Warp.modLane_id a l f (hf _)]
  cases d with
  | none => exact (hid _ fun _ => rfl).symm
  | s k => exact (hid _ fun _ => rfl).symm
  | sHi k => exact (hid _ fun _ => rfl).symm
  | _ => rfl

theorem Warp.getS_put {a : Warp} (ha : zwf a.s = true) (l : Nat) (d : Dst) (v : W64) (tag : Bool) (n : Nat) :
    (a.put l d v tag).getS n = d.newS v n (a.getS n) := by
  cases d with
  | s k => exact zget_zset _ _ _ _ ha
  | sHi k =>
    refine (zget_zset _ _ _ _ ha).trans ?_
    show _ = if n = k then _ else _
    by_cases hk : n = k
    · rw [if_pos hk, if_pos hk, hk]
    · rw [if_neg hk, if_neg hk]; rfl
  | _ => rfl

/-- The result of a window lands (R178). -/
def Warp.putWindow (z : Nat → Window) (a : Warp) (l : Nat) : Warp :=
  (a.put l (z l).dst (z l).val (z l).tag).orFlags (z l).flags

section
variable {z : Nat → Window}

theorem Warp.lane_putWindow {a : Warp} {l : Nat} (hl : l < a.lanes.length) (k : Nat) :
    (a.putWindow z l).lane k = if k = l then (a.lane k).putDst (z k).dst (z k).val else a.lane k := by
  have h : (a.putWindow z l).lane k = (a.modLane l (·.putDst (z l).dst (z l).val)).lane k :=
    congrArg (fun xs : List Lane => xs.getD k Lane.empty) (Warp.lanes_put a l _ _ _)
  rw [h, Warp.lane_modLane]
  by_cases hk : k = l
  · simp [hk, hl]
  · simp [hk]

theorem Warp.length_putWindow (a : Warp) (l : Nat) : (a.putWindow z l).lanes.length = a.lanes.length :=
  (congrArg List.length (Warp.lanes_put a l _ _ _)).trans (Warp.modLane_length ..)

theorem Warp.zwf_putWindow {a : Warp} (ha : zwf a.s = true) (l : Nat) : zwf (a.putWindow z l).s = true := by
  unfold Warp.putWindow
  cases (z l).dst with
  | s k => exact zwf_zset _ _ _ ha
  | sHi k => exact zwf_zset _ _ _ ha
  | _ => exact ha

/-- A warp with what results can change as another has it. -/
def Warp.withResults (a b : Warp) : Warp :=
  { a with lanes := b.lanes, s := b.s, tags := b.tags, flags := b.flags, regErr := b.regErr }

/-- Lanes' results land one after another. -/
theorem Warp.foldl_putWindow_frame (ls : List Nat) : ∀ a : Warp,
    ls.foldl (Warp.putWindow z) a = a.withResults (ls.foldl (Warp.putWindow z) a) := by
  induction ls with
  | nil => exact fun _ => rfl
  | cons l ls ih =>
    intro a
    have h : a.putWindow z l = a.withResults (a.putWindow z l) := by
      unfold Warp.putWindow
      rw [Warp.put_frame]
      rfl
    exact (ih _).trans ((congrArg (Warp.withResults · (ls.foldl (Warp.putWindow z) (a.putWindow z l))) h).trans rfl)

theorem Warp.foldl_putWindow_lane (ls : List Nat) : ∀ a : Warp, (∀ l ∈ ls, l < a.lanes.length) → ls.Nodup → ∀ k,
    (ls.foldl (Warp.putWindow z) a).lane k = if k ∈ ls then (a.lane k).putDst (z k).dst (z k).val else a.lane k := by
  induction ls with
  | nil => exact fun a _ _ k => by rw [if_neg List.not_mem_nil]; rfl
  | cons l ls ih =>
    intro a hlt hnd k
    obtain ⟨hl, hls⟩ := List.forall_mem_cons.1 hlt
    obtain ⟨hnl, hnd⟩ := List.nodup_cons.1 hnd
    rw [List.foldl_cons, ih _ (fun j hj => (Warp.length_putWindow a l).symm ▸ hls j hj) hnd, Warp.lane_putWindow hl]
    by_cases hk : k = l
    · subst hk
      simp [hnl]
    · simp [hk]

theorem Warp.foldl_putWindow_flags (ls : List Nat) : ∀ (a : Warp) (b : Nat),
    (ls.foldl (Warp.putWindow z) a).flags.getLsbD b = true
      ↔ a.flags.getLsbD b = true ∨ ∃ l ∈ ls, (z l).flags.getLsbD b = true := by
  induction ls with
  | nil => exact fun a b => by simp
  | cons l ls ih =>
    intro a b
    have h : (a.putWindow z l).flags = a.flags ||| (z l).flags := by
      show (a.put l _ _ _).flags ||| _ = _
      rw [Warp.put_frame]
    rw [List.foldl_cons, ih, h, BitVec.getLsbD_or, Bool.or_eq_true, or_assoc]
    simp only [List.mem_cons, exists_eq_or_imp]

/-- An s-register that no result names stays as it is. -/
theorem Warp.foldl_putWindow_sreg_none {n : Nat} (ls : List Nat) : ∀ a : Warp, zwf a.s = true →
    (∀ l ∈ ls, (z l).dst ≠ .s n ∧ (z l).dst ≠ .sHi n) →
    (ls.foldl (Warp.putWindow z) a).getS n = a.getS n ∧ (ls.foldl (Warp.putWindow z) a).tagged n = a.tagged n := by
  induction ls with
  | nil => exact fun _ _ _ => ⟨rfl, rfl⟩
  | cons l ls ih =>
    intro a ha hno
    obtain ⟨⟨h1, h2⟩, hno⟩ := List.forall_mem_cons.1 hno
    obtain ⟨i1, i2⟩ := ih _ (Warp.zwf_putWindow ha l) hno
    refine ⟨i1.trans ((Warp.getS_put ha ..).trans ?_), i2.trans ?_⟩
    · revert h1 h2
      cases (z l).dst with
      | s k => exact fun h1 _ => if_neg fun h : n = k => h1 (by rw [h])
      | sHi k => exact fun _ h2 => if_neg fun h : n = k => h2 (by rw [h])
      | _ => exact fun _ _ => rfl
    · show (a.put l _ _ _).tagged n = _
      by_cases hn : n < 48
      · rw [Warp.tagged_put _ _ _ _ _ hn, if_neg h1, decide_eq_false h2, Bool.not_false, Bool.and_true]
      · rw [Warp.tagged, Warp.tagged, BitVec.getLsbD_of_ge _ _ (by omega), BitVec.getLsbD_of_ge _ _ (by omega)]

/-- One that one result alone names takes it. -/
theorem Warp.foldl_putWindow_sreg_one {n k : Nat} (hn : n < 48) (ls : List Nat) : ∀ a : Warp, zwf a.s = true → k ∈ ls → ls.Nodup →
    (z k).dst = .s n → (∀ l ∈ ls, (z l).dst ≠ .sHi n ∧ ((z l).dst = .s n → l = k)) →
    (ls.foldl (Warp.putWindow z) a).getS n = (z k).val ∧ (ls.foldl (Warp.putWindow z) a).tagged n = (z k).tag := by
  induction ls with
  | nil => exact fun _ _ h => nomatch h
  | cons l ls ih =>
    intro a ha hk hnd hd hone
    obtain ⟨hnl, hnd⟩ := List.nodup_cons.1 hnd
    obtain ⟨-, hrest⟩ := List.forall_mem_cons.1 hone
    rcases List.mem_cons.1 hk with rfl | hk
    · obtain ⟨i1, i2⟩ := Warp.foldl_putWindow_sreg_none (n := n) ls _ (Warp.zwf_putWindow (z := z) ha k) fun j hj =>
        ⟨fun e => hnl ((hrest j hj).2 e ▸ hj), (hrest j hj).1⟩
      refine ⟨i1.trans ((Warp.getS_put ha ..).trans ?_), i2.trans ((Warp.tagged_put _ _ _ _ _ hn).trans (if_pos hd))⟩
      rw [hd]
      exact if_pos rfl
    · exact ih _ (Warp.zwf_putWindow ha l) hk hnd hd hrest

end

/-! ## The windows of an operation that has completed (R178, R182) -/

/-- A list whose keys do not fall is sorted. -/
theorem sortBy_eq_self {α : Type} {key : α → Nat} {xs : List α} (h : xs.Pairwise fun a b => key a ≤ key b) :
    sortBy key xs = xs := by
  have hins : ∀ (x : α) (ys : List α), (∀ y ∈ ys, key y ≤ key x) → insertBy key x ys = ys ++ [x] := by
    intro x ys
    induction ys with
    | nil => exact fun _ => rfl
    | cons y ys ih =>
      intro hy
      obtain ⟨hy, hys⟩ := List.forall_mem_cons.1 hy
      rw [insertBy, if_neg (Nat.not_lt.2 hy), ih hys]
      rfl
  have key' : ∀ (xs acc : List α), xs.Pairwise (fun a b => key a ≤ key b) → (∀ y ∈ acc, ∀ x ∈ xs, key y ≤ key x) →
      xs.foldl (fun acc r => insertBy key r acc) acc = acc ++ xs := by
    intro xs
    induction xs with
    | nil => exact fun acc _ _ => (List.append_nil acc).symm
    | cons x xs ih =>
      intro acc hp ha
      obtain ⟨hx, hp⟩ := List.pairwise_cons.1 hp
      rw [List.foldl_cons, hins x acc fun y hy => ha y hy x List.mem_cons_self, ih _ hp, List.append_assoc]
      · rfl
      · intro y hy w hw
        rcases List.mem_append.1 hy with hy | hy
        · exact ha y hy w (List.mem_cons_of_mem _ hw)
        · rw [List.mem_singleton.1 hy]
          exact hx w hw
  exact key' xs [] h fun _ h => nomatch h

theorem landAll_unfailed {z : Nat → Window} (ls : List Nat) : ∀ a : Warp, (∀ l ∈ ls, (z l).flt = none) →
    landAll (ls.map fun l => (l, z l)) a = (ls.foldl (Warp.putWindow z) a, []) := by
  induction ls with
  | nil => exact fun _ _ => rfl
  | cons l ls ih =>
    intro a h
    obtain ⟨hl, hls⟩ := List.forall_mem_cons.1 h
    rw [List.map_cons, landAll]
    simp only [hl]
    exact ih _ hls

/-- The window of a lane that waits for one operation. -/
def Lane.window (y : Lane) : Window := y.windows.headD
  { stamp := 0, cycle := 0, left := 0, pc := 0, dst := .none, val := 0, tag := false, flags := 0, done := false, flt := none }

/-- Nobody of the lanes has a result of another operation to land: each lane that waits for the operation has its window
alone, and the earlier windows of the others have yet to come to their landing points. -/
structure Warp.AloneIn (x : Warp) (id : Nat) : Prop where
  length : x.lanes.length = 64
  own : ∀ l, (x.lane l).awaits id = true → ∃ y, (x.lane l).windows = [y] ∧ y.stamp = id ∧ y.flt = none
  earlier : ∀ k z, z ∈ (x.lane k).windows → z.stamp < id → z.left ≠ 0

/-- The lanes that wait for an operation. -/
def Warp.waiters (x : Warp) (id : Nat) : W64 := x.where (·.awaits id)

/-- Its windows marked as complete. -/
def Warp.completed (x : Warp) (id : Nat) : Warp := x.modLanes (x.waiters id) fun _ y => y.complete id

/-- The lanes whose landing point has come. -/
def Warp.landers (x : Warp) (id : Nat) : List Nat := (lanesIn (x.waiters id)).filter fun l => (x.lane l).window.left == 0

theorem Lane.awaits_empty (id : Nat) : Lane.empty.awaits id = false := rfl

namespace Warp.AloneIn
variable {x : Warp} {id : Nat}

theorem mem_waiters (h : x.AloneIn id) (l : Nat) : l ∈ lanesIn (x.waiters id) ↔ (x.lane l).awaits id = true := by
  rw [mem_lanesIn, Warp.waiters, Warp.where, getLsbD_maskOf]
  simp only [Bool.and_eq_true, decide_eq_true_eq, List.contains_iff_mem, List.mem_filter, List.mem_range]
  refine ⟨fun ⟨_, _, ha⟩ => ha, fun ha => ?_⟩
  have hl : l < 64 := by
    by_contra hl
    rw [Warp.lane, List.getD_eq_default _ _ (by rw [h.length]; omega), Lane.awaits_empty] at ha
    cases ha
  exact ⟨hl, hl, ha⟩

theorem lane_completed (h : x.AloneIn id) (l : Nat) :
    (x.completed id).lane l = if (x.lane l).awaits id then (x.lane l).complete id else x.lane l := by
  have hmem := h.mem_waiters l
  rw [mem_lanesIn] at hmem
  rw [Warp.completed, Warp.lane_modLanes]
  by_cases ha : (x.lane l).awaits id = true
  · have hl : l < x.lanes.length := by
      have := lanesIn_lt ((h.mem_waiters l).2 ha)
      rw [h.length]
      exact this
    rw [if_pos ⟨hl, hmem.2 ha⟩, if_pos ha]
  · rw [if_neg fun hc => ha (hmem.1 hc.2), if_neg ha]

theorem windows_eq (h : x.AloneIn id) {l : Nat} (ha : (x.lane l).awaits id = true) :
    (x.lane l).windows = [(x.lane l).window] ∧ (x.lane l).window.stamp = id ∧ (x.lane l).window.flt = none := by
  obtain ⟨y, hy, hs, hf⟩ := h.own l ha
  have hw : (x.lane l).window = y := by rw [Lane.window, hy]; rfl
  rw [hw]
  exact ⟨hy, hs, hf⟩

theorem windows_completed (h : x.AloneIn id) {l : Nat} (ha : (x.lane l).awaits id = true) :
    ((x.completed id).lane l).windows = [{ (x.lane l).window with done := true }] := by
  obtain ⟨hw, hs, -⟩ := h.windows_eq ha
  rw [h.lane_completed, if_pos ha, Lane.complete, hw]
  simp only [List.map_cons, List.map_nil, hs, if_true]

theorem standing_completed (h : x.AloneIn id) {l : Nat} (ha : (x.lane l).awaits id = true) :
    ((x.completed id).lane l).standing
      = if (x.lane l).window.left = 0 then [{ (x.lane l).window with done := true }] else [] := by
  rw [Lane.standing, h.windows_completed ha, List.filter_singleton]
  simp only [cond_eq_ite, beq_iff_eq]

theorem mem_landers (h : x.AloneIn id) (l : Nat) :
    l ∈ x.landers id ↔ (x.lane l).awaits id = true ∧ (x.lane l).window.left = 0 := by
  rw [Warp.landers, List.mem_filter, h.mem_waiters, beq_iff_eq]

/-- Those lanes land together: no result waits for one of another lane (R29). -/
theorem due (h : x.AloneIn id) : (x.completed id).due (lanesIn (x.waiters id)) = x.landers id := by
  have hfilter : (lanesIn (x.waiters id)).filter (fun l => !((x.completed id).lane l).standing.isEmpty
      && ((x.completed id).lane l).standing.all (·.done)) = x.landers id := by
    refine List.filter_congr fun l hl => ?_
    rw [h.standing_completed ((h.mem_waiters l).1 hl)]
    by_cases h0 : (x.lane l).window.left = 0
    · rw [if_pos h0, h0]; rfl
    · rw [if_neg h0, beq_false_of_ne h0]; rfl
  have hheld : (x.landers id).any ((x.completed id).heldBack (x.landers id)) = false := by
    rw [List.any_eq_false]
    intro l hl
    obtain ⟨ha, h0⟩ := (h.mem_landers l).1 hl
    rw [Warp.heldBack, h.standing_completed ha, if_pos h0]
    simp only [List.any_cons, List.any_nil, Bool.or_false, Bool.not_eq_true, List.any_eq_false, Bool.and_eq_false_iff]
    intro k _
    by_cases hk : k ∈ x.landers id
    · exact .inl (by simp [hk])
    refine .inr fun z hz => Bool.eq_false_iff.2 fun hf => ?_
    simp only [Window.follows, Bool.and_eq_true, decide_eq_true_eq] at hf
    have hlt : z.stamp < id := (h.windows_eq ha).2.1 ▸ hf.2
    by_cases hak : (x.lane k).awaits id = true
    · rw [h.standing_completed hak, if_neg fun h0 => hk ((h.mem_landers k).2 ⟨hak, h0⟩)] at hz
      cases hz
    · rw [h.lane_completed, if_neg hak, Lane.standing, List.mem_filter, beq_iff_eq] at hz
      exact h.earlier k z hz.1 hlt hz.2
  rw [Warp.due, hfilter, Warp.landing, hheld]
  rfl

/-- What lands. -/
theorem land (h : x.AloneIn id) : (x.completed id).land (x.landers id) (fun _ y => y.left == 0)
    = ((x.landers id).foldl (Warp.putWindow fun l => { (x.lane l).window with done := true })
        ((x.completed id).modLanes (maskOf (x.landers id)) fun _ y => { y with windows := y.windows.filter fun z => !(z.left == 0) }),
       []) := by
  have hws : (x.completed id).windowsOf (x.landers id) (fun _ y => y.left == 0)
      = (x.landers id).map fun l => (l, { (x.lane l).window with done := true }) := by
    have hflat : (x.landers id).flatMap (fun l => (((x.completed id).lane l).windows.filter fun y => y.left == 0).map fun y => (l, y))
        = (x.landers id).map fun l => (l, { (x.lane l).window with done := true }) := by
      rw [List.map_eq_flatMap]
      refine List.flatMap_congr fun l hl => ?_
      obtain ⟨ha, h0⟩ := (h.mem_landers l).1 hl
      rw [show (((x.completed id).lane l).windows.filter fun y => y.left == 0) = ((x.completed id).lane l).standing from rfl,
        h.standing_completed ha, if_pos h0]
      rfl
    rw [Warp.windowsOf, hflat]
    refine sortBy_eq_self (List.pairwise_map.2 (List.pairwise_of_forall_mem_list fun a ha b hb => ?_))
    obtain ⟨ha, -⟩ := (h.mem_landers a).1 ha
    obtain ⟨hb, -⟩ := (h.mem_landers b).1 hb
    exact ((h.windows_eq ha).2.1.trans (h.windows_eq hb).2.1.symm).le
  rw [Warp.land, hws]
  exact landAll_unfailed _ _ fun l hl => (h.windows_eq ((h.mem_landers l).1 hl).1).2.2

/-- Before the results are written: the windows are closed. -/
theorem lane_closed (h : x.AloneIn id) (l : Nat) :
    ((x.completed id).modLanes (maskOf (x.landers id)) fun _ y => { y with windows := y.windows.filter fun z => !(z.left == 0) }).lane l
      = if l ∈ x.landers id then { x.lane l with windows := [] } else (x.completed id).lane l := by
  have hlen : (x.completed id).lanes.length = 64 := (Warp.modLanes_length ..).trans h.length
  rw [Warp.lane_modLanes, hlen]
  by_cases hl : l ∈ x.landers id
  · obtain ⟨ha, h0⟩ := (h.mem_landers l).1 hl
    have hlt := lanesIn_lt ((h.mem_waiters l).2 ha)
    rw [if_pos ⟨hlt, by simp [hlt, hl]⟩, if_pos hl, h.windows_completed ha, List.filter_singleton, h0]
    rw [h.lane_completed, if_pos ha]
    rfl
  · rw [if_neg fun hc => hl ?_, if_neg hl]
    have hmask := hc.2
    rw [getLsbD_maskOf, Bool.and_eq_true, List.contains_iff_mem] at hmask
    exact hmask.2

end Warp.AloneIn

/-- The warp once the results of an operation that are due have landed. -/
def Warp.landed (x : Warp) (id : Nat) : Warp := ((x.completed id).land (x.landers id) fun _ y => y.left == 0).1

namespace Warp.AloneIn
variable {x : Warp} {id : Nat}

theorem landed_eq (h : x.AloneIn id) : x.landed id
    = (x.landers id).foldl (Warp.putWindow fun l => { (x.lane l).window with done := true })
        ((x.completed id).modLanes (maskOf (x.landers id)) fun _ y =>
          { y with windows := y.windows.filter fun z => !(z.left == 0) }) :=
  congrArg Prod.fst h.land

theorem landed_frame (h : x.AloneIn id) : x.landed id = x.withResults (x.landed id) := by
  rw [h.landed_eq]
  exact (Warp.foldl_putWindow_frame _ _).trans rfl

theorem nodup_landers (_ : x.AloneIn id) : (x.landers id).Nodup := (lanesIn_nodup _).filter _

theorem lane_landed (h : x.AloneIn id) (l : Nat) : (x.landed id).lane l = if l ∈ x.landers id then
    Lane.putDst { x.lane l with windows := [] } (x.lane l).window.dst (x.lane l).window.val else (x.completed id).lane l := by
  rw [h.landed_eq, Warp.foldl_putWindow_lane _ _ _ h.nodup_landers, h.lane_closed]
  · split <;> rfl
  · intro k hk
    rw [Warp.modLanes_length, Warp.completed, Warp.modLanes_length, h.length]
    exact lanesIn_lt ((h.mem_waiters k).2 ((h.mem_landers k).1 hk).1)

/-- Of the lanes, those that wait have their windows closed or marked, and registers written. -/
theorem lane_landed_frame (h : x.AloneIn id) (l : Nat) : (x.landed id).lane l = if (x.lane l).awaits id then
    { x.lane l with windows := if (x.lane l).window.left = 0 then [] else [{ (x.lane l).window with done := true }]
                    v := ((x.landed id).lane l).v, p := ((x.landed id).lane l).p } else x.lane l := by
  by_cases ha : (x.lane l).awaits id = true
  · by_cases h0 : (x.lane l).window.left = 0
    · have hl := (h.mem_landers l).2 ⟨ha, h0⟩
      rw [h.lane_landed, if_pos hl, if_pos ha, if_pos h0]
      exact Lane.putDst_frame ..
    · have hl : l ∉ x.landers id := fun hl => h0 ((h.mem_landers l).1 hl).2
      have hc := h.windows_completed ha
      rw [h.lane_completed, if_pos ha] at hc
      rw [h.lane_landed, if_neg hl, h.lane_completed, if_pos ha, if_pos ha, if_neg h0, ← hc]
      rfl
  · have hl : l ∉ x.landers id := fun hl => ha ((h.mem_landers l).1 hl).1
    rw [h.lane_landed, if_neg hl, h.lane_completed, if_neg ha, if_neg ha]

/-- The registers of a lane whose result lands. -/
theorem getV_landed (h : x.AloneIn id) (hx : x.canon = true) {l : Nat} (hl : l ∈ x.landers id) (n : Nat) :
    ((x.landed id).lane l).getV n = (x.lane l).window.dst.newV (x.lane l).window.val n ((x.lane l).getV n) := by
  rw [h.lane_landed, if_pos hl]
  exact Lane.putDst_getV _ _ _ _ (Warp.lane_canon hx l)

theorem getP_landed (h : x.AloneIn id) {l : Nat} (hl : l ∈ x.landers id) (n : Nat) :
    ((x.landed id).lane l).getP n = (x.lane l).window.dst.newP (x.lane l).window.val n ((x.lane l).getP n) := by
  rw [h.lane_landed, if_pos hl]
  exact Lane.putDst_getP ..

/-- Those of the others. -/
theorem regs_landed (h : x.AloneIn id) {l : Nat} (hl : l ∉ x.landers id) (n : Nat) :
    ((x.landed id).lane l).getV n = (x.lane l).getV n ∧ ((x.landed id).lane l).getP n = (x.lane l).getP n := by
  rw [h.lane_landed, if_neg hl, h.lane_completed]
  split <;> exact ⟨rfl, rfl⟩

theorem zwf_s (hx : x.canon = true) : zwf x.s = true := by
  simp only [Warp.canon, Bool.and_eq_true] at hx
  exact hx.1.2

theorem sreg_landed_none (h : x.AloneIn id) (hx : x.canon = true) {n : Nat}
    (hn : ∀ l ∈ x.landers id, (x.lane l).window.dst ≠ .s n ∧ (x.lane l).window.dst ≠ .sHi n) :
    (x.landed id).getS n = x.getS n ∧ (x.landed id).tagged n = x.tagged n := by
  rw [h.landed_eq]
  exact Warp.foldl_putWindow_sreg_none _ _ (zwf_s (x := x) hx) hn

theorem sreg_landed_one (h : x.AloneIn id) (hx : x.canon = true) {n l : Nat} (hn : n < 48) (hl : l ∈ x.landers id)
    (hd : (x.lane l).window.dst = .s n)
    (hone : ∀ k ∈ x.landers id, (x.lane k).window.dst ≠ .sHi n ∧ ((x.lane k).window.dst = .s n → k = l)) :
    (x.landed id).getS n = (x.lane l).window.val ∧ (x.landed id).tagged n = (x.lane l).window.tag := by
  rw [h.landed_eq]
  exact Warp.foldl_putWindow_sreg_one hn _ _ (zwf_s (x := x) hx) hl h.nodup_landers hd hone

theorem flags_landed (h : x.AloneIn id) (b : Nat) : (x.landed id).flags.getLsbD b = true
    ↔ x.flags.getLsbD b = true ∨ ∃ l ∈ x.landers id, (x.lane l).window.flags.getLsbD b = true := by
  rw [h.landed_eq]
  exact Warp.foldl_putWindow_flags ..

end Warp.AloneIn

/-! ## An operation that completes (R178, R182) -/

/-- The group of an operation off its core: the windows are marked. -/
theorem Warp.AloneIn.completed_eq_map {x : Warp} {id : Nat} (h : x.AloneIn id) :
    x.completed id = { x with lanes := x.lanes.map fun y => if y.awaits id then y.complete id else y } := by
  have hlanes : (x.completed id).lanes = x.lanes.map fun y => if y.awaits id then y.complete id else y := by
    refine List.ext_getElem ((Warp.modLanes_length ..).trans (List.length_map ..).symm) fun l h1 h2 => ?_
    rw [← Warp.lane_eq_getElem h1, h.lane_completed, List.getElem_map, ← Warp.lane_eq_getElem (by simpa using h2)]
  exact congrArg (fun ys => { x with lanes := ys }) hlanes

theorem State.completeOn_resident {s : State} {id gid w : Nat} {g : Group} (hg : s.group gid = some g) (hw : w < g.warps.length)
    (h2 : s.second = none) (h : (g.warp w).AloneIn id) :
    s.completeOn id gid w .resident = s.modWarp gid w fun _ => (g.warp w).landed id := by
  have hx : s.warp gid w = g.warp w := by simp only [State.warp, hg, Option.map_some, Option.getD_some]
  have hc : (s.modWarp gid w fun x => x.modLanes ((g.warp w).waiters id) fun _ y => y.complete id).warp gid w
      = (g.warp w).completed id := (State.warp_modWarp s gid w _ hg hw).trans (by rw [hx]; rfl)
  have hmid : (s.modWarp gid w fun x => x.modLanes ((g.warp w).waiters id) fun _ y => y.complete id).midCycle gid w = false := by
    show (s.second.any _) = false
    rw [h2]
    rfl
  simp only [State.completeOn, hx, if_true]
  show State.landDue (s.modWarp gid w fun x => x.modLanes ((g.warp w).waiters id) fun _ y => y.complete id) gid w
    ((g.warp w).waiters id) = _
  rw [State.landDue, hmid, if_neg nofun, hc, h.due, h.land]
  exact (State.modWarp_modWarp ..).trans (by rw [h.landed_eq])

theorem State.completeOn_away {s : State} {id gid w : Nat} {g : Group} (hg : s.group gid = some g) {res : Residence}
    (hr : res ≠ .resident) (h : (g.warp w).AloneIn id) :
    s.completeOn id gid w res = s.modWarp gid w fun x =>
      { x with lanes := x.lanes.map fun y => if y.awaits id then y.complete id else y } := by
  have hx : s.warp gid w = g.warp w := by simp only [State.warp, hg, Option.map_some, Option.getD_some]
  simp only [State.completeOn, hx, if_neg hr]
  exact State.modWarp_congr _ _ _ _ _ (hx ▸ h.completed_eq_map)

/-- The value at a key of a sorted list. -/
theorem mapGet_of_mem {β : Type} {m : KMap β} {i : Nat} {x : β} (hm : mapSorted none m = true) (h : (i, x) ∈ m) :
    mapGet m i = some x := by
  suffices H : ∀ (m : KMap β) (lo : Option Nat), mapSorted lo m = true → (i, x) ∈ m → mapGet m i = some x from H m none hm h
  clear h hm m
  intro m
  induction m with
  | nil => exact fun _ _ h => nomatch h
  | cons p m ih =>
    intro lo hm h
    obtain ⟨k, v⟩ := p
    simp only [mapSorted, Bool.and_eq_true] at hm
    rcases List.mem_cons.1 h with h | h
    · obtain ⟨rfl, rfl⟩ := Prod.mk.inj h
      rw [mapGet, if_pos rfl]
    · have hget := ih _ hm.2 h
      by_cases hle : i ≤ k
      · rw [mapGet_of_lt m k i hm.2 hle] at hget
        cases hget
      · rw [mapGet, if_neg (by omega), if_neg (by omega)]
        exact hget

theorem mem_of_mapGet {β : Type} {m : KMap β} {i : Nat} {x : β} (h : mapGet m i = some x) : (i, x) ∈ m := by
  induction m with
  | nil => cases h
  | cons p m ih =>
    obtain ⟨k, v⟩ := p
    rw [mapGet] at h
    split_ifs at h with hk hlt
    · rw [hk, Option.some.inj h]
      exact List.mem_cons_self
    · exact List.mem_cons_of_mem _ (ih h)

/-- The one answer that a list gives. -/
theorem findSome?_unique {α β : Type} {f : α → Option β} {xs : List α} {a : α} {b : β} (ha : a ∈ xs) (hb : f a = some b)
    (h : ∀ x ∈ xs, ∀ y, f x = some y → y = b) : xs.findSome? f = some b := by
  have hs : (xs.findSome? f).isSome = true := List.findSome?_isSome_iff.2 ⟨a, ha, by rw [hb]; rfl⟩
  obtain ⟨c, hc⟩ := Option.isSome_iff_exists.1 hs
  obtain ⟨x, hx, hfx⟩ := List.exists_of_findSome?_eq_some hc
  rw [hc, h x hx c hfx]

/-- A warp has a lane that waits for an operation. -/
theorem Warp.any_awaits (w : Warp) (id : Nat) : w.lanes.any (·.awaits id) = true ↔ ∃ l, (w.lane l).awaits id = true := by
  rw [List.any_eq_true]
  constructor
  · rintro ⟨y, hy, ha⟩
    obtain ⟨l, hl, rfl⟩ := List.getElem_of_mem hy
    exact ⟨l, by rw [Warp.lane_eq_getElem hl]; exact ha⟩
  · rintro ⟨l, ha⟩
    have hl : l < w.lanes.length := by
      by_contra hl
      rw [Warp.lane, List.getD_eq_default _ _ (Nat.le_of_not_lt hl), Lane.awaits_empty] at ha
      cases ha
    exact ⟨w.lanes[l], List.getElem_mem hl, by rw [← Warp.lane_eq_getElem hl]; exact ha⟩

/-- The warp of a group whose lanes wait for an operation. -/
def Group.waiting (id : Nat) (p : Nat × Group) : Option (Nat × Nat × Residence) :=
  (p.2.warps.zipIdx.find? fun q => q.1.lanes.any (·.awaits id)).map fun q => (p.1, q.2, p.2.res)

theorem Group.waiting_some {id : Nat} {p : Nat × Group} {y : Nat × Nat × Residence} (h : Group.waiting id p = some y) :
    ∃ w l, y = (p.1, w, p.2.res) ∧ w < p.2.warps.length ∧ ((p.2.warp w).lane l).awaits id = true := by
  obtain ⟨q, hq, rfl⟩ := Option.map_eq_some_iff.1 h
  have hany : q.1.lanes.any (·.awaits id) = true := List.find?_some (p := fun q : Warp × Nat => q.1.lanes.any (·.awaits id)) hq
  obtain ⟨l, ha⟩ := (Warp.any_awaits q.1 id).1 hany
  have hmem := List.mem_zipIdx_iff_getElem?.1 (List.mem_of_find?_eq_some hq)
  obtain ⟨hlt, hget⟩ := List.getElem?_eq_some_iff.1 hmem
  refine ⟨q.2, l, rfl, hlt, ?_⟩
  rw [Group.warp, List.getD_eq_getElem?_getD, hmem]
  exact ha

/-- One warp alone has lanes that wait for the operation. -/
theorem State.findSome?_waiting {s : State} {id gid w : Nat} {g : Group} (hs : mapSorted none s.groups = true)
    (hg : s.group gid = some g) (hw : w < g.warps.length) (ha : ∃ l, ((g.warp w).lane l).awaits id = true)
    (hone : ∀ i h v l, s.group i = some h → v < h.warps.length → ((h.warp v).lane l).awaits id = true → i = gid ∧ v = w) :
    s.groups.findSome? (Group.waiting id) = some (gid, w, g.res) := by
  have hall : ∀ p ∈ s.groups, ∀ y, Group.waiting id p = some y → y = (gid, w, g.res) := by
    intro p hp y hy
    obtain ⟨v, l, rfl, hv, ha⟩ := Group.waiting_some hy
    have hgp : s.group p.1 = some p.2 := mapGet_of_mem hs hp
    obtain ⟨hi, rfl⟩ := hone _ _ _ _ hgp hv ha
    rw [hi, hg] at hgp
    rw [hi, Option.some.inj hgp]
  have hmem : (gid, g) ∈ s.groups := mem_of_mapGet hg
  have hsome : (Group.waiting id (gid, g)).isSome = true := by
    rw [Group.waiting, Option.isSome_map, List.find?_isSome]
    refine ⟨(g.warps[w], w), List.mk_mem_zipIdx_iff_getElem?.2 (List.getElem?_eq_getElem hw), ?_⟩
    rw [Warp.any_awaits]
    rwa [Group.warp, List.getD_eq_getElem?_getD, List.getElem?_eq_getElem hw] at ha
  obtain ⟨y, hy⟩ := Option.isSome_iff_exists.1 hsome
  exact findSome?_unique hmem (hall _ hmem y hy ▸ hy) hall

/-- No write on its way must reach its home. -/
theorem State.drain_none {s : State} {p : PWrite → Bool} (h : ∀ x ∈ s.writes, p x = false) : s.drain p = s := by
  rw [State.drain, splitWrites_none h]
  rfl

/-- An operation whose value is fixed completes. -/
theorem exec_longLatencyComplete {id : Nat} {late : Bool} {s : State} {gid w : Nat} {res : Residence}
    (hl : late = true → ∀ d ∈ s.loads, d.id = id → d.fixed = true)
    (hw : ∀ z ∈ s.writes, ∀ m, z.rmw = some m → m.win ≠ id) (hf : s.groups.findSome? (Group.waiting id) = some (gid, w, res)) :
    exec (.longLatencyComplete ⟨id, late⟩) s
      = .next (State.completeOn { s with loads := s.loads.filter fun d => d.id != id } id gid w res) := by
  have hdrain : s.drain (fun z => z.rmw.any fun m => m.win == id) = s := State.drain_none fun z hz => by
    cases hm : z.rmw with
    | none => rfl
    | some m => exact beq_false_of_ne (hw z hz m hm)
  have hread : (if late = true then s.readLate id else s) = s := by
    cases late with
    | false => rfl
    | true =>
      have hno : (s.loads.filter fun d => d.id == id && !d.fixed) = [] := List.filter_eq_nil_iff.2 fun d hd => by
        by_cases hi : d.id = id
        · simp [hl rfl d hd hi]
        · simp [hi]
      rw [if_pos rfl, State.readLate, hno]
      rfl
  have hfind : s.groups.findSome? (fun p => (p.2.warps.zipIdx.find? fun q => q.1.lanes.any (·.awaits id)).map fun q =>
      (p.1, q.2, p.2.res)) = some (gid, w, res) := hf
  show execLongLatencyComplete ⟨id, late⟩ s = _
  simp only [execLongLatencyComplete, hdrain, hread, hfind]

/-! ## The obligation -/

/-- Settles O40: a store lands at its address, an atomic acts, and a long-latency operation lands what is due. -/
theorem lateEffects : Obligations.LateEffects := by
  unfold Obligations.LateEffects
  refine ⟨fun k late s w hw hfirst hsp hin hs hr hlate hecc => ?_, fun k s w m hw hfirst hr => ?_, ?_⟩
  · have hecc' : ∀ u ∈ State.errUnits { s with writes := s.writes.eraseIdx k } w.space,
        ¬(w.addr < (u + 1) * eccUnit w.space ∧ u * eccUnit w.space < w.addr + w.bytes.length) := by
      intro u hu
      exact hecc u (by cases hsp' : w.space <;> rw [hsp'] at hu <;> exact hu)
    obtain ⟨hbyte, hobj, hrec, hframe, hgroup⟩ :=
      State.land1_store_spec (s := { s with writes := s.writes.eraseIdx k }) hr hsp hs hin hecc'
    have hwrites := congrArg State.writes hframe
    refine ⟨_, exec_writeReachesHome_first hw hfirst hlate, hwrites, hbyte, hobj, hrec, ?_, hgroup⟩
    rw [hwrites]
    exact hframe
  · intro a
    exact (exec_writeReachesHome_first (late := false) hw hfirst nofun).trans (congrArg _ (State.land1_atomic hr))
  · intro id gid w late s g hg hw hl h2 hm hearlier hs hlen ha hone hown x win lands u
    have hx : x.AloneIn id := ⟨hlen, hown, hearlier⟩
    have hu : u.group gid = some g := hg
    have hexec := exec_longLatencyComplete hl hm (State.findSome?_waiting hs hg hw ha hone)
    have hlands : ∀ l, l ∈ x.landers id ↔ lands l := hx.mem_landers
    refine ⟨fun hr => hexec.trans (congrArg _ (State.completeOn_away hu hr hx)), fun hr hc => ?_⟩
    rw [hr] at hexec
    have ht : (u.modWarp gid w fun _ => x.landed id).warp gid w = x.landed id := State.warp_modWarp u gid w _ hu hw
    refine ⟨_, hexec.trans (congrArg _ (State.completeOn_resident hu hw h2 hx)), ?_⟩
    rw [ht]
    refine ⟨rfl, hx.landed_frame, hx.lane_landed_frame, fun l n => ⟨fun h => ?_, fun h => ?_⟩, fun n h => ?_,
      fun n l hn h hd hu => ?_, fun b => ?_⟩
    · exact ⟨hx.getV_landed hc ((hlands l).2 h) n, hx.getP_landed ((hlands l).2 h) n⟩
    · exact hx.regs_landed (fun hl => h ((hlands l).1 hl)) n
    · exact hx.sreg_landed_none hc fun l hl => h l ((hlands l).1 hl)
    · exact hx.sreg_landed_one hc hn ((hlands l).2 h) hd fun k hk => hu k ((hlands k).1 hk)
    · simp only [hx.flags_landed, hlands]
      rfl

end Sys2Proof.Machine
end

section
/-! PROOFS. Obligation O43: atomics, compare-and-swap and `FENCE` (R97, R99, R114, R131, R234, R235). -/

namespace Sys2Proof.Machine

/-! ## An atomic at its home (R114, R234) -/

theorem State.badRead_eq_false {s : State} {sp : Space} {a n : Nat} : s.badRead sp a n = false
    ↔ ∀ u ∈ s.errUnits sp, ¬(a < (u + 1) * eccUnit sp ∧ u * eccUnit sp < a + n) := by
  simp only [State.badRead, List.any_eq_false, Bool.and_eq_true, decide_eq_true_eq]

/-- What stands at the home of an atomic that meets no error. -/
def State.foundBy (s : State) (w : PWrite) : Nat := leNat (s.readHome 0 w.space w.addr w.bytes.length)

/-- A state after notes on who has read what. -/
theorem State.noteFrom_frame (s : State) (a : Agent) (es : List Recent) (sp : Space) (i n : Nat) (acq : Option Scope) :
    s.noteFrom a es sp i n acq = { s with recent := (s.noteFrom a es sp i n acq).recent, met := (s.noteFrom a es sp i n acq).met } := by
  cases acq <;> rfl

/-- The state in which an atomic writes: what it has read is noted. -/
def State.atomicNoted (s : State) (w : PWrite) (acq : Option Scope) : State :=
  { State.noteFrom { s with stale := [] } w.agent (State.newest { s with stale := [] } (State.stand { s with stale := [] } w.agent)
      w.space w.addr w.bytes.length) w.space w.addr w.bytes.length acq with stale := s.stale }

theorem State.atomicNoted_frame (s : State) (w : PWrite) (acq : Option Scope) : s.atomicNoted w acq
    = { s with recent := (s.atomicNoted w acq).recent, met := (s.atomicNoted w acq).met } := by
  cases acq <;> rfl

/-- The place of an atomic's write in the order of its location. -/
def State.atomicEntry (s : State) (w : PWrite) : Recent :=
  { id := 0, by_ := w.agent, space := w.space, addr := w.addr, old := [], ord := w.ord
    rels := if w.ord = .uo then [] else w.rels ++ (State.newest { s with stale := [] }
      (State.stand { s with stale := [] } w.agent) w.space w.addr w.bytes.length).flatMap (·.rels)
    known := if w.ord = .uo then [] else [w.agent], wide := [], ctx := w.ctx, node := w.node }

/-- An atomic that meets no error acts: it writes, or leaves a read where its comparison fails. -/
theorem State.atomicHome_ok {s : State} {w : PWrite} (m : Rmw) (acq : Option Scope)
    (h : s.badRead w.space w.addr w.bytes.length = false) : s.atomicHome w m acq
      = match m.fn.new (8 * w.bytes.length) (s.foundBy w) m.c with
        | none => (s.atomicNoted w acq, { old := s.foundBy w })
        | some v => ((((s.atomicNoted w acq).commit (s.atomicEntry w) (bytesOfWord w.bytes.length v.1)).1).releaseGen w,
            { old := s.foundBy w, flags := v.2 }) := by
  simp only [State.atomicHome, h, Bool.false_eq_true, if_false]
  unfold State.foundBy
  cases m.fn.new (8 * w.bytes.length) (leNat (s.readHome 0 w.space w.addr w.bytes.length)) m.c <;> rfl

theorem State.byteAt_releaseGen (s : State) (w : PWrite) (sp : Space) (b : Nat) : (s.releaseGen w).byteAt sp b = s.byteAt sp b := by
  rw [State.releaseGen_frame]
  cases sp <;> rfl

/-- The bytes and objects that an atomic leaves. -/
theorem State.atomicHome_spec {s : State} {w : PWrite} (m : Rmw) (acq : Option Scope) (hsp : w.space ≠ .hbm)
    (hin : s.InSpace w.space w.addr w.bytes.length) (hs : s.canon = true)
    (h : s.badRead w.space w.addr w.bytes.length = false) :
    let new := m.fn.new (8 * w.bytes.length) (s.foundBy w) m.c
    let t := s.atomicHome w m acq
    t.2.old = s.foundBy w ∧ t.2.flags = ((new.map (·.2)).getD 0) ∧ t.2.bad = false
    ∧ (∀ sp b, s.InSpace sp b 1 → t.1.byteAt sp b = match new with
        | none => s.byteAt sp b
        | some v => if sp = w.space ∧ w.addr ≤ b ∧ b < w.addr + w.bytes.length
          then (bytesOfWord w.bytes.length v.1).getD (b - w.addr) 0 else s.byteAt sp b)
    ∧ ∀ c i, t.1.obj c i = if w.release = true ∧ new.isSome = true ∧ w.obj = some (c, i) then
        (s.obj c i).map fun o => { o with gen := o.gen + 1 } else s.obj c i := by
  intro new t
  have hf := s.atomicNoted_frame w acq
  have ht : t = _ := State.atomicHome_ok m acq h
  cases hnew : m.fn.new (8 * w.bytes.length) (s.foundBy w) m.c with
  | none =>
    rw [ht]
    simp only [new, hnew]
    refine ⟨trivial, rfl, trivial, fun sp b _ => ?_, fun c i => ?_⟩
    · rw [hf]; cases sp <;> rfl
    · rw [if_neg (by simp), hf]; rfl
  | some v =>
    have hlen : (bytesOfWord w.bytes.length v.1).length = w.bytes.length := bytesOfWord_length _ _
    have hecc : ∀ u ∈ (s.atomicNoted w acq).errUnits w.space, ¬(w.addr < (u + 1) * eccUnit w.space
        ∧ u * eccUnit w.space < w.addr + (bytesOfWord w.bytes.length v.1).length) := by
      rw [hlen, ← State.badRead_eq_false, hf, ← h]
      cases w.space <;> rfl
    have hc : ((s.atomicNoted w acq).commit (s.atomicEntry w) (bytesOfWord w.bytes.length v.1)).1 = _ :=
      congrArg Prod.fst (State.commit_clean (s := s.atomicNoted w acq) (e := s.atomicEntry w) hsp hecc)
    have hs' : (s.atomicNoted w acq).canon = true := by rw [hf]; exact hs
    have hin' : (s.atomicNoted w acq).InSpace w.space w.addr (bytesOfWord w.bytes.length v.1).length := by
      rw [hlen, hf]
      revert hin
      cases w.space <;> exact id
    rw [ht]
    simp only [new, hnew]
    refine ⟨trivial, rfl, trivial, fun sp b hb => ?_, fun c i => ?_⟩
    · have hb' : (s.atomicNoted w acq).InSpace sp b 1 := by
        rw [hf]
        revert hb
        cases sp <;> exact id
      have hpoke := State.byteAt_poke hs' 0 hsp hin' hb'
      rw [hlen] at hpoke
      rw [State.byteAt_releaseGen, hc]
      refine Eq.trans ?_ (hpoke.trans ?_)
      · cases sp <;> rfl
      · congr 1
        rw [hf]
        cases sp <;> rfl
    · have hobj : ∀ s' : State, s'.ctxs = s.ctxs → s'.obj c i = s.obj c i := fun s' e => by simp only [State.obj, State.ctx, e]
      have hnoted : (s.atomicNoted w acq).ctxs = s.ctxs := by rw [hf]
      have hctx := (congrArg State.ctxs hc).trans ((congrArg State.ctxs (State.poke_frame (s.atomicNoted w acq) 0 hsp w.addr
        (bytesOfWord w.bytes.length v.1))).trans hnoted)
      rw [State.obj_releaseGen, hobj _ hctx]
      simp only [Option.isSome_some, true_and]

/-! ## An atomic that acts at once (R234, R235) -/

theorem State.Lands.releaseAt (s : State) (r : Run) (l : Nat) : s.Lands (s.releaseAt r l) :=
  (State.Lands.drain ..).trans (.bindLoads ..)

theorem State.Lands.atomicReady (s : State) (r : Run) (m : MemMod) (l : Nat) (p : Loc) : s.Lands (s.atomicReady r m l p) :=
  ((State.Lands.ite (.releaseAt ..) (.refl _)).trans (.ite (.drain ..) (.refl _))).trans (.fixLoads ..)

theorem State.Lands.atomicAt (s : State) (r : Run) (m : MemMod) (l : Nat) (p : Loc) (f : AtomArgs) :
    s.Lands (s.atomicAt r m l p f).1 :=
  ((State.Lands.atomicReady ..).trans (.drain ..)).trans (.atomicHome ..)

/-- An error that an atomic meets goes with its window. -/
theorem State.atomicAt_flt (s : State) (r : Run) (m : MemMod) (l : Nat) (p : Loc) (f : AtomArgs) :
    (s.atomicAt r m l p f).2.flt = none := by
  simp only [State.atomicAt]
  split <;> rfl

/-- What atomics that act at once have done and found so far; an s-register takes what the one access found. -/
def Run.actStep (r : Run) (m : MemMod) (p : Nat → Loc) (f : Nat → AtomArgs) (acc : State × (Nat → Res)) (l : Nat) :
    State × (Nat → Res) :=
  if (r.snap.lane l).st = .real then
    ((acc.1.atomicAt r m l (p l) (f l)).1,
      fun k => if k = l ∨ isS r.o.d = true then (acc.1.atomicAt r m l (p l) (f l)).2 else acc.2 k)
  else acc

/-- Atomics of the lanes, one after the other. -/
def Run.acts (r : Run) (m : MemMod) (p : Nat → Loc) (f : Nat → AtomArgs) (s : State) : State × (Nat → Res) :=
  r.accessors.foldl (r.actStep m p f) (s, fun _ => Res.ofVal 0)

/-- One lane's atomic, as the instruction makes it: a helper receives 0. -/
def State.actOne (r : Run) (m : MemMod) (p : Nat → Loc) (f : Nat → AtomArgs) (t : State) (l : Nat) : State × Res :=
  if (r.snap.lane l).st = .real then t.atomicAt r m l (p l) (f l) else (t, Res.ofVal 0)

section
variable {r : Run} {m : MemMod} {p : Nat → Loc} {f : Nat → AtomArgs}

theorem Run.actStep_fst (acc : State × (Nat → Res)) (l : Nat) : (r.actStep m p f acc l).1 = (acc.1.actOne r m p f l).1 := by
  unfold Run.actStep State.actOne
  split <;> rfl

theorem Run.acts_lands (s : State) : s.Lands (r.acts m p f s).1 := by
  have h : ∀ (ls : List Nat) (acc : State × (Nat → Res)), acc.1.Lands (ls.foldl (r.actStep m p f) acc).1 := by
    intro ls
    induction ls with
    | nil => exact fun acc => .refl _
    | cons l ls ih =>
      refine fun acc => State.Lands.trans ?_ (ih _)
      unfold Run.actStep
      split
      · exact .atomicAt ..
      · exact .refl _
  exact h r.accessors (s, fun _ => .ofVal 0)

/-- A property of results that 0 and every atomic have. -/
theorem Run.acts_res (P : Res → Prop) (h0 : P (.ofVal 0)) (h : ∀ s l, P (State.atomicAt s r m l (p l) (f l)).2) (s : State) (k : Nat) :
    P ((r.acts m p f s).2 k) := by
  have key : ∀ (ls : List Nat) (acc : State × (Nat → Res)), (∀ k, P (acc.2 k)) → ∀ k, P ((ls.foldl (r.actStep m p f) acc).2 k) := by
    intro ls
    induction ls with
    | nil => exact fun acc hacc => hacc
    | cons l ls ih =>
      refine fun acc hacc => ih _ fun k => ?_
      unfold Run.actStep
      split
      · dsimp only
        split
        · exact h ..
        · exact hacc k
      · exact hacc k
  exact key _ _ (fun _ => h0) k

/-- With an s-register destination every lane has the one result. -/
theorem Run.acts_src (s : State) (l : Nat) : (r.acts m p f s).2 (r.src l) = (r.acts m p f s).2 l := by
  unfold Run.src
  split
  case isFalse => rfl
  case isTrue hs =>
    have key : ∀ (ls : List Nat) (acc : State × (Nat → Res)), (∀ j k, acc.2 j = acc.2 k) →
        ∀ j k, (ls.foldl (r.actStep m p f) acc).2 j = (ls.foldl (r.actStep m p f) acc).2 k := by
      intro ls
      induction ls with
      | nil => exact fun acc hacc => hacc
      | cons l ls ih =>
        refine fun acc hacc => ih _ fun j k => ?_
        unfold Run.actStep
        split
        · simp only [hs, or_true, if_true]
        · exact hacc j k
    exact key _ _ (fun _ _ => rfl) _ _

/-- The results that the instruction collects are those of the lanes. -/
theorem Run.accesses_acts (hnd : r.act.Nodup) (s : State) : r.accesses (fun t l => t.actOne r m p f l) s
    = ((r.acts m p f s).1, r.act.map fun l => (l, (r.acts m p f s).2 l)) := by
  have hshort : isS r.o.d = true → r.accessors.length ≤ 1 := fun hs => by
    rw [Run.accessors, if_pos hs, List.length_take]
    omega
  have key : ∀ ls : List Nat, ls.Nodup → (isS r.o.d = true → ls.length ≤ 1) →
      let u := ls.foldl (r.actStep m p f) (s, fun _ => Res.ofVal 0)
      ls.foldl (fun (acc : State × List (Nat × Res)) l => ((acc.1.actOne r m p f l).1, acc.2 ++ [(l, (acc.1.actOne r m p f l).2)]))
        (s, []) = (u.1, ls.map fun l => (l, u.2 l))
      ∧ ∀ l ∉ ls, (isS r.o.d = true → ls = []) → u.2 l = .ofVal 0 := by
    intro ls
    induction ls using List.reverseRecOn with
    | nil => exact fun _ _ => ⟨rfl, fun _ _ _ => rfl⟩
    | append_singleton ls l ih =>
      intro hnd hlen
      obtain ⟨hls, -, hdis⟩ := List.nodup_append.1 hnd
      have hl : l ∉ ls := fun h => hdis l h l (List.mem_singleton_self l) rfl
      have hnil : isS r.o.d = true → ls = [] := fun hs => by
        have := hlen hs
        rw [List.length_append, List.length_singleton] at this
        exact List.length_eq_zero_iff.1 (by omega)
      obtain ⟨ih, hout⟩ := ih hls fun hs => by rw [hnil hs]; exact Nat.zero_le 1
      set u := ls.foldl (r.actStep m p f) (s, fun _ => Res.ofVal 0)
      have hlast : (r.actStep m p f u l).2 l = (u.1.actOne r m p f l).2 := by
        unfold Run.actStep State.actOne
        split
        · exact if_pos (.inl rfl)
        · exact hout l hl hnil
      have hothers : ∀ k, k ≠ l → (isS r.o.d = true → False) → (r.actStep m p f u l).2 k = u.2 k := by
        intro k hk hs
        unfold Run.actStep
        split
        · exact if_neg fun h => h.elim hk hs
        · rfl
      simp only [List.foldl_append, List.foldl_cons, List.foldl_nil, List.map_append, List.map_cons, List.map_nil]
      refine ⟨?_, fun k hk hs => ?_⟩
      · rw [ih, Run.actStep_fst, hlast]
        refine congrArg (fun x => (_, x ++ _)) (List.map_congr_left fun k hk => ?_)
        rw [hothers k (fun h => hl (h ▸ hk)) fun hs => by rw [hnil hs] at hk; cases hk]
      · rw [List.mem_append, List.mem_singleton, not_or] at hk
        have hs' : isS r.o.d = true → False := fun h => by simpa using hs h
        rw [hothers k hk.2 hs', hout k hk.1 hnil]
  refine (Run.accesses_eq (key _ ((r.accessors_sublist.nodup) hnd) hshort).1).trans ?_
  exact congrArg (Prod.mk _) (List.map_congr_left fun l _ => congrArg (Prod.mk l) (Run.acts_src s l))

end

/-! ## Atomics of legal locations -/

theorem Run.accesses_congr (r : Run) {f g : State → Nat → State × Res} {s : State} (h : ∀ l ∈ r.act, ∀ t, f t l = g t l) :
    r.accesses f s = r.accesses g s := by
  have hfold : r.accessors.foldl (fun (acc : State × List (Nat × Res)) l => ((f acc.1 l).1, acc.2 ++ [(l, (f acc.1 l).2)])) (s, [])
      = r.accessors.foldl (fun (acc : State × List (Nat × Res)) l => ((g acc.1 l).1, acc.2 ++ [(l, (g acc.1 l).2)])) (s, []) :=
    List.foldl_ext _ _ _ fun acc l hl => by rw [h l (r.accessors_sublist.subset hl)]
  simp only [Run.accessors] at hfold
  simp only [Run.accesses, hfold]

/-- The requests of atomics (R2). -/
def State.asked (s : State) (r : Run) (m : MemMod) (p : Nat → Loc) : State :=
  r.atomLanes.foldl (fun t l => t.request r (memBytes m) false true l (p l)) s

theorem State.asked_groups (s : State) (r : Run) (m : MemMod) (p : Nat → Loc) : (s.asked r m p).groups = s.groups := by
  have key : ∀ (ls : List Nat) (s : State),
      (ls.foldl (fun t l => State.request t r (memBytes m) false true l (p l)) s).groups = s.groups := by
    intro ls
    induction ls with
    | nil => exact fun _ => rfl
    | cons l ls ih => exact fun s => ih _
  exact key _ _

/-- The lanes that access memory with their locations, where these are legal. -/
def Run.atomLocs (r : Run) (loc : Nat → Except MemFlt Loc) : List (Nat × Loc) :=
  r.atomLanes.filterMap fun l => match loc l with
    | .ok p => some (l, p)
    | .error _ => none

/-- One lane's access: an atomic that acts at once, or nothing yet. -/
def State.atomOne (r : Run) (m : MemMod) (loc : Nat → Except MemFlt Loc) (f : Nat → AtomArgs) (now : Bool) (t : State) (l : Nat) :
    State × Res :=
  if !(r.snap.lane l).isReal then (t, Res.ofVal 0)
  else match loc l with
    | .error e => (t, e.res true)
    | .ok p => if now then t.atomicAt r m l p (f l) else (t, .ofVal 0)

theorem atomAll_eq (m : MemMod) (k : FieldKind) (loc : State → Run → Nat → Except MemFlt Loc) (f : Run → Nat → AtomArgs)
    (r : Run) (s : State) : atomAll m k loc f r s =
    let ls := r.atomLocs (loc s r)
    let now := !(ls.all fun x => r.mayWait m.kind x.2)
    let u := if now then s else ls.foldl (fun t x => t.atomicReady r m x.1 x.2) s
    let x := r.accesses (State.atomOne r m (loc s r) (f r) now) u
    let v := ls.foldl (fun t p => t.request r (memBytes m) false true p.1 p.2) x.1
    let w := if now then v else ls.foldl (fun t p => t.atomicSend r m p.1 p.2 (f r p.1)) v
    w.finish r true false false (r.dst k) x.2 := rfl

section
variable {m : MemMod} {k : FieldKind} {loc : State → Run → Nat → Except MemFlt Loc} {f : Run → Nat → AtomArgs} {r : Run} {s : State}
  {p : Nat → Loc}

/-- The lanes whose locations are legal are all those that access memory. -/
theorem Run.atomLocs_ok {loc : Nat → Except MemFlt Loc} (hp : ∀ l ∈ r.act, loc l = .ok (p l)) :
    r.atomLocs loc = r.atomLanes.map fun l => (l, p l) := by
  have hsub : ∀ l ∈ r.atomLanes, l ∈ r.act := fun l hl => r.accessors_sublist.subset (List.mem_filter.1 hl).1
  rw [Run.atomLocs, ← List.filterMap_eq_map]
  exact List.filterMap_congr fun l hl => by rw [hp l (hsub l hl)]; rfl

theorem State.atomOne_now {loc : Nat → Except MemFlt Loc} {f : Nat → AtomArgs} {l : Nat} (h : loc l = .ok (p l)) (t : State) :
    t.atomOne r m loc f true l = t.actOne r m p f l := by
  simp only [State.atomOne, State.actOne, h, Lane.isReal, Bool.not_eq_true', beq_eq_false_iff_ne, ite_not]
  rfl

theorem State.atomOne_later {loc : Nat → Except MemFlt Loc} {f : Nat → AtomArgs} {l : Nat} (h : loc l = .ok (p l)) (t : State) :
    t.atomOne r m loc f false l = (t, .ofVal 0) := by
  simp only [State.atomOne, h, Bool.false_eq_true, if_false, ite_self]

/-- Atomics one of which may not wait act at once. -/
theorem atomAll_acts (h : Stands s r) (c : Calm s r) (hp : ∀ l ∈ r.act, loc s r l = .ok (p l))
    (hnow : ∃ l ∈ r.atomLanes, r.mayWait m.kind (p l) = false) :
    Opens ((r.acts m p (f r) s).1.asked r m p) (atomAll m k loc f r s) r false (r.dst k) false (r.acts m p (f r) s).2 := by
  have hall : (!(r.atomLanes.map fun l => (l, p l)).all fun x => r.mayWait m.kind x.2) = true := by
    simpa only [List.all_map, Bool.not_eq_true', List.all_eq_false, Function.comp, Bool.not_eq_true] using hnow
  have hacc : r.accesses (State.atomOne r m (loc s r) (f r) true) s = r.accesses (fun t l => t.actOne r m p (f r) l) s :=
    r.accesses_congr fun l hl t => State.atomOne_now (hp l hl) t
  have heq : atomAll m k loc f r s = ((r.acts m p (f r) s).1.asked r m p).finish r true false false (r.dst k)
      (r.act.map fun l => (l, (r.acts m p (f r) s).2 l)) := by
    simp only [atomAll_eq, Run.atomLocs_ok hp, hall, if_true, hacc, Run.accesses_acts h.nodup, List.foldl_map]
    rfl
  have hg := State.asked_groups (r.acts m p (f r) s).1 r m p
  rw [heq]
  exact State.finish_long ((h.lands (Run.acts_lands s)).of_groups hg) ((c.lands (Run.acts_lands s)).of_groups hg) false false _ _
    fun l _ => Run.acts_res (·.flt = none) rfl (fun s l => s.atomicAt_flt ..) s l

/-- Atomics that all may wait set out. -/
theorem atomAll_sends (h : Stands s r) (c : Calm s r) (hp : ∀ l ∈ r.act, loc s r l = .ok (p l))
    (hwait : ∀ l ∈ r.atomLanes, r.mayWait m.kind (p l) = true) :
    Opens (r.atomLanes.foldl (fun t l => t.atomicSend r m l (p l) (f r l))
      ((r.atomLanes.foldl (fun t l => t.atomicReady r m l (p l)) s).asked r m p)) (atomAll m k loc f r s) r false (r.dst k) false
      fun _ => .ofVal 0 := by
  have hall : (!(r.atomLanes.map fun l => (l, p l)).all fun x => r.mayWait m.kind x.2) = false := by
    simpa only [List.all_map, Bool.not_eq_false', List.all_eq_true, Function.comp] using hwait
  have hacc : ∀ u, r.accesses (State.atomOne r m (loc s r) (f r) false) u = (u, r.act.map fun l => (l, Res.ofVal 0)) := fun u =>
    r.accesses_const (val := fun _ => Res.ofVal 0) fun l hl => State.atomOne_later (hp l hl) u
  have k : s.Lands (r.atomLanes.foldl (fun t l => t.atomicReady r m l (p l)) s) :=
    .foldl (fun t l => .atomicReady ..) _ _
  have hsend : ∀ (ls : List Nat) (u : State),
      (ls.foldl (fun t l => State.atomicSend t r m l (p l) (f r l)) u).groups = u.groups := by
    intro ls
    induction ls with
    | nil => exact fun _ => rfl
    | cons l ls ih => exact fun u => ih _
  have hg := (hsend r.atomLanes ((r.atomLanes.foldl (fun t l => t.atomicReady r m l (p l)) s).asked r m p)).trans
    (State.asked_groups ..)
  simp only [atomAll_eq, Run.atomLocs_ok hp, hall, Bool.false_eq_true, if_false, hacc, List.foldl_map]
  exact State.finish_long ((h.lands k).of_groups hg) ((c.lands k).of_groups hg) false false _ _ fun _ _ => rfl

/-- What an access that may wait has before it: the earlier accesses of a release, and the lane's loads of the location. -/
def State.askedFor (r : Run) (m : MemMod) (p : Nat → Loc) (u : State) (l : Nat) : State :=
  (if m.kind = .release then (u.drainLane r.gid r.w l).bindLoads r.gid r.w (oneLane l) else u).placeLoads
    (.lane r.gid r.w l) (p l).space (p l).addr (memBytes m)

/-- An atomic on its way. -/
def State.sentOut (r : Run) (m : MemMod) (p : Nat → Loc) (f : Nat → AtomArgs) (v : State) (l : Nat) : State :=
  { v with writes := v.writes ++ [
    { cycle := r.iss.cycle, gid := r.gid, warp := r.w, lane := l, op := none, space := (p l).space
      addr := (p l).addr, bytes := List.replicate (memBytes m) 0, ord := (p l).ord
      release := decide (m.kind = .release)
      rels := v.relsOf (.lane r.gid r.w l) (p l).space (if m.kind = .release then some m.scope else none)
      seen := false, obj := (p l).obj, ctx := r.g.ctx, node := r.g.node
      rmw := some { win := v.stamp, fn := (f l).fn, c := (f l).c, shared := isS r.o.d }, late := [] }] }

/-- An access that may wait is a release when its kind is that one. -/
theorem isRel_of_mayWait {l : Nat} (h : r.mayWait m.kind (p l) = true) :
    isRel m.kind = decide (m.kind = .release) ∧ (p l).ord ≠ .so := by
  rw [Run.mayWait_eq, decide_eq_true_eq] at h
  obtain ⟨hk | hk, ho, -⟩ := h
  · exact ⟨by rw [hk]; rfl, ho⟩
  · exact ⟨by rw [hk]; rfl, ho⟩

theorem State.atomicReady_of_mayWait {l : Nat} (h : r.mayWait m.kind (p l) = true) (u : State) :
    u.atomicReady r m l (p l) = u.askedFor r m p l := by
  obtain ⟨hk, ho⟩ := isRel_of_mayWait h
  simp only [State.atomicReady, State.askedFor, hk, ho, if_false, decide_eq_true_eq]
  rfl

theorem State.atomicSend_of_mayWait {f : Nat → AtomArgs} {l : Nat} (h : r.mayWait m.kind (p l) = true) (u : State) :
    u.atomicSend r m l (p l) (f l) = u.sentOut r m p f l := by
  obtain ⟨hk, -⟩ := isRel_of_mayWait h
  simp only [State.atomicSend, State.atomicOut, State.sentOut, hk, decide_eq_true_eq]
  rfl

/-- Atomics that all may wait set out. -/
theorem atomAll_sent (h : Stands s r) (c : Calm s r) (hp : ∀ l ∈ r.act, loc s r l = .ok (p l))
    (hwait : ∀ l ∈ r.atomLanes, r.mayWait m.kind (p l) = true) :
    Opens (r.atomLanes.foldl (State.sentOut r m p (f r)) ((r.atomLanes.foldl (State.askedFor r m p) s).asked r m p))
      (atomAll m k loc f r s) r false (r.dst k) false fun _ => .ofVal 0 := by
  have hready : r.atomLanes.foldl (fun t l => t.atomicReady r m l (p l)) s = r.atomLanes.foldl (State.askedFor r m p) s :=
    List.foldl_ext _ _ _ fun t l hl => State.atomicReady_of_mayWait (hwait l hl) t
  have hsend : ∀ u, r.atomLanes.foldl (fun t l => State.atomicSend t r m l (p l) (f r l)) u
      = r.atomLanes.foldl (State.sentOut r m p (f r)) u := fun u =>
    List.foldl_ext _ _ _ fun t l hl => State.atomicSend_of_mayWait (hwait l hl) t
  rw [← hsend, ← hready]
  exact atomAll_sends h c hp hwait

end

/-! ## Locations (R88, R97) -/

/-- The immediate and, where the form has one, the index. -/
theorem Run.disp_eq (r : Run) (useB : Bool) (l : Nat) :
    r.disp useB l = r.o.imm.toInt + if useB then ((r.rd32 l r.o.b).toNat : Int) else 0 := by
  cases useB <;> rfl

theorem Run.sharedLoc_ok {r : Run} {useB : Bool} {n l : Nat} {off : Int} (hoff : ((r.rd32 l r.o.a).toNat : Int) + r.disp useB l = off)
    (h0 : 0 ≤ off) (h1 : off + n ≤ r.d.shared) (h2 : off.toNat % n = 0) :
    r.sharedLoc useB n l = .ok { space := .shared r.gid, addr := off.toNat, ord := .rc, obj := none } := by
  rw [Run.sharedLoc, hoff, sharedAt_ok h0 h1 h2]
  rfl

/-- What a core's object cache holds is what it held, or a change of it. -/
theorem State.core_modCore (s : State) (d c : Nat) (f : Core → Core) :
    (s.modCore d c f).core d c = s.core d c ∨ (s.modCore d c f).core d c = f (s.core d c) := by
  simp only [State.core, State.die, State.modCore, State.modDie, listMod_getD]
  split
  · simp only [listMod_getD]
    split
    · exact .inr rfl
    · exact .inl rfl
  · exact .inl rfl

theorem State.lost_modCore (s : State) (d c : Nat) (f : Core → Core) (k : Nat) :
    ((s.modCore d c f).die k).lost = (s.die k).lost := by
  simp only [State.die, State.modCore, State.modDie, listMod_getD]
  split <;> rfl

/-- Of the state, the object cache's objects alone change: the contexts and the routes are as they were. -/
theorem State.holdObj_rest (s : State) (die core c i : Nat) :
    (s.holdObj die core c i).ctxs = s.ctxs ∧ ∀ k, ((s.holdObj die core c i).die k).lost = (s.die k).lost := by
  unfold State.holdObj
  split
  · exact ⟨rfl, fun _ => rfl⟩
  · exact ⟨rfl, s.lost_modCore _ _ _⟩

theorem State.holdCaps_rest (g : Group) (caps : List W64) : ∀ s : State,
    (s.holdCaps g caps).ctxs = s.ctxs ∧ ∀ k, ((s.holdCaps g caps).die k).lost = (s.die k).lost := by
  induction caps with
  | nil => exact fun s => ⟨rfl, fun _ => rfl⟩
  | cons cap caps ih =>
    intro s
    obtain ⟨h1, h2⟩ := ih (s.holdObj g.die g.core g.ctx (capObj cap))
    obtain ⟨k1, k2⟩ := s.holdObj_rest g.die g.core g.ctx (capObj cap)
    exact ⟨h1.trans k1, fun k => (h2 k).trans (k2 k)⟩

theorem State.hops_congr {s t : State} (h : ∀ k, (t.die k).lost = (s.die k).lost) (a b : Nat) : t.hops a b = s.hops a b := by
  simp only [State.hops, h]

theorem State.obj_congr {s t : State} (h : t.ctxs = s.ctxs) (c i : Nat) : t.obj c i = s.obj c i := by
  simp only [State.obj, State.ctx, h]

/-- A cache that holds an object at its length, or not at all, does so after it holds another. -/
theorem State.heldLen_holdObj {s : State} {die core c i j : Nat} {e : Obj} (he : s.obj c i = some e)
    (h : s.heldLen die core c i e = e.len) : (s.holdObj die core c j).heldLen die core c i e = e.len := by
  unfold State.holdObj
  split
  · exact h
  · next o ho =>
    rcases s.core_modCore die core fun k => if k.objs.any fun h => h.ctx == c && h.obj == j then k
        else { k with objs := ({ ctx := c, obj := j, len := o.len } :: k.objs).take 256 } with hk | hk
    · rw [State.heldLen, hk]
      exact h
    · rw [State.heldLen, hk]
      split
      · exact h
      · cases hf : List.find? (fun h => h.ctx == c && h.obj == i)
            (({ ctx := c, obj := j, len := o.len } :: (s.core die core).objs).take 256) with
        | none => rfl
        | some x =>
          have hx := (List.take_prefix 256 _).find?_eq_some hf
          rw [List.find?_cons] at hx
          split at hx
          · next hij =>
            obtain rfl : j = i := by simpa using hij
            cases hx
            exact congrArg Obj.len (Option.some.inj (ho.symm.trans he))
          · rw [State.heldLen, hx] at h
            exact h

theorem State.heldLen_holdCaps {g : Group} {i : Nat} {e : Obj} (caps : List W64) : ∀ s : State, s.obj g.ctx i = some e →
    s.heldLen g.die g.core g.ctx i e = e.len → (s.holdCaps g caps).heldLen g.die g.core g.ctx i e = e.len := by
  induction caps with
  | nil => exact fun s _ h => h
  | cons cap caps ih =>
    exact fun s he h => ih _ ((State.obj_congr (s.holdObj_rest ..).1 ..).trans he) (State.heldLen_holdObj he h)

theorem State.capEntry_obj {s : State} {c : Nat} {cap : W64} {kinds : List ObjKind} {e : Obj} (h : s.capEntry c cap kinds = some e) :
    s.obj c (capObj cap) = some e := by
  rw [State.capEntry] at h
  split at h
  · cases h
  · exact (Option.filter_eq_some_iff.1 h).1

/-- The tests of R97 that an atomic passes. -/
theorem State.checkCap_atomic_ok {s : State} {c : Nat} {cap : W64} {off : Int} {n : Nat} {need : BitVec 4} {kinds : List ObjKind}
    {e : Obj} (h : s.capEntry c cap kinds = some e) (hr : need &&& (capRights cap &&& e.rights) = need) (h0 : 0 ≤ off)
    (h1 : off + n ≤ e.len) (hp : e.placed.isSome = true)
    (hs : (e.base + off.toNat) / 65536 = (e.base + off.toNat + n - 1) / 65536) (h2 : off.toNat % n = 0) :
    s.checkCap c cap off n need kinds true true = .ok (e, off.toNat) := by
  have hp' : e.placed.isNone = false := by
    rw [← Option.not_isSome, hp]
    rfl
  have hb : ¬(decide (off < 0) || decide ((e.len : Int) < off + n)) = true := by
    simp only [Bool.or_eq_true, decide_eq_true_eq]
    omega
  simp only [State.checkCap, h]
  rw [if_neg (not_not_intro hr), if_neg hb, hp']
  simp [h2, hs]

/-- The location of an atomic in a loft, as the core that has taken its lanes' objects finds it. -/
theorem State.loftLoc_atomic_ok {s : State} {r : Run} {useB : Bool} {n l : Nat} {need : BitVec 4} {e : Obj} {cap : W64} {off : Int}
    (caps : List W64) (hcap : r.rd64 .zero l r.o.a = cap) (hoff : capOff cap + r.disp useB l = off)
    (h : s.capEntry r.g.ctx cap [.loft] = some e) (hr : need &&& (capRights cap &&& e.rights) = need) (h0 : 0 ≤ off)
    (h1 : off + n ≤ e.len) (hp : e.placed.isSome = true)
    (hs : (e.base + off.toNat) / 65536 = (e.base + off.toNat + n - 1) / 65536) (h2 : off.toNat % n = 0)
    (hh : (s.hops r.g.die (e.placed.getD 0)).isSome = true)
    (hl : s.heldLen r.g.die r.g.core r.g.ctx (capObj cap) e = e.len) :
    (s.holdCaps r.g caps).loftLoc r useB n need true l = .ok
      { space := .loft (e.placed.getD 0), addr := e.base + off.toNat, ord := e.ord, obj := some (r.g.ctx, capObj cap) } := by
  obtain ⟨hctx, hlost⟩ := State.holdCaps_rest r.g caps s
  have hent : (s.holdCaps r.g caps).capEntry r.g.ctx cap [.loft] = some e := by
    rw [← h]
    simp only [State.capEntry, State.obj_congr hctx]
  have hnone : ((s.holdCaps r.g caps).hops r.g.die (e.placed.getD 0)).isNone = false := by
    rw [State.hops_congr hlost, ← Option.not_isSome, hh]
    rfl
  have hheld : (s.holdCaps r.g caps).checkHeld r.g cap off n need [.loft] true true = .ok (e, off.toNat) := by
    rw [State.checkHeld, State.checkCap_atomic_ok hent hr h0 h1 hp hs h2]
    simp only [State.heldLen_holdCaps caps s (State.capEntry_obj h) hl]
    rw [if_neg (by omega)]
  simp only [State.loftLoc, hcap, hoff, hheld, hnone, Bool.false_eq_true, if_false]

/-! ## An atomic of a lane with nothing on its way (R125, R234) -/

/-- Of a lane without writes under way, an atomic waits for loads alone. -/
theorem State.atomicReady_frame {s : State} {r : Run} {l : Nat} (hw : ∀ x ∈ s.writes, x.byLane r.gid r.w l = false) (m : MemMod)
    (p : Loc) : s.atomicReady r m l p = { s with loads := (s.atomicReady r m l p).loads } := by
  have hrel : s.releaseAt r l = { s with loads := (s.releaseAt r l).loads } := by
    rw [State.releaseAt, State.drainLane, State.drain_none fun x hx => by rw [hw x hx, Bool.false_and]]
    rfl
  have hso : ∀ t : State, t.writes = s.writes → t.drainSo r.gid r.w l = t := fun t ht =>
    State.drain_none fun x hx => by rw [hw x (ht ▸ hx), Bool.false_and]
  have hkind : (if isRel m.kind then s.releaseAt r l else s)
      = { s with loads := (if isRel m.kind then s.releaseAt r l else s).loads } := by
    split
    · exact hrel
    · rfl
  simp only [State.atomicReady]
  rw [hso _ (congrArg State.writes hkind :), ite_self]
  generalize (if isRel m.kind then s.releaseAt r l else s) = t at hkind
  rw [hkind]
  rfl

theorem State.readHome_length (s : State) (key : Nat) (sp : Space) (a n : Nat) : (s.readHome key sp a n).length = n := by
  unfold State.readHome
  split
  · split
    · exact List.length_replicate
    · exact readBytes_length ..
  · exact readBytes_length ..
  · rw [List.length_map, List.length_range]

/-- An unsigned number of its width is its word. -/
theorem extInt_unsigned {n x : Nat} (h : x < 2 ^ n) : extInt n false x = BitVec.ofNat 64 x := by
  have hmod : ((x : Int) % 2 ^ n).toNat = x := by
    rw [Int.emod_eq_of_lt (by positivity) (by exact_mod_cast h), Int.toNat_natCast]
  rw [extInt, hmod]
  exact BitVec.ofInt_natCast 64 x

/-- What an atomic does that nothing is ahead of. -/
theorem State.atomicAt_spec {s : State} {r : Run} {m : MemMod} {l : Nat} {p : Loc} (f : AtomArgs)
    (hahead : ∀ x ∈ s.writes, ¬(x.space = p.space ∧ x.addr < p.addr + memBytes m ∧ p.addr < x.addr + x.bytes.length))
    (hw : ∀ x ∈ s.writes, x.byLane r.gid r.w l = false) (hsp : p.space ≠ .hbm) (hin : s.InSpace p.space p.addr (memBytes m))
    (hs : s.canon = true) (h : s.badRead p.space p.addr (memBytes m) = false) :
    let old := leNat (s.readHome 0 p.space p.addr (memBytes m))
    let new := f.fn.new (8 * memBytes m) old f.c
    let t := s.atomicAt r m l p f
    t.2.val = BitVec.ofNat 64 old ∧ t.2.flt = none ∧ t.2.late = none
    ∧ (∀ sp b, s.InSpace sp b 1 → t.1.byteAt sp b = match new with
        | none => s.byteAt sp b
        | some v => if sp = p.space ∧ p.addr ≤ b ∧ b < p.addr + memBytes m
          then (bytesOfWord (memBytes m) v.1).getD (b - p.addr) 0 else s.byteAt sp b)
    ∧ ∀ c i, t.1.obj c i = if isRel m.kind = true ∧ new.isSome = true ∧ p.obj = some (c, i) then
        (s.obj c i).map fun o => { o with gen := o.gen + 1 } else s.obj c i := by
  intro old new t
  set u := s.atomicReady r m l p with hu
  have hframe : u = { s with loads := u.loads } := State.atomicReady_frame hw m p
  have hdrain : u.drain (fun x => touches x.space x.addr x.bytes.length p.space p.addr (memBytes m)
      && (x.agent == r.agent l || x.cycle == r.iss.cycle)) = u := by
    refine State.drain_none fun x hx => ?_
    have hx : x ∈ s.writes := (congrArg (x ∈ ·.writes) hframe).mp hx
    rw [Bool.and_eq_false_iff]
    refine .inl (Bool.eq_false_iff.2 fun ht => hahead x hx ?_)
    simpa only [touches, Bool.and_eq_true, beq_iff_eq, decide_eq_true_eq, and_assoc] using ht
  set w := u.atomicOut r m l p with hwr
  have hn : w.bytes.length = memBytes m := List.length_replicate
  have hin' : u.InSpace w.space w.addr w.bytes.length := by
    rw [hn, hframe]
    revert hin
    show s.InSpace p.space _ _ → State.InSpace _ p.space _ _
    cases p.space <;> exact id
  have hbad : u.badRead w.space w.addr w.bytes.length = false := by
    rw [hn, hframe, ← h]
    show State.badRead _ p.space _ _ = s.badRead p.space _ _
    cases p.space <;> rfl
  have hfound : u.foundBy w = old := by
    rw [State.foundBy, hn, hframe]
    show leNat (State.readHome _ _ p.space p.addr _) = leNat (s.readHome _ p.space _ _)
    cases p.space <;> rfl
  have hval : extInt (8 * memBytes m) false old = BitVec.ofNat 64 old := extInt_unsigned <| by
    have := leNat_lt (s.readHome 0 p.space p.addr (memBytes m))
    rwa [State.readHome_length] at this
  obtain ⟨hold, -, hok, hmem, hgen⟩ := State.atomicHome_spec { win := 0, fn := f.fn, c := f.c, shared := false }
    (acquireAt m.kind m.scope p) hsp hin' (by rw [hframe]; exact hs) hbad
  have ht : t = ((u.atomicHome w { win := 0, fn := f.fn, c := f.c, shared := false } (acquireAt m.kind m.scope p)).1,
      { Res.ofVal (extInt (8 * memBytes m) false (u.foundBy w)) with flags :=
        (u.atomicHome w { win := 0, fn := f.fn, c := f.c, shared := false } (acquireAt m.kind m.scope p)).2.flags }) := by
    simp only [t, State.atomicAt, ← hu, hdrain, ← hwr, hold, hok, Bool.false_eq_true, if_false]
  rw [hn, hfound] at hmem hgen
  refine ⟨?_, by rw [ht]; rfl, by rw [ht]; rfl, fun sp b hb => ?_, fun c i => ?_⟩
  · rw [ht, hfound]
    exact hval
  · have hbyte : u.byteAt sp b = s.byteAt sp b := by rw [hframe]; cases sp <;> rfl
    have hb' : u.InSpace sp b 1 := by
      rw [hframe]
      revert hb
      cases sp <;> exact id
    rw [ht, ← hbyte]
    exact hmem sp b hb'
  · have hobj : u.obj c i = s.obj c i := State.obj_congr (congrArg State.ctxs hframe :) c i
    rw [ht, ← hobj]
    exact hgen c i

/-! ## The functions (R234) -/

/-- The number of a code and the comparison of two. -/
theorem atomNew_values (n x c : Nat) :
    let num := fun a : Nat => if 2 ^ (n - 1) ≤ a then (a : Int) - 2 ^ n else a
    (atomNew .add n x c).1 = (x + c) % 2 ^ n ∧ (atomNew .minz n x c).1 = min x c ∧ (atomNew .maxz n x c).1 = max x c
    ∧ num (atomNew .mins n x c).1 = min (num x) (num c) ∧ num (atomNew .maxs n x c).1 = max (num x) (num c)
    ∧ (atomNew .and n x c).1 = x &&& c ∧ (atomNew .or n x c).1 = x ||| c ∧ (atomNew .xor n x c).1 = x ^^^ c
    ∧ (atomNew .exch n x c).1 = c ∧ (atomNew .inc n x c).1 = (if c ≤ x then 0 else x + 1)
    ∧ (atomNew .dec n x c).1 = if x = 0 ∨ c < x then c else x - 1 := by
  intro num
  have hnum : ∀ a, toNum n true a = num a := fun a => by
    simp only [toNum, num, Bool.true_and, decide_eq_true_eq]
  refine ⟨rfl, rfl, rfl, ?_, ?_, rfl, rfl, rfl, rfl, rfl, rfl⟩
  · simp only [atomNew, hnum, apply_ite num, min_def]
  · simp only [atomNew, hnum, apply_ite num, max_def]

/-! ## FENCE (R131, R132) -/

theorem State.widen_eq (s : State) (a : Agent) (sc : Scope) : s.widen a sc = { s with recent := s.recent.map fun (e : Recent) =>
    if e.by_ = a ∧ e.ord ≠ .uo then { e with wide := e.wide ++ [(sc, s.stand a)] } else e } := by
  simp only [State.widen, Bool.and_eq_true, beq_iff_eq, bne_iff_ne]

theorem State.Lands.fenceRelease (s : State) (r : Run) (l : Nat) (sc : Scope) : s.Lands (s.fenceRelease r l sc) :=
  (State.Lands.drain ..).trans (.of_fields rfl rfl rfl rfl rfl rfl)

theorem State.Lands.widen (s : State) (a : Agent) (sc : Scope) : s.Lands (s.widen a sc) := .of_fields rfl rfl rfl rfl rfl rfl

theorem State.Lands.fenceAt (s : State) (r : Run) (m : FenceMod) (l : Nat) : s.Lands (s.fenceAt r m l) :=
  (((State.Lands.settleReads ..).trans (.ite (.teach ..) (.refl _))).trans (.ite (.fenceRelease ..) (.refl _))).trans
    (.ite (.widen ..) (.refl _))

/-- The lanes of a fence, one after the other; at lane scope it has no effect. -/
def State.fenceAll (s : State) (r : Run) (m : FenceMod) : State :=
  if m.scope = .lane then s else r.act.foldl (fun t l => t.fenceAt r m l) s

theorem exec_fence {o : Ops} {m : FenceMod} {s : State} {r : Run} (h : Issues (.fence o m) s r) (c : Calm s r) :
    exec (.fence o m) s = .next ((s.fenceAll r m).moved r fun _ => nextSlot r.pc) := by
  have k : s.Lands (s.fenceAll r m) := .ite (.refl _) (.foldl (fun t l => .fenceAt ..) _ _)
  exact (issued_next h _ _).trans (congrArg _ (State.advance_calm (h.toBegins.stands.lands k) (c.lands k)))

/-! ### What is still on its way -/

theorem State.writes_putHome (s : State) (key : Nat) (sp : Space) (a : Nat) (bs : List Byte) :
    (s.putHome key sp a bs).1.writes = s.writes := by
  have hpoke : ∀ (s : State) (a : Nat) (bs : List Byte), (s.poke key sp a bs).writes = s.writes := fun s a bs => by cases sp <;> rfl
  have hunits : ∀ us, (s.setErrUnits sp us).writes = s.writes := fun us => by cases sp <;> rfl
  have hfold : ∀ (kept : List Nat) (u : Nat) (ps : List (Byte × Nat)) (t : State), (ps.foldl (fun (s : State) p =>
      if kept.contains ((a + p.2) / u) then s else s.poke key sp (a + p.2) [p.1]) t).writes = t.writes := by
    intro kept u ps
    induction ps with
    | nil => exact fun _ => rfl
    | cons p ps ih =>
      intro t
      rw [List.foldl_cons, ih]
      split
      · rfl
      · exact hpoke ..
  unfold State.putHome
  dsimp only
  split
  · exact hpoke ..
  · split
    · exact (hfold ..).trans (hunits _)
    · exact (hfold ..).trans (hunits _)

theorem State.writes_commit (s : State) (e : Recent) (bs : List Byte) : (s.commit e bs).1.writes = s.writes :=
  s.writes_putHome ..

theorem State.writes_releaseGen (s : State) (w : PWrite) : (s.releaseGen w).writes = s.writes := by
  rw [State.releaseGen_frame]

theorem State.writes_atomicHome (s : State) (w : PWrite) (m : Rmw) (acq : Option Scope) :
    (s.atomicHome w m acq).1.writes = s.writes := by
  cases h : s.badRead w.space w.addr w.bytes.length with
  | true => simp only [State.atomicHome, h, if_true]
  | false =>
    have hnoted : (s.atomicNoted w acq).writes = s.writes := by rw [State.atomicNoted_frame]
    rw [State.atomicHome_ok m acq h]
    split
    · exact hnoted
    · exact (State.writes_releaseGen ..).trans ((State.writes_commit ..).trans hnoted)

theorem State.writes_land1 (s : State) (w : PWrite) : (s.land1 w).writes = s.writes := by
  have hfail : ∀ (b : Bool) (t : State), (if b then t.failWrite w.op else t).writes = t.writes := fun b t => by cases b <;> rfl
  unfold State.land1
  split
  · exact (State.writes_releaseGen ..).trans ((hfail ..).trans (s.writes_commit ..))
  · exact s.writes_atomicHome ..

/-- Writes that do not reach their homes are among those on their way, and no test picks them. -/
theorem splitWrites_stay (p : PWrite → Bool) (ws : List PWrite) : ∀ x ∈ (splitWrites p ws).2, x ∈ ws ∧ p x = false := by
  have key : ∀ (vs : List PWrite) (acc : List PWrite × List PWrite), (∀ x ∈ acc.2, x ∈ ws ∧ p x = false) → (∀ x ∈ vs, x ∈ ws) →
      ∀ x ∈ (vs.foldl (fun (acc : List PWrite × List PWrite) w =>
        if p w || acc.1.any (ahead w) then (w :: acc.1, acc.2) else (acc.1, w :: acc.2)) acc).2, x ∈ ws ∧ p x = false := by
    intro vs
    induction vs with
    | nil => exact fun acc hacc _ => hacc
    | cons w vs ih =>
      intro acc hacc hvs
      obtain ⟨hw, hvs⟩ := List.forall_mem_cons.1 hvs
      refine ih _ ?_ hvs
      dsimp only
      split
      · exact hacc
      · next hp =>
        have hp : p w = false := (Bool.or_eq_false_iff.1 (Bool.not_eq_true _ ▸ hp)).1
        exact List.forall_mem_cons.2 ⟨⟨hw, hp⟩, hacc⟩
  exact key _ _ (fun x hx => by cases hx) fun x hx => List.mem_reverse.1 hx

theorem State.writes_drain (s : State) (p : PWrite → Bool) : ∀ x ∈ (s.drain p).writes, x ∈ s.writes ∧ p x = false := by
  have hfold : ∀ (ws : List PWrite) (t : State), (ws.foldl State.land1 t).writes = t.writes := by
    intro ws
    induction ws with
    | nil => exact fun _ => rfl
    | cons w ws ih => exact fun t => (ih _).trans (t.writes_land1 w)
  intro x hx
  exact splitWrites_stay p s.writes x ((congrArg (x ∈ ·) (hfold ..)).mp hx)

/-- A fence leaves on their way no more than there were; a release, none of its lane. -/
theorem State.writes_fenceAt (s : State) (r : Run) (m : FenceMod) (l : Nat) : ∀ x ∈ (s.fenceAt r m l).writes, x ∈ s.writes
    ∧ (isRel m.kind = true → x.byLane r.gid r.w l = false) := by
  intro x hx
  have hwide : x ∈ (if isRel m.kind then (if isAcq m.kind then (s.settleReads r.gid r.w (oneLane l)).fenceAcquire (r.agent l) m.scope
      else s.settleReads r.gid r.w (oneLane l)).fenceRelease r l m.scope else if isAcq m.kind then
      (s.settleReads r.gid r.w (oneLane l)).fenceAcquire (r.agent l) m.scope else s.settleReads r.gid r.w (oneLane l)).writes := by
    unfold State.fenceAt at hx
    dsimp only at hx
    split at hx <;> exact hx
  have hacq : ∀ y ∈ (if isAcq m.kind then (s.settleReads r.gid r.w (oneLane l)).fenceAcquire (r.agent l) m.scope
      else s.settleReads r.gid r.w (oneLane l)).writes, y ∈ s.writes := by
    intro y hy
    refine (s.writes_drain (PWrite.atomicOf r.gid r.w (oneLane l)) y ?_).1
    split at hy <;> exact hy
  split at hwide
  · obtain ⟨h1, h2⟩ := State.writes_drain _ _ x hwide
    exact ⟨hacq x h1, fun _ => h2⟩
  · next hrel => exact ⟨hacq x hwide, fun h => absurd h hrel⟩

theorem State.writes_fences (r : Run) (m : FenceMod) (ls : List Nat) : ∀ s : State,
    ∀ x ∈ (ls.foldl (fun t l => State.fenceAt t r m l) s).writes, x ∈ s.writes
      ∧ (isRel m.kind = true → ∀ l ∈ ls, x.byLane r.gid r.w l = false) := by
  induction ls with
  | nil => exact fun s x hx => ⟨hx, fun _ l hl => by cases hl⟩
  | cons l ls ih =>
    intro s x hx
    obtain ⟨h1, h2⟩ := ih _ x hx
    obtain ⟨h3, h4⟩ := s.writes_fenceAt r m l x h1
    exact ⟨h3, fun hr => List.forall_mem_cons.2 ⟨h4 hr, h2 hr⟩⟩

/-! ## The instructions -/

theorem exec_atms {o : Ops} {m : MemMod} {s : State} {r : Run} (h : Issues (.atms o m) s r) : exec (.atms o m) s = .next
    (atomAll m (memDstV m) (fun _ r l => r.sharedLoc true (memBytes m) l) (atomArgs m) r s) :=
  issued_next h _ _

theorem exec_cass {o : Ops} {m : MemMod} {s : State} {r : Run} (h : Issues (.cass o m) s r) : exec (.cass o m) s = .next
    (atomAll m (memDst m) (fun _ r l => r.sharedLoc false (memBytes m) l) (casArgs m) r s) :=
  issued_next h _ _

theorem exec_atml {o : Ops} {m : MemMod} {s : State} {r : Run} (h : Issues (.atml o m) s r) :
    exec (.atml o m) s = .next (loftAtom m (memDstV m) true (atomArgs m) r s) :=
  issued_next h _ _

theorem exec_casl {o : Ops} {m : MemMod} {s : State} {r : Run} (h : Issues (.casl o m) s r) :
    exec (.casl o m) s = .next (loftAtom m (memDst m) false (casArgs m) r s) :=
  issued_next h _ _

section
variable {m : MemMod} {k : FieldKind} {useB : Bool} {f : Run → Nat → AtomArgs} {r : Run} {s : State}

theorem loftAtom_play (h : r.d.isRehearsal = false) : loftAtom m k useB f r s = atomAll m k
    (fun s r l => s.loftLoc r useB (memBytes m) (rightRD ||| rightWR ||| rightAT) true l) f r (s.holdCaps r.g r.caps) := by
  rw [loftAtom, noRehearsal, h]
  rfl

/-- The atomics that another group can observe fault in a rehearsal launch (R410). -/
theorem loftAtom_rehearsal (hn : s.NoPre) (ha : r.act = r.ls) (h : r.d.isRehearsal = true) : loftAtom m k useB f r s
    = s.raise r.gid r.w r.pc (r.ls.map fun l => (l, ({ code := .rehearsal, s45 := 0 } : Flt))) := by
  rw [loftAtom, noRehearsal, if_pos h, Run.others_nil ha, State.advance_nil, State.raiseAll, hn.raiseRun, ha]

end

/-! ## The obligation -/

/-- Settles O43: atomics act at once or set out, and fences end what came before them. -/
theorem atomicsAndFences : Obligations.AtomicsAndFences := by
  unfold Obligations.AtomicsAndFences
  intro value acts new swap real asked goes index shared loft
  have hgoes : ∀ {i : Instr} {s0 s : State} {r : Run} {m : MemMod} {k : FieldKind} {at_ : State → Run → Nat → Except MemFlt Loc}
      {loc : Nat → Loc} {f : Run → Nat → AtomArgs}, Stands s r → Calm s r → (∀ l ∈ r.act, at_ s r l = .ok (loc l)) →
      exec i s0 = .next (atomAll m k at_ f r s) → goes i s0 s r m k loc (f r) := by
    intro i s0 s r m k at_ loc f h c hp he
    have hw : ∀ l, r.mayWait m.kind (loc l)
        = decide ((m.kind = .plain ∨ m.kind = .release) ∧ (loc l).ord ≠ .so ∧ r.d.isRehearsal = false) := fun l => r.mayWait_eq ..
    refine ⟨fun ⟨l, hl, hno⟩ => ⟨_, he, atomAll_acts h c hp ⟨l, hl, ?_⟩⟩, fun hall => ⟨_, he, atomAll_sent h c hp fun l hl => ?_⟩⟩
    · rw [hw, decide_eq_false hno]
    · rw [hw, decide_eq_true (hall l hl)]
  have hshared : ∀ {i : Instr} {m : MemMod} {k : FieldKind} {useB : Bool} {f : MemMod → Run → Nat → AtomArgs},
      (∀ s r, Issues i s r → exec i s = .next (atomAll m k (fun _ r l => r.sharedLoc useB (memBytes m) l) (f m) r s)) →
      shared i m k useB fun r m => f m r := by
    intro i m k useB f he s r h c at_ hl
    refine hgoes (f := f m) h.toBegins.stands c (fun l hm => ?_) (he s r h)
    obtain ⟨h0, h1, h2⟩ := hl l hm
    exact Run.sharedLoc_ok (by rw [Run.disp_eq]) h0 h1 h2
  have hloft : ∀ {i : Instr} {m : MemMod} {k : FieldKind} {useB : Bool} {f : MemMod → Run → Nat → AtomArgs},
      (∀ s r, Issues i s r → exec i s = .next (loftAtom m k useB (f m) r s)) → loft i m k useB fun r m => f m r := by
    intro i m k useB f he s r e h c hr cap off need n hl
    have hg := (State.holdCaps_groups r.g r.caps s).1
    refine hgoes (f := f m) (h.toBegins.stands.of_groups hg) (c.of_groups hg) (fun l hm => ?_)
      ((he s r h).trans (congrArg _ (loftAtom_play hr)))
    obtain ⟨hent, hneed, h0, h1, hpl, hst, h2, hh, hlen⟩ := hl l hm
    exact State.loftLoc_atomic_ok r.caps rfl (by rw [Run.disp_eq]) hent hneed h0 h1 hpl hst h2 hh hlen
  refine ⟨fun o m => ⟨hshared (f := atomArgs) fun _ _ => exec_atms, hloft (f := atomArgs) fun _ _ => exec_atml,
      hshared (f := casArgs) fun _ _ => exec_cass, hloft (f := casArgs) fun _ _ => exec_casl⟩, ?_, ?_, ?_,
    fun _ _ _ _ _ => ⟨rfl, rfl⟩, fun n x c _ _ _ => atomNew_values n x c, ?_⟩
  · exact fun o m s r ha hd => ⟨fun h => (exec_atml h).trans (congrArg _ (loftAtom_rehearsal h.noPre ha hd)),
      fun h => (exec_casl h).trans (congrArg _ (loftAtom_rehearsal h.noPre ha hd))⟩
  · intro s r m l p f hahead hw hsp hin hs hbad
    have hrel : isRel m.kind = true ↔ m.kind = .release ∨ m.kind = .acqRel := by
      cases m.kind <;> simp [isRel]
    obtain ⟨hval, hflt, hlate, hmem, hgen⟩ := State.atomicAt_spec f hahead hw hsp hin hs hbad
    exact ⟨hval, hflt, hlate, hmem, fun c i => (hgen c i).trans (if_congr (and_congr_left' hrel) rfl rfl)⟩
  · exact fun s w m acq hsp hin hs hbad => State.atomicHome_spec m acq hsp hin hs hbad
  · intro o m s r h c mine acq rel fence u
    have hrel : rel ↔ isRel m.kind = true := by
      simp only [rel]
      cases m.kind <;> simp [isRel]
    have hfence : ∀ t l, fence t l = t.fenceAt r m l := by
      intro t l
      obtain ⟨scope, kind⟩ := m
      cases kind with
      | acqRel => exact (State.widen_eq ..).symm
      | _ => rfl
    have hu : u = s.fenceAll r m :=
      congrArg (fun f : State → Nat → State => if m.scope = .lane then s else r.act.foldl f s) (funext fun t => funext (hfence t))
    refine ⟨by rw [hu]; exact exec_fence h c, fun hr hsc x hx => ?_⟩
    rw [hu, State.fenceAll, if_neg hsc] at hx
    obtain ⟨h1, h2⟩ := State.writes_fences r m r.act s x hx
    refine ⟨h1, fun ⟨hop, hgid, hwarp, hlane⟩ => ?_⟩
    have := h2 (hrel.1 hr) _ hlane
    simp [PWrite.byLane, PWrite.agent, hop, hgid, hwarp] at this

end Sys2Proof.Machine
end

section
/-! PROOFS. Obligation O48: copies start, fill ring slots and complete (R99, R126, R133, R252, R296, R316, R321, R328). -/

namespace Sys2Proof.Machine

/-! ## Elements as bytes (R301) -/

theorem leNat_cons (b : Byte) (bs : List Byte) : leNat (b :: bs) = b.toNat + 256 * leNat bs := rfl

theorem bytesOfWord_leNat (bs : List Byte) : bytesOfWord bs.length (leNat bs) = bs := by
  induction bs with
  | nil => rfl
  | cons b bs ih =>
    have hb := b.isLt
    have hdiv : leNat (b :: bs) / 256 = leNat bs := by
      rw [leNat_cons]
      omega
    rw [List.length_cons, bytesOfWord, hdiv, ih, leNat_cons]
    congr 1
    apply BitVec.eq_of_toNat_eq
    rw [BitVec.toNat_ofNat]
    omega

/-- Whole words that are read and written again are the bytes. -/
theorem flatMap_bytesOfWord_cutOf {w : Nat} (hw : 0 < w) : ∀ (k fuel : Nat) (bs : List Byte), bs.length = w * k → k ≤ fuel →
    ((cutOf w fuel bs).map leNat).flatMap (bytesOfWord w) = bs
  | 0, fuel, bs, hlen, _ => by
    obtain rfl : bs = [] := List.length_eq_zero_iff.1 hlen
    cases fuel <;> rfl
  | k + 1, 0, _, _, hk => absurd hk (Nat.not_succ_le_zero k)
  | k + 1, fuel + 1, bs, hlen, hk => by
    have hle : w ≤ bs.length := by
      rw [hlen]
      exact Nat.le_mul_of_pos_right w k.succ_pos
    have hne : bs.isEmpty = false := List.isEmpty_eq_false_iff.2 (List.ne_nil_of_length_pos (by omega))
    have htake : bytesOfWord w (leNat (bs.take w)) = bs.take w := by
      have h := bytesOfWord_leNat (bs.take w)
      rwa [List.length_take_of_le hle] at h
    have ih := flatMap_bytesOfWord_cutOf hw k fuel (bs.drop w)
      (by rw [List.length_drop, hlen, Nat.mul_succ, Nat.add_sub_cancel]) (Nat.le_of_succ_le_succ hk)
    rw [cutOf, hne, if_neg Bool.false_ne_true, List.map_cons, List.flatMap_cons, htake, ih, List.take_append_drop]

/-- Nibbles that are read and written again are the bytes. -/
theorem cutOf_nibbles (bs : List Byte) : ∀ fuel, bs.length ≤ fuel →
    (cutOf 2 fuel (bs.flatMap fun b => [b.toNat % 16, b.toNat / 16])).map
      (fun p => BitVec.ofNat 8 (p.getD 0 0 % 16 + p.getD 1 0 % 16 * 16)) = bs := by
  induction bs with
  | nil => exact fun fuel _ => by cases fuel <;> rfl
  | cons b bs ih =>
    rintro (_ | fuel) hf
    · cases hf
    · refine congrArg₂ List.cons (BitVec.eq_of_toNat_eq ?_) (ih fuel (Nat.le_of_succ_le_succ hf))
      have hb := b.isLt
      show (BitVec.ofNat 8 (b.toNat % 16 % 16 + b.toNat / 16 % 16 * 16)).toNat = b.toNat
      rw [BitVec.toNat_ofNat]
      omega

/-- The widths of elements: half a byte, or whole bytes. -/
theorem fmtBits_cases (k : Nat) : k = 16 ∧ fmtBits k = 4 ∨ ∃ w, 0 < w ∧ fmtBits k = 8 * w ∧ fmtBits k ≠ 4 := by
  unfold fmtBits
  split
  · next h => exact .inl ⟨h, rfl⟩
  · split
    · exact .inr ⟨1, by decide, rfl, by decide⟩
    · right
      cases NumType.ofCode (BitVec.ofNat 4 k) with
      | s8 | ui8 | e4m3 | e5m2 => exact ⟨1, by decide, rfl, by decide⟩
      | s16 | ui16 | f16 | bf16 | sli16 => exact ⟨2, by decide, rfl, by decide⟩
      | s32 | ui32 | f32 | sli32 => exact ⟨4, by decide, rfl, by decide⟩
      | s64 | ui64 | f64 => exact ⟨8, by decide, rfl, by decide⟩

/-- A whole number of elements: what is unpacked and packed again is the same bytes. -/
theorem packCodes_unpackCodes {k e : Nat} {bs : List Byte} (hlen : bs.length = e * fmtBits k / 8) :
    packCodes (fmtBits k) (unpackCodes (fmtBits k) bs) = bs := by
  rcases fmtBits_cases k with ⟨-, h4⟩ | ⟨w, hw, h8, h4⟩
  · rw [packCodes, unpackCodes, if_pos h4, if_pos h4]
    refine cutOf_nibbles bs _ ?_
    have hflat : (bs.flatMap fun b => [b.toNat % 16, b.toNat / 16]).length = bs.length * 2 := by
      simp [List.length_flatMap]
    omega
  · rw [packCodes, unpackCodes, if_neg h4, if_neg h4, h8, Nat.mul_div_cancel_left _ (by decide)]
    have hlen' : bs.length = w * e := by
      rw [hlen, h8, ← Nat.mul_assoc, Nat.mul_comm e 8, Nat.mul_assoc, Nat.mul_div_cancel_left _ (by decide), Nat.mul_comm]
    exact flatMap_bytesOfWord_cutOf hw e _ bs hlen' (hlen' ▸ Nat.le_mul_of_pos_left e hw)

/-- Bytes that are one piece. -/
theorem cut_self {α : Type} {n : Nat} {xs : List α} (hn : 0 < n) (h : xs.length = n) : cut n xs = [xs] := by
  obtain ⟨m, rfl⟩ : ∃ m, n = m + 1 := ⟨n - 1, by omega⟩
  have hne : xs.isEmpty = false := List.isEmpty_eq_false_iff.2 (List.ne_nil_of_length_pos (by omega))
  rw [cut, h, cutOf, hne, if_neg Bool.false_ne_true, List.take_of_length_le h.le, List.drop_of_length_le h.le]
  cases m <;> rfl

/-! ## A cue that moves bytes in one row (R298 to R304, R318) -/

theorem Cue.bads_of_check {c : Cue} (h : c.check = 0) : c.bad2 = false ∧ c.bad4 = false := by
  unfold Cue.check at h
  split_ifs at h with h1 h2 h3 h4
  all_goals exact ⟨Bool.eq_false_iff.2 h2, Bool.eq_false_iff.2 h4⟩

/-- A legal cue of one row: no stage, no ring, no other device. -/
structure Cue.OneRow (c : Cue) : Prop where
  stages : c.stages = []
  outer : c.outer = []
  dims : c.dims = 1
  mode : c.mode = 0
  rg : c.rg = false
  gx : c.gx = false
  same : c.dfmt = c.sfmt
  pos : 0 < c.e0 * fmtBits c.sfmt / 8

theorem Cue.oneRow {q : List Byte} (h : (cueOf q).check = 0) (hn : (cueOf q).nstage = 0) (hd : (cueOf q).dims = 1)
    (hm : (cueOf q).mode = 0) (hr : (cueOf q).rg = false) (hx : (cueOf q).gx = false) : (cueOf q).OneRow := by
  obtain ⟨h2, h4⟩ := Cue.bads_of_check h
  have hext : (cueOf q).dimExt = [(cueOf q).e0] := by
    rw [Cue.dimExt, hd]
    rfl
  have hst : (cueOf q).stages = [] := by
    rw [Cue.stages, hn]
    rfl
  have he0 : (cueOf q).e0 ≠ 0 := by
    intro h0
    rw [Cue.bad2, hext, h0] at h2
    cases h2
  have hsame : (cueOf q).dfmt = (cueOf q).sfmt := by
    by_contra hne
    simp [Cue.bad4, Cue.has, hst, Cue.flow, Ne.symm hne] at h4
  have heven : (cueOf q).sfmt = 16 → (cueOf q).e0 % 2 = 0 := by
    intro h16
    by_contra hodd
    simp [Cue.bad4, Cue.has, hst, h16, hodd] at h4
  refine ⟨hst, by rw [Cue.outer, hext]; rfl, hd, hm, hr, hx, hsame, ?_⟩
  rcases fmtBits_cases (cueOf q).sfmt with ⟨h16, hb⟩ | ⟨w, hw, hb, -⟩
  · have := heven h16
    rw [hb]
    omega
  · rw [hb, ← Nat.mul_assoc, Nat.mul_comm _ 8, Nat.mul_assoc, Nat.mul_div_cancel_left _ (by decide)]
    exact Nat.mul_pos (Nat.pos_of_ne_zero he0) hw

namespace Cue.OneRow
variable {c : Cue} (h : c.OneRow)
include h

theorem has (k : Nat) : c.has k = false := by
  rw [Cue.has, h.stages]
  rfl

theorem alone (k : Nat) : c.alone k = false := by
  rw [Cue.alone, h.stages]
  rfl

theorem packs : c.packs = false := by
  rw [Cue.packs, h.stages]
  rfl

theorem stepped : c.stepped = false := by
  rw [Cue.stepped, h.rg]
  rfl

theorem plain : c.plainCopy = true := by
  rw [Cue.plainCopy, h.stages, h.rg, h.gx]
  rfl

theorem rowOffs (ss : List Int) : Machine.rowOffs c.outer ss = [0] := by
  rw [h.outer, Machine.rowOffs]

/-- The chain passes its elements on. -/
theorem runChain (aux : List Nat) (space : Nat) (vals : List Nat) : c.runChain aux space vals = { elems := vals } := by
  rw [Cue.runChain, h.stages]
  rfl

/-- The output is one row, the bytes that were read. -/
theorem rowPieces {bs : List Byte} (hlen : bs.length = c.rowBytes c.sfmt) :
    Machine.rowPieces c [0] (unpackCodes (fmtBits c.sfmt) bs) = [(0, bs)] := by
  have hpos : 0 < c.rowBytes c.sfmt := h.pos
  rw [Machine.rowPieces, h.same, packCodes_unpackCodes hlen, Nat.max_eq_right hpos, cut_self hpos hlen]
  rfl

end Cue.OneRow

/-! ## Shared memory as an endpoint (R297) -/

/-- An endpoint in the group's shared memory. -/
def End.inShared (e : End) (gid : Nat) (n : Nat) : Prop := e.place = .shared gid ∧ e.off + n ≤ e.len

/-- Where the bytes of such an endpoint lie. -/
def End.sharedPart (e : End) (gid n : Nat) : Part := { space := .shared gid, addr := e.off, n := n, ord := .rc }

section
variable {s : State} {x : Op} {e : End} {n : Nat}

theorem State.endpoint_shared {g : Group} {cap : W64} {need : BitVec 4} (hg : s.group x.gid = some g) (hc : capObj cap = sharedObj) :
    s.endpoint x cap need copyKinds = .ok { place := .shared x.gid, off := capOff cap, len := (s.desc g).shared } := by
  rw [State.endpoint, if_pos hc, hg]
  rfl

theorem End.span_shared (h : e.inShared x.gid n) : e.span 0 n = .ok () := by
  obtain ⟨hp, hlen⟩ := h
  rw [End.span, hp]
  exact if_neg (by omega)

theorem State.homes_shared (h : e.inShared x.gid n) (acc : Acc) : s.homes x e acc ((e.off : Int) + 0).toNat n
    = .ok [e.sharedPart x.gid n] := by
  rw [State.homes, h.1, Int.add_zero, Int.toNat_natCast]
  rfl

theorem State.partsOf_shared (h : e.inShared x.gid n) (acc : Acc) : s.partsOf x e acc 0 n = .ok [e.sharedPart x.gid n] := by
  rw [State.partsOf, End.span_shared h]
  exact State.homes_shared h acc

theorem State.targets_shared (h : e.inShared x.gid n) : s.targets x e 0 n = .ok [e.sharedPart x.gid n] := by
  have hown : e.hostOwned = false := by
    rw [End.hostOwned, h.1]
  rw [State.targets, End.span_shared h, hown]
  exact State.homes_shared h .write

/-- Nothing of the operation is on its way: nothing is read early. -/
theorem State.fixParts_none (h : ∀ w ∈ s.writes, w.agent ≠ x.agent) (hs : List Part) : s.fixParts x hs = s := by
  have hmap : (s.fixParts x hs).writes = s.writes := by
    refine (List.map_congr_left fun w hw => ?_).trans (List.map_id _)
    exact if_neg fun ht => h w hw (beq_iff_eq.1 (Bool.and_eq_true_iff.1 ht).1)
  exact congrArg (fun ws => { s with writes := ws }) hmap

/-- The bytes of a shared endpoint, and what its read notes. -/
theorem State.readEnd_shared (h : e.inShared x.gid n) (hb : s.badRead (.shared x.gid) e.off n = false)
    (hw : ∀ w ∈ s.writes, w.agent ≠ x.agent) : s.readEnd x e 0 n
      = .ok (s.readAs x.agent (s.keyOf x.ctx) (.shared x.gid) e.off n, s.noteRead x.agent (.shared x.gid) e.off n none) := by
  have hbad : ([e.sharedPart x.gid n].any fun h => s.badRead h.space h.addr h.n) = false := by
    rw [List.any_cons, List.any_nil, Bool.or_false]
    exact hb
  have hso : (s.soOp x [e.sharedPart x.gid n]).fixParts x [e.sharedPart x.gid n] = s := State.fixParts_none hw _
  simp only [State.readEnd, State.partsOf_shared h, hbad, hso, Bool.false_eq_true, if_false, List.flatMap_cons, List.flatMap_nil,
    List.append_nil, List.foldl_cons, List.foldl_nil]
  rfl

/-- A write that copies bytes of shared memory: it may still read them as it arrives, outside a rehearsal launch (R126). -/
def State.copyWrite (s : State) (x : Op) (src dst : End) (bs : List Byte) : PWrite :=
  { x.write dst (dst.sharedPart x.gid bs.length, bs) with
    late := if ((s.node x.ctx x.node).any fun z => z.desc.isRehearsal) = true then []
      else [(.shared x.gid, src.off, bs.length)] }

theorem State.copyEnd_shared {src dst : End} {bs : List Byte} (hs : src.inShared x.gid bs.length)
    (hd : dst.inShared x.gid bs.length) (hpos : 0 < bs.length) (hw : ∀ w ∈ s.writes, w.agent ≠ x.agent) :
    s.copyEnd x src 0 dst 0 bs = .ok { s with writes := s.writes ++ [s.copyWrite x src dst bs] } := by
  have hdeal : dealOut [dst.sharedPart x.gid bs.length] bs = [(dst.sharedPart x.gid bs.length, bs)] :=
    congrArg (fun b => [(_, b)]) List.take_length
  have hsub : subParts [src.sharedPart x.gid bs.length] 0 bs.length = [(.shared x.gid, src.off, bs.length)] := by
    have hn : ¬(src.sharedPart x.gid bs.length).n ≤ 0 := Nat.not_le.2 hpos
    have hmin : min bs.length ((src.sharedPart x.gid bs.length).n - 0) = bs.length := Nat.min_self _
    rw [subParts, if_neg hn]
    simp only [hmin, if_neg hpos.ne', subParts]
    rfl
  have hso : (([dst.sharedPart x.gid bs.length] ++ [src.sharedPart x.gid bs.length]).any fun h => h.ord == .so) = false := rfl
  have hsend : ∀ ws, s.sendParts x [dst.sharedPart x.gid bs.length] ws = { s with writes := s.writes ++ ws } := fun ws => by
    have hso : (s.soOp x [dst.sharedPart x.gid bs.length]).fixParts x [dst.sharedPart x.gid bs.length] = s :=
      State.fixParts_none hw _
    rw [State.sendParts, hso]
  simp only [State.copyEnd, State.targets_shared hd, State.partsOf_shared hs, Except.map, hdeal, List.map_cons, List.map_nil,
    hso, Bool.not_false, Bool.true_and, hsend, State.copyWrite]
  cases hr : (s.node x.ctx x.node).any fun z => z.desc.isRehearsal
  · simp only [Bool.not_false, if_true, Bool.false_eq_true, if_false, withSources, Op.write, hsub]
  · rfl

end

/-! ## The run of a copy of one row (R321) -/

section
variable {s : State} {x : Op} {c : Cue} {g : Group} {dst src : W64}

/-- The endpoint that a capability of shared memory names. -/
def State.sharedEnd (s : State) (x : Op) (g : Group) (cap : W64) : End :=
  { place := .shared x.gid, off := capOff cap, len := (s.desc g).shared }

/-- The endpoints of a copy within shared memory. -/
def State.rowEnds (s : State) (x : Op) (g : Group) (dst src : W64) : Ends :=
  { src := s.sharedEnd x g src, dst := .ends [(capObj dst, s.sharedEnd x g dst)], auxa := none, auxb := none, srows := [0]
    drows := [0], keys := [], slot := s.slotSize x }

theorem End.rowsOk_shared {e : End} {n : Nat} (h : e.inShared x.gid n) : e.rowsOk n [0] = .ok () := End.span_shared h

theorem State.copyEnds_row (h : c.OneRow) (ha : capObj c.auxb = 0) (hg : s.group x.gid = some g) (hd : capObj dst = sharedObj)
    (hs : capObj src = sharedObj) (hdn : capOff dst + c.rowBytes c.sfmt ≤ (s.desc g).shared)
    (hsn : capOff src + c.rowBytes c.sfmt ≤ (s.desc g).shared) :
    s.copyEnds x c dst src = .ok (s.rowEnds x g dst src) := by
  have hdests : s.dests x c dst = .ok (.ends [(capObj dst, s.sharedEnd x g dst)]) := by
    simp only [State.dests, h.rg, h.gx, Bool.false_and, Bool.false_eq_true, if_false, List.foldr_cons, List.foldr_nil,
      State.endpoint_shared hg hd]
    rfl
  have haux : s.auxEnds x c = .ok (none, none) := by
    simp only [State.auxEnds, h.has, Bool.false_and, Bool.or_false, ha, bne_self_eq_false]
    rfl
  have hsrc : (s.sharedEnd x g src).rowsOk (c.rowBytes c.sfmt) [0] = .ok () := End.rowsOk_shared (x := x) ⟨rfl, hsn⟩
  have hdst : Sink.rowsOk (.ends [(capObj dst, s.sharedEnd x g dst)]) (s.slotSize x) (c.rowBytes c.sfmt) [0] = .ok () :=
    End.rowsOk_shared (x := x) ⟨rfl, hdn⟩
  have hend : s.endpoint x src rightRD copyKinds = .ok (s.sharedEnd x g src) := State.endpoint_shared hg hs
  simp only [State.copyEnds, h.alone, h.mode, h.rg, h.packs, h.has, h.rowOffs, h.same, hdests, haux, hend, Cue.rows]
  simp only [bind, Except.bind, Bool.or_self, Bool.false_eq_true, if_false, Nat.reduceBEq, hsrc, Nat.reduceBNe, Bool.and_true, hdst]
  rfl

/-- The state and the operation after a copy of one row: its bytes are on their way. -/
def State.rowCopied (s : State) (x : Op) (n : Nat) (src dst : End) : State :=
  let t := s.noteRead x.agent (.shared x.gid) src.off n none
  { t with writes := t.writes ++ [t.copyWrite x src dst (s.readAs x.agent (s.keyOf x.ctx) (.shared x.gid) src.off n)] }

/-- Where a run of a copy of one row stands at its end. -/
def State.rowJob (s : State) (x : Op) (n : Nat) (es : Ends) (src dst : End) : Job :=
  { s := s.rowCopied x n src dst, x := x, ends := some es, sent := n
    log := [.read (s.readAs x.agent (s.keyOf x.ctx) (.shared x.gid) src.off n), .act true] }

/-- The one delivery unit of the copy: it reads the row and sends it on its way. -/
theorem Job.unit_row (h : c.OneRow) {es : Ends} {S D : End} {k : Nat} (hs : es.src = S) (hd : es.dst = .ends [(k, D)])
    (ha : es.auxa = none) (hsn : S.inShared x.gid (c.rowBytes c.sfmt)) (hdn : D.inShared x.gid (c.rowBytes c.sfmt))
    (hb : s.badRead (.shared x.gid) S.off (c.rowBytes c.sfmt) = false) (hw : ∀ w ∈ s.writes, w.agent ≠ x.agent) :
    Job.unit c es true (0, [0], [0]) { s := s, x := x, ends := some es } = .ok (s.rowJob x (c.rowBytes c.sfmt) es S D) := by
  set n := c.rowBytes c.sfmt with hn
  set bs := s.readAs x.agent (s.keyOf x.ctx) (.shared x.gid) S.off n with hbs
  have hlen : bs.length = n := State.readAs_length ..
  have hread : s.readEnd x S 0 n = .ok (bs, s.noteRead x.agent (.shared x.gid) S.off n none) := State.readEnd_shared hsn hb hw
  have hw' : ∀ w ∈ (s.noteRead x.agent (.shared x.gid) S.off n none).writes, w.agent ≠ x.agent := by
    intro w hmem
    obtain ⟨v, hv, rfl⟩ := List.mem_map.1 hmem
    split
    · exact hw v hv
    · exact hw v hv
  have hcopy := State.copyEnd_shared (s := s.noteRead x.agent (.shared x.gid) S.off n none) (src := S) (dst := D) (bs := bs)
    (hlen ▸ hsn) (hlen ▸ hdn) (hlen ▸ h.pos) hw'
  have hne : bs.isEmpty = false := List.isEmpty_eq_false_iff.2 (List.ne_nil_of_length_pos (hlen ▸ h.pos))
  have hnote : x.note D = x := by
    rw [Op.note, End.object, hdn.1]
    exact congrArg (fun w => { x with wrote := w }) (List.append_nil _)
  simp only [Job.unit, Job.readRows, Job.read, Job.look, Job.tick, Job.try, hs, hread, Option.map_none, ← hn, List.nil_append,
    Job.readAux, ha, h.runChain, Ran.next, List.map_nil, h.plain, Bool.and_true, hd, if_true, Bool.false_and, Bool.false_eq_true, if_false,
    h.rowPieces hlen, List.zip_cons_cons, List.zip_nil_right, List.map_cons, List.sum_cons, List.sum_nil, Job.copyRows, hne,
    Job.act, hcopy, Except.map, hnote, hlen, Nat.zero_add, Nat.add_zero]
  rfl

/-- The run of a copy of one row within shared memory. -/
theorem State.runCopy_row (h : c.OneRow) (ha : capObj c.auxb = 0) (hg : s.group x.gid = some g) (hd : capObj dst = sharedObj)
    (hs : capObj src = sharedObj) (hdn : capOff dst + c.rowBytes c.sfmt ≤ (s.desc g).shared)
    (hsn : capOff src + c.rowBytes c.sfmt ≤ (s.desc g).shared)
    (hb : s.badRead (.shared x.gid) (capOff src) (c.rowBytes c.sfmt) = false) (hw : ∀ w ∈ s.writes, w.agent ≠ x.agent)
    (hp : x.prog = none) : s.runCopy x none c dst src false false
      = .ok (s.rowJob x (c.rowBytes c.sfmt) (s.rowEnds x g dst src) (s.sharedEnd x g src) (s.sharedEnd x g dst)) := by
  have hbegin : s.beginCopy x c dst src false false = .ok (s.rowEnds x g dst src, s) := by
    simp only [State.beginCopy, State.copyEnds_row h ha hg hd hs hdn hsn, h.alone, Bool.false_eq_true, false_and, if_false]
    rfl
  have hunits : unitsOf c [0] [0] = [(0, [0], [0])] := by
    rw [unitsOf, h.stepped]
    rfl
  have hunit := Job.unit_row (s := s) (x := x) h (es := s.rowEnds x g dst src) rfl rfl rfl ⟨rfl, hsn⟩ ⟨rfl, hdn⟩ hb hw
  simp only [State.runCopy, hp, Job.try, hbegin, Bool.not_false, Bool.and_true, Cue.run, h.alone, Bool.false_eq_true, if_false,
    Job.sorted, h.has, if_true]
  rw [show (s.rowEnds x g dst src).srows = [0] from rfl, show (s.rowEnds x g dst src).drows = [0] from rfl, hunits]
  simp only [Job.each, hunit]
  rfl

end

/-! ## COPY_START (R321) -/

theorem exec_copyStart {id : Nat} {upto : Option Nat} {s : State} {x : Op} (h : s.op id = some x) :
    exec (.copyStart ⟨id, upto⟩) s = .next (if s.canStart x then s.startCopy x upto else s) := by
  show Host.Outcome.next _ = _
  rw [h]

theorem State.id_of_op {s : State} {id : Nat} {x : Op} (h : s.op id = some x) : x.id = id :=
  beq_iff_eq.1 (List.find?_some (p := fun x : Op => x.id == id) h)

/-- An operation that has run to its end. -/
def Job.ended (j : Job) : State := j.s.modOp j.x.id fun y =>
  { y with started := true, moved := true, slots := j.x.slots, wrote := j.x.wrote, prog := none
           status := if y.status = 0 then j.st else y.status }

/-- An operation that has paused or parked keeps what it has done (R433). -/
def Job.kept (j : Job) (parked : Bool) : State := j.s.modOp j.x.id fun y =>
  { y with started := true, parked := parked, slots := j.x.slots, wrote := j.x.wrote
           prog := j.ends.map fun e => { ends := e, log := j.log } }

section
variable {s : State} {x : Op} {upto : Option Nat} {j : Job}

theorem State.startCopy_redst {op : RedOp} {t : NumType} {tag dst src : W64} {q : List Byte}
    (hk : x.kind = .redst op t tag dst src q) (hr : s.runRedst x upto (cueOf q) op t tag dst src = .ok j) :
    s.startCopy x upto = j.ended := by
  simp only [State.startCopy, hk, hr]
  rfl

section
variable {mode : Nat} {dst src : W64} {q : List Byte} {a b : Bool} (hk : x.kind = .copy mode dst src q a b)
include hk

theorem State.startCopy_copy (hr : s.runCopy x upto (cueOf q) dst src a b = .ok j) (hx : (cueOf q).gx = false) :
    s.startCopy x upto = j.ended := by
  have hnone : (cueOf q).receivers dst = [] := by
    rw [Cue.receivers, hx]
    rfl
  simp only [State.startCopy, hk, hr, hnone, List.isEmpty_nil, if_true]
  rfl

theorem State.startCopy_paused (hr : s.runCopy x upto (cueOf q) dst src a b = .error (none, j)) :
    s.startCopy x upto = j.kept false := by
  simp only [State.startCopy, hk, hr]
  rfl

theorem State.startCopy_parked {va : Nat} (hr : s.runCopy x upto (cueOf q) dst src a b = .error (some va, j)) :
    s.startCopy x upto = (j.kept true).parkOp x va := by
  simp only [State.startCopy, hk, hr]
  rfl

end

end

/-! ## A claim of a group's ring (R252, R316) -/

theorem mapGet_mapSet_same {β : Type} (m : KMap β) (i : Nat) (x : β) : mapGet (mapSet m i x) i = some x := by
  induction m with
  | nil => exact if_pos rfl
  | cons p m ih =>
    obtain ⟨k, v⟩ := p
    rw [mapSet]
    split
    · next h => rw [mapGet, if_pos h]
    · next hne =>
      split
      · rw [mapGet, if_pos rfl]
      · next hlt => rw [mapGet, if_neg hne, if_neg hlt, ih]

/-- The place of a slot's bytes in the order of their location. -/
def Op.slotEntry (x : Op) (a : Nat) : Recent :=
  { id := 0, by_ := x.agent, space := .shared x.gid, addr := a, old := [], ord := .rc, rels := [], known := [x.agent], wide := []
    ctx := x.ctx, node := x.node }

/-- Bytes of a slot at their home in the group's shared memory. -/
def Op.put (x : Op) (a : Nat) (bs : List Byte) (s : State) : State := (s.commit (x.slotEntry a) bs).1

section
variable {s : State} {x : Op} {g : Group} (hg : s.group x.gid = some g) (he : g.sharedErr = [])
include hg he

theorem State.commit_shared {e : Recent} (hsp : e.space = .shared x.gid) (bs : List Byte) :
    (s.commit e bs).2 = false ∧ ∃ mem, (s.commit e bs).1.group x.gid = some { g with shared := mem } := by
  have hunits : ∀ u ∈ s.errUnits e.space, ¬(e.addr < (u + 1) * eccUnit e.space ∧ u * eccUnit e.space < e.addr + bs.length) := by
    intro u hu
    rw [hsp, State.errUnits, hg, Option.map_some, he] at hu
    cases hu
  have hc := State.commit_clean (by rw [hsp]; exact Space.noConfusion) hunits
  have hpoke := s.group_poke 0 e.space e.addr bs x.gid
  rw [hg, Option.map_some] at hpoke
  exact ⟨congrArg Prod.snd hc, _, (congrArg (fun t : State × Bool => t.1.group x.gid) hc).trans hpoke⟩

theorem Op.put_group (a : Nat) (bs : List Byte) : ∃ mem, (x.put a bs s).group x.gid = some { g with shared := mem } :=
  (State.commit_shared hg he rfl bs).2

/-- A write into a slot that meets no error. -/
theorem State.writeSlot_shared (i : Nat) (h : Ring) (n off : Nat) {bs : List Byte} (hbs : bs ≠ []) :
    s.writeSlot x (.group x.gid i) h n off bs = (x.put (h.base.toNat + (n % 2 ^ h.k * h.size + off)) bs s, 0) := by
  have hne : bs.isEmpty = false := List.isEmpty_eq_false_iff.2 hbs
  have hok := (State.commit_shared hg he (e := x.slotEntry (h.base.toNat + (n % h.slots * h.size + off))) rfl bs).1
  simp only [State.writeSlot, hne, Bool.false_eq_true, if_false, State.slotPart]
  refine Prod.ext rfl ?_
  exact if_neg fun hb => Bool.false_ne_true (hok.symm.trans hb)

end

/-- The slot of a group's ring with its bytes and its trailer (R245, R316). -/
def State.slotFilled (s : State) (x : Op) (i : Nat) (h : Ring) (bs : List Byte) : State :=
  let p := h.base.toNat + h.claimed % 2 ^ h.k * h.size
  let t := (s.setRing (.group x.gid i) (some { h with claimed := h.claimed + 1 })).learn (.ring false x.gid i) [x.agent]
  let t := x.put (p + (h.size - 8)) (bytesOfWord 4 0x80000000 ++ bytesOfWord 4 bs.length) (x.put p bs t)
  (t.setRing (.group x.gid i) (some (({ h with claimed := h.claimed + 1 } : Ring).fill h.claimed))).learn x.agent
    [.ring false x.gid i]

section
variable {s : State} {x : Op} {g : Group} {i : Nat} {h : Ring} {bs : List Byte}

theorem State.fillSlot_shared (hg : s.group x.gid = some g) (he : g.sharedErr = []) (hbs : bs ≠ [])
    (hfit : bs.length + 8 ≤ h.size) :
    s.fillSlot x (.group x.gid i) h { pieces := [(0, bs)], count := bs.length, status := 0 } = (s.slotFilled x i h bs, 0, true) := by
  set t := (s.setRing (.group x.gid i) (some { h with claimed := h.claimed + 1 })).learn (.ring false x.gid i) [x.agent] with ht
  set p := h.base.toNat + h.claimed % 2 ^ h.k * h.size with hp
  have hgt : t.group x.gid = some { g with rings := mapSet g.rings i { h with claimed := h.claimed + 1 } } := by
    refine (State.group_modGroup s x.gid x.gid _).trans ?_
    rw [if_pos rfl, hg]
    rfl
  have hw1 : t.writeSlot x (.group x.gid i) h h.claimed 0 bs = (x.put p bs t, 0) :=
    State.writeSlot_shared hgt he i h _ 0 hbs
  obtain ⟨m1, hg1⟩ := Op.put_group hgt he p bs
  have hw2 : (x.put p bs t).writeSlot x (.group x.gid i) h h.claimed (h.size - 8) (trailer 0 bs.length)
      = (x.put (p + (h.size - 8)) (bytesOfWord 4 0x80000000 ++ bytesOfWord 4 bs.length) (x.put p bs t), 0) := by
    rw [hp, Nat.add_assoc]
    exact State.writeSlot_shared hg1 he i h _ _ (List.cons_ne_nil _ _)
  obtain ⟨m2, hg2⟩ := Op.put_group hg1 he (p + (h.size - 8)) (bytesOfWord 4 0x80000000 ++ bytesOfWord 4 bs.length)
  have hring : (x.put (p + (h.size - 8)) (bytesOfWord 4 0x80000000 ++ bytesOfWord 4 bs.length) (x.put p bs t)).ringOf
      (.group x.gid i) = some { h with claimed := h.claimed + 1 } := by
    rw [State.ringOf, hg2]
    exact mapGet_mapSet_same ..
  have hne : bs.isEmpty = false := List.isEmpty_eq_false_iff.2 hbs
  have hfit' : ¬h.size < 0 + bs.length + 8 := by omega
  have hpiece : Fill.piece x (.group x.gid i) h h.claimed x.overCode { s := t, status := 0, wrote := false } (0, bs)
      = { s := x.put p bs t, status := 0, wrote := true } := by
    simp only [Fill.piece, hne, Bool.false_eq_true, if_false, if_neg hfit', hw1]
    rfl
  have hclose : Fill.close x (.group x.gid i) h h.claimed 0 bs.length { s := x.put p bs t, status := 0, wrote := true }
      = { s := x.put (p + (h.size - 8)) (bytesOfWord 4 0x80000000 ++ bytesOfWord 4 bs.length) (x.put p bs t), status := 0
          wrote := true } := by
    simp only [Fill.close, hw2]
    rfl
  simp only [State.fillSlot, List.foldl_cons, List.foldl_nil, RingAt.agent, ← ht, hpiece, if_true, hclose, hring]
  rfl

/-- The ring that an operation fills, as it stands. -/
theorem State.ringFor_group (hg : s.group x.gid = some g) (hr : s.ringAt x.gid g x.ring = .ok (.group x.gid i))
    (hh : mapGet g.rings i = some h) :
    (s.ringFor x).bind (fun r => (s.ringOf r).map fun h => (r, h)) = some (.group x.gid i, h) := by
  simp only [State.ringFor, hg, Option.bind_some, hr, Except.toOption, State.ringOf, hh, Option.map_some]

/-- A claim that finds its turn and room takes the slot. -/
theorem State.copyClaim_shared {y : Slot} (hg : s.group x.gid = some g) (hbs : bs ≠ [])
    (hr : s.ringAt x.gid g x.ring = .ok (.group x.gid i)) (hh : mapGet g.rings i = some h)
    (hy : y = { pieces := [(0, bs)], count := bs.length, status := 0 }) (hroom : h.claimed - h.freed < 2 ^ h.k)
    (hturn : s.claimTurn x = true) (he : g.sharedErr = []) (hfit : bs.length + 8 ≤ h.size) :
    s.copyClaim x y = (s.slotFilled x i h bs).modOp x.id fun z => { z with slots := z.slots.drop 1 } := by
  have hfor := State.ringFor_group hg hr hh
  have hgo : ¬((!s.claimTurn x) = true ∨ h.slots ≤ h.claimed - h.freed) := by
    rw [hturn, Ring.slots]
    simpa using hroom
  have hop : ∀ z : Op, { z with slots := z.slots.drop 1, status := z.status, wrote := z.wrote ++ [] }
      = { z with slots := z.slots.drop 1 } := fun z => by rw [List.append_nil]
  simp only [State.copyClaim, hg, hfor, if_neg hgo, hy, State.fillSlot_shared hg he hbs hfit, if_true, Ring.object, List.filter_nil, hop]

/-- A claim of a full ring waits. -/
theorem State.copyClaim_full (hg : s.group x.gid = some g) (hr : s.ringAt x.gid g x.ring = .ok (.group x.gid i))
    (hh : mapGet g.rings i = some h) (hfull : 2 ^ h.k ≤ h.claimed - h.freed) (y : Slot) : s.copyClaim x y = s := by
  have hfor := State.ringFor_group hg hr hh
  have hwait : (!s.claimTurn x) = true ∨ h.slots ≤ h.claimed - h.freed := .inr hfull
  simp only [State.copyClaim, hg, hfor, if_pos hwait]

end

theorem exec_engineRingClaim {id : Nat} {s : State} {x : Op} {y : Slot} {rest : List Slot} (h : s.op id = some x)
    (hk : x.kind.isCopy = true) (hs : x.slots = y :: rest) : exec (.engineRingClaim id) s = .next (s.copyClaim x y) := by
  show Host.Outcome.next _ = _
  simp only [h, hs, hk, if_true]

/-! ## Completion (R99, R133, R237, R328) -/

/-- An operation of a group completes with a status, once its writes are at their homes. -/
def State.opDone (s : State) (x : Op) (w : W32) (g : Group) : State :=
  let t := State.modEctx { x.wrote.foldl (fun s p => s.bumpGen p.1 p.2) s with
      ops := s.ops.filter fun y => y.id != x.id, walks := s.walks.filter fun w => w.who != Walker.op x.id }
    g x.ectx fun e => e.complete x.seq w
  let alloc := ((s.ectx g x.ectx).map (·.alloc.toNat)).getD 0
  (t.learn x.agent [.done g.die (engineNo g x.ectx) alloc x.seq, .grid x.ctx x.node]).unlearn x.agent

/-- Objects that are written gain in GEN, and that is all. -/
theorem State.foldl_bumpGen_frame (ps : List (Nat × Nat)) : ∀ s : State,
    ps.foldl (fun s p => State.bumpGen s p.1 p.2) s
      = { s with ctxs := (ps.foldl (fun s p => State.bumpGen s p.1 p.2) s).ctxs } := by
  induction ps with
  | nil => exact fun _ => rfl
  | cons p ps ih => exact fun s => ih (s.bumpGen p.1 p.2)

theorem State.modEctx_groups (s : State) (g : Group) (c : Nat) (f : ECtx → ECtx) : (s.modEctx g c f).groups = s.groups := by
  unfold State.modEctx
  split
  · split <;> rfl
  · rfl

/-- The group of a completed operation that is not draining stays (R220). -/
theorem State.drained_self {s : State} {gid : Nat} {g : Group} (hg : s.group gid = some g) (hr : g.res ≠ .draining) :
    s.drained gid = s := by
  rw [State.drained, hg]
  exact if_pos (bne_iff_ne.2 hr)

theorem State.finishOp_eq {s : State} {x y : Op} {g : Group} (h : s.op x.id = some x) (hy : (s.drainOp x).op x.id = some y)
    (hg : (s.drainOp x).group x.gid = some g) (hr : g.res ≠ .draining) : s.finishOp x = (s.drainOp x).opDone x y.status g := by
  set t := s.drainOp x with ht
  have hst : (if (t.op x.id).map (·.status) = (s.op x.id).map (·.status) then x.status
      else ((t.op x.id).map (·.status)).getD x.status) = y.status := by
    rw [hy, h]
    simp only [Option.map_some, Option.some.injEq, Option.getD_some]
    split
    · next he => exact he.symm
    · rfl
  have hframe := State.foldl_bumpGen_frame x.wrote t
  rw [State.finishOp, hst, State.opDone]
  generalize x.wrote.foldl (fun s p => State.bumpGen s p.1 p.2) t = u at hframe
  generalize u.ctxs = cs at hframe
  subst hframe
  have hgu : State.group { t with
      ctxs := cs
      ops := t.ops.filter fun y => y.id != x.id
      walks := t.walks.filter fun w => w.who != Walker.op x.id } x.gid = some g := hg
  simp only [State.completeOp, hgu]
  refine State.drained_self (g := g) ?_ hr
  rw [← hg]
  exact congrArg (mapGet · x.gid) (State.modEctx_groups ..)

/-- A copy completes once it has run and its slots are filled (R237). -/
theorem exec_copyComplete {id : Nat} {s : State} {x : Op} (h : s.op id = some x) : exec (.copyComplete id) s
    = .next (if x.kind.isCopy && x.moved && x.slots.isEmpty && !x.remote then s.finishOp x else s) := by
  show Host.Outcome.next _ = _
  rw [h]

theorem exec_gridCopyLocalComplete {id : Nat} {s : State} {x : Op} (h : s.op id = some x) :
    exec (.gridCopyLocalComplete id) s = .next (if x.kind.isCopy && x.moved && x.remote then s.finishOp x else s) := by
  show Host.Outcome.next _ = _
  rw [h]

/-! ## The obligation -/

/-- Settles O48: copies run as their engine does, claims fill ring slots, and completion tells who waits. -/
theorem copyEvents : Obligations.CopyEvents := by
  unfold Obligations.CopyEvents
  intro done put kept ended
  refine ⟨fun id upto s x hop => ⟨fun hno => ?_, fun hyes => ?_⟩, ?_, ?_, ?_⟩
  · rw [exec_copyStart hop, hno]
    rfl
  · obtain rfl := State.id_of_op hop
    have hgo : exec (.copyStart ⟨x.id, upto⟩) s = .next (s.startCopy x upto) := by
      rw [exec_copyStart hop, if_pos hyes]
    refine ⟨?_, fun op t tag dst src q j hk hr => hgo.trans (congrArg _ (State.startCopy_redst hk hr)),
      fun mode dst src q a b j hk hr hx => hgo.trans (congrArg _ (State.startCopy_copy hk hr hx)),
      fun mode dst src q a b j hk => ⟨fun hr => hgo.trans (congrArg _ (State.startCopy_paused hk hr)),
        fun va hr => hgo.trans (congrArg _ (State.startCopy_parked hk hr))⟩⟩
    intro mode dst src q g hk c n hc hn hd hm hrg hgx haux hg hdst hsrc hdn hsn hb hsl hp hup hw t
    subst hup
    have hrow : c.OneRow := Cue.oneRow hc hn hd hm hrg hgx
    have hrun := State.runCopy_row hrow haux hg hdst hsrc hdn hsn hb hw hp
    have hlen : (s.readAs x.agent (s.keyOf x.ctx) (.shared x.gid) (capOff src) n).length = n := State.readAs_length ..
    refine hgo.trans (congrArg _ ((State.startCopy_copy hk hrun hgx).trans ?_))
    have hstatus : ∀ w : W32, (if w = 0 then (0 : W32) else w) = w := fun w => by
      split
      · next h => exact h.symm
      · rfl
    refine congrArg₂ (fun u f => State.modOp u x.id f) ?_ (funext fun y => ?_)
    · simp only [State.rowJob, State.rowCopied, State.copyWrite]
      rw [show c.rowBytes c.sfmt = n from rfl]
      simp only [State.sharedEnd, hlen]
      rfl
    · simp only [State.rowJob, hsl, hstatus]
  · intro id s x g i h bs rest hop hk hg hbs hsl hr hh p ring
    refine ⟨fun hroom hturn he hfit => ?_, fun hfull => ?_⟩
    · obtain rfl := State.id_of_op hop
      exact (exec_engineRingClaim hop hk hsl).trans (congrArg _ (State.copyClaim_shared hg hbs hr hh rfl hroom hturn he hfit))
    · exact (exec_engineRingClaim hop hk hsl).trans (congrArg _ (State.copyClaim_full hg hr hh hfull _))
  · intro id s x y g hop hk hmv hy hg hres
    obtain rfl := State.id_of_op hop
    have hfin := State.finishOp_eq hop hy hg hres
    refine ⟨fun hsl hrem => ?_, fun hrem => ?_⟩
    · rw [exec_copyComplete hop, hk, hmv, hsl, hrem]
      exact congrArg _ hfin
    · rw [exec_gridCopyLocalComplete hop, hk, hmv, hrem]
      exact congrArg _ hfin
  · intro id s x hop hmv
    rw [exec_copyComplete hop, exec_gridCopyLocalComplete hop, hmv, Bool.and_false]
    exact ⟨rfl, rfl⟩

end Sys2Proof.Machine
end

section
/-! PROOFS. What landings leave beside memory, and the lists of contexts and groups: the relation `Beside`. -/

namespace Sys2Proof.Machine

/-! ## The relation -/

/-- A context without its objects. -/
def Ctx.shell (x : Ctx) : Ctx := { x with objs := [] }

/-- Where a group stands: its key, and what no landing changes of it. -/
def Group.place (p : Nat × Group) : Nat × Nat × Nat × Nat × Residence :=
  (p.1, p.2.ctx, p.2.node, p.2.lin, p.2.res)

/-- What landings leave: dies, barriers and links, all of each context but its objects, and the places of the groups. -/
structure State.Beside (s t : State) : Prop where
  rest : t = { s with hbm := t.hbm, hbmKey := t.hbmKey, hbmErr := t.hbmErr, loft := t.loft, loftErr := t.loftErr,
                      ctxs := t.ctxs, groups := t.groups, writes := t.writes, recent := t.recent, loads := t.loads,
                      met := t.met, stale := t.stale, ops := t.ops, errLog := t.errLog, stamp := t.stamp }
  ctx : ∀ c, (t.ctx c).map Ctx.shell = (s.ctx c).map Ctx.shell
  groups : t.groups.map Group.place = s.groups.map Group.place

namespace State.Beside
variable {s t u : State}

theorem refl (s : State) : s.Beside s := ⟨rfl, fun _ => rfl, rfl⟩

theorem trans (h : s.Beside t) (k : t.Beside u) : s.Beside u where
  rest := by rw [k.rest, h.rest]
  ctx := fun c => (k.ctx c).trans (h.ctx c)
  groups := k.groups.trans h.groups

theorem ite {c : Prop} [Decidable c] (ht : s.Beside t) (hu : s.Beside u) : s.Beside (if c then t else u) := by
  split <;> assumption

theorem foldl {α : Type} {f : State → α → State} (hf : ∀ (s : State) x, s.Beside (f s x)) (xs : List α) :
    ∀ s : State, s.Beside (xs.foldl f s) := by
  induction xs with
  | nil => exact refl
  | cons x xs ih => exact fun s => (hf s x).trans (ih _)

theorem dies (h : s.Beside t) : t.dies = s.dies := (congrArg State.dies h.rest :)
theorem cbars (h : s.Beside t) : t.cbars = s.cbars := (congrArg State.cbars h.rest :)
theorem fenced (h : s.Beside t) : t.fenced = s.fenced := (congrArg State.fenced h.rest :)
theorem issue (h : s.Beside t) : t.issue = s.issue := (congrArg State.issue h.rest :)
theorem duets (h : s.Beside t) : t.duets = s.duets := (congrArg State.duets h.rest :)
theorem second (h : s.Beside t) : t.second = s.second := (congrArg State.second h.rest :)

theorem phys (h : s.Beside t) (c d : Nat) : t.phys c d = s.phys c d := by
  have hb : ∀ x : Option Ctx, x.bind (·.phys d) = (x.map Ctx.shell).bind (·.phys d) := fun x => by cases x <;> rfl
  rw [State.phys, State.phys, hb (t.ctx c), hb (s.ctx c), h.ctx]

theorem node (h : s.Beside t) (c n : Nat) : t.node c n = s.node c n := by
  have hb : ∀ x : Option Ctx, (x.bind fun y => mapGet y.nodes n) = (x.map Ctx.shell).bind fun y => mapGet y.nodes n :=
    fun x => by cases x <;> rfl
  rw [State.node, State.node, hb (t.ctx c), hb (s.ctx c), h.ctx]

/-! ## Each operation -/

end State.Beside

theorem mapMod_map {β γ : Type} (m : KMap β) (i : Nat) {f : β → β} (g : Nat × β → γ) (h : ∀ k x, g (k, f x) = g (k, x)) :
    (mapMod m i f).map g = m.map g := by
  induction m with
  | nil => rfl
  | cons p m ih =>
    obtain ⟨k, x⟩ := p
    rw [mapMod]
    split
    · rw [List.map_cons, List.map_cons, h]
    · split
      · rfl
      · rw [List.map_cons, List.map_cons, ih]

namespace State.Beside

theorem modGroup (s : State) (i : Nat) {f : Group → Group}
    (h : ∀ g : Group, (f g).ctx = g.ctx ∧ (f g).node = g.node ∧ (f g).lin = g.lin ∧ (f g).res = g.res) :
    s.Beside (s.modGroup i f) where
  rest := rfl
  ctx := fun _ => rfl
  groups := mapMod_map _ _ _ fun k g => by
    obtain ⟨h1, h2, h3, h4⟩ := h g
    simp only [Group.place, h1, h2, h3, h4]

theorem modWarp (s : State) (gid w : Nat) (f : Warp → Warp) : s.Beside (s.modWarp gid w f) :=
  .modGroup s gid fun _ => ⟨rfl, rfl, rfl, rfl⟩

theorem modObj (s : State) (c i : Nat) (f : Obj → Obj) : s.Beside (s.modObj c i f) where
  rest := rfl
  ctx := fun d => by
    rw [State.modObj, State.ctx_modCtx]
    split <;> [cases s.ctx d <;> rfl; rfl]
  groups := rfl

theorem poke (s : State) (key : Nat) (sp : Space) (a : Nat) (bs : List Byte) : s.Beside (s.poke key sp a bs) := by
  cases sp with
  | shared gid => exact .modGroup s gid fun _ => ⟨rfl, rfl, rfl, rfl⟩
  | loft d => exact ⟨rfl, fun _ => rfl, rfl⟩
  | hbm => exact ⟨rfl, fun _ => rfl, rfl⟩

theorem setErrUnits (s : State) (sp : Space) (us : List Nat) : s.Beside (s.setErrUnits sp us) := by
  cases sp with
  | shared gid => exact .modGroup s gid fun _ => ⟨rfl, rfl, rfl, rfl⟩
  | loft d => exact ⟨rfl, fun _ => rfl, rfl⟩
  | hbm => exact ⟨rfl, fun _ => rfl, rfl⟩

theorem putHome (s : State) (key : Nat) (sp : Space) (a : Nat) (bs : List Byte) : s.Beside (s.putHome key sp a bs).1 := by
  unfold State.putHome
  dsimp only
  split
  · exact poke ..
  · split
    · exact (setErrUnits ..).trans (foldl (fun t p => ite (refl _) (poke ..)) _ _)
    · exact ((setErrUnits ..).trans (foldl (fun t p => ite (refl _) (poke ..)) _ _)).trans ⟨rfl, fun _ => rfl, rfl⟩

theorem commit (s : State) (e : Recent) (bs : List Byte) : s.Beside (s.commit e bs).1 :=
  (putHome s _ _ _ _).trans ⟨rfl, fun _ => rfl, rfl⟩

theorem releaseGen (s : State) (w : PWrite) : s.Beside (s.releaseGen w) := by
  unfold State.releaseGen
  split
  · exact modObj ..
  · exact refl _

theorem failWrite (s : State) (op : Option Nat) : s.Beside (s.failWrite op) := ⟨rfl, fun _ => rfl, rfl⟩

theorem landPlain (s : State) (w : PWrite) : s.Beside (s.landPlain w) := by
  unfold State.landPlain
  dsimp only
  exact (ite ((commit ..).trans (failWrite ..)) (commit ..)).trans (releaseGen ..)

theorem teach (s : State) (p : Recent → Bool) (bs : List Agent) : s.Beside (s.teach p bs) := ⟨rfl, fun _ => rfl, rfl⟩

theorem learn (s : State) (a : Agent) (bs : List Agent) : s.Beside (s.learn a bs) := teach ..

theorem noteFrom (s : State) (a : Agent) (es : List Recent) (sp : Space) (i n : Nat) (acq : Option Scope) :
    s.Beside (s.noteFrom a es sp i n acq) := by
  cases acq <;> exact ⟨rfl, fun _ => rfl, rfl⟩

theorem noteRead (s : State) (a : Agent) (sp : Space) (i n : Nat) (acq : Option Scope) : s.Beside (s.noteRead a sp i n acq) :=
  (noteFrom s a _ sp i n acq).trans ⟨rfl, fun _ => rfl, rfl⟩

theorem atomicHome (s : State) (w : PWrite) (m : Rmw) (acq : Option Scope) : s.Beside (s.atomicHome w m acq).1 := by
  unfold State.atomicHome
  dsimp only
  split
  · exact refl _
  · have h0 : s.Beside { s with stale := [] } := ⟨rfl, fun _ => rfl, rfl⟩
    have h1 := (h0.trans (noteFrom _ w.agent (State.newest { s with stale := [] } (s.stand w.agent) w.space w.addr
      w.bytes.length) w.space w.addr w.bytes.length acq)).trans
      (u := { State.noteFrom _ _ _ _ _ _ _ with stale := s.stale }) ⟨rfl, fun _ => rfl, rfl⟩
    split
    · exact h1
    · exact (h1.trans (commit ..)).trans (releaseGen ..)

theorem land1 (s : State) (w : PWrite) : s.Beside (s.land1 w) := by
  unfold State.land1
  split
  · exact landPlain ..
  · exact (atomicHome ..).trans (modWarp ..)

theorem drain (s : State) (p : PWrite → Bool) : s.Beside (s.drain p) := by
  have h : s.Beside { s with writes := (splitWrites p s.writes).2 } := ⟨rfl, fun _ => rfl, rfl⟩
  exact h.trans (foldl land1 _ _)

theorem drainMask (s : State) (gid w : Nat) (m : W64) : s.Beside (s.drainMask gid w m) :=
  (drain s _).trans ⟨rfl, fun _ => rfl, rfl⟩

end State.Beside

end Sys2Proof.Machine
end

section
/-! PROOFS. Obligation O59: device links, and chunks that arrive over them (R325, R328, R405, R453, R457 to R459). -/

namespace Sys2Proof.Machine

/-! ## One link of the part -/

theorem listMod_of_getElem? {α : Type} {xs : List α} {i : Nat} {x : α} (h : xs[i]? = some x) (f : α → α) :
    listMod xs i f = xs.set i (f x) := by
  induction xs generalizing i with
  | nil => cases h
  | cons y xs ih =>
    cases i with
    | zero => obtain rfl : y = x := by simpa using h
              rfl
    | succ i => exact congrArg (y :: ·) (ih (by simpa using h))

/-- The flits from flit `n` on are counted as sent again. -/
theorem mapFrom_from {α : Type} (f : α → α) (n : Nat) (xs : List α) :
    ∀ k, mapFrom k (fun i x => if n ≤ i then f x else x) xs = xs.take (n - k) ++ (xs.drop (n - k)).map f := by
  induction xs with
  | nil => simp [mapFrom]
  | cons x xs ih =>
    intro k
    rw [mapFrom, ih]
    by_cases hk : n ≤ k
    · simp [hk, Nat.sub_eq_zero_of_le hk, Nat.sub_eq_zero_of_le (Nat.le_succ_of_le hk)]
    · obtain ⟨j, hj⟩ : ∃ j, n - k = j + 1 := ⟨n - k - 1, by omega⟩
      rw [if_neg hk, hj, show n - (k + 1) = j by omega]
      rfl

section
variable {s : State} {l : Nat} {x : Link}

/-- The state with another link in the place of link `l`. -/
def State.putLink (s : State) (l : Nat) (y : Link) : State := { s with links := s.links.set l y }

theorem State.modLink_eq (hx : s.links[l]? = some x) (f : Link → Link) : s.modLink l f = s.putLink l (f x) := by
  rw [State.modLink, listMod_of_getElem? hx, State.putLink]

/-- An event of a link that the part has acts on that link. -/
theorem onLink_eq (hl : l < 16) (hx : s.links[l]? = some x) (f : Link → State) : onLink l f s = .next (f x) := by
  rw [onLink, if_pos hl, State.link, List.getD_eq_getElem?_getD, hx, Option.getD_some]

/-! ## Flits (R457, R458) -/

theorem exec_flitReceive_next (hl : l < 16) (hx : s.links[l]? = some x) (hd : x.down = false) (ch : Option ChunkArgs) :
    exec (.flitReceive ⟨l, x.expect⟩ true ch) s = .next { s.putLink l { x with expect := x.expect + 1 } with
      linkOut := s.linkOut ++ [.ack l x.expect]
      chunks := s.chunks ++ ch.toList.map fun c => { link := l, args := c } } := by
  change execFlitReceive _ _ _ s = _
  rw [execFlitReceive, onLink_eq hl hx]
  simp [hd, State.modLink_eq hx]

theorem exec_flitReceive_nak (hl : l < 16) (hx : s.links[l]? = some x) (hd : x.down = false) {n : Nat} {ok : Bool}
    (h : ok = false ∨ x.expect < n) (ch : Option ChunkArgs) :
    exec (.flitReceive ⟨l, n⟩ ok ch) s = .next { s with linkOut := s.linkOut ++ [.nak l x.expect] } := by
  change execFlitReceive _ _ _ s = _
  rw [execFlitReceive, onLink_eq hl hx]
  have hbad : (!ok || decide (x.expect < n)) = true := by simpa using h
  simp [hd, hbad]

theorem exec_flitReceive_again (hl : l < 16) (hx : s.links[l]? = some x) (hd : x.down = false) {n : Nat}
    (h : n < x.expect) (ch : Option ChunkArgs) :
    exec (.flitReceive ⟨l, n⟩ true ch) s = .next { s with linkOut := s.linkOut ++ [.ack l n] } := by
  change execFlitReceive _ _ _ s = _
  rw [execFlitReceive, onLink_eq hl hx]
  simp [hd, h, Nat.not_lt_of_gt h]

theorem exec_flitAck (hl : l < 16) (hx : s.links[l]? = some x) (n : Nat) :
    exec (.flitAck l n) s = .next (s.putLink l { x with retry := x.retry.drop n }) := by
  change execFlitAck _ _ s = _
  rw [execFlitAck, onLink_eq hl hx, State.modLink_eq hx]

theorem exec_flitNak (hl : l < 16) (hx : s.links[l]? = some x) (hd : x.down = false) (n : Nat) :
    exec (.flitNak l n) s = .next ((s.putLink l { x with
      retry := x.retry.take n ++ (x.retry.drop n).map fun f => { f with resends := f.resends + 1 } }).resend l
        (x.retry.drop n)) := by
  change execFlitNak _ _ s = _
  rw [execFlitNak, onLink_eq hl hx]
  have hcount := mapFrom_from (fun f : Flit => { f with resends := f.resends + 1 }) n x.retry 0
  rw [if_neg (ne_true_of_eq_false hd), State.modLink_eq hx, hcount, Nat.sub_zero]

theorem exec_resendTimeout (hl : l < 16) (hx : s.links[l]? = some x) (hd : x.down = false) {n : Nat} {f : Flit}
    (hf : x.retry[n]? = some f) :
    exec (.resendTimeout l n) s
      = .next ((s.putLink l { x with retry := x.retry.set n { f with resends := f.resends + 1 } }).resend l [f]) := by
  change execResendTimeout _ _ s = _
  rw [execResendTimeout, onLink_eq hl hx]
  have hone : (x.retry.drop n).take 1 = [f] := by
    obtain ⟨hn, rfl⟩ := List.getElem?_eq_some_iff.1 hf
    rw [List.drop_eq_getElem_cons hn]
    rfl
  rw [if_neg (ne_true_of_eq_false hd), State.modLink_eq hx, listMod_of_getElem? hf, hone]

/-! ## Retraining (R458, R459) -/

theorem exec_linkRetrain (hl : l < 16) (hx : s.links[l]? = some x) :
    exec (.linkRetrain l) s = .next (if x.mustRetrain then s.putLink l { x with retraining := true } else s) := by
  change execLinkRetrain _ s = _
  rw [execLinkRetrain, onLink_eq hl hx]
  rw [State.modLink_eq hx]

theorem Link.mustRetrain_iff (x : Link) : x.mustRetrain = true ↔
    x.down = false ∧ x.retraining = false ∧ ∃ f ∈ x.retry, 8 ≤ f.resends := by
  simp [Link.mustRetrain, and_assoc]

theorem exec_linkRetrainComplete_ok (hl : l < 16) (hx : s.links[l]? = some x) (hr : x.retraining = true) (w : Bool) :
    exec (.linkRetrainComplete l true w) s = .next (s.putLink l { x with
      retraining := false, retry := x.retry.map fun f => { f with resends := 0 } }) := by
  change execLinkRetrainComplete _ _ _ s = _
  rw [execLinkRetrainComplete, onLink_eq hl hx]
  simp [hr, State.modLink_eq hx]

theorem exec_linkRetrainComplete_failed (hl : l < 16) (hx : s.links[l]? = some x) (hr : x.retraining = true) {w : Bool}
    (h : x.fails < 2 ∨ w = false) :
    exec (.linkRetrainComplete l false w) s = .next (s.putLink l { x with retraining := false, fails := x.fails + 1 }) := by
  change execLinkRetrainComplete _ _ _ s = _
  rw [execLinkRetrainComplete, onLink_eq hl hx]
  have hup : ¬(w && decide (3 ≤ x.fails + 1)) = true := by
    rcases h with h | rfl
    · simp; omega
    · exact Bool.false_ne_true
  rw [hr, Bool.not_true, if_neg Bool.false_ne_true, if_neg Bool.false_ne_true, if_neg hup, State.modLink_eq hx]

theorem exec_linkRetrainComplete_down (hl : l < 16) (hx : s.links[l]? = some x) (hr : x.retraining = true)
    (h : 2 ≤ x.fails) : exec (.linkRetrainComplete l false true) s = .next (s.linkDown l x) := by
  change execLinkRetrainComplete _ _ _ s = _
  rw [execLinkRetrainComplete, onLink_eq hl hx]
  have hdown : (true && decide (3 ≤ x.fails + 1)) = true := by simp; omega
  rw [hr, hdown]
  rfl

/-- What the host is told of a link that is down: for each peer context of each device, its chunks. -/
def Link.lostChunks (l : Nat) (x : Link) : List Notice :=
  (x.retry.map fun f => (f.gx, f.gy, f.pctx)).eraseDups.map fun p => Notice.linkDown l p.1 p.2.1 p.2.2
    ((x.retry.filter fun f => f.endsChunk).filter fun f => (f.gx, f.gy, f.pctx) == p).length

theorem State.linkDown_eq (hx : s.links[l]? = some x) :
    s.linkDown l x = { s.putLink l { x with retry := [], retraining := false, fails := x.fails + 1, down := true } with
      notices := s.notices ++ x.lostChunks l } := by
  rw [State.linkDown, State.modLink_eq hx]
  rfl

theorem Link.mem_lostChunks (l : Nat) (x : Link) (y : Notice) : y ∈ x.lostChunks l ↔
    ∃ f ∈ x.retry, y = Notice.linkDown l f.gx f.gy f.pctx
      (x.retry.filter fun g => g.endsChunk && g.gx == f.gx && g.gy == f.gy && g.pctx == f.pctx).length := by
  have hfilter : ∀ f : Flit, ((x.retry.filter fun g => g.endsChunk).filter fun g => (g.gx, g.gy, g.pctx) == (f.gx, f.gy, f.pctx))
      = x.retry.filter fun g => g.endsChunk && g.gx == f.gx && g.gy == f.gy && g.pctx == f.pctx := fun f => by
    rw [List.filter_filter]
    refine List.filter_congr fun g _ => ?_
    rw [Bool.eq_iff_iff]
    simp
    tauto
  simp only [Link.lostChunks, List.mem_map, List.mem_eraseDups]
  constructor
  · rintro ⟨p, ⟨f, hf, rfl⟩, rfl⟩
    exact ⟨f, hf, by rw [hfilter]⟩
  · rintro ⟨f, hf, rfl⟩
    exact ⟨_, ⟨f, hf, rfl⟩, by rw [hfilter]⟩

end

/-! ## Chunks (R405, R453) -/

section
variable {s : State} {k l : Nat} {c : ChunkArgs}

/-- The chunk is off the list of those received. -/
def State.takenChunk (s : State) (k : Nat) : State := { s with chunks := s.chunks.eraseIdx k }

theorem exec_chunkArrival_waits (hk : s.chunks[k]? = some { link := l, args := c })
    (h : ∃ y ∈ s.chunks.take k, y.link = l) : exec (.chunkArrival k) s = .next s := by
  have hearlier : ((s.chunks.take k).any fun y => y.link == l) = true := by simpa using h
  show Host.Outcome.next _ = _
  simp only [hk, hearlier, if_true]

theorem exec_chunkArrival_first (hk : s.chunks[k]? = some { link := l, args := c })
    (h : ∀ y ∈ s.chunks.take k, y.link ≠ l) :
    exec (.chunkArrival k) s = .next (match s.chunkAt { link := l, args := c } with
      | .nowhere => s.takenChunk k
      | .absent va => if s.notices.contains (.pageAbsent c.ctx va) then s
        else { s with notices := s.notices ++ [.pageAbsent c.ctx va] }
      | .at ps => if ((s.takenChunk k).landChunk c ps).2 then ((s.takenChunk k).landChunk c ps).1.countChunk s.stamp c
        else ((s.takenChunk k).landChunk c ps).1) := by
  have hearlier : ((s.chunks.take k).any fun y => y.link == l) = false := by simpa using h
  show Host.Outcome.next _ = _
  simp only [hk, hearlier, Bool.false_eq_true, if_false]
  rfl

theorem State.chunkAt_nowhere (h : s.obj c.ctx c.obj = none
    ∨ ∃ o, s.obj c.ctx c.obj = some o ∧ (o.len < c.off + c.data.length ∨ o.hostOwned = true)) :
    s.chunkAt { link := l, args := c } = .nowhere := by
  rcases h with h | ⟨o, h, hbad⟩
  · simp only [State.chunkAt, h]
  · simp only [State.chunkAt, h]
    rw [if_pos hbad]

theorem State.chunkAt_loft {o : Obj} {d : Nat} (ho : s.obj c.ctx c.obj = some o) (hlen : c.off + c.data.length ≤ o.len)
    (hown : o.hostOwned = false) (hk : o.kind = .loft) (hd : o.placed = some d) (hh : (s.hops (l / 2) d).isSome = true) :
    s.chunkAt { link := l, args := c }
      = .at [{ space := .loft d, addr := o.base + c.off, n := c.data.length, ord := o.ord }] := by
  have hok : ¬(o.len < c.off + c.data.length ∨ o.hostOwned = true) := by
    rw [hown]
    rintro (h | h)
    · omega
    · exact Bool.false_ne_true h
  have hreach : (s.hops (l / 2) d).isNone = false := by
    rw [← Option.not_isSome, hh]
    rfl
  simp only [State.chunkAt, ho, hok, if_false, hk, hd, hreach, Bool.false_eq_true]

theorem State.Beside.binds {s t : State} (h : s.Beside t) (c i : Nat) :
    ((t.ctx c).bind fun x => mapGet x.binds i) = (s.ctx c).bind fun x => mapGet x.binds i := by
  have hb : ∀ x : Option Ctx, (x.bind fun y => mapGet y.binds i) = (x.map Ctx.shell).bind fun y => mapGet y.binds i :=
    fun x => by cases x <;> rfl
  rw [hb (t.ctx c), hb (s.ctx c), h.ctx]

theorem chunkBytes_store {c : ChunkArgs} (h : c.op = 0) (old : List Byte) : chunkBytes c old = c.data := by
  rw [chunkBytes, h]
  rfl

/-- A chunk with one home, where nothing of it is discarded. -/
theorem State.landChunk_one {u t : State} {d : Nat} {o : Obj} {bs : List Byte}
    (hbs : bs = chunkBytes c (u.readHome (u.keyOf c.ctx) (.loft d) (o.base + c.off) c.data.length))
    (h : u.commit { id := 0, by_ := .host, space := .loft d, addr := o.base + c.off, old := [], ord := o.ord, rels := [],
                    known := [], wide := [], ctx := c.ctx, node := 0 } (bs.take c.data.length) = (t, false)) :
    u.landChunk c [{ space := .loft d, addr := o.base + c.off, n := c.data.length, ord := o.ord }] = (t, true) := by
  simp only [State.landChunk, List.flatMap_cons, List.flatMap_nil, List.append_nil, dealOut, List.foldl_cons, List.foldl_nil,
    ← hbs, h, Bool.not_false, Bool.and_self]

end

/-! ## The obligation -/

/-- Settles O59: each event of a link acts on that link alone, and a chunk reaches the object that it is for. -/
theorem linksAndChunks : Obligations.LinksAndChunks := by
  unfold Obligations.LinksAndChunks
  refine ⟨fun l s x hl hx => ?_, fun k l s c hk => ?_⟩
  · intro put again
    refine ⟨fun hd => ⟨exec_flitReceive_next hl hx hd, fun n ok ch h => exec_flitReceive_nak hl hx hd h ch,
      fun n ch h => exec_flitReceive_again hl hx hd h ch, exec_flitNak hl hx hd, fun n f hf => exec_resendTimeout hl hx hd hf⟩,
      exec_flitAck hl hx, fun h => ?_, fun h => ?_, fun hr => ⟨exec_linkRetrainComplete_ok hl hx hr,
        fun w h => exec_linkRetrainComplete_failed hl hx hr h, fun h => ?_⟩⟩
    · rw [exec_linkRetrain hl hx, if_pos (x.mustRetrain_iff.2 h)]
      rfl
    · have hno : ¬x.mustRetrain = true := fun hm => by
        obtain ⟨_, _, f, hf, h8⟩ := x.mustRetrain_iff.1 hm
        exact Nat.not_lt_of_ge h8 (h f hf)
      rw [exec_linkRetrain hl hx, if_neg hno]
    · refine ⟨_, x.lostChunks l, exec_linkRetrainComplete_down hl hx hr h, State.linkDown_eq hx, fun a b p n => ?_, fun y hy => ?_⟩
      · rw [Link.mem_lostChunks]
        constructor
        · rintro ⟨f, hf, he⟩
          obtain ⟨_, rfl, rfl, rfl, rfl⟩ := Notice.linkDown.inj he
          exact ⟨⟨f, hf, rfl, rfl, rfl⟩, rfl⟩
        · rintro ⟨⟨f, hf, rfl, rfl, rfl⟩, rfl⟩
          exact ⟨f, hf, rfl⟩
      · obtain ⟨f, _, rfl⟩ := (Link.mem_lostChunks l x y).1 hy
        exact ⟨_, _, _, _, rfl⟩
  · intro u
    refine ⟨exec_chunkArrival_waits hk, fun hfirst => ⟨fun hbad => ?_, fun o d ho hlen hown hloft hd hreach => ?_⟩⟩
    · rw [exec_chunkArrival_first hk hfirst, State.chunkAt_nowhere hbad]
      rfl
    · intro old bs
      refine ⟨fun hop => chunkBytes_store hop old, fun t => ?_⟩
      intro w hw
      have hland : (s.takenChunk k).landChunk c [{ space := .loft d, addr := o.base + c.off, n := c.data.length, ord := o.ord }]
          = (t, true) := State.landChunk_one rfl hw
      have ht : t = (u.commit w (bs.take c.data.length)).1 := by rw [hw]
      rw [exec_chunkArrival_first hk hfirst, State.chunkAt_loft ho hlen hown hloft hd hreach]
      simp only [hland, if_true, State.countChunk]
      have hbinds := (ht ▸ State.Beside.commit u w (bs.take c.data.length)).binds c.ctx c.obj
      rw [hbinds]
      have hu : u.ctx c.ctx = s.ctx c.ctx := rfl
      rw [hu]
      cases (s.ctx c.ctx).bind fun x => mapGet x.binds c.obj <;> rfl

end Sys2Proof.Machine
end

section
/-! PROOFS. Obligation O29 fails: a barrier mismatch where two groups stand under one key (R224, R424). -/

namespace Sys2Proof.Machine.BarrierTwoGroups

/-- The list of groups holds key 0 twice, as in `TwoGroupsOneKey`; at barrier 0 of the first group, lanes have arrived with
the count 5. -/
def before : State :=
  TwoGroupsOneKey.before.modGroup 0 fun g => { g with barriers := [(0, { count := 5, arrived := 1 })] }

/-- A `BAR` with the count 3. -/
def fields : Ops := { g := { neg := false, p := 15 }, la := 0, d := 0xF0, a := 0xFF, b := 0xF0, c := 0xF0, imm := 3 }

def modifier : BarMod := { i := 0 }

def run : Run := (before.closeIssue.runOf fields).get (by decide +kernel)

theorem issues : Issues (.bar fields modifier) before.closeIssue run where
  run := (Option.some_get _).symm
  legal := by decide +kernel
  limits := by decide +kernel
  noErr := by decide +kernel
  lanes := by decide +kernel
  live := by decide +kernel
  first := by decide +kernel
  canon := by decide +kernel
  noTag := by decide +kernel

theorem calm : Calm before.closeIssue run where
  windows := by decide +kernel
  soft := by decide +kernel

/-- The mismatch ends the first group's grid, and then the rendezvous of the second group under the key is tested, and fails. -/
theorem exec_aborts_twice :
    (match exec (.bar fields modifier) before with | .next t => t.aborts.length | _ => 0) = 2 := by
  decide +kernel

end Sys2Proof.Machine.BarrierTwoGroups

namespace Sys2Proof.Machine

/-- Refutes O29: its third clause speaks of every state, also of one whose list of groups holds a key twice.  The mismatch
ends the grid of the run's group, and the test of the warp's rendezvous that follows meets the other group of that key,
which raises a fault of its own.  (The statement has no hypothesis `mapSorted none s.groups`; a state reached from reset
would meet that.) -/
theorem not_groupBarriers : ¬ Obligations.GroupBarriers := by
  intro h
  obtain ⟨_, _, hclash⟩ := h BarrierTwoGroups.fields BarrierTwoGroups.modifier BarrierTwoGroups.before BarrierTwoGroups.run
    BarrierTwoGroups.issues BarrierTwoGroups.calm (by decide +kernel) (by decide +kernel) (by unfold AtPc; decide +kernel)
    (by decide +kernel) (by decide +kernel) (by decide +kernel)
  have hexec := hclash { count := 5, arrived := 1 } (by decide +kernel) (by decide +kernel)
  have htwo := BarrierTwoGroups.exec_aborts_twice
  rw [hexec] at htwo
  revert htwo
  decide +kernel

end Sys2Proof.Machine
end

section
/-! PROOFS. Lanes that wait for others of their group, and leave together (R133, R224, R267). -/

namespace Sys2Proof.Machine

/-! ## Real lanes -/

/-- The real lanes of two groups are as many, when their lanes are of the same kind. -/
theorem Group.reals_congr {g h : Group} (hlen : h.warps.length = g.warps.length)
    (hlanes : ∀ w, (h.warp w).lanes.map (·.st) = (g.warp w).lanes.map (·.st)) : h.reals = g.reals := by
  have hcount : ∀ x : Warp, (x.lanes.filter Lane.isReal).length = ((x.lanes.map (·.st)).filter (· == .real)).length := fun x => by
    rw [List.filter_map, List.length_map]
    rfl
  have hwarp : ∀ (k : Group) (i : Nat) (hi : i < k.warps.length), k.warps[i] = k.warp i := fun k i hi => by
    rw [Group.warp, List.getD_eq_getElem?_getD, List.getElem?_eq_getElem hi, Option.getD_some]
  rw [Group.reals, Group.reals]
  congr 1
  refine List.ext_getElem (by simp [hlen]) fun i h1 h2 => ?_
  have hi : i < h.warps.length := by simpa using h1
  have gi : i < g.warps.length := by simpa using h2
  rw [List.getElem_map, List.getElem_map, hwarp h i hi, hwarp g i gi, hcount, hcount, hlanes]

theorem Warp.Keeps.kinds {a b : Warp} (h : a.Keeps b) : b.lanes.map (·.st) = a.lanes.map (·.st) := by
  refine List.ext_getElem (by simp [h.length]) fun l h1 h2 => ?_
  have hb : l < b.lanes.length := by simpa using h1
  have ha : l < a.lanes.length := by simpa using h2
  rw [List.getElem_map, List.getElem_map, ← Warp.lane_eq_getElem hb, ← Warp.lane_eq_getElem ha, (h.lanes l).rest]

theorem Group.Keeps.reals {g h : Group} (k : g.Keeps h) : h.reals = g.reals :=
  Group.reals_congr k.length fun w => (k.warps w).kinds

/-- Lanes that begin to wait are of the kind that they were. -/
theorem Warp.kinds_modLanes (x : Warp) (m : W64) {f : Nat → Lane → Lane} (hf : ∀ l y, (f l y).st = y.st) :
    (x.modLanes m f).lanes.map (·.st) = x.lanes.map (·.st) := by
  refine List.ext_getElem (by simp) fun l h1 h2 => ?_
  have hb : l < (x.modLanes m f).lanes.length := by simpa using h1
  have ha : l < x.lanes.length := by simpa using h2
  rw [List.getElem_map, List.getElem_map, ← Warp.lane_eq_getElem hb, ← Warp.lane_eq_getElem ha, Warp.lane_modLanes]
  split <;> [exact hf _ _; rfl]

theorem Group.reals_modWarp (g : Group) (w : Nat) {f : Warp → Warp} (hf : ∀ x, (f x).lanes.map (·.st) = x.lanes.map (·.st)) :
    (g.modWarp w f).reals = g.reals :=
  Group.reals_congr (by simp) fun v => by
    rw [Group.warp_modWarp]
    split <;> [exact hf _; rfl]

/-- The groups of a cluster, from the places of all groups. -/
theorem State.clusterOf_eq (s : State) (g : Group) : s.clusterOf g = ((s.groups.map Group.place).filter fun p =>
    p.2.1 == g.ctx && p.2.2.1 == g.node && p.2.2.2.2 != .draining
      && p.2.2.2.1 / (s.desc g).cluster == g.lin / (s.desc g).cluster).map (·.1) := by
  rw [State.clusterOf, List.filter_map, List.map_map]
  rfl

theorem State.Beside.clusterOf {s t : State} (h : s.Beside t) {g k : Group} (hg : g.ctx = k.ctx ∧ g.node = k.node ∧ g.lin = k.lin) :
    t.clusterOf k = s.clusterOf g := by
  obtain ⟨h1, h2, h3⟩ := hg
  have hd : t.desc k = s.desc g := by rw [State.desc, State.desc, h.node, h1, h2]
  rw [State.clusterOf_eq, State.clusterOf_eq, h.groups, hd, h1, h2, h3]

/-! ## A run whose lanes all wait -/

section
variable {s : State} {r : Run}

theorem State.hold_nil (s : State) (r : Run) (w : Wait) : s.hold r [] w = s := by
  refine State.modWarp_id _ _ _ _ (Warp.modLanes_id _ _ _ fun l hl => ?_)
  simp at hl

theorem State.warp_hold (h : Stands s r) (ls : List Nat) (w : Wait) :
    (s.hold r ls w).warp r.gid r.w = (s.warp r.gid r.w).modLanes (maskOf ls) fun _ y => { y with wait := w } := by
  obtain ⟨g, hg, hw⟩ := h.group
  exact State.warp_modWarp s _ _ _ hg hw

theorem State.lane_hold (h : Stands s r) (w : Wait) (l : Nat) :
    ((s.hold r r.ls w).warp r.gid r.w).lane l = if l ∈ r.ls then { (s.warp r.gid r.w).lane l with wait := w }
      else (s.warp r.gid r.w).lane l := by
  rw [State.warp_hold h, Warp.lane_modLanes]
  by_cases hl : l ∈ r.ls
  · simp [hl, h.lt l hl, h.len l hl]
  · simp [hl]

theorem Stands.hold (h : Stands s r) (ls : List Nat) (w : Wait) : Stands (s.hold r ls w) r :=
  h.modWarp _ (by simp) (Warp.canon_of h.canon rfl rfl (by
    refine List.ext_getElem (by simp) fun l h1 h2 => ?_
    have hb : l < ((s.warp r.gid r.w).modLanes (maskOf ls) fun _ y => { y with wait := w }).lanes.length := by simpa using h1
    have ha : l < (s.warp r.gid r.w).lanes.length := by simpa using h2
    rw [List.getElem_map, List.getElem_map, ← Warp.lane_eq_getElem hb, ← Warp.lane_eq_getElem ha, Warp.lane_modLanes]
    split <;> rfl))

theorem Calm.hold (c : Calm s r) (h : Stands s r) (w : Wait) : Calm (s.hold r r.ls w) r where
  windows := fun l hl y hy => by
    rw [State.lane_hold h, if_pos hl] at hy
    exact c.windows l hl y hy
  soft := c.soft

theorem AtPc.hold (hp : AtPc s r) (h : Stands s r) (w : Wait) : AtPc (s.hold r r.ls w) r := fun l hl => by
  rw [State.lane_hold h, if_pos hl]
  exact hp l hl

/-- Lanes that leave keep nothing of the wait. -/
theorem State.moved_hold (s : State) (r : Run) (w : Wait) (dest : Nat → W64) : (s.hold r r.ls w).moved r dest = s.moved r dest := by
  rw [State.moved, State.hold, State.modWarp_modWarp, State.moved]
  refine State.modWarp_congr _ _ _ _ _ ?_
  simp only [Warp.moved, Warp.modLanes, mapFrom_mapFrom]
  congr 1
  refine mapFrom_congr _ _ _ _ fun l y => ?_
  split <;> rfl

/-- The lanes of a run leave the instruction at which they all stand. -/
theorem State.leave_run (h : Stands s r) (c : Calm s r) (hp : AtPc s r) :
    s.leave r.gid r.w (maskOf r.ls) = s.moved r fun _ => nextSlot r.pc := by
  rw [← State.advance_calm h c]
  simp only [State.leave, State.advance, State.moveTo]
  congr 1
  refine State.modWarp_congr _ _ _ _ _ (Warp.ext_lanes rfl (by simp) fun l _ => ?_)
  rw [Warp.lane_modLanes, Warp.lane_modLanes, getLsbD_maskOf]
  by_cases hl : l ∈ r.ls
  · rw [hp l hl]
  · simp [hl]

/-! ## Where lanes meet nobody -/

/-- No lane of the warp meets others, and its group is none of a duet: nothing is tested as lanes come and go. -/
structure Unmet (s : State) (r : Run) : Prop where
  group : ∃ g, s.group r.gid = some g ∧ (s.desc g).isDuet = false
  arrivals : (s.warp r.gid r.w).arrivals = []

theorem Unmet.checks (h : Unmet s r) : (s.memCheck r.gid r.w).partCheck r.gid r.w = s := by
  obtain ⟨g, hg, hd⟩ := h.group
  rw [State.memCheck_none h.arrivals, State.partCheck_notDuet hg hd]

theorem Unmet.lands {t : State} (h : Unmet s r) (k : s.Lands t) : Unmet t r where
  group := by
    obtain ⟨g, hg, hd⟩ := h.group
    obtain ⟨g', hg', kg⟩ := k.group_some hg
    exact ⟨g', hg', by rw [k.desc kg]; exact hd⟩
  arrivals := by rw [(k.warp r.gid r.w).rest]; exact h.arrivals

theorem Unmet.modWarp (h : Unmet s r) (hs : Stands s r) {f : Warp → Warp}
    (hf : (f (s.warp r.gid r.w)).arrivals = (s.warp r.gid r.w).arrivals) : Unmet (s.modWarp r.gid r.w f) r where
  group := by
    obtain ⟨g, hg, hd⟩ := h.group
    refine ⟨g.modWarp r.w f, ?_, hd⟩
    rw [State.modWarp, State.group_modGroup, if_pos rfl, hg]
    rfl
  arrivals := by
    obtain ⟨g, hg, hw⟩ := hs.group
    rw [State.warp_modWarp s _ _ _ hg hw, hf]
    exact h.arrivals

theorem Unmet.hold (h : Unmet s r) (hs : Stands s r) (ls : List Nat) (w : Wait) : Unmet (s.hold r ls w) r := h.modWarp hs rfl

theorem Unmet.moved (h : Unmet s r) (hs : Stands s r) (dest : Nat → W64) : Unmet (s.moved r dest) r := h.modWarp hs rfl

/-! ## A group of one warp whose lanes all wait so -/

/-- The lanes of the run are the real lanes of a group of one warp, which has no helpers, and they alone wait so. -/
structure AllWait (s : State) (r : Run) (p : Wait → Bool) : Prop where
  one : ∃ g, s.group r.gid = some g ∧ g.warps.length = 1 ∧ r.w < 1
  waits : ∀ l, (((s.warp r.gid r.w).lane l).isReal && p ((s.warp r.gid r.w).lane l).wait) = true ↔ l ∈ r.ls
  noHelper : ∀ l, ((s.warp r.gid r.w).lane l).isHelper = false

variable {p : Wait → Bool}

theorem AllWait.warpIxs (h : AllWait s r p) : s.warpIxs r.gid = [r.w] := by
  obtain ⟨g, hg, hlen, hw⟩ := h.one
  obtain hw0 : r.w = 0 := by omega
  rw [State.warpIxs, hg, Option.map_some, Option.getD_some, hlen, hw0]
  rfl

theorem AllWait.where_real (h : AllWait s r p) :
    (s.warp r.gid r.w).where (fun x => x.isReal && p x.wait) = maskOf r.ls := by
  refine maskOf_congr fun l hl => ?_
  rw [List.mem_filter, h.waits l]
  simp [hl]

theorem AllWait.letGo (h : AllWait s r p) : s.letGo r.gid p = s.leave r.gid r.w (maskOf r.ls) := by
  have hnone : (s.warp r.gid r.w).where (fun x => x.isHelper && p x.wait) = 0 := by
    rw [Warp.where, List.filter_eq_nil_iff.2 fun l _ => by simp [h.noHelper l]]
    rfl
  rw [State.letGo, h.warpIxs]
  simp only [List.foldl_cons, List.foldl_nil, h.where_real, hnone]
  congr 1
  simp

theorem AllWait.meetUp (h : AllWait s r p) : s.meetUp [r.gid] p = s.taught r := by
  have hw : s.waiters [r.gid] p = laneAgents r.gid r.w (maskOf r.ls) := by
    simp only [State.waiters, List.flatMap_cons, List.flatMap_nil, List.append_nil, h.warpIxs, h.where_real]
  rw [State.meetUp, hw]
  rfl

/-- The lanes of a run, which are all the real ones, begin to wait. -/
theorem AllWait.hold {t : State} (k : s.Lands t) (hs : Stands s r) (hg : s.group r.gid = some r.g) (hone : r.g.warps.length = 1)
    (hreal : ∀ l ∈ r.ls, ((r.g.warp r.w).lane l).st = .real) (hin : ∀ l, ((r.g.warp r.w).lane l).st = .real → l ∈ r.ls)
    (hno : ∀ l, ((r.g.warp r.w).lane l).st ≠ .helper) (w : Wait) : AllWait (t.hold r r.ls w) r (· == w) := by
  have hst : ∀ l, ((t.warp r.gid r.w).lane l).st = ((r.g.warp r.w).lane l).st := fun l => by
    rw [((k.warp r.gid r.w).lanes l).rest, State.warp, hg]
    rfl
  have hlane := State.lane_hold (hs.lands k) w
  have hkind : ∀ l, (((t.hold r r.ls w).warp r.gid r.w).lane l).st = ((r.g.warp r.w).lane l).st := fun l => by
    rw [hlane, ← hst]
    split <;> rfl
  refine ⟨?_, fun l => ?_, fun l => ?_⟩
  · obtain ⟨g', hg', kg⟩ := k.group_some hg
    have hw : r.w < r.g.warps.length := by
      obtain ⟨g, hg2, hw⟩ := hs.group
      rw [hg] at hg2
      obtain rfl := Option.some.inj hg2
      exact hw
    refine ⟨g'.modWarp r.w fun x => x.modLanes (maskOf r.ls) fun _ y => { y with wait := w }, ?_, ?_, by omega⟩
    · rw [State.hold, State.modWarp, State.group_modGroup, if_pos rfl, hg']
      rfl
    · rw [Group.modWarp_warps_length, kg.length, hone]
  · rw [Lane.isReal, hkind]
    by_cases hl : l ∈ r.ls
    · rw [hlane, if_pos hl, hreal l hl]
      simp [hl]
    · have : (((r.g.warp r.w).lane l).st == .real) = false := by simpa using fun h => hl (hin l h)
      simp [this, hl]
  · rw [Lane.isHelper, hkind]
    simpa using hno l

/-- A state with the same groups. -/
theorem AllWait.of_groups {t : State} (h : AllWait s r p) (e : t.groups = s.groups) : AllWait t r p := by
  have hg : ∀ i, t.group i = s.group i := fun i => by simp only [State.group, e]
  have hw : t.warp r.gid r.w = s.warp r.gid r.w := by simp only [State.warp, hg]
  exact ⟨by simpa only [hg] using h.one, by simpa only [hw] using h.waits, by simpa only [hw] using h.noHelper⟩

/-- The lanes that waited so leave the instruction, all at once. -/
theorem AllWait.letGo_moved (h : AllWait s r p) (hs : Stands s r) (c : Calm s r) (hp : AtPc s r) :
    s.letGo r.gid p = s.moved r fun _ => nextSlot r.pc := h.letGo.trans (State.leave_run hs c hp)

end

end Sys2Proof.Machine
end

section
/-! PROOFS. Obligation O30: `CBAR` over the groups of a cluster (R133, R223, R224). -/

namespace Sys2Proof.Machine

/-! ## check() of R224 -/

section
variable {t : State} {gids : List Nat} {b : Barrier} {p : Wait → Bool} {reset : State → State}

/-- The real lanes of some groups. -/
def State.realsOf (t : State) (gids : List Nat) : Nat := (gids.map fun i => ((t.group i).map Group.reals).getD 0).sum

/-- The arrivals that a barrier waits for (R224). -/
def Barrier.expected (b : Barrier) (live : Nat) : Nat := if b.count = 0 then live else b.count.toNat

theorem State.barTest_waits (h1 : b.expected (t.realsOf gids) ≤ t.realsOf gids)
    (h2 : b.arrived < b.expected (t.realsOf gids)) : t.barTest gids b p reset = t := by
  rw [State.barTest]
  change (if t.realsOf gids < b.expected (t.realsOf gids) ∨ b.expected (t.realsOf gids) < b.arrived then _
    else if b.arrived = b.expected (t.realsOf gids) then _ else t) = t
  rw [if_neg (by omega), if_neg (by omega)]

theorem State.barTest_complete (h1 : b.expected (t.realsOf gids) ≤ t.realsOf gids)
    (h2 : b.arrived = b.expected (t.realsOf gids)) :
    t.barTest gids b p reset = gids.foldl (fun s i => s.letGo i p) ((reset t).meetUp gids p) := by
  rw [State.barTest]
  change (if t.realsOf gids < b.expected (t.realsOf gids) ∨ b.expected (t.realsOf gids) < b.arrived then _
    else if b.arrived = b.expected (t.realsOf gids) then _ else t) = _
  rw [if_neg (by omega), if_pos h2]

end

/-! ## The arrival of a run of real lanes -/

section
variable {s : State} {r : Run}

/-- A run of real lanes arrives at a barrier to which no other count belongs. -/
theorem barArrive_all (ha : r.act = r.ls) (hls : r.ls ≠ []) (hreal : ∀ l ∈ r.ls, (r.snap.lane l).st = .real)
    {old : Option Barrier} (hold_ : ∀ b, old = some b → b.count = r.rd64 .zero (r.act.headD 0) r.o.a) (w : Wait)
    (put : State → Barrier → State) (check : State → State) :
    barArrive r s old w put check
      = ((check ((put (s.drainMask r.gid r.w (maskOf r.ls)) { count := r.rd64 .zero (r.act.headD 0) r.o.a
                                                              arrived := ((old.map (·.arrived)).getD 0) + r.act.length }).hold
          r r.ls w)).memCheck r.gid r.w).partCheck r.gid r.w := by
  have hall : r.ls.filter (fun l => (r.snap.lane l).isReal) = r.ls :=
    List.filter_eq_self.2 fun l hl => by simp [Lane.isReal, hreal l hl]
  have hnone : r.ls.filter (fun l => !(r.snap.lane l).isReal) = [] :=
    List.filter_eq_nil_iff.2 fun l hl => by simp [Lane.isReal, hreal l hl]
  have hothers : r.ls.filter (fun l => !r.isAct l) = [] := Run.others_nil ha
  have hne : r.ls.isEmpty = false := by simpa using hls
  simp only [barArrive, hothers, State.advance_nil]
  rw [ha] at hold_ ⊢
  simp only [hall, hnone, State.hold_nil, hne, Bool.false_eq_true, if_false]
  cases old with
  | none => simp
  | some b => simp [hold_ b rfl]

end

/-! ## CBAR -/

section
variable {o : Ops} {m : BarMod} {s u : State} {r : Run}

/-- The barrier of the cluster of the run's group. -/
def Run.clusterBar (r : Run) (i : Nat) (b : Barrier) : ClusterBar :=
  { ctx := r.g.ctx, node := r.g.node, cluster := r.g.lin / r.d.cluster, i := i, bar := b }

/-- The state with another barrier for the cluster. -/
def State.putCbar (s : State) (r : Run) (i : Nat) (b : Barrier) : State :=
  { s with cbars := r.clusterBar i b :: s.cbars.filter fun x => !x.is r.g r.d.cluster i }

theorem exec_cbar (h : Issues (.cbar o m) s.closeIssue r) :
    exec (.cbar o m) s = .next (barArrive r s.closeIssue
      ((s.closeIssue.cbars.find? fun b => b.is r.g r.d.cluster m.i.toNat).map (·.bar)) (.cbar m.i.toNat)
      (fun s b => s.putCbar r m.i.toNat b) (fun s => s.cbarCheck r.gid m.i.toNat)) :=
  issued_next h _ _

/-- The lanes of the run have arrived, their earlier writes are at their homes, and the barrier counts them. -/
def State.cbarArrived (u : State) (r : Run) (i : Nat) (b : Barrier) : State :=
  ((u.drainMask r.gid r.w (maskOf r.ls)).putCbar r i b).hold r r.ls (.cbar i)

/-- The group of the run as landings leave it, with lanes that wait. -/
theorem State.group_cbarArrived (hg : u.group r.gid = some r.g) (i : Nat) (b : Barrier) :
    ∃ k, (u.drainMask r.gid r.w (maskOf r.ls)).group r.gid = some k ∧ r.g.Keeps k
      ∧ (u.cbarArrived r i b).group r.gid = some (k.modWarp r.w fun x => x.modLanes (maskOf r.ls) fun _ y =>
          { y with wait := .cbar i }) := by
  obtain ⟨k, hk, kk⟩ := (State.Lands.drainMask u r.gid r.w (maskOf r.ls)).group_some hg
  refine ⟨k, hk, kk, ?_⟩
  have hput : ((u.drainMask r.gid r.w (maskOf r.ls)).putCbar r i b).group r.gid = some k := hk
  rw [State.cbarArrived, State.hold, State.modWarp, State.group_modGroup, if_pos rfl, hput]
  rfl

theorem State.Beside.cbarArrived (u : State) (r : Run) (i : Nat) (b : Barrier) :
    ((u.drainMask r.gid r.w (maskOf r.ls)).putCbar r i b).Beside (u.cbarArrived r i b) := .modWarp ..

/-- Every group has the real lanes that it had. -/
theorem State.reals_cbarArrived (u : State) (r : Run) (i : Nat) (b : Barrier) (j : Nat) :
    ((u.cbarArrived r i b).group j).map Group.reals = (u.group j).map Group.reals := by
  have hlands := (State.Lands.drainMask u r.gid r.w (maskOf r.ls)).group j
  have hput : ((u.drainMask r.gid r.w (maskOf r.ls)).putCbar r i b).group j = (u.drainMask r.gid r.w (maskOf r.ls)).group j := rfl
  rw [State.cbarArrived, State.hold, State.modWarp, State.group_modGroup, hput]
  generalize u.group j = x, (u.drainMask r.gid r.w (maskOf r.ls)).group j = y at hlands
  cases hlands with
  | none => split <;> rfl
  | @some g k hk =>
    change _ = some g.reals
    rw [← hk.reals]
    split
    · exact congrArg some (Group.reals_modWarp k r.w fun x => Warp.kinds_modLanes x _ fun _ _ => rfl)
    · rfl

/-- check() of the cluster's barrier, once the run has arrived. -/
theorem State.cbarCheck_arrived (hg : u.group r.gid = some r.g) (hd : r.d = u.desc r.g) (i : Nat) (b : Barrier) :
    ∃ T, T = u.cbarArrived r i b ∧ T.cbarCheck r.gid i = T.barTest (u.clusterOf r.g) b (· == .cbar i)
        (fun s => { s with cbars := s.cbars.filter fun x => !x.is r.g r.d.cluster i })
      ∧ T.realsOf (u.clusterOf r.g) = ((u.clusterOf r.g).map fun k => ((u.group k).map Group.reals).getD 0).sum := by
  refine ⟨_, rfl, ?_, ?_⟩
  · obtain ⟨k, hk, kk, hT⟩ := State.group_cbarArrived hg i b
    set k' := k.modWarp r.w fun x => x.modLanes (maskOf r.ls) fun _ y => { y with wait := .cbar i } with hk'
    have hplace : r.g.ctx = k'.ctx ∧ r.g.node = k'.node ∧ r.g.lin = k'.lin := by
      have h1 : k'.ctx = k.ctx := rfl
      have h2 : k'.node = k.node := rfl
      have h3 : k'.lin = k.lin := rfl
      rw [h1, h2, h3, kk.rest]
      exact ⟨rfl, rfl, rfl⟩
    have hb1 := State.Beside.drainMask u r.gid r.w (maskOf r.ls)
    have hb2 := State.Beside.cbarArrived u r i b
    have hdesc : (u.cbarArrived r i b).desc k' = r.d := by
      have h1 : ((u.drainMask r.gid r.w (maskOf r.ls)).putCbar r i b).node = (u.drainMask r.gid r.w (maskOf r.ls)).node := rfl
      rw [State.desc, hb2.node, h1, hb1.node, ← hplace.1, ← hplace.2.1, hd]
      rfl
    have hclu : (u.cbarArrived r i b).clusterOf k' = u.clusterOf r.g := by
      rw [hb2.clusterOf (g := r.g) hplace]
      exact hb1.clusterOf ⟨rfl, rfl, rfl⟩
    have his : ∀ x : ClusterBar, x.is k' r.d.cluster i = x.is r.g r.d.cluster i := fun x => by
      simp only [ClusterBar.is, ← hplace.1, ← hplace.2.1, ← hplace.2.2]
    have hfind : ((u.cbarArrived r i b).cbars.find? fun x => x.is r.g r.d.cluster i) = some (r.clusterBar i b) := by
      have hcb : (u.cbarArrived r i b).cbars = r.clusterBar i b
          :: (u.drainMask r.gid r.w (maskOf r.ls)).cbars.filter fun x => !x.is r.g r.d.cluster i := rfl
      rw [hcb, List.find?_cons_of_pos]
      simp [ClusterBar.is, Run.clusterBar]
    simp only [State.cbarCheck, hT, hdesc, his, hfind, hclu]
    rfl
  · simp only [State.realsOf, State.reals_cbarArrived]

/-- The barrier is reset. -/
theorem State.cbars_reset (v : State) (r : Run) (i : Nat) (b : Barrier) :
    (v.putCbar r i b).cbars.filter (fun x => !x.is r.g r.d.cluster i) = v.cbars.filter fun x => !x.is r.g r.d.cluster i := by
  have hthis : (r.clusterBar i b).is r.g r.d.cluster i = true := by simp [ClusterBar.is, Run.clusterBar]
  simp [State.putCbar, hthis]

end

/-! ## The obligation -/

/-- Settles O30: an arrival that does not complete the barrier waits, and one that completes it sends its lanes on. -/
theorem clusterBarriers : Obligations.ClusterBarriers := by
  unfold Obligations.ClusterBarriers
  intro o m s r h c u g ha hreal hpc harr hduet i cnt mine old live arrived expected v hcount hle
  obtain ⟨-, hg, ho, hd, -⟩ := Run.of_runOf h.run
  have hv : v = u.drainMask r.gid r.w (maskOf r.ls) := by rw [← ha]
  have hs := h.stands
  have hunmet : Unmet u r := ⟨⟨r.g, hg, hd ▸ hduet⟩, by rw [State.warp, hg]; exact harr⟩
  have hlands : ∀ cs, u.Lands { v with cbars := cs } := fun cs =>
    (State.Lands.drainMask u r.gid r.w (maskOf r.act)).trans (.of_fields rfl rfl rfl rfl rfl rfl)
  obtain ⟨T, hT, hcheck, hlive⟩ := State.cbarCheck_arrived (r := r) hg hd i { count := cnt, arrived := arrived }
  have harrive : exec (.cbar o m) s = .next (((T.cbarCheck r.gid i).memCheck r.gid r.w).partCheck r.gid r.w) := by
    obtain rfl : r.o = o := ho
    rw [hT]
    exact (exec_cbar h).trans (congrArg _ (barArrive_all ha h.lanes (fun l hl => (hreal l hl).1) hcount _ _ _))
  have hexp : Barrier.expected { count := cnt, arrived := arrived } (T.realsOf (u.clusterOf r.g)) = expected := by rw [hlive]; rfl
  refine ⟨fun hlt => ?_, fun hall hclu hone hin hno _ => ?_⟩
  · have hstay : T.cbarCheck r.gid i = T := by
      rw [hcheck]
      exact State.barTest_waits (by rw [hexp, hlive]; exact hle) (by rw [hexp]; exact hlt)
    have hwait : T = ({ v with cbars := r.clusterBar i { count := cnt, arrived := arrived } :: v.cbars.filter fun b => !mine b } :
        State).hold r r.ls (.cbar i) := by rw [hT, hv]; rfl
    rw [harrive, hstay, hwait, Unmet.checks ((hunmet.lands (hlands _)).hold (hs.lands (hlands _)) _ _), ha]
    rfl
  · set w := State.taught { v with cbars := v.cbars.filter fun b => !mine b } r with hw
    have hw' : u.Lands w := (hlands _).trans (.teach ..)
    have hpcw : AtPc w r := fun l hl => by rw [((hw'.warp r.gid r.w).lanes l).rest]; exact hpc l hl
    have hreset : ({ T with cbars := T.cbars.filter fun x => !x.is r.g r.d.cluster i } : State)
        = ({ v with cbars := v.cbars.filter fun b => !mine b } : State).hold r r.ls (.cbar i) := by
      have hcb : T.cbars.filter (fun x => !x.is r.g r.d.cluster i) = v.cbars.filter fun b => !mine b := by
        rw [hT, hv]
        exact State.cbars_reset _ _ _ _
      rw [hcb, hT, hv]
      rfl
    have hwait : ∀ t : State, u.Lands t → AllWait (t.hold r r.ls (.cbar i)) r (· == .cbar i) := fun t ht =>
      .hold ht hs hg hone (fun l hl => (hreal l hl).2) hin hno _
    have hgo : T.cbarCheck r.gid i = w.moved r fun _ => nextSlot r.pc := by
      rw [hcheck, State.barTest_complete (by rw [hexp, hlive]; exact hle) (by rw [hexp]; exact hall), hclu]
      simp only [List.foldl_cons, List.foldl_nil, hreset, (hwait _ (hlands _)).meetUp]
      change (w.hold r r.ls (.cbar i)).letGo r.gid (· == .cbar i) = _
      have hsw := hs.lands hw'
      rw [(hwait w hw').letGo_moved (hsw.hold _ _) ((c.lands hw').hold hsw _) (hpcw.hold hsw _), State.moved_hold]
    rw [harrive, hgo, Unmet.checks ((hunmet.lands hw').moved (hs.lands hw') _)]

end Sys2Proof.Machine
end

section
/-! PROOFS. Obligation O31: `REGROUP` (R133, R267, R268, R440). -/

namespace Sys2Proof.Machine

/-! ## Sorted records -/

theorem insertBy_perm {α : Type} (key : α → Nat) (x : α) (xs : List α) : (insertBy key x xs).Perm (x :: xs) := by
  induction xs with
  | nil => exact .refl _
  | cons y ys ih =>
    rw [insertBy]
    split
    · exact .refl _
    · exact (ih.cons y).trans (.swap x y ys)

theorem sortBy_perm {α : Type} (key : α → Nat) (xs : List α) : (sortBy key xs).Perm xs := by
  have hfold : ∀ (xs acc : List α), (xs.foldl (fun acc r => insertBy key r acc) acc).Perm (acc ++ xs) := by
    intro xs
    induction xs with
    | nil => exact fun acc => by simp
    | cons x xs ih =>
      intro acc
      refine (ih _).trans (((insertBy_perm key x acc).append_right xs).trans ?_)
      exact List.perm_middle.symm
  exact hfold xs []

/-! ## Payloads into registers -/

theorem Lane.setVs_frame (vs : List W32) : ∀ (x : Lane) (k : Nat), x.setVs k vs = { x with v := (x.setVs k vs).v } := by
  induction vs with
  | nil => exact fun _ _ => rfl
  | cons v vs ih =>
    intro x k
    rw [Lane.setVs, ih]
    rfl

theorem Lane.canon_setVs (vs : List W32) : ∀ {x : Lane} (k : Nat), zwf x.v = true → zwf (x.setVs k vs).v = true := by
  induction vs with
  | nil => exact fun _ h => h
  | cons v vs ih => exact fun k h => ih (k + 1) (Lane.canon_setV h k v)

theorem Lane.getV_setVs (vs : List W32) : ∀ {x : Lane} (k : Nat), zwf x.v = true → ∀ n,
    (x.setVs k vs).getV n = if k ≤ n ∧ n < k + vs.length then vs.getD (n - k) 0 else x.getV n := by
  induction vs with
  | nil =>
    intro x k _ n
    rw [if_neg (by simp), Lane.setVs]
  | cons v vs ih =>
    intro x k h n
    have hset : (x.setV k v).getV n = if n = k then v else x.getV n := zget_zset _ _ _ _ h
    rw [Lane.setVs, ih (k + 1) (Lane.canon_setV h k v), hset, List.length_cons]
    by_cases hk : n = k
    · subst hk
      simp
    · by_cases hin : k + 1 ≤ n ∧ n < k + 1 + vs.length
      · rw [if_pos hin, if_pos (by omega), show n - k = n - (k + 1) + 1 by omega, List.getD_cons_succ]
      · rw [if_neg hin, if_neg hk, if_neg (by omega)]

/-- Lists of words into consecutive registers of some lanes. -/
def Warp.setAll (base : Nat) (ps : List (Nat × List W32)) (x : Warp) : Warp :=
  ps.foldl (fun x p => x.setVs p.1 base p.2) x

/-- What the payloads leave of a warp, and what the registers then hold. -/
structure Warp.Receives (base c : Nat) (ps : List (Nat × List W32)) (x y : Warp) : Prop where
  rest : y = { x with lanes := y.lanes, regErr := y.regErr }
  length : y.lanes.length = x.lanes.length
  canon : y.canon = true
  lanes : ∀ l, y.lane l = { x.lane l with v := (y.lane l).v }
  others : ∀ l, (∀ p ∈ ps, p.1 ≠ l) → y.lane l = x.lane l
  errors : ∀ e, e ∈ y.regErr ↔ e ∈ x.regErr ∧ ¬∃ p ∈ ps, e.1 = p.1 ∧ base ≤ e.2 ∧ e.2 < base + c
  vregs : ∀ l n, (y.lane l).getV n = match ps.find? (·.1 == l) with
    | some p => if base ≤ n ∧ n < base + c then p.2.getD (n - base) 0 else (x.lane l).getV n
    | none => (x.lane l).getV n

theorem Warp.lane_setVs (x : Warp) (l base : Nat) (vs : List W32) (k : Nat) : (x.setVs l base vs).lane k
    = if k = l ∧ l < x.lanes.length then (x.lane k).setVs base vs else x.lane k := Warp.lane_modLane ..

theorem Warp.setAll_receives {base c : Nat} (ps : List (Nat × List W32)) : ∀ {x : Warp}, x.canon = true →
    (ps.map (·.1)).Nodup → (∀ p ∈ ps, p.1 < x.lanes.length ∧ p.2.length = c) → Warp.Receives base c ps x (x.setAll base ps) := by
  induction ps with
  | nil =>
    intro x hx _ _
    exact ⟨rfl, rfl, hx, fun _ => rfl, fun _ _ => rfl, fun e => by simp [Warp.setAll], fun l n => rfl⟩
  | cons p ps ih =>
    intro x hx hnd hall
    obtain ⟨⟨hp1, hp2⟩, hps⟩ := List.forall_mem_cons.1 hall
    obtain ⟨hpn, hnd⟩ := List.nodup_cons.1 hnd
    have hx' : (x.setVs p.1 base p.2).canon = true := Warp.canon_modLane hx p.1 fun y hy => Lane.canon_setVs p.2 base hy
    have hlen : (x.setVs p.1 base p.2).lanes.length = x.lanes.length := Warp.modLane_length ..
    have h := ih hx' hnd fun q hq => by rw [hlen]; exact hps q hq
    have hlane := Warp.lane_setVs x p.1 base p.2
    have hout : ∀ q ∈ ps, q.1 ≠ p.1 := fun q hq e => hpn (List.mem_map.2 ⟨q, hq, e⟩)
    refine ⟨?_, h.length.trans hlen, h.canon, fun l => ?_, fun l hl => ?_, fun e => ?_, fun l n => ?_⟩
    · exact h.rest
    · rw [Warp.setAll, List.foldl_cons]
      refine (h.lanes l).trans ?_
      rw [hlane]
      split
      · rw [Lane.setVs_frame]
        rfl
      · rfl
    · obtain ⟨hpl, hl⟩ := List.forall_mem_cons.1 hl
      refine (h.others l hl).trans ?_
      rw [hlane, if_neg fun e => hpl e.1.symm]
    · refine (h.errors e).trans ?_
      have herr : e ∈ (x.setVs p.1 base p.2).regErr ↔ e ∈ x.regErr ∧ ¬(e.1 = p.1 ∧ base ≤ e.2 ∧ e.2 < base + c) := by
        show e ∈ x.regErr.filter _ ↔ _
        rw [List.mem_filter, hp2, Bool.not_eq_true', ← Bool.not_eq_true]
        simp [and_assoc]
      rw [herr, List.exists_mem_cons_iff, and_assoc, not_or]
    · refine (h.vregs l n).trans ?_
      by_cases hl : l = p.1
      · subst hl
        have hnone : ps.find? (·.1 == p.1) = none := by
          rw [List.find?_eq_none]
          intro q hq
          simpa using hout q hq
        rw [hnone, List.find?_cons_of_pos (by simp), hlane, if_pos ⟨rfl, hp1⟩]
        dsimp only
        rw [Lane.getV_setVs _ _ (Warp.lane_canon hx _), hp2]
      · rw [List.find?_cons_of_neg (by simpa using Ne.symm hl), hlane, if_neg fun e => hl e.1]

/-! ## A run arrives -/

section
variable {o : Ops} {m : RegroupMod} {s : State} {r : Run}

/-- The record of a lane (R267): its place in the group, its key and its payload. -/
def Run.record (r : Run) (o : Ops) (m : RegroupMod) (l : Nat) : RegRec :=
  { t := 64 * r.w + l, key := (r.rd32 l o.a).extractLsb' 0 16, base := o.d.toNat
    payload := (List.range (m.c.toNat + 1)).map fun k => (r.snap.lane l).getV (o.d.toNat + k) }

/-- The exchange with the records of the run. -/
def Run.regInst (r : Run) (o : Ops) (m : RegroupMod) : RegInst :=
  { c := m.c.toNat + 1, arrived := ((r.g.regroup.map (·.arrived)).getD 0) + r.ls.length
    recs := ((r.g.regroup.map (·.recs)).getD []) ++ r.act.map (r.record o m) }

/-- The group with an exchange, or none. -/
def State.putInst (s : State) (gid : Nat) (x : Option RegInst) : State := s.modGroup gid fun g => { g with regroup := x }

/-- The lanes of the run have arrived, and their earlier writes are at their homes. -/
def State.regArrived (s : State) (r : Run) (x : RegInst) : State :=
  ((s.drainMask r.gid r.w (maskOf r.ls)).putInst r.gid (some x)).hold r r.ls .regroup

theorem exec_regroup_arrives (h : Issues (.regroup o m) s r) (hreal : ∀ l ∈ r.ls, (r.snap.lane l).st = .real)
    (hc : ∀ x, r.g.regroup = some x → x.c = m.c.toNat + 1) :
    exec (.regroup o m) s = .next ((((s.regArrived r (r.regInst o m)).regCheck r.gid).memCheck r.gid r.w).partCheck r.gid r.w) := by
  have hall : r.ls.filter (fun l => (r.snap.lane l).isReal) = r.ls :=
    List.filter_eq_self.2 fun l hl => by simp [Lane.isReal, hreal l hl]
  have hnone : r.ls.filter (fun l => !(r.snap.lane l).isReal) = [] :=
    List.filter_eq_nil_iff.2 fun l hl => by simp [Lane.isReal, hreal l hl]
  have hold : (s.group r.gid).bind (·.regroup) = r.g.regroup := by rw [(Run.of_runOf h.run).2.1]; rfl
  have hclash : r.g.regroup.filter (fun x => decide (x.arrived ≠ 0) && x.c != m.c.toNat + 1) = none := by
    rw [Option.filter_eq_none_iff]
    intro x hx
    simp [hc x hx]
  have hne : r.ls.isEmpty = false := by simpa using h.lanes
  refine (issued_next h _ _).trans (congrArg _ ?_)
  simp only [hall, hnone, State.hold_nil, hne, Bool.false_eq_true, if_false, hold, hclash, ← Run.act_eq h.run]
  rfl

/-- The group of the run with the exchange. -/
theorem State.group_regArrived (hg : s.group r.gid = some r.g) (x : RegInst) :
    ∃ k, (s.regArrived r x).group r.gid = some k ∧ k.regroup = some x ∧ k.reals = r.g.reals := by
  obtain ⟨k, hk, kk⟩ := (State.Lands.drainMask s r.gid r.w (maskOf r.ls)).group_some hg
  refine ⟨({ k with regroup := some x } : Group).modWarp r.w fun y => y.modLanes (maskOf r.ls) fun _ z =>
    { z with wait := .regroup }, ?_, rfl, ?_⟩
  · rw [State.regArrived, State.hold, State.modWarp, State.group_modGroup, if_pos rfl, State.putInst, State.group_modGroup,
      if_pos rfl, hk]
    rfl
  · refine Eq.trans (Group.reals_modWarp _ r.w fun y => ?_) kk.reals
    exact Warp.kinds_modLanes y _ fun _ _ => rfl

theorem Stands.putInst (h : Stands s r) (x : Option RegInst) : Stands (s.putInst r.gid x) r := h.modGroup _ fun _ => rfl

theorem Unmet.putInst (h : Unmet s r) (x : Option RegInst) : Unmet (s.putInst r.gid x) r where
  group := by
    obtain ⟨g, hg, hd⟩ := h.group
    refine ⟨{ g with regroup := x }, ?_, hd⟩
    rw [State.putInst, State.group_modGroup, if_pos rfl, hg]
    rfl
  arrivals := by
    have hw := State.warp_modGroup s r.gid (f := fun g => { g with regroup := x }) (fun _ => rfl) r.gid r.w
    rw [State.putInst, hw]
    exact h.arrivals

/-- A run that does not complete the exchange waits. -/
theorem exec_regroup_waits (h : Issues (.regroup o m) s r) (hreal : ∀ l ∈ r.ls, (r.snap.lane l).st = .real)
    (hc : ∀ x, r.g.regroup = some x → x.c = m.c.toNat + 1) (hu : Unmet s r) (hn : (r.regInst o m).arrived ≠ r.g.reals) :
    exec (.regroup o m) s = .next (s.regArrived r (r.regInst o m)) := by
  obtain ⟨k, hk, hx, hreals⟩ := State.group_regArrived (Run.of_runOf h.run).2.1 (r.regInst o m)
  have hk' := State.Lands.drainMask s r.gid r.w (maskOf r.ls)
  have hu' : Unmet (s.regArrived r (r.regInst o m)) r :=
    ((hu.lands hk').putInst _).hold ((h.stands.lands hk').putInst _) _ _
  have hcheck : (s.regArrived r (r.regInst o m)).regCheck r.gid = s.regArrived r (r.regInst o m) := by
    simp only [State.regCheck, hk, hx, hreals, hn, if_false]
  rw [exec_regroup_arrives h hreal hc, hcheck, hu'.checks]

/-! ## The run that completes the exchange -/

/-- A run of the real lanes of a group of one warp has as many lanes as the group real ones. -/
theorem Run.length_ls (h : Issues (.regroup o m) s r) (hone : r.g.warps.length = 1)
    (hreal : ∀ l ∈ r.ls, ((r.g.warp r.w).lane l).st = .real) (hin : ∀ l, ((r.g.warp r.w).lane l).st = .real → l ∈ r.ls) :
    r.ls.length = r.g.reals := by
  have hw : r.w = 0 := by have := h.warp_lt; omega
  obtain ⟨x, hx⟩ : ∃ x, r.g.warps = [x] := List.length_eq_one_iff.1 hone
  have hwarp : r.g.warp r.w = x := by rw [Group.warp, hx, hw]; rfl
  rw [hwarp] at hreal hin
  have hreals : r.g.reals = ((List.range x.lanes.length).filter fun l => (x.lane l).isReal).length := by
    have hmap : x.lanes = (List.range x.lanes.length).map x.lane := by
      refine List.ext_getElem (by simp) fun l h1 h2 => ?_
      rw [List.getElem_map, List.getElem_range, Warp.lane_eq_getElem h1]
    rw [Group.reals, hx, List.map_singleton, List.sum_singleton]
    conv_lhs => rw [hmap, List.filter_map, List.length_map]
    rfl
  have hls : r.ls.Nodup := by
    rw [(Run.of_runOf h.run).2.2.2.2.2.2.1]
    exact lanesIn_nodup _
  rw [hreals]
  refine ((List.perm_ext_iff_of_nodup hls (List.nodup_range.filter _)).2 fun l => ?_).length_eq
  rw [List.mem_filter, List.mem_range]
  refine ⟨fun hl => ?_, fun hl => hin l (by simpa [Lane.isReal] using hl.2)⟩
  have hst := hreal l hl
  refine ⟨Warp.lt_of_isLive _ _ (by simp [Lane.isLive, hst]), by simp [Lane.isReal, hst]⟩

/-- The records of the run in thread order, each with the one whose payload it receives (R267). -/
def Run.dealt (r : Run) (o : Ops) (m : RegroupMod) : List (RegRec × RegRec) :=
  let pos := sortBy (fun x : RegRec => x.t) (r.act.map (r.record o m))
  pos.zip (sortBy (fun x : RegRec => x.key.toNat) pos)

/-- What each lane receives. -/
def Run.payloads (r : Run) (o : Ops) (m : RegroupMod) : List (Nat × List W32) :=
  (r.dealt o m).map fun p => (p.1.t % 64, p.2.payload)

theorem Run.mem_dealt (hlt : ∀ l ∈ r.act, l < 64) {p : RegRec × RegRec} (hp : p ∈ r.dealt o m) :
    (∃ l ∈ r.act, p.1.t = 64 * r.w + l ∧ l < 64) ∧ p.1.base = o.d.toNat ∧ p.2.payload.length = m.c.toNat + 1 := by
  obtain ⟨h1, h2⟩ := List.of_mem_zip (show (p.1, p.2) ∈ r.dealt o m from hp)
  have h1 := (sortBy_perm _ _).mem_iff.1 h1
  have h2 := (sortBy_perm _ _).mem_iff.1 ((sortBy_perm _ _).mem_iff.1 h2)
  obtain ⟨l, hl, hp1⟩ := List.mem_map.1 h1
  obtain ⟨k, -, hp2⟩ := List.mem_map.1 h2
  rw [← hp1, ← hp2]
  exact ⟨⟨l, hl, rfl, hlt l hl⟩, rfl, by simp [Run.record]⟩

/-- The lanes that receive are the issuing ones, each once. -/
theorem Run.lanes_payloads (hlt : ∀ l ∈ r.act, l < 64) : ((r.payloads o m).map (·.1)).Perm r.act := by
  have hfst : (r.dealt o m).map Prod.fst = sortBy (fun x : RegRec => x.t) (r.act.map (r.record o m)) :=
    List.map_fst_zip (sortBy_perm (fun x : RegRec => x.key.toNat) _).length_eq.ge
  have hkeys : (r.payloads o m).map (·.1)
      = (sortBy (fun x : RegRec => x.t) (r.act.map (r.record o m))).map fun x => x.t % 64 := by
    rw [← hfst, Run.payloads, List.map_map, List.map_map]
    rfl
  rw [hkeys]
  refine ((sortBy_perm _ _).map _).trans ?_
  rw [List.map_map]
  refine List.Perm.of_eq ((List.map_congr_left fun l hl => ?_).trans (List.map_id _))
  have := hlt l hl
  show (64 * r.w + l) % 64 = l
  omega

theorem State.foldl_setVs (gid w base : Nat) (ps : List (RegRec × RegRec)) : ∀ t : State,
    (∀ p ∈ ps, p.1.t / 64 = w ∧ p.1.base = base) →
    ps.foldl (fun s p => s.modWarp gid (p.1.t / 64) (·.setVs (p.1.t % 64) p.1.base p.2.payload)) t
      = t.modWarp gid w (Warp.setAll base (ps.map fun p => (p.1.t % 64, p.2.payload))) := by
  induction ps with
  | nil => exact fun t _ => (State.modWarp_id t gid w _ rfl).symm
  | cons p ps ih =>
    intro t hps
    obtain ⟨⟨h1, h2⟩, hps⟩ := List.forall_mem_cons.1 hps
    rw [List.foldl_cons, ih _ hps, h1, h2, State.modWarp_modWarp]
    rfl

theorem Run.div_record {p : RegRec × RegRec} (hlt : ∀ l ∈ r.act, l < 64) (hp : p ∈ r.dealt o m) :
    p.1.t / 64 = r.w ∧ p.1.base = o.d.toNat := by
  obtain ⟨⟨l, _, ht, hl⟩, hb, -⟩ := Run.mem_dealt hlt hp
  exact ⟨by omega, hb⟩

theorem State.putInst_modWarp (t : State) (gid w : Nat) (x : Option RegInst) (f : Warp → Warp) :
    (t.putInst gid x).modWarp gid w f = (t.modWarp gid w f).putInst gid x := by
  simp only [State.modWarp, State.putInst, State.modGroup, mapMod_mapMod]
  rfl

theorem State.putInst_putInst (t : State) (gid : Nat) (x y : Option RegInst) :
    (t.putInst gid x).putInst gid y = t.putInst gid y := by
  simp only [State.putInst, State.modGroup, mapMod_mapMod]

theorem State.warp_putInst (t : State) (gid : Nat) (x : Option RegInst) (w : Nat) : (t.putInst gid x).warp gid w = t.warp gid w :=
  State.warp_modGroup t gid (f := fun g => { g with regroup := x }) (fun _ => rfl) gid w

theorem AllWait.putInst {p : Wait → Bool} (h : AllWait s r p) (x : Option RegInst) : AllWait (s.putInst r.gid x) r p := by
  refine ⟨?_, by rw [State.warp_putInst]; exact h.waits, by rw [State.warp_putInst]; exact h.noHelper⟩
  obtain ⟨g, hg, hlen, hw⟩ := h.one
  refine ⟨{ g with regroup := x }, ?_, hlen, hw⟩
  rw [State.putInst, State.group_modGroup, if_pos rfl, hg]
  rfl

/-- A change of the warp that leaves what its lanes are and wait for. -/
theorem AllWait.modWarp {p : Wait → Bool} (h : AllWait s r p) {f : Warp → Warp}
    (hf : ∀ l, ((f (s.warp r.gid r.w)).lane l).st = ((s.warp r.gid r.w).lane l).st
      ∧ ((f (s.warp r.gid r.w)).lane l).wait = ((s.warp r.gid r.w).lane l).wait) : AllWait (s.modWarp r.gid r.w f) r p := by
  obtain ⟨g, hg, hlen, hw⟩ := h.one
  have hwarp := State.warp_modWarp s r.gid r.w f hg (hlen ▸ hw)
  refine ⟨⟨g.modWarp r.w f, ?_, by simpa using hlen, hw⟩, fun l => ?_, fun l => ?_⟩
  · rw [State.modWarp, State.group_modGroup, if_pos rfl, hg]
    rfl
  · rw [hwarp, Lane.isReal, (hf l).1, (hf l).2]
    exact h.waits l
  · rw [hwarp, Lane.isHelper, (hf l).1]
    exact h.noHelper l

/-- Landings, and then the meeting of the lanes (R133, R268). -/
def State.regMet (s : State) (r : Run) : State := ((s.drainMask r.gid r.w (maskOf r.ls)).taught r).putInst r.gid none

/-- The warp of the run as its lanes have their payloads. -/
def Run.dealtWarp (r : Run) (o : Ops) (m : RegroupMod) (x : Warp) : Warp :=
  (x.modLanes (maskOf r.ls) fun _ y => { y with wait := .regroup }).setAll o.d.toNat (r.payloads o m)

/-- The payloads go to lanes that the warp has. -/
theorem Run.payloads_fit {x : Warp} (h : Stands s r) (hlen : x.lanes.length = (s.warp r.gid r.w).lanes.length) :
    ((r.payloads o m).map (·.1)).Nodup ∧ ∀ p ∈ r.payloads o m, p.1 < x.lanes.length ∧ p.2.length = m.c.toNat + 1 := by
  have hlt : ∀ l ∈ r.act, l < 64 := fun l hl => h.lt l (h.sub l hl)
  refine ⟨(Run.lanes_payloads hlt).nodup_iff.2 h.nodup, fun p hp => ⟨?_, ?_⟩⟩
  · rw [hlen]
    exact h.len _ (h.sub _ ((Run.lanes_payloads hlt).mem_iff.1 (List.mem_map_of_mem hp)))
  · obtain ⟨q, hq, rfl⟩ := List.mem_map.1 hp
    exact (Run.mem_dealt hlt hq).2.2

theorem Run.dealtWarp_receives (h : Stands s r) (o : Ops) (m : RegroupMod) :
    Warp.Receives o.d.toNat (m.c.toNat + 1) (r.payloads o m)
      ((s.warp r.gid r.w).modLanes (maskOf r.ls) fun _ y => { y with wait := .regroup }) (r.dealtWarp o m (s.warp r.gid r.w)) := by
  obtain ⟨hnd, hfit⟩ := Run.payloads_fit (o := o) (m := m)
    (x := (s.warp r.gid r.w).modLanes (maskOf r.ls) fun _ y => { y with wait := .regroup }) h (by simp)
  refine Warp.setAll_receives _ ?_ hnd hfit
  have hh := (h.hold r.ls .regroup).canon
  rwa [State.warp_hold h] at hh

theorem Run.dealtWarp_lane (h : Stands s r) (o : Ops) (m : RegroupMod) (l : Nat) :
    (r.dealtWarp o m (s.warp r.gid r.w)).lane l
      = { if l ∈ r.ls then { (s.warp r.gid r.w).lane l with wait := .regroup } else (s.warp r.gid r.w).lane l with
          v := ((r.dealtWarp o m (s.warp r.gid r.w)).lane l).v } := by
  have hl := (Run.dealtWarp_receives h o m).lanes l
  rwa [← State.warp_hold h, State.lane_hold h] at hl

/-- The records of a complete exchange are dealt out, and the lanes leave. -/
theorem State.regCheck_complete (h : Issues (.regroup o m) s r) (c : Calm s r) (hp : AtPc s r) (hnew : r.g.regroup = none)
    (hone : r.g.warps.length = 1) (hreal : ∀ l ∈ r.ls, ((r.g.warp r.w).lane l).st = .real)
    (hin : ∀ l, ((r.g.warp r.w).lane l).st = .real → l ∈ r.ls) (hno : ∀ l, ((r.g.warp r.w).lane l).st ≠ .helper) :
    (s.regArrived r (r.regInst o m)).regCheck r.gid
      = ((s.regMet r).modWarp r.gid r.w (r.dealtWarp o m)).moved r fun _ => nextSlot r.pc := by
  obtain ⟨-, hg, -⟩ := Run.of_runOf h.run
  obtain ⟨k, hk, hx, hreals⟩ := State.group_regArrived hg (r.regInst o m)
  have hlt : ∀ l ∈ r.act, l < 64 := fun l hl => h.stands.lt l (h.stands.sub l hl)
  have hcount : (r.regInst o m).arrived = k.reals := by
    rw [hreals, ← Run.length_ls h hone hreal hin]
    simp [Run.regInst, hnew]
  have hrecs : (r.regInst o m).recs = r.act.map (r.record o m) := by simp [Run.regInst, hnew]
  set v := s.drainMask r.gid r.w (maskOf r.ls) with hv
  have hl : s.Lands v := .drainMask ..
  have hsv := h.stands.lands hl
  have hT : s.regArrived r (r.regInst o m) = (v.hold r r.ls .regroup).putInst r.gid (some (r.regInst o m)) :=
    State.putInst_modWarp ..
  have hTw : AllWait (s.regArrived r (r.regInst o m)) r (· == .regroup) := by
    rw [hT]
    exact (AllWait.hold hl h.stands hg hone hreal hin hno _).putInst _
  -- the lanes receive their payloads, and wait on
  have hwarpT : (s.regArrived r (r.regInst o m)).warp r.gid r.w
      = (v.warp r.gid r.w).modLanes (maskOf r.ls) fun _ y => { y with wait := .regroup } := by
    rw [hT, State.warp_putInst, State.warp_hold hsv]
  have hU : AllWait ((s.regArrived r (r.regInst o m)).modWarp r.gid r.w (Warp.setAll o.d.toNat (r.payloads o m))) r
      (· == .regroup) := by
    refine hTw.modWarp fun l => ?_
    have hlane : (Warp.setAll o.d.toNat (r.payloads o m) ((v.warp r.gid r.w).modLanes (maskOf r.ls) fun _ y =>
        { y with wait := .regroup })).lane l = _ := (Run.dealtWarp_receives hsv o m).lanes l
    rw [hwarpT, hlane]
    exact ⟨rfl, rfl⟩
  have hB : (((s.regArrived r (r.regInst o m)).modWarp r.gid r.w (Warp.setAll o.d.toNat (r.payloads o m))).taught r).putInst
      r.gid none = (s.regMet r).modWarp r.gid r.w (r.dealtWarp o m) := by
    rw [hT, State.regMet, State.putInst_modWarp, State.putInst_modWarp]
    change (((((v.taught r).modWarp r.gid r.w _).modWarp r.gid r.w _).putInst r.gid _).putInst r.gid none) = _
    rw [State.putInst_putInst, State.modWarp_modWarp]
    rfl
  have hs1 : Stands (s.regMet r) r := (h.stands.lands (hl.trans (.teach ..))).putInst _
  have hw1 : (s.regMet r).warp r.gid r.w = v.warp r.gid r.w := State.warp_putInst ..
  have hrec := Run.dealtWarp_receives hs1 o m
  have hsB : Stands ((s.regMet r).modWarp r.gid r.w (r.dealtWarp o m)) r :=
    hs1.modWarp _ (hrec.length.trans (by simp)) hrec.canon
  have hwB : ((s.regMet r).modWarp r.gid r.w (r.dealtWarp o m)).warp r.gid r.w = r.dealtWarp o m ((s.regMet r).warp r.gid r.w) := by
    obtain ⟨g, hg, hw⟩ := hs1.group
    exact State.warp_modWarp _ _ _ _ hg hw
  have hlane : ∀ l ∈ r.ls, (((s.regMet r).modWarp r.gid r.w (r.dealtWarp o m)).warp r.gid r.w).lane l
      = { (v.warp r.gid r.w).lane l with wait := .regroup, v := ((r.dealtWarp o m ((s.regMet r).warp r.gid r.w)).lane l).v } :=
    fun l hl => by
      rw [hwB, Run.dealtWarp_lane hs1, if_pos hl, hw1]
  have hcB : Calm ((s.regMet r).modWarp r.gid r.w (r.dealtWarp o m)) r := ⟨fun l hl y hy => by
    rw [hlane l hl] at hy
    exact (c.lands ‹_›).windows l hl y hy, c.soft⟩
  have hpB : AtPc ((s.regMet r).modWarp r.gid r.w (r.dealtWarp o m)) r := fun l hl => by
    rw [hlane l hl]
    show ((v.warp r.gid r.w).lane l).pc = r.pc
    rw [((‹s.Lands v›.warp r.gid r.w).lanes l).rest]
    exact hp l hl
  have hBw : AllWait ((s.regMet r).modWarp r.gid r.w (r.dealtWarp o m)) r (· == .regroup) := by
    rw [← hB]
    exact AllWait.putInst (hU.of_groups (t := State.taught _ r) rfl) _
  have hfold := State.foldl_setVs r.gid r.w o.d.toNat (r.dealt o m) (s.regArrived r (r.regInst o m)) fun p hp =>
    Run.div_record hlt hp
  have hrelease : (s.regArrived r (r.regInst o m)).regCheck r.gid
      = (s.regArrived r (r.regInst o m)).regRelease r.gid (r.act.map (r.record o m)) := by
    simp only [State.regCheck, hk, hx, hcount, if_true, hrecs]
  rw [hrelease, ← hBw.letGo_moved hsB hcB hpB, ← hB, ← hU.meetUp]
  simp only [State.regRelease]
  change State.letGo (State.putInst (State.meetUp ((r.dealt o m).foldl _ _) _ _) r.gid none) _ _ = _
  rw [hfold]
  rfl

theorem Run.dealtWarp_other (h : Stands s r) (o : Ops) (m : RegroupMod) {l : Nat} (hl : l ∉ r.ls) :
    (r.dealtWarp o m (s.warp r.gid r.w)).lane l = (s.warp r.gid r.w).lane l := by
  have hlt : ∀ l ∈ r.act, l < 64 := fun l hl => h.lt l (h.sub l hl)
  refine ((Run.dealtWarp_receives h o m).others l fun p hp e => hl ?_).trans ?_
  · exact h.sub l ((Run.lanes_payloads hlt).mem_iff.1 (List.mem_map.2 ⟨p, hp, e⟩))
  · rw [← State.warp_hold h, State.lane_hold h, if_neg hl]

theorem Run.find_payloads (hlt : ∀ l ∈ r.act, l < 64) (l : Nat) : (r.payloads o m).find? (·.1 == l)
    = ((r.dealt o m).find? fun y => y.1.t == 64 * r.w + l).map fun p => (p.1.t % 64, p.2.payload) := by
  rw [Run.payloads, List.find?_map]
  refine congrArg _ (List.find?_congr fun p hp => ?_)
  obtain ⟨⟨k, -, ht, hk⟩, -⟩ := Run.mem_dealt hlt hp
  show ((p.1.t % 64 == l) = (p.1.t == 64 * r.w + l))
  rw [Bool.eq_iff_iff, beq_iff_eq, beq_iff_eq]
  omega

/-- Payloads are received by the issuing lanes (R440). -/
theorem Run.errors_payloads (hlt : ∀ l ∈ r.act, l < 64) (e : Nat × Nat) (base c : Nat) :
    (∃ p ∈ r.payloads o m, e.1 = p.1 ∧ base ≤ e.2 ∧ e.2 < base + c) ↔ e.1 ∈ r.act ∧ base ≤ e.2 ∧ e.2 < base + c := by
  rw [← (Run.lanes_payloads hlt).mem_iff (a := e.1), List.mem_map]
  constructor
  · rintro ⟨p, hp, he, h⟩
    exact ⟨⟨p, hp, he.symm⟩, h⟩
  · rintro ⟨⟨p, hp, he⟩, h⟩
    exact ⟨p, hp, he.symm, h⟩

/-- Settles O31: one lemma for the lanes that arrive, and one for the check that deals the records out; the warp then
is `dealtWarp`, which `Warp.setAll_receives` describes register by register. -/
theorem regroupedPayloads : Obligations.RegroupedPayloads := by
  unfold Obligations.RegroupedPayloads
  intro o m s r h c hp hreal harr hduet cnt v x old recs
  obtain ⟨-, hg, -, hd, -⟩ := Run.of_runOf h.run
  have hu : Unmet s r := ⟨⟨r.g, hg, hd ▸ hduet⟩, by rw [State.warp, hg]; exact harr⟩
  have hsnap : ∀ l ∈ r.ls, (r.snap.lane l).st = .real := fun l hl => (hreal l hl).1
  have hlt : ∀ l ∈ r.act, l < 64 := fun l hl => h.stands.lt l (h.stands.sub l hl)
  refine ⟨fun hc hn => exec_regroup_waits h hsnap hc hu hn, fun hnew hone hin hno => ?_⟩
  have hl : s.Lands ((s.drainMask r.gid r.w (maskOf r.ls)).taught r) := (State.Lands.drainMask ..).trans (.teach ..)
  have hs1 : Stands (s.regMet r) r := (h.stands.lands hl).putInst _
  have hw1 : (s.regMet r).warp r.gid r.w = x := State.warp_putInst ..
  have hrec := Run.dealtWarp_receives hs1 o m
  have hlane := Run.dealtWarp_lane hs1 o m
  have hother := fun l => Run.dealtWarp_other hs1 o m (l := l)
  set y := r.dealtWarp o m ((s.regMet r).warp r.gid r.w) with hy
  set T := (s.regMet r).modWarp r.gid r.w (r.dealtWarp o m) with hT
  have harrives : y.arrivals = ((s.regMet r).warp r.gid r.w).arrivals := (congrArg Warp.arrivals hrec.rest :)
  have hsB : Stands T r := hs1.modWarp _ (hrec.length.trans (by simp)) hrec.canon
  have huB : Unmet T r := ((hu.lands hl).putInst none).modWarp hs1 harrives
  have hexec : exec (.regroup o m) s = .next (T.moved r fun _ => nextSlot r.pc) := by
    rw [exec_regroup_arrives h hsnap (fun _ hx => by cases hnew.symm.trans hx),
      State.regCheck_complete h c hp hnew hone (fun l hl => (hreal l hl).2) hin hno, (huB.moved hsB _).checks]
  have hT' : (T.moved r fun _ => nextSlot r.pc)
      = (s.regMet r).modWarp r.gid r.w (Warp.moved v.stamp r.ls (fun _ => nextSlot r.pc) ∘ r.dealtWarp o m) :=
    State.modWarp_modWarp ..
  have hwarp : (T.moved r fun _ => nextSlot r.pc).warp r.gid r.w = y.moved v.stamp r.ls fun _ => nextSlot r.pc := by
    obtain ⟨g, hg, hw⟩ := hs1.group
    rw [hT', State.warp_modWarp _ _ _ _ hg hw]
    rfl
  have hmoved : ∀ l, ((y.moved v.stamp r.ls fun _ => nextSlot r.pc).lane l)
      = if l ∈ r.ls then (y.lane l).goOn v.stamp (nextSlot r.pc) else y.lane l := fun l =>
    Warp.moved_lane _ _ _ _ _ h.stands.lt fun k hk => by
      rw [hrec.length]
      simpa using hs1.len k hk
  rw [hw1] at hlane hother hrec
  refine ⟨_, hexec, ?_, ?_, fun l => ?_, fun e => ?_, fun l => ⟨?_, ?_, fun n => ?_⟩⟩ <;> rw [hwarp]
  · rw [hT', ← State.modWarp_const]
    rfl
  · exact congrArg (fun z : Warp => { z with lanes := (y.moved v.stamp r.ls fun _ => nextSlot r.pc).lanes }) hrec.rest
  · rw [hmoved]
    split <;> rename_i hl
    · rw [hlane l, if_pos hl]
      rfl
    · exact hother l hl
  · exact (hrec.errors e).trans (and_congr_right' (not_congr (Run.errors_payloads hlt e _ _)))
  · rw [hmoved, hlane l]
    split <;> rfl
  · rw [hmoved, hlane l]
    split <;> rfl
  · have hreg : ((y.moved v.stamp r.ls fun _ => nextSlot r.pc).lane l).getV n = (y.lane l).getV n := by
      rw [hmoved]
      split <;> rfl
    have hwait : ((x.modLanes (maskOf r.ls) fun _ z => { z with wait := .regroup }).lane l).getV n = (x.lane l).getV n := by
      rw [Warp.lane_modLanes]
      split <;> rfl
    rw [hreg, hrec.vregs, hwait, Run.find_payloads hlt]
    change _ = match (r.dealt o m).find? (fun y => y.1.t == 64 * r.w + l) with | some y => _ | none => _
    cases (r.dealt o m).find? (fun y => y.1.t == 64 * r.w + l) <;> rfl

end

end Sys2Proof.Machine
end

section
/-! PROOFS. Obligation O44: futures and timelines (R133, R236 to R243). -/

namespace Sys2Proof.Machine

/-! ## Transfers that do not go -/

section
variable {s : State} {r : Run}

/-- The group of the run is there and is no half of a duet. -/
def Single (s : State) (r : Run) : Prop := ∃ g, s.group r.gid = some g ∧ (s.desc g).isDuet = false

theorem Single.of_run {o : Ops} (h : s.runOf o = some r) (hd : r.d.isDuet = false) : Single s r := by
  obtain ⟨-, hg, -, he, -⟩ := Run.of_runOf h
  exact ⟨r.g, hg, he ▸ hd⟩

theorem Single.modWarp (h : Single s r) (f : Warp → Warp) : Single (s.modWarp r.gid r.w f) r := by
  obtain ⟨g, hg, hd⟩ := h
  refine ⟨g.modWarp r.w f, ?_, hd⟩
  rw [State.modWarp, State.group_modGroup, if_pos rfl, hg]
  rfl

theorem Single.partCheck (h : Single s r) : s.partCheck r.gid r.w = s := by
  obtain ⟨g, hg, hd⟩ := h
  exact State.partCheck_notDuet hg hd _

theorem Warp.modLanes_cons (x : Warp) (w : Nat → Wait) (l : Nat) (ls : List Nat) :
    (x.modLanes (maskOf [l]) fun _ y => { y with wait := w l }).modLanes (maskOf ls) (fun k y => { y with wait := w k })
      = x.modLanes (maskOf (l :: ls)) fun k y => { y with wait := w k } := by
  refine Warp.ext_lanes rfl (by simp) fun k => ?_
  simp only [Warp.lane_modLanes, getLsbD_maskOf, Warp.modLanes_length, List.contains_cons, List.contains_nil, Bool.or_false]
  by_cases hk : k = l
  · subst hk
    by_cases hlt : k < 64 <;> by_cases hlen : k < x.lanes.length <;> by_cases hm : ls.contains k = true <;> simp_all
  · simp [hk]

/-- Lanes of a single warp that wait, one after the other (R358). -/
theorem State.foldl_block (w : Nat → Wait) (ls : List Nat) : ∀ {s : State}, Single s r →
    ls.foldl (fun s l => s.block r [l] (w l)) s
      = s.modWarp r.gid r.w fun x => x.modLanes (maskOf ls) fun l y => { y with wait := w l } := by
  induction ls with
  | nil => exact fun h => (State.modWarp_id _ _ _ _ (Warp.modLanes_id _ _ _ (by simp))).symm
  | cons l ls ih =>
    intro s h
    have hb : s.block r [l] (w l) = s.hold r [l] (w l) := (h.modWarp _).partCheck
    rw [List.foldl_cons, hb, State.hold, ih (h.modWarp _), State.modWarp_modWarp]
    exact State.modWarp_congr _ _ _ _ _ (Warp.modLanes_cons _ w l ls)

/-- A run whose lanes all wait for the first time. -/
theorem State.transfer_wait (h : Single s r) (ha : r.act = r.ls) (hf : Fresh r) {w : Nat → Wait}
    (hw : ∀ l ∈ r.act, (w l).ofCall none = w l) :
    s.transfer r false (r.act.map fun l => (l, .wait (w l))) = s.waiting r w := by
  have hcall : ∀ l ∈ r.act, s.callOf r false l = none := fun l hl => by rw [State.callOf, hf l hl]; rfl
  have hfold : r.act.foldl (fun t l => t.block r [l] ((w l).ofCall (s.callOf r false l))) s
      = r.act.foldl (fun t l => t.block r [l] (w l)) s :=
    List.foldl_ext _ _ _ fun t l hl => by rw [hcall l hl, hw l hl]
  rw [State.foldl_block w r.act h, ha] at hfold
  simp [State.transfer, List.filterMap_map, Function.comp_def, Run.others_nil ha, List.foldl_map, hfold, State.waiting, ha]

/-- A run whose lanes all fault. -/
theorem State.transfer_flt (h : s.NoPre) (ha : r.act = r.ls) (f : Nat → Flt) :
    s.transfer r false (r.act.map fun l => (l, .flt (f l))) = s.faults r f := by
  simp [State.transfer, List.filterMap_map, Function.comp_def, Run.others_nil ha, h.raiseRun, State.faults, ha, List.foldl_map]

/-! ## FWAIT (R239, R241, R243) -/

theorem Run.handle_eq {l : Nat} (hl : (r.snap.lane l).wait = .none) : r.handle l = r.rd64 .zero l r.o.a := by
  rw [Run.handle, hl]

theorem Warp.untag_untag (w : Warp) (n : Nat) : (w.untag n).untag n = w.untag n := by
  simp [Warp.untag, BitVec.and_assoc]

/-- The warp where the waits of some lanes end: the tag of their shared register is gone (R239). -/
def State.untagFor (s : State) (r : Run) (ls : List Nat) : State :=
  if isS r.o.a = true ∧ ls ≠ [] then s.modWarp r.gid r.w fun w => w.untag (sNum r.o.a) else s

theorem Run.untagRead_eq {x : Warp} (l : Nat) (hx : isS r.o.a = true → x.getS (sNum r.o.a) = r.snap.getS (sNum r.o.a)) :
    r.untagRead (r.rd64 .zero l r.o.a) x = if isS r.o.a = true then x.untag (sNum r.o.a) else x := by
  by_cases h : isS r.o.a = true
  · have hv : isV r.o.a = false := by
      simp only [isS, isV, Bool.and_eq_true, decide_eq_true_eq, decide_eq_false_iff_not] at h ⊢
      omega
    simp [Run.untagRead, Run.rd64, h, hv, hx h]
  · simp [Run.untagRead, h]

/-- One lane after the other clears the tag. -/
theorem State.untagFor_cons (hg : isS r.o.a = true → (s.warp r.gid r.w).getS (sNum r.o.a) = r.snap.getS (sNum r.o.a))
    (l : Nat) (ls : List Nat) :
    (s.modWarp r.gid r.w (r.untagRead (r.rd64 .zero l r.o.a))).untagFor r ls = s.untagFor r (l :: ls) := by
  have h1 : s.modWarp r.gid r.w (r.untagRead (r.rd64 .zero l r.o.a)) = s.untagFor r [l] := by
    rw [State.untagFor]
    split <;> rename_i h
    · exact State.modWarp_congr _ _ _ _ _ (by rw [Run.untagRead_eq l hg, if_pos h.1])
    · exact State.modWarp_id _ _ _ _ (by rw [Run.untagRead_eq l hg, if_neg (by simpa using h)])
  rw [h1]
  by_cases ha : isS r.o.a = true <;> by_cases hl : ls = [] <;> simp [State.untagFor, ha, hl, State.modWarp_modWarp, Function.comp_def, Warp.untag_untag]

/-- What one lane does beside the warps, and the tag that it clears. -/
theorem State.foldl_untag {obs : State → Nat → State} (hobs : ∀ t l f, obs (t.modWarp r.gid r.w f) l = (obs t l).modWarp r.gid r.w f)
    (hgs : ∀ t l, (obs t l).groups = t.groups) (ls : List Nat) : ∀ {s : State}, Stands s r →
    (isS r.o.a = true → (s.warp r.gid r.w).getS (sNum r.o.a) = r.snap.getS (sNum r.o.a)) →
    ls.foldl (fun t l => obs (t.modWarp r.gid r.w (r.untagRead (r.rd64 .zero l r.o.a))) l) s = ls.foldl obs (s.untagFor r ls) := by
  induction ls with
  | nil => exact fun _ _ => by simp [State.untagFor]
  | cons l ls ih =>
    intro s h hg
    have hread : ∀ x : Warp, (r.untagRead (r.rd64 .zero l r.o.a) x).lanes = x.lanes
        ∧ (r.untagRead (r.rd64 .zero l r.o.a) x).s = x.s := fun x => by
      rw [Run.untagRead]
      split <;> exact ⟨rfl, rfl⟩
    have hcomm : ∀ t : State, (obs t l).untagFor r ls = obs (t.untagFor r ls) l := fun t => by
      simp only [State.untagFor]
      split
      · exact (hobs t l _).symm
      · rfl
    set t := s.modWarp r.gid r.w (r.untagRead (r.rd64 .zero l r.o.a)) with ht
    obtain ⟨g, hgr, hw⟩ := h.group
    have hwarp : t.warp r.gid r.w = _ := State.warp_modWarp s _ _ _ hgr hw
    have hst : Stands t r := h.modWarp _ (by rw [(hread _).1]) (by
      rw [Run.untagRead]
      split <;> exact h.canon)
    have hst' : Stands (obs t l) r := hst.of_groups (hgs t l)
    have hg' : isS r.o.a = true → ((obs t l).warp r.gid r.w).getS (sNum r.o.a) = r.snap.getS (sNum r.o.a) := fun ha => by
      rw [State.warp, State.group, hgs, ← State.group, ← State.warp, hwarp, Warp.getS, (hread _).2]
      exact hg ha
    rw [List.foldl_cons, ih hst' hg', hcomm, ht, State.untagFor_cons hg, List.foldl_cons]

theorem exec_fwait {o : Ops} (h : Begins (.fwait o) s r) (hf : Fresh r) : exec (.fwait o) s = .next
    (State.transfer (r.act.foldl (fun t l => if (s.fwait r (r.rd64 .zero l r.o.a)).ends then
        if (s.ectx r.g (handleCtx (r.rd64 .zero l r.o.a))).isSome then
          (t.modWarp r.gid r.w (r.untagRead (r.rd64 .zero l r.o.a))).observe r.g (handleCtx (r.rd64 .zero l r.o.a))
            (handleSeq (r.rd64 .zero l r.o.a)) r.gid r.w [l]
        else t.modWarp r.gid r.w (r.untagRead (r.rd64 .zero l r.o.a)) else t) s) r false
      (r.act.map fun l => (l, s.fwait r (r.rd64 .zero l r.o.a)))) := by
  have hmap : (r.act.map fun l => (l, s.fwait r (r.handle l))) = r.act.map fun l => (l, s.fwait r (r.rd64 .zero l r.o.a)) :=
    List.map_congr_left fun l hl => by rw [Run.handle_eq (hf l hl)]
  change execFwait o s = _
  rw [execFwait, h.issued_never]
  simp only [hmap, List.foldl_map]
  refine congrArg (fun t : State => (.next (t.transfer r false _) : Out)) (List.foldl_ext _ _ _ fun t l hl => ?_)
  rw [Run.handle_eq (hf l hl)]

/-- The status word that FWAIT looks at (R241). -/
theorem State.fwait_some {e : ECtx} {h : W64} (he : s.ectx r.g (handleCtx h) = some e) : s.fwait r h
    = if handleSeq h = 0 ∨ (e.counter + 2 ^ 56 - handleSeq h % 2 ^ 56) % 2 ^ 56 < 2 ^ 55 then
        if e.failed (handleSeq h) then .flt { code := .futureFailed, s45 := (e.status (handleSeq h)).zeroExtend 64 }
        else .go (nextSlot r.pc)
      else .wait (.future h) := by
  have hdone : e.isDone (handleSeq h) = decide (handleSeq h = 0 ∨ (e.counter + 2 ^ 56 - handleSeq h % 2 ^ 56) % 2 ^ 56 < 2 ^ 55) := by
    simp [ECtx.isDone, reached, Bool.beq_eq_decide_eq]
  simp only [State.fwait, he, hdone]
  split <;> simp_all

/-- The handle of a lane. -/
abbrev Run.fut (r : Run) (l : Nat) : W64 := r.rd64 .zero l r.o.a

/-- The lanes see what their handles name (R133). -/
def State.seenBy (s : State) (r : Run) (ls : List Nat) : State :=
  ls.foldl (fun t l => t.observe r.g (handleCtx (r.fut l)) (handleSeq (r.fut l)) r.gid r.w [l]) s

theorem State.untagFor_noPre (h : s.NoPre) (ls : List Nat) : (s.untagFor r ls).NoPre := by
  rw [State.untagFor]
  split <;> exact h

theorem State.seenBy_frame (s : State) (r : Run) (ls : List Nat) : s.Lands (s.seenBy r ls) ∧ (s.seenBy r ls).issue = s.issue
    ∧ (s.seenBy r ls).groups = s.groups := by
  refine ⟨State.Lands.foldl (fun t l => .teach ..) ls s, ?_⟩
  rw [State.seenBy]
  induction ls generalizing s with
  | nil => exact ⟨rfl, rfl⟩
  | cons l ls ih => exact ih _

theorem exec_fwait_none {o : Ops} (h : Begins (.fwait o) s r) (hf : Fresh r)
    (hs : isS o.a = true → (s.warp r.gid r.w).getS (sNum o.a) = r.snap.getS (sNum o.a)) (ha : r.act = r.ls)
    (he : ∀ l ∈ r.act, s.ectx r.g (handleCtx (r.fut l)) = none) :
    exec (.fwait o) s = .next ((s.untagFor r r.act).faults r fun l => { code := .object, s45 := r.fut l }) := by
  obtain rfl : r.o = o := (Run.of_runOf h.run).2.2.1
  have hflt : ∀ l ∈ r.act, s.fwait r (r.fut l) = .flt { code := .object, s45 := r.fut l } := fun l hl => by
    rw [State.fwait, he l hl]
  have hops : (r.act.map fun l => (l, s.fwait r (r.fut l))) = r.act.map fun l => (l, .flt { code := .object, s45 := r.fut l }) :=
    List.map_congr_left fun l hl => by rw [hflt l hl]
  rw [exec_fwait h hf, hops, List.foldl_ext _ (fun t l => t.modWarp r.gid r.w (r.untagRead (r.fut l))) _ fun t l hl => by
      simp [hflt l hl, Hop.ends, he l hl],
    State.foldl_untag (obs := fun t _ => t) (fun _ _ _ => rfl) (fun _ _ => rfl) r.act h.stands hs,
    List.foldl_fixed, State.transfer_flt (State.untagFor_noPre h.noPre _) ha]

/-- What has ended is seen, whatever it then does. -/
theorem exec_fwait_done {o : Ops} (h : Begins (.fwait o) s r) (hf : Fresh r)
    (hs : isS o.a = true → (s.warp r.gid r.w).getS (sNum o.a) = r.snap.getS (sNum o.a)) {hop : Nat → Hop}
    (he : ∀ l ∈ r.act, (s.ectx r.g (handleCtx (r.fut l))).isSome = true)
    (hhop : ∀ l ∈ r.act, s.fwait r (r.fut l) = hop l ∧ (hop l).ends = true) :
    exec (.fwait o) s = .next (((s.untagFor r r.act).seenBy r r.act).transfer r false (r.act.map fun l => (l, hop l))) := by
  obtain rfl : r.o = o := (Run.of_runOf h.run).2.2.1
  have hops : (r.act.map fun l => (l, s.fwait r (r.fut l))) = r.act.map fun l => (l, hop l) :=
    List.map_congr_left fun l hl => by rw [(hhop l hl).1]
  rw [exec_fwait h hf, hops, List.foldl_ext _ (fun t l => (t.modWarp r.gid r.w (r.untagRead (r.fut l))).observe r.g
      (handleCtx (r.fut l)) (handleSeq (r.fut l)) r.gid r.w [l]) _ fun t l hl => by
      rw [(hhop l hl).1, if_pos (hhop l hl).2, if_pos (he l hl)],
    State.foldl_untag (obs := fun t l => t.observe r.g (handleCtx (r.fut l)) (handleSeq (r.fut l)) r.gid r.w [l])
      (fun _ _ _ => rfl) (fun _ _ => rfl) r.act h.stands hs]
  rfl

theorem exec_fwait_waits {o : Ops} (h : Begins (.fwait o) s r) (hf : Fresh r) (ha : r.act = r.ls) (hd : r.d.isDuet = false)
    (hhop : ∀ l ∈ r.act, s.fwait r (r.fut l) = .wait (.future (r.fut l))) :
    exec (.fwait o) s = .next (s.waiting r fun l => .future (r.fut l)) := by
  have hops : (r.act.map fun l => (l, s.fwait r (r.fut l))) = r.act.map fun l => (l, .wait (.future (r.fut l))) :=
    List.map_congr_left fun l hl => by rw [hhop l hl]
  rw [exec_fwait h hf, hops, List.foldl_ext _ (fun t _ => t) _ fun t l hl => by rw [hhop l hl]; rfl, List.foldl_fixed,
    State.transfer_wait (.of_run h.run hd) ha hf fun _ _ => rfl]

end

end Sys2Proof.Machine
end

section
/-! PROOFS. Obligation O44: tests, timelines and cancelled operations (R238, R242, R243). -/

namespace Sys2Proof.Machine

section
variable {s : State} {r : Run}

/-! ## FTEST (R238, R243) -/

theorem ECtx.opDone_eq (e : ECtx) (n : Nat) : e.opDone n
    = decide (n = 0 ∨ (e.counter + 2 ^ 56 - n % 2 ^ 56) % 2 ^ 56 < 2 ^ 55 ∨ n ∈ e.done) := by
  simp [ECtx.opDone, ECtx.isDone, reached, Bool.beq_eq_decide_eq, Bool.or_assoc]

theorem ECtx.status_eq (e : ECtx) (n : Nat) : e.status n
    = if n = 0 ∨ (e.counter + 2 ^ 56 - n % 2 ^ 56) % 2 ^ 56 < 2 ^ 55 ∨ n ∈ e.done then
        ((((e.statuses.find? fun p => p.1 == n).map (·.2)).getD 0) ||| 0x80000000#32) else 0 := by
  simp only [ECtx.status, ECtx.opDone_eq, decide_eq_true_eq]

/-- What a lane learns of an operation that has completed (R133, R243). -/
theorem State.observeOne_eq {e : ECtx} {h : W64} (l : Nat) (he : s.ectx r.g (handleCtx h) = some e) : s.observeOne r h l
    = if handleSeq h = 0 ∨ (e.counter + 2 ^ 56 - handleSeq h % 2 ^ 56) % 2 ^ 56 < 2 ^ 55 then
        s.observe r.g (handleCtx h) (handleSeq h) r.gid r.w [l]
      else s.acquireDone r.g.die (engineNo r.g (handleCtx h)) e.alloc.toNat (· == handleSeq h) [.lane r.gid r.w l] := by
  have hdone : e.isDone (handleSeq h) = decide (handleSeq h = 0 ∨ (e.counter + 2 ^ 56 - handleSeq h % 2 ^ 56) % 2 ^ 56 < 2 ^ 55) := by
    simp [ECtx.isDone, reached, Bool.beq_eq_decide_eq]
  simp only [State.observeOne, he, hdone, decide_eq_true_eq]

theorem State.observeOne_dies (s : State) (r : Run) (h : W64) (l : Nat) : (s.observeOne r h l).dies = s.dies := by
  rw [State.observeOne]
  split
  · rfl
  · split <;> rfl

theorem State.Lands.observeOne (s : State) (r : Run) (h : W64) (l : Nat) : s.Lands (s.observeOne r h l) := by
  rw [State.observeOne]
  split
  · exact .refl _
  · split <;> exact .teach ..

theorem State.ectx_congr {t : State} (h : t.dies = s.dies) (g : Group) (c : Nat) : t.ectx g c = s.ectx g c := by
  simp only [State.ectx, State.die, h]

/-- A fold whose steps agree where a projection of the state is as it was at the start. -/
theorem State.foldl_observeOne (hls : List Nat) {f : State → Nat → State} (hf : ∀ t : State, t.dies = s.dies → ∀ l ∈ hls,
    f t l = t.observeOne r (r.fut l) l) : ∀ {t : State}, t.dies = s.dies →
    hls.foldl f t = hls.foldl (fun t l => t.observeOne r (r.fut l) l) t := by
  induction hls with
  | nil => exact fun _ => rfl
  | cons l ls ih =>
    intro t ht
    rw [List.foldl_cons, List.foldl_cons, hf t ht l List.mem_cons_self]
    exact ih (fun t ht k hk => hf t ht k (List.mem_cons_of_mem _ hk)) ((State.observeOne_dies ..).trans ht)

theorem exec_ftest {o : Ops} {m : FlagMod} (h : Begins (.ftest o m) s r) (c : Calm s r) (e : Nat → ECtx)
    (he : ∀ l ∈ r.act, s.ectx r.g (handleCtx (r.fut l)) = some (e l)) :
    let t := (r.act.filter fun l => (e l).opDone (handleSeq (r.fut l))).foldl (fun t l => t.observeOne r (r.fut l) l) s
    ∃ u, exec (.ftest o m) s = .next u ∧ Completes t u r false (r.dst (if m.b then .pred else .dstV)) fun l =>
      if m.b then .bool (((e l).status (handleSeq (r.fut l))).getLsbD 31)
      else .ofVal (((e l).status (handleSeq (r.fut l))).zeroExtend 64) := by
  obtain rfl : r.o = o := (Run.of_runOf h.run).2.2.1
  intro t
  have ht : s.Lands t := State.Lands.foldl (fun t l => .observeOne ..) _ s
  have hfilter : (r.act.filter fun l => (s.ectx r.g (handleCtx (r.fut l))).any fun e => e.opDone (handleSeq (r.fut l)))
      = r.act.filter fun l => (e l).opDone (handleSeq (r.fut l)) :=
    List.filter_congr fun l hl => by rw [he l hl, Option.any_some]
  have hexec : exec (.ftest r.o m) s = .next (t.finish r false false false (r.dst (if m.b then .pred else .dstV))
      (r.act.map fun l => (l, if m.b then .bool (((e l).status (handleSeq (r.fut l))).getLsbD 31)
        else .ofVal (((e l).status (handleSeq (r.fut l))).zeroExtend 64)))) := by
    change execFtest r.o m s = _
    rw [execFtest, h.issued_never]
    simp only
    rw [hfilter]
    refine congrArg (fun x => (.next (t.finish r false false false _ x) : Out)) (List.map_congr_left fun l hl => ?_)
    rw [he l hl]
  refine ⟨_, hexec, State.finish_short (h.stands.lands ht) (c.lands ht) false false _ _ fun l hl => ?_⟩
  split <;> rfl

/-! ## Timelines (R242, R243) -/

theorem State.Lands.observeTimeline (s : State) (c : Nat) (name : W64) (a : Agent) : s.Lands (s.observeTimeline c name a) := by
  simp only [State.observeTimeline]
  split
  · split <;> exact .teach ..
  · exact .teach ..
  · exact .refl _

theorem exec_tlrdCnt {o : Ops} (h : Issues (.tlrdCnt o) s r) (c : Calm s r) {n : Nat → Nat}
    (hn : ∀ l ∈ r.act, s.timeline r.g.ctx (r.fut l) = .counter (n l)) :
    ∃ t, exec (.tlrdCnt o) s = .next t
      ∧ Completes (r.act.foldl (fun t l => t.observeTimeline r.g.ctx (r.fut l) (.lane r.gid r.w l)) s) t r false (r.dst .dst64)
        fun l => .ofVal (BitVec.ofNat 64 (n l)) := by
  obtain rfl : r.o = o := (Run.of_runOf h.run).2.2.1
  have ht := State.Lands.foldl (fun t l => .observeTimeline t r.g.ctx (r.fut l) (.lane r.gid r.w l)) r.act s
  refine ⟨_, ?_, State.finish_short (h.stands.lands ht) (c.lands ht) false false _ _ fun l hl => rfl⟩
  change execTlrdCnt r.o s = _
  rw [execTlrdCnt, issued_next h]
  rw [List.foldl_ext _ (fun t l => t.observeTimeline r.g.ctx (r.fut l) (.lane r.gid r.w l)) _ fun t l hl => by rw [hn l hl]]
  refine congrArg (fun x => (.next (State.finish _ r false false false _ x) : Out)) (List.map_congr_left fun l hl => ?_)
  dsimp only
  rw [hn l hl]

theorem exec_tlrdName {o : Ops} (h : Issues (.tlrdName o) s r) (c : Calm s r) {e : Nat → ECtx}
    (he : ∀ l ∈ r.act, s.ectx r.g (handleCtx (r.fut l)) = some (e l)) :
    ∃ t, exec (.tlrdName o) s = .next t ∧ Completes s t r false (r.dst .dst64) fun l =>
      .ofVal (if handleCtx (r.fut l) < 0x40 then
          timelineName 0 r.g.ldie (r.g.copyCtxs.getD (handleCtx (r.fut l)) 0) (e l).alloc
        else timelineName 1 r.g.ldie (handleCtx (r.fut l) - 0x40) 0) := by
  obtain rfl : r.o = o := (Run.of_runOf h.run).2.2.1
  refine ⟨_, ?_, State.finish_short h.stands c false false _ _ fun l hl => rfl⟩
  change execTlrdName r.o s = _
  rw [execTlrdName, issued_next h]
  refine congrArg (fun x => (.next (State.finish _ r false false false _ x) : Out)) (List.map_congr_left fun l hl => ?_)
  dsimp only
  rw [he l hl]
  dsimp only
  split <;> rfl

/-- What TLWAIT does for a lane (R243). -/
def Timeline.hop (pc name v : W64) : Timeline → Hop
  | .counter n => if reached n v.toNat then .go pc else .wait (.timeline name v)
  | .released => .go pc
  | .fault f => .flt f

theorem exec_tlwait {o : Ops} (h : Issues (.tlwait o) s r) (hf : Fresh r) : exec (.tlwait o) s = .next
    (State.transfer (r.act.foldl (fun t l =>
        if ((s.timeline r.g.ctx (r.fut l)).hop (nextSlot r.pc) (r.fut l) (r.rd64 .zero l r.o.b)).goes then
          t.observeTimeline r.g.ctx (r.fut l) (.lane r.gid r.w l) else t) s) r false
      (r.act.map fun l => (l, (s.timeline r.g.ctx (r.fut l)).hop (nextSlot r.pc) (r.fut l) (r.rd64 .zero l r.o.b)))) := by
  have hops : ∀ l ∈ r.act, r.tlOperands l = (r.fut l, r.rd64 .zero l r.o.b) := fun l hl => by rw [Run.tlOperands, hf l hl]
  have key : ∀ hs : List (Nat × Hop), hs = (r.act.map fun l =>
      (l, (s.timeline r.g.ctx (r.fut l)).hop (nextSlot r.pc) (r.fut l) (r.rd64 .zero l r.o.b))) →
      hs.foldl (fun t p => if p.2.goes then t.observeTimeline r.g.ctx (r.tlOperands p.1).1 (.lane r.gid r.w p.1) else t) s
        = r.act.foldl (fun t l =>
          if ((s.timeline r.g.ctx (r.fut l)).hop (nextSlot r.pc) (r.fut l) (r.rd64 .zero l r.o.b)).goes then
            t.observeTimeline r.g.ctx (r.fut l) (.lane r.gid r.w l) else t) s := by
    rintro _ rfl
    rw [List.foldl_map]
    exact List.foldl_ext _ _ _ fun t l hl => by rw [hops l hl]
  change execTlwait o s = _
  rw [execTlwait, issued_next h]
  dsimp only
  rw [key _ (List.map_congr_left fun l hl => ?_), List.map_congr_left fun l hl => ?_]
  all_goals
    rw [hops l hl]
    cases s.timeline r.g.ctx (r.fut l) <;> rfl

theorem exec_tlwait_goes {o : Ops} (h : Issues (.tlwait o) s r) (c : Calm s r) (hf : Fresh r)
    (hg : ∀ l ∈ r.act, (s.timeline r.g.ctx (r.fut l)).hop (nextSlot r.pc) (r.fut l) (r.rd64 .zero l r.o.b) = .go (nextSlot r.pc)) :
    exec (.tlwait o) s = .next ((r.act.foldl (fun t l => t.observeTimeline r.g.ctx (r.fut l) (.lane r.gid r.w l)) s).moved r
      fun _ => nextSlot r.pc) := by
  have ht := State.Lands.foldl (fun t l => .observeTimeline t r.g.ctx (r.fut l) (.lane r.gid r.w l)) r.act s
  rw [exec_tlwait h hf, List.map_congr_left (g := fun l => (l, .go (nextSlot r.pc))) fun l hl => by rw [hg l hl],
    List.foldl_ext _ (fun t l => t.observeTimeline r.g.ctx (r.fut l) (.lane r.gid r.w l)) _ fun t l hl => by rw [hg l hl]; rfl,
    State.transfer_go (h.stands.lands ht) (c.lands ht) hf]
  simp

theorem exec_tlwait_stays {o : Ops} (h : Issues (.tlwait o) s r) (hf : Fresh r) {hop : Nat → Hop}
    (hg : ∀ l ∈ r.act, (s.timeline r.g.ctx (r.fut l)).hop (nextSlot r.pc) (r.fut l) (r.rd64 .zero l r.o.b) = hop l
      ∧ (hop l).goes = false) :
    exec (.tlwait o) s = .next (s.transfer r false (r.act.map fun l => (l, hop l))) := by
  rw [exec_tlwait h hf, List.map_congr_left (g := fun l => (l, hop l)) fun l hl => by rw [(hg l hl).1],
    List.foldl_ext _ (fun t _ => t) _ fun t l hl => by rw [(hg l hl).1, (hg l hl).2]; rfl, List.foldl_fixed]

/-! ## FCANCEL (R243) -/

theorem mapGet_mapErase_ne {β : Type} {i j : Nat} (h : i ≠ j) {v : β} : ∀ {m : KMap β}, mapGet m i = some v →
    mapGet (mapErase m j) i = some v
  | [], hm => hm
  | (k, x) :: m, hm => by
    rw [mapErase]
    split
    · next hk =>
      rw [mapGet, if_neg (hk ▸ h)] at hm
      split at hm
      · cases hm
      · exact hm
    · split
      · exact hm
      · rw [mapGet] at hm ⊢
        split
        · rwa [if_pos ‹_›] at hm
        · rw [if_neg ‹_›] at hm
          split
          · rwa [if_pos ‹_›] at hm
          · rw [if_neg ‹_›] at hm
            exact mapGet_mapErase_ne h hm

/-- A group that does not drain stays while another goes (R220). -/
theorem State.group_drained {gid : Nat} {g : Group} (hg : s.group gid = some g) (hr : g.res ≠ .draining) (j : Nat) :
    (s.drained j).group gid = some g := by
  by_cases hj : j = gid
  · rw [hj, State.drained_self hg hr, hg]
  have hfree : (s.freeCtxs j).group gid = some g := by
    rw [State.freeCtxs]
    split
    · exact hg
    · split
      · exact hg
      · rw [State.group_modGroup, if_neg (Ne.symm hj)]
        exact hg
  rw [State.drained]
  split
  · exact hg
  · split
    · exact hg
    · dsimp only
      split
      · exact hfree
      · exact mapGet_mapErase_ne (Ne.symm hj) hfree

theorem State.group_completeOp {gid : Nat} {g : Group} (hg : s.group gid = some g) (hr : g.res ≠ .draining) (x : Op) (st : W32) :
    (s.completeOp x st).group gid = some g := by
  rw [State.completeOp]
  split
  · exact hg
  · refine State.group_drained ?_ hr _
    rw [← hg]
    exact congrArg (mapGet · gid) (State.modEctx_groups ..)

theorem State.group_addStat (s : State) (x : Op) (gid : Nat) : (s.addStat x).group gid = s.group gid := by
  rw [State.addStat]
  split <;> rfl

theorem Stands.of_group {t : State} (h : Stands s r) (e : t.group r.gid = s.group r.gid) : Stands t r := by
  have hw : t.warp r.gid r.w = s.warp r.gid r.w := by rw [State.warp, State.warp, e]
  exact ⟨by rw [e]; exact h.group, by rw [hw]; exact h.len, h.lt, h.sub, h.nodup, by rw [hw]; exact h.canon⟩

theorem Calm.of_group {t : State} (c : Calm s r) (e : t.group r.gid = s.group r.gid) : Calm t r :=
  c.of_warp (by rw [State.warp, State.warp, e])

/-- Is there a context for the handle? It depends on the group alone. -/
theorem State.ectx_isSome (s t : State) (g : Group) (c : Nat) : (t.ectx g c).isSome = (s.ectx g c).isSome := by
  simp only [State.ectx]
  split
  · simp
  · split <;> rfl

/-- The operation that a lane can cancel: it carries the handle and has not started. -/
def State.toCancel (s : State) (r : Run) (l : Nat) : Option Op :=
  s.ops.find? fun x => x.is r.gid r.g (handleCtx (r.fut l)) (handleSeq (r.fut l)) && !x.started

/-- A lane cancels its operation, and whether it did (R243). -/
def Run.cancel (r : Run) (acc : State × (Nat → Bool)) (l : Nat) : State × (Nat → Bool) :=
  match acc.1.toCancel r l with
  | some x => if (r.snap.lane l).st = .real then ((acc.1.addStat x).completeOp x 7, fun k => if k = l then true else acc.2 k) else acc
  | none => acc

theorem Run.cancel_frame (hr : r.g.res = .resident) {acc : State × (Nat → Bool)} (hg : acc.1.group r.gid = some r.g) (l : Nat) :
    (r.cancel acc l).1.group r.gid = some r.g ∧ ∀ k, k ≠ l → (r.cancel acc l).2 k = acc.2 k := by
  rw [Run.cancel]
  split
  · split
    · refine ⟨State.group_completeOp ((State.group_addStat ..).trans hg) (by simp [hr]) _ _, fun k hk => if_neg hk⟩
    · exact ⟨hg, fun _ _ => rfl⟩
  · exact ⟨hg, fun _ _ => rfl⟩

theorem Run.cancels_frame (hr : r.g.res = .resident) (ls : List Nat) : ∀ {acc : State × (Nat → Bool)},
    acc.1.group r.gid = some r.g → (ls.foldl r.cancel acc).1.group r.gid = some r.g
      ∧ ∀ k, k ∉ ls → (ls.foldl r.cancel acc).2 k = acc.2 k := by
  induction ls with
  | nil => exact fun hg => ⟨hg, fun _ _ => rfl⟩
  | cons l ls ih =>
    intro acc hg
    obtain ⟨h1, h2⟩ := Run.cancel_frame hr hg l
    obtain ⟨h3, h4⟩ := ih h1
    refine ⟨h3, fun k hk => (h4 k fun h => hk (List.mem_cons_of_mem _ h)).trans (h2 k fun h => hk (h ▸ List.mem_cons_self))⟩

/-- Lane after lane cancels, and its result is noted. -/
theorem Run.cancels_collect (hr : r.g.res = .resident) {f : State × List (Nat × Res) → Nat → State × List (Nat × Res)} {ls : List Nat}
    (hf : ∀ t F rs, ∀ l ∈ ls, F l = false → f (t, rs) l = ((r.cancel (t, F) l).1, rs ++ [(l, .bool ((r.cancel (t, F) l).2 l))]))
    (hn : ls.Nodup) : ∀ {t : State} {F : Nat → Bool} (rs : List (Nat × Res)), t.group r.gid = some r.g → (∀ l ∈ ls, F l = false) →
    ls.foldl f (t, rs) = ((ls.foldl r.cancel (t, F)).1, rs ++ ls.map fun l => (l, .bool ((ls.foldl r.cancel (t, F)).2 l))) := by
  induction ls with
  | nil => exact fun rs _ _ => by simp
  | cons l ls ih =>
    intro t F rs hg hF
    obtain ⟨hnl, hn⟩ := List.nodup_cons.1 hn
    obtain ⟨hg1, hF1⟩ := Run.cancel_frame hr (acc := (t, F)) hg l
    have hlater := (Run.cancels_frame hr ls hg1).2 l hnl
    rw [List.foldl_cons, hf t F rs l List.mem_cons_self (hF l List.mem_cons_self),
      ih (fun t F rs k hk => hf t F rs k (List.mem_cons_of_mem _ hk)) hn (F := (r.cancel (t, F) l).2) _ hg1 fun k hk => ?_,
      List.foldl_cons, List.map_cons, hlater, List.append_assoc, List.singleton_append]
    exact (hF1 k fun h => hnl (h ▸ hk)).trans (hF k (List.mem_cons_of_mem _ hk))

theorem exec_fcancel {o : Ops} (h : Begins (.fcancel o) s r) (c : Calm s r) (hr : r.g.res = .resident)
    (he : ∀ l ∈ r.act, (s.ectx r.g (handleCtx (r.fut l))).isSome = true) :
    ∃ t, exec (.fcancel o) s = .next t ∧ Completes (r.act.foldl r.cancel (s, fun _ => false)).1 t r false (r.dst .pred)
      fun l => .bool ((r.act.foldl r.cancel (s, fun _ => false)).2 l) := by
  obtain rfl : r.o = o := (Run.of_runOf h.run).2.2.1
  have hg : s.group r.gid = some r.g := (Run.of_runOf h.run).2.1
  have hg' := (Run.cancels_frame hr r.act (acc := (s, fun _ => false)) hg).1.trans hg.symm
  refine ⟨_, ?_, State.finish_short (h.stands.of_group hg') (c.of_group hg') false false _ _ fun _ _ => rfl⟩
  change execFcancel r.o s = _
  rw [execFcancel, h.issued_never]
  dsimp only
  rw [Run.cancels_collect hr (fun t F rs l hl hF => ?_) h.stands.nodup (F := fun _ => false) [] hg fun _ _ => rfl]
  · rfl
  · obtain ⟨e, he⟩ := Option.isSome_iff_exists.1 ((State.ectx_isSome s t _ _).trans (he l hl))
    dsimp only
    rw [he]
    simp only [Run.cancel]
    change (match t.toCancel r l with | none => _ | some x => _) = _
    cases hx : t.toCancel r l with
    | none => simp [hF]
    | some x => by_cases hreal : (r.snap.lane l).st = .real <;> simp [hreal, Lane.isReal, hF] <;> rfl

end

end Sys2Proof.Machine
end

section
/-! PROOFS. Obligation O44: the names of timelines, and the obligation (R237, R242). -/

namespace Sys2Proof.Machine

theorem timelineName_fields (kind ldie idx : Nat) (alloc : W32) :
    (timelineName kind ldie idx alloc).extractLsb' 61 3 = BitVec.ofNat 3 kind
    ∧ (timelineName kind ldie idx alloc).extractLsb' 58 3 = BitVec.ofNat 3 ldie
    ∧ (timelineName kind ldie idx alloc).extractLsb' 45 13 = BitVec.ofNat 13 idx
    ∧ (timelineName kind ldie idx alloc).extractLsb' 13 32 = alloc
    ∧ (timelineName kind ldie idx alloc).extractLsb' 0 13 = 0 := by
  refine ⟨?_, ?_, ?_, ?_, ?_⟩
  all_goals
    refine BitVec.eq_of_getLsbD_eq fun i hi => ?_
    simp only [timelineName, BitVec.getLsbD_extractLsb', hi, decide_true, Bool.true_and, BitVec.getLsbD_append]
  · rw [if_neg (by omega), if_neg (by omega), if_neg (by omega), if_neg (by omega)]
    congr 1; omega
  · rw [if_neg (by omega), if_neg (by omega), if_neg (by omega), if_pos (by omega)]
    congr 1; omega
  · rw [if_neg (by omega), if_neg (by omega), if_pos (by omega)]
    congr 1; omega
  · rw [if_neg (by omega), if_pos (by omega)]
    congr 1; omega
  · rw [if_pos (by omega)]
    congr 1; omega

/-- What a legal name reads on a die (R242). -/
def State.timelineAt (s : State) (c d kind idx : Nat) (alloc : W32) (obj : Timeline) : Timeline :=
  match kind with
  | 0 =>
    let e := (mapGet (s.die d).copyCtx idx).getD ECtx.empty
    match e.holder with
    | some (o, _) => if e.alloc = alloc then (if o = c then .counter e.counter else obj) else .released
    | none => .released
  | 1 =>
    if (((s.ctx c).map Ctx.scrim).getD 0).getLsbD idx then
      .counter ((mapGet (s.die d).scrimCtx idx).getD ECtx.empty).counter
    else obj
  | _ => match mapGet s.lqs (lqKey c idx) with
    | none => obj
    | some q => .counter q.counter

theorem State.timeline_name (s : State) (c : Nat) {kind ldie idx d : Nat} (alloc : W32) (hk : kind ≤ 2) (hld : ldie < 8)
    (hidx : idx < 8192) (hd : s.phys c ldie = some d) (halloc : kind ≠ 0 → alloc = 0)
    (hrange : ¬((kind = 0 ∧ 4608 ≤ idx) ∨ (kind = 1 ∧ 64 ≤ idx) ∨ (kind = 2 ∧ 256 ≤ idx))) :
    s.timeline c (timelineName kind ldie idx alloc)
      = s.timelineAt c d kind idx alloc (.fault { code := .object, s45 := timelineName kind ldie idx alloc }) := by
  obtain ⟨h1, h2, h3, h4, h5⟩ := timelineName_fields kind ldie idx alloc
  have hk' : kind % 2 ^ 3 = kind := Nat.mod_eq_of_lt (by omega)
  have hl' : ldie % 2 ^ 3 = ldie := Nat.mod_eq_of_lt (by omega)
  have hi' : idx % 2 ^ 13 = idx := Nat.mod_eq_of_lt (by omega)
  have ha : ¬(kind ≠ 0 ∧ alloc ≠ 0) := fun ⟨a, b⟩ => b (halloc a)
  simp only [State.timeline, h1, h2, h3, h4, h5, BitVec.toNat_ofNat, hk', hl', hi', hd, if_neg ha, if_neg hrange,
    ne_eq, not_true_eq_false, false_or, if_neg (show ¬(2 < kind) by omega)]
  rfl

/-- A number that follows the counter passes it (R237). -/
theorem ECtx.complete_next (e : ECtx) (st : W32) (h : e.done = []) :
    (e.complete (e.counter + 1) st).counter = e.counter + 1 ∧ (e.complete (e.counter + 1) st).done = [] := by
  simp [ECtx.complete, ECtx.pass, h]

/-- A number ahead of a gap waits (R237). -/
theorem ECtx.complete_ahead (e : ECtx) {seq : Nat} (st : W32) (hne : e.counter + 1 ≠ seq) (h : e.counter + 1 ∉ e.done) :
    (e.complete seq st).counter = e.counter ∧ (e.complete seq st).done = e.done ++ [seq] := by
  simp [ECtx.complete, ECtx.pass, h, hne]

theorem ECtx.pass_statuses (n : Nat) : ∀ e : ECtx, (e.pass n).statuses = e.statuses := by
  induction n with
  | zero => exact fun _ => rfl
  | succ n ih =>
    intro e
    rw [ECtx.pass]
    split
    · exact ih _
    · rfl

theorem ECtx.complete_status (e : ECtx) (seq : Nat) (st : W32) :
    (e.complete seq st).statuses.head? = some (seq, st ||| 0x80000000#32) := by
  simp [ECtx.complete, ECtx.pass_statuses]

section
variable {s : State} {r : Run}

theorem Stands.untagFor (h : Stands s r) (ls : List Nat) : Stands (s.untagFor r ls) r := by
  rw [State.untagFor]
  split
  · exact h.modWarp _ rfl h.canon
  · exact h

theorem Calm.untagFor (h : Stands s r) (c : Calm s r) (ls : List Nat) : Calm (s.untagFor r ls) r := by
  rw [State.untagFor]
  split
  · obtain ⟨g, hg, hw⟩ := h.group
    refine ⟨?_, c.soft⟩
    rw [State.warp_modWarp s _ _ _ hg hw]
    exact c.windows
  · exact c

/-- Settles O44, a lemma for each instruction: what its lanes learn is a `Lands` step, and `finish` or `transfer` then
says where they go; a timeline's name is taken apart by `timelineName_fields`. -/
theorem futuresAndTimelines : Obligations.FuturesAndTimelines := by
  unfold Obligations.FuturesAndTimelines
  intro h name reach seen told heard
  refine ⟨?_, ?_, ?_, ?_, ?_, ?_, ?_, fun e seq st => ⟨e.complete_status seq st, ?_, e.complete_ahead st⟩⟩
  · intro o s r e hb hf seq done u hs
    have ho : r.o = o := (Run.of_runOf hb.run).2.2.1
    have hu : u = s.untagFor r r.act := by subst ho; rfl
    have hfwait : ∀ l, s.ectx r.g (handleCtx (h r l)) = some (e l) → s.fwait r (r.fut l)
        = if done l then if (e l).failed (seq l) then .flt { code := .futureFailed, s45 := ((e l).status (seq l)).zeroExtend 64 }
          else .go (nextSlot r.pc) else .wait (.future (r.fut l)) := fun l he => State.fwait_some he
    rw [hu]
    refine ⟨fun ha he => exec_fwait_none hb hf hs ha he, fun he => ⟨fun c hd => ?_, fun ha hd => ?_, fun ha hduet hd => ?_⟩⟩
    · obtain ⟨hl, -, hgs⟩ := State.seenBy_frame (s.untagFor r r.act) r r.act
      rw [exec_fwait_done hb hf hs (hop := fun _ => .go (nextSlot r.pc)) (fun l hl => by rw [he l hl]; rfl) fun l hl => ?_,
        State.transfer_go ((hb.stands.untagFor _).lands hl) ((c.untagFor hb.stands _).lands hl) hf]
      · simp
        rfl
      · obtain ⟨h1, h2⟩ := hd l hl
        rw [hfwait l (he l hl), if_pos h1, h2]
        exact ⟨rfl, rfl⟩
    · obtain ⟨-, hissue, -⟩ := State.seenBy_frame (s.untagFor r r.act) r r.act
      have hpre : ((s.untagFor r r.act).seenBy r r.act).NoPre := by
        rw [State.NoPre, hissue]
        exact State.untagFor_noPre hb.noPre _
      rw [exec_fwait_done hb hf hs (hop := fun l => .flt { code := .futureFailed, s45 := ((e l).status (seq l)).zeroExtend 64 })
          (fun l hl => by rw [he l hl]; rfl) fun l hl => ?_,
        State.transfer_flt hpre ha]
      · rfl
      · obtain ⟨h1, h2⟩ := hd l hl
        rw [hfwait l (he l hl), if_pos h1, h2]
        exact ⟨rfl, rfl⟩
    · exact exec_fwait_waits hb hf ha hduet fun l hl => by rw [hfwait l (he l hl), if_neg (hd l hl)]
  · intro o m s r e hb c he finished word
    obtain ⟨t, ht, hc⟩ := exec_ftest hb c e he
    refine ⟨t, ht, ?_⟩
    have hfin : finished = r.act.filter fun l => (e l).opDone (handleSeq (r.fut l)) :=
      List.filter_congr fun l _ => (ECtx.opDone_eq ..).symm
    have htold : told r e finished s = finished.foldl (fun t l => t.observeOne r (r.fut l) l) s := by
      refine State.foldl_observeOne (s := s) finished (fun t hdies l hl => ?_) rfl
      exact (State.observeOne_eq l ((State.ectx_congr hdies ..).trans (he l (List.mem_filter.1 hl).1))).symm
    have hword : ∀ l, word l = (e l).status (handleSeq (r.fut l)) := fun l => (ECtx.status_eq ..).symm
    rw [htold, hfin]
    simp only [hword]
    exact hc
  · exact fun o s r hb c hr he => exec_fcancel hb c hr he
  · exact fun o s r n hi c hn => exec_tlrdCnt hi c hn
  · exact fun o s r e hi c he => exec_tlrdName hi c he
  · intro o s r hi hf v
    obtain rfl : r.o = o := (Run.of_runOf hi.run).2.2.1
    refine ⟨fun c hg => exec_tlwait_goes hi c hf fun l hl => ?_, fun ha hd hg => ?_, fun ha f hg => ?_⟩
    · obtain hg | ⟨n, hn, hr⟩ := hg l hl
      · exact congrArg (Timeline.hop (nextSlot r.pc) (r.fut l) (v l)) hg
      · refine (congrArg (Timeline.hop (nextSlot r.pc) (r.fut l) (v l)) hn).trans (if_pos ?_)
        exact decide_eq_true hr
    · rw [exec_tlwait_stays hi hf (hop := fun l => .wait (.timeline (r.fut l) (v l))) fun l hl => ⟨?_, rfl⟩,
        State.transfer_wait (.of_run hi.run hd) ha hf fun _ _ => rfl]
      obtain ⟨n, hn, hr⟩ := hg l hl
      refine (congrArg (Timeline.hop (nextSlot r.pc) (r.fut l) (v l)) hn).trans (if_neg fun hn => hr ?_)
      exact of_decide_eq_true hn
    · rw [exec_tlwait_stays hi hf (hop := fun l => .flt (f l)) fun l hl =>
          ⟨congrArg (Timeline.hop (nextSlot r.pc) (r.fut l) (v l)) (hg l hl), rfl⟩,
        State.transfer_flt hi.noPre ha]
  · intro s c ldie d idx alloc hld hd
    refine ⟨fun hidx e i he hh => ?_, fun hidx hs e he => ?_, fun hidx q hq => ?_⟩
    · refine (s.timeline_name c alloc (by omega) hld (by omega) hd (fun h => absurd rfl h) (by omega)).trans ?_
      simp [State.timelineAt, he, hh]
    · refine (s.timeline_name c (kind := 1) 0 (by omega) hld (by omega) hd (fun _ => rfl) (by omega)).trans ?_
      simp only [State.timelineAt, hs, if_true, he, Option.getD_some]
    · refine (s.timeline_name c (kind := 2) 0 (by omega) hld (by omega) hd (fun _ => rfl) (by omega)).trans ?_
      simp [State.timelineAt, lqKey, hq]
  · rintro rfl h
    exact e.complete_next st h
end

end Sys2Proof.Machine
end

section
/-! PROOFS. Obligation O45: the marks and counters of stage rings (R248, R250). -/

namespace Sys2Proof.Machine

theorem mem_insertNat {k n : Nat} : ∀ {xs : List Nat}, k ∈ insertNat xs n ↔ k = n ∨ k ∈ xs
  | [] => by simp [insertNat]
  | y :: ys => by
    rw [insertNat]
    split
    · next h => simp [h]
    · split
      · simp
      · rw [List.mem_cons, mem_insertNat, List.mem_cons]
        tauto

/-- What passing over the marks of the filled slots leaves, when it goes on long enough. -/
structure Ring.Passed (x z : Ring) : Prop where
  rest : z = { x with filled := z.filled, fillMarks := z.fillMarks }
  mono : x.filled ≤ z.filled
  between : ∀ k, x.filled ≤ k → k < z.filled → k ∈ x.fillMarks
  sub : ∀ k ∈ z.fillMarks, k ∈ x.fillMarks
  stops : z.filled ∉ x.fillMarks

theorem Ring.passFilled_passed (n : Nat) : ∀ x : Ring, x.fillMarks.length ≤ n → Ring.Passed x (x.passFilled n) := by
  induction n with
  | zero =>
    intro x h
    have hnil : x.fillMarks = [] := List.eq_nil_of_length_eq_zero (by omega)
    exact ⟨rfl, le_rfl, fun k h1 h2 => absurd h2 (by show ¬k < x.filled; omega), fun k h => h, by rw [hnil]; exact List.not_mem_nil⟩
  | succ n ih =>
    intro x h
    rw [Ring.passFilled]
    split
    · next hc =>
      have hm : x.filled ∈ x.fillMarks := by simpa using hc
      have hlt : (x.fillMarks.filter (· != x.filled)).length < x.fillMarks.length :=
        List.length_filter_lt_length_iff_exists.2 ⟨_, hm, by simp⟩
      obtain ⟨h1, h2, h3, h4, h5⟩ := ih { x with filled := x.filled + 1, fillMarks := x.fillMarks.filter (· != x.filled) }
        (by show (x.fillMarks.filter (· != x.filled)).length ≤ n; omega)
      set z := Ring.passFilled n { x with filled := x.filled + 1, fillMarks := x.fillMarks.filter (· != x.filled) }
      have h2 : x.filled + 1 ≤ z.filled := h2
      refine ⟨h1, by omega, fun k hk hz => ?_, fun k hk => List.mem_of_mem_filter (h4 k hk), fun hin => h5 ?_⟩
      · by_cases he : k = x.filled
        · exact he ▸ hm
        · exact List.mem_of_mem_filter (h3 k (show x.filled + 1 ≤ k by omega) hz)
      · exact List.mem_filter.2 ⟨hin, by simpa using (show z.filled ≠ x.filled by omega)⟩
    · next hc =>
      refine ⟨rfl, le_rfl, fun k h1 h2 => absurd h2 (by show ¬k < x.filled; omega), fun k h => h, by simpa using hc⟩

/-- A marked slot: what the ring then holds (R248). -/
structure Ring.Marked (y : Ring) (n : Nat) (z : Ring) : Prop where
  rest : z = { y with filled := z.filled, fillMarks := z.fillMarks }
  mono : y.filled ≤ z.filled
  between : ∀ k, y.filled ≤ k → k < z.filled → k = n ∨ k ∈ y.fillMarks
  sub : ∀ k ∈ z.fillMarks, k = n ∨ k ∈ y.fillMarks
  ne : z.filled ≠ n
  stops : z.filled ∉ y.fillMarks

theorem Ring.fill_marked (y : Ring) (n : Nat) : Ring.Marked y n (y.fill n) := by
  obtain ⟨h1, h2, h3, h4, h5⟩ := Ring.passFilled_passed _ { y with fillMarks := insertNat y.fillMarks n } le_rfl
  refine ⟨h1, h2, fun k hk hz => mem_insertNat.1 (h3 k hk hz), fun k hk => mem_insertNat.1 (h4 k hk), fun e => h5 ?_,
    fun e => h5 ?_⟩
  · exact mem_insertNat.2 (.inl e)
  · exact mem_insertNat.2 (.inr e)

/-- Another slot that was to be marked still is. -/
theorem Ring.Marked.other {y z : Ring} {n k : Nat} (h : Ring.Marked y n z) (hk : k ≠ n) (h1 : y.filled ≤ k) (h2 : k ∉ y.fillMarks) :
    z.filled ≤ k ∧ k ∉ z.fillMarks := by
  have hnot : ¬(k = n ∨ k ∈ y.fillMarks) := by tauto
  exact ⟨Nat.le_of_not_lt fun hlt => hnot (h.between k h1 hlt), fun hm => hnot (h.sub k hm)⟩

/-- The ring with the two ends of its filled slots exchanged: a release marks there as a fill does. -/
def Ring.flip (y : Ring) : Ring :=
  { y with filled := y.freed, freed := y.filled, fillMarks := y.freeMarks, freeMarks := y.fillMarks }

theorem Ring.flip_passFilled (n : Nat) : ∀ x : Ring, (x.passFreed n).flip = x.flip.passFilled n := by
  induction n with
  | zero => exact fun _ => rfl
  | succ n ih =>
    intro x
    rw [Ring.passFreed, Ring.passFilled]
    change _ = if x.freeMarks.contains x.freed = true then _ else _
    split
    · exact ih _
    · rfl

theorem Ring.flip_release (y : Ring) (n : Nat) : (y.release n).flip = y.flip.fill n := Ring.flip_passFilled _ _

theorem Ring.release_marked (y : Ring) (n : Nat) : Ring.Marked y.flip n (y.release n).flip :=
  Ring.flip_release y n ▸ Ring.fill_marked _ _

end Sys2Proof.Machine
end

section
/-! PROOFS. Obligation O45: the ring that a run uses, through the steps of an instruction. -/

namespace Sys2Proof.Machine

variable {s t : State} {r : Run} {x : RingAt} {y z : Ring}

/-- In `t` the run names its rings as in `s`, and the ring at `x` stands as `y`. -/
structure Uses (s : State) (r : Run) (x : RingAt) (t : State) (y : Ring) : Prop where
  names : ∀ name, t.ringAt r.gid r.g name = s.ringAt r.gid r.g name
  ring : t.ringOf x = some y

theorem State.useRing_ok {gid : Nat} {g : Group} {name : W32} (h : s.useRing gid g name = .ok (x, y)) :
    s.ringAt gid g name = .ok x ∧ s.ringOf x = some y := by
  rw [State.useRing] at h
  split at h
  · cases h
  · next x' hx =>
    split at h
    · cases h
    · next y' hy =>
      split at h
      · cases h
      · split at h
        · cases h
        · cases h
          exact ⟨hx, hy⟩

theorem Uses.start {name : W32} (h : s.useRing r.gid r.g name = .ok (x, y)) : Uses s r x s y :=
  ⟨fun _ => rfl, (State.useRing_ok h).2⟩

/-- The ring is used by its name as long as its owner is the same. -/
theorem Uses.useRing {y0 : Ring} (u : Uses s r x t y) {name : W32} (h : s.useRing r.gid r.g name = .ok (x, y0))
    (ho : y.owner = y0.owner) : t.useRing r.gid r.g name = .ok (x, y) := by
  obtain ⟨hx, hy⟩ := State.useRing_ok h
  rw [State.useRing, hx] at h
  simp only [hy] at h
  rw [State.useRing, u.names, hx]
  simp only [u.ring, ho]
  split at h
  · cases h
  · next h1 =>
    split at h
    · cases h
    · next h2 => rw [if_neg h1, if_neg h2]

/-- A ring of the run is one of its group or one of a die. -/
theorem State.ringAt_cases {gid : Nat} {g : Group} {name : W32} (h : s.ringAt gid g name = .ok x) :
    (∃ i, x = .group gid i) ∨ ∃ d i, x = .loft d i := by
  simp only [State.ringAt] at h
  split at h
  · cases h
  · split at h
    · split at h
      · cases h
      · cases h
        exact .inr ⟨_, _, rfl⟩
    · split at h
      · cases h
      · split at h
        · cases h
        · cases h
          exact .inl ⟨_, rfl⟩

theorem State.ringOf_setRing (h : t.ringOf x = some y) (z : Ring) : (t.setRing x (some z)).ringOf x = some z := by
  cases x with
  | group gid i =>
    obtain ⟨g, hg, hy⟩ := Option.bind_eq_some_iff.1 h
    rw [State.ringOf, State.setRing, State.group_modGroup, if_pos rfl, hg]
    exact mapGet_mapSet_same ..
  | loft d i =>
    have hd : d < t.dies.length := by
      by_contra hd
      have hr : t.die d = Die.reset := by
        rw [State.die, List.getD_eq_getElem?_getD, List.getElem?_eq_none (by omega)]
        rfl
      rw [State.ringOf, hr] at h
      cases h
    have hdie : (t.setRing (.loft d i) (some z)).die d = { t.die d with rings := mapSet (t.die d).rings i z } := by
      rw [State.die, State.setRing, State.modDie, listMod_getD, if_pos ⟨rfl, hd⟩]
      rfl
    rw [State.ringOf, hdie]
    exact mapGet_mapSet_same ..

theorem Uses.setRing (u : Uses s r x t y) (z : Ring) : Uses s r x (t.setRing x (some z)) z where
  names := fun n => (by cases x <;> rfl : _ = t.ringAt r.gid r.g n).trans (u.names n)
  ring := State.ringOf_setRing u.ring z

theorem Uses.learn (u : Uses s r x t y) (a : Agent) (bs : List Agent) : Uses s r x (t.learn a bs) y :=
  ⟨u.names, u.ring⟩

/-- Steps that leave the names and the rings. -/
theorem Uses.of_frame {v : State} (u : Uses s r x t y) (hp : ∀ c d, v.phys c d = t.phys c d)
    (hn : ∀ c n, v.node c n = t.node c n) (hd : v.dies = t.dies)
    (hg : ∀ i, (v.group i).map (·.rings) = (t.group i).map (·.rings)) : Uses s r x v y where
  names := fun name => by
    have hdesc : v.desc r.g = t.desc r.g := by rw [State.desc, hn, State.desc]
    rw [← u.names, State.ringAt, State.ringAt, hp, hdesc]
  ring := by
    rw [← u.ring]
    cases x with
    | group gid i =>
      have hb : ∀ o : Option Group, (o.bind fun g => mapGet g.rings i) = (o.map (·.rings)).bind fun m => mapGet m i :=
        fun o => by cases o <;> rfl
      rw [State.ringOf, State.ringOf, hb, hb, hg]
    | loft d i => simp only [State.ringOf, State.die, hd]

theorem Uses.modWarp (u : Uses s r x t y) (f : Warp → Warp) : Uses s r x (t.modWarp r.gid r.w f) y := by
  refine u.of_frame (fun _ _ => rfl) (fun _ _ => rfl) rfl fun i => ?_
  rw [State.modWarp, State.group_modGroup]
  split
  · cases t.group i <;> rfl
  · rfl

theorem Uses.drainMask (u : Uses s r x t y) (w : Nat) (m : W64) : Uses s r x (t.drainMask r.gid w m) y := by
  have hb := State.Beside.drainMask t r.gid w m
  refine u.of_frame hb.phys hb.node hb.dies fun i => ?_
  have hl := (State.Lands.drainMask t r.gid w m).group i
  generalize t.group i = a, (t.drainMask r.gid w m).group i = b at hl
  cases hl with
  | none => rfl
  | some k => exact congrArg some (congrArg Group.rings k.rest :)

end Sys2Proof.Machine
end

section
/-! PROOFS. Obligation O45: slots are filled and released, and rings initialised (R133, R246 to R248, R250). -/

namespace Sys2Proof.Machine

section
variable {s t : State} {r : Run} {x : RingAt} {y z : Ring}

theorem Stands.setRing (h : Stands s r) (x : RingAt) (z : Option Ring) : Stands (s.setRing x z) r := by
  cases x with
  | group gid i => exact h.modGroup _ fun _ => rfl
  | loft d i => exact h.of_groups rfl

theorem Calm.setRing (c : Calm s r) (x : RingAt) (z : Option Ring) : Calm (s.setRing x z) r := by
  cases x with
  | group gid i => exact c.modGroup _ fun _ => rfl
  | loft d i => exact c.of_groups rfl

theorem State.setRing_issue (s : State) (x : RingAt) (z : Option Ring) : (s.setRing x z).issue = s.issue := by
  cases x <;> rfl

/-! ## Marks -/

/-- The number of the slot that a lane names. -/
abbrev Run.num (r : Run) (l : Nat) : Nat := (r.rd64 .zero l r.o.b).toNat

/-- A lane marks its slot, or misuses the ring (R248, R250, R251). -/
def Run.markLane (r : Run) (bad : Ring → Nat → Prop) [∀ y n, Decidable (bad y n)] (f : Ring → Nat → Ring) (c : Nat)
    (acc : State × List LFlt) (l : Nat) : State × List LFlt :=
  match acc.1.useRing r.gid r.g (r.rd32 l r.o.a) with
  | .error e => (acc.1, acc.2 ++ [(l, e)])
  | .ok (x, y) =>
    if !(r.snap.lane l).isReal then acc
    else if bad y (r.num l) then (acc.1, acc.2 ++ [(l, ringMisuse c)])
    else ((acc.1.ringEvent r x l).setRing x (some (f y (r.num l))), acc.2)

theorem exec_ringpFill {o : Ops} (h : Issues (.ringpFill o) s r) : exec (.ringpFill o) s
    = .next (State.ringDone r (r.act.foldl
        (r.markLane (fun y n => y.claimed ≤ n ∨ n < y.filled ∨ n ∈ y.fillMarks) Ring.fill 3) (s, []))) := by
  obtain rfl : r.o = o := (Run.of_runOf h.run).2.2.1
  exact issued_next h _ _

theorem exec_ringr {o : Ops} (h : Issues (.ringr o) s r) : exec (.ringr o) s
    = .next (State.ringDone r (r.act.foldl
        (r.markLane (fun y n => y.filled ≤ n ∨ n < y.freed ∨ n ∈ y.freeMarks) Ring.release 4) (s, []))) := by
  obtain rfl : r.o = o := (Run.of_runOf h.run).2.2.1
  exact issued_next h _ _

/-- A legal mark after the lane's earlier stores (R133). -/
def Run.markStep (r : Run) (x : RingAt) (f : Ring → Nat → Ring) (acc : State × Ring) (l : Nat) : State × Ring :=
  (((acc.1.drainMask r.gid r.w (oneLane l)).learn (.lane r.gid r.w l) [x.agent]).setRing x (some (f acc.2 (r.num l))),
    f acc.2 (r.num l))

/-- The marks of the real lanes. -/
def Run.marks (r : Run) (x : RingAt) (f : Ring → Nat → Ring) (s : State) (y : Ring) : State :=
  ((r.act.filter fun l => (r.snap.lane l).isReal).foldl (r.markStep x f) (s, y)).1

/-- Marks leave what other lanes may mark, and who owns the ring. -/
structure Marks (bad : Ring → Nat → Prop) (f : Ring → Nat → Ring) : Prop where
  owner : ∀ y n, (f y n).owner = y.owner
  other : ∀ y n k, k ≠ n → ¬bad y k → ¬bad (f y n) k

theorem marks_fill : Marks (fun y n => y.claimed ≤ n ∨ n < y.filled ∨ n ∈ y.fillMarks) Ring.fill where
  owner := fun y n => (congrArg Ring.owner (y.fill_marked n).rest :)
  other := fun y n k hk hb => by
    obtain ⟨h1, h2⟩ := (y.fill_marked n).other hk (by omega) (fun hm => hb (.inr (.inr hm)))
    have hc : (y.fill n).claimed = y.claimed := (congrArg Ring.claimed (y.fill_marked n).rest :)
    rw [hc]
    rintro (h | h | h)
    · exact hb (.inl h)
    · omega
    · exact h2 h

theorem marks_release : Marks (fun y n => y.filled ≤ n ∨ n < y.freed ∨ n ∈ y.freeMarks) Ring.release where
  owner := fun y n => (congrArg Ring.owner (y.release_marked n).rest :)
  other := fun y n k hk hb => by
    obtain ⟨h1, h2⟩ := (y.release_marked n).other hk (show y.freed ≤ k by omega) (fun hm => hb (.inr (.inr hm)))
    have hc : (y.release n).filled = y.filled := (congrArg Ring.freed (y.release_marked n).rest :)
    have h1 : (y.release n).freed ≤ k := h1
    rw [hc]
    rintro (h | h | h)
    · exact hb (.inl h)
    · omega
    · exact h2 h

theorem Run.foldl_markLane {bad : Ring → Nat → Prop} [∀ y n, Decidable (bad y n)] {f : Ring → Nat → Ring} (hm : Marks bad f)
    {c : Nat} {y0 : Ring} {fs : List LFlt} {ls : List Nat} (hn : ls.Nodup)
    (hname : ∀ l ∈ ls, s.useRing r.gid r.g (r.rd32 l r.o.a) = .ok (x, y0))
    (hinj : ∀ l ∈ ls, ∀ k ∈ ls, (r.snap.lane l).isReal = true → (r.snap.lane k).isReal = true → r.num l = r.num k → l = k) :
    ∀ {t : State} {y : Ring}, Uses s r x t y → y.owner = y0.owner →
    (∀ l ∈ ls, (r.snap.lane l).isReal = true → ¬bad y (r.num l)) → ls.foldl (r.markLane bad f c) (t, fs)
      = (((ls.filter fun l => (r.snap.lane l).isReal).foldl (r.markStep x f) (t, y)).1, fs) := by
  induction ls with
  | nil => exact fun _ _ _ => rfl
  | cons l ls ih =>
    intro t y u ho hok
    obtain ⟨hl, hn⟩ := List.nodup_cons.1 hn
    have hrec := fun {t y} => ih hn (fun k hk => hname k (List.mem_cons_of_mem _ hk))
      (fun k hk j hj => hinj k (List.mem_cons_of_mem _ hk) j (List.mem_cons_of_mem _ hj)) (t := t) (y := y)
    have huse := u.useRing (hname l List.mem_cons_self) ho
    rw [List.foldl_cons, Run.markLane]
    simp only [huse]
    by_cases hreal : (r.snap.lane l).isReal = true
    · rw [if_neg (by simp [hreal]), if_neg (hok l List.mem_cons_self hreal), List.filter_cons_of_pos (p := fun l => (r.snap.lane l).isReal) hreal, List.foldl_cons]
      refine hrec (((u.drainMask _ _).learn _ _).setRing _) ((hm.owner ..).trans ho) fun k hk hr => ?_
      refine hm.other _ _ _ (fun e => hl ?_) (hok k (List.mem_cons_of_mem _ hk) hr)
      exact hinj k (List.mem_cons_of_mem _ hk) l List.mem_cons_self hr hreal e ▸ hk
    · rw [if_pos (by simp [hreal]), List.filter_cons_of_neg (p := fun l => (r.snap.lane l).isReal) hreal]
      exact hrec u ho fun k hk => hok k (List.mem_cons_of_mem _ hk)

theorem Run.marks_frame (f : Ring → Nat → Ring) (h : Stands s r) (c : Calm s r) (y : Ring) :
    Stands (r.marks x f s y) r ∧ Calm (r.marks x f s y) r := by
  have hstep : ∀ (ls : List Nat) (acc : State × Ring), Stands acc.1 r ∧ Calm acc.1 r →
      Stands (ls.foldl (r.markStep x f) acc).1 r ∧ Calm (ls.foldl (r.markStep x f) acc).1 r := by
    intro ls
    induction ls with
    | nil => exact fun _ h => h
    | cons l ls ih =>
      rintro acc ⟨h, c⟩
      have hl := (State.Lands.drainMask acc.1 r.gid r.w (oneLane l)).trans (.learn _ (.lane r.gid r.w l) [x.agent])
      exact ih _ ⟨(h.lands hl).setRing x (some (f acc.2 (r.num l))), (c.lands hl).setRing x (some (f acc.2 (r.num l)))⟩
  exact hstep _ (s, y) ⟨h, c⟩

theorem State.ringDone_nil (h : Stands s r) (c : Calm s r) : State.ringDone r (s, []) = s.moved r fun _ => nextSlot r.pc := by
  simp only [State.ringDone, List.any_nil, Bool.not_false, List.filter_true, State.raiseRun_nil]
  exact State.advance_calm h c

theorem State.ringDone_all (h : s.NoPre) (ha : r.act = r.ls) (f : Flt) :
    State.ringDone r (s, r.act.map fun l => (l, f)) = s.faults r fun _ => f := by
  have hnone : (r.ls.filter fun l => !((r.act.map fun l => (l, f)).any fun p => p.1 == l)) = [] := by
    rw [List.filter_eq_nil_iff]
    intro l hl
    simpa [ha] using hl
  rw [State.ringDone, hnone, State.advance_nil, h.raiseRun, ha, State.faults]

theorem Run.markLane_done {i : Instr} {bad : Ring → Nat → Prop} [∀ y n, Decidable (bad y n)] {f : Ring → Nat → Ring} (hm : Marks bad f)
    (h : Begins i s r) (c : Calm s r) (hname : ∀ l ∈ r.act, s.useRing r.gid r.g (r.rd32 l r.o.a) = .ok (x, y)) (d : Nat)
    (hok : ∀ l ∈ r.act.filter (fun l => (r.snap.lane l).isReal), ¬bad y (r.num l))
    (hinj : ∀ l ∈ r.act.filter (fun l => (r.snap.lane l).isReal), ∀ k ∈ r.act.filter (fun l => (r.snap.lane l).isReal),
      r.num l = r.num k → l = k) :
    State.ringDone r (r.act.foldl (r.markLane bad f d) (s, [])) = (r.marks x f s y).moved r fun _ => nextSlot r.pc := by
  by_cases hne : r.act = []
  · rw [Run.marks, hne]
    exact State.ringDone_nil h.stands c
  obtain ⟨l, hl⟩ := List.exists_mem_of_ne_nil _ hne
  rw [Run.foldl_markLane hm h.stands.nodup hname (fun l hl k hk hr hs => hinj l (List.mem_filter.2 ⟨hl, hr⟩) k
      (List.mem_filter.2 ⟨hk, hs⟩)) (.start (hname l hl)) rfl fun l hl hr => hok l (List.mem_filter.2 ⟨hl, hr⟩)]
  obtain ⟨hs, hc⟩ := Run.marks_frame (x := x) f h.stands c y
  exact State.ringDone_nil hs hc

theorem Run.markLane_bad {i : Instr} {bad : Ring → Nat → Prop} [∀ y n, Decidable (bad y n)] {f : Ring → Nat → Ring}
    (h : Begins i s r) (hname : ∀ l ∈ r.act, s.useRing r.gid r.g (r.rd32 l r.o.a) = .ok (x, y)) (d : Nat) (ha : r.act = r.ls)
    (hbad : ∀ l ∈ r.ls, (r.snap.lane l).isReal = true ∧ bad y (r.num l)) :
    State.ringDone r (r.act.foldl (r.markLane bad f d) (s, [])) = s.faults r fun _ => ringMisuse d := by
  have hfold : ∀ (ls : List Nat) (fs : List LFlt), (∀ l ∈ ls, l ∈ r.act) →
      ls.foldl (r.markLane bad f d) (s, fs) = (s, fs ++ ls.map fun l => (l, ringMisuse d)) := by
    intro ls
    induction ls with
    | nil => exact fun fs _ => by simp
    | cons l ls ih =>
      intro fs hls
      obtain ⟨hl, hls⟩ := List.forall_mem_cons.1 hls
      obtain ⟨hreal, hb⟩ := hbad l (ha ▸ hl)
      rw [List.foldl_cons, Run.markLane]
      simp only [hname l hl]
      rw [if_neg (by simp [hreal]), if_pos hb, ih _ hls]
      simp
  rw [hfold r.act [] fun _ h => h, List.nil_append, State.ringDone_all h.noPre ha]

end

end Sys2Proof.Machine
end

section
/-! PROOFS. Obligation O45: rings are initialised (R246, R247). -/

namespace Sys2Proof.Machine

section
variable {s t : State} {r : Run} {x : RingAt} {y z : Ring} {l : Nat}

/-- A place that passes the test lies in its object (R97). -/
theorem State.checkCap_within {c : Nat} {cap : W64} {off : Int} {n : Nat} {need : BitVec 4} {kinds : List ObjKind}
    {atomic align : Bool} {e : Obj} {a : Nat} (h : s.checkCap c cap off n need kinds atomic align = .ok (e, a)) : a + n ≤ e.len := by
  rw [State.checkCap] at h
  split at h
  · cases h
  · split at h
    · cases h
    · split at h
      · cases h
      · next hb =>
        simp only [Bool.or_eq_true, decide_eq_true_eq, not_or] at hb
        dsimp only at h
        split at h
        · cases h
        · split at h
          · cases h
          · split at h
            · cases h
            · cases h
              omega

/-- The configuration of a lane's RINGI (R246). -/
structure RingCfg where
  cfg : W32
  size : Nat
  k : Nat
  base : W64

def Run.ringCfg (r : Run) (l : Nat) : RingCfg :=
  let cfg := r.rd32 l r.o.c
  { cfg := cfg, size := (cfg.extractLsb' 8 20).toNat, k := (cfg.extractLsb' 0 4).toNat
    base := if (r.rd32 l r.o.a).getLsbD 31 then r.rd64 .zero l r.o.b else (r.rd32 l r.o.b).zeroExtend 64 }

/-- The ring that it makes. -/
def Run.newRing (r : Run) (l : Nat) : Ring :=
  { k := (r.ringCfg l).k, size := (r.ringCfg l).size, base := (r.ringCfg l).base, claimed := 0, filled := 0, freed := 0
    fillMarks := [], freeMarks := [], owner := r.g.ctx }

/-- The state with it, after the lane's earlier stores. -/
def State.ringMade (s : State) (r : Run) (l : Nat) (x : RingAt) : State :=
  ((s.drainMask r.gid r.w (oneLane l)).setRing x (some (r.newRing l))).holdCaps r.g
    (if (r.rd32 l r.o.a).getLsbD 31 then [(r.ringCfg l).base] else [])

/-- A ring that can be initialised anew. -/
def State.ringBusy (s : State) (r : Run) (x : RingAt) : Bool := match s.ringOf x with
  | some y => y.claimed != y.freed || s.ringAwaited x || y.owner != r.g.ctx
  | none => false

theorem State.ringInit_eq (hx : s.ringAt r.gid r.g (r.rd32 l r.o.a) = .ok x) : s.ringInit r l =
    if s.ringBusy r x then .error (ringMisuse 2)
    else if (r.ringCfg l).cfg = 0 then .ok ((s.drainMask r.gid r.w (oneLane l)).setRing x none)
    else if !ringCfgOk (r.ringCfg l).cfg then .error (ringMisuse 8)
    else match s.ringArea r (r.rd32 l r.o.a) (r.ringCfg l).base ((r.ringCfg l).size * 2 ^ (r.ringCfg l).k) with
      | some f => .error f
      | none => .ok (s.ringMade r l x) := by
  simp only [State.ringInit, hx]
  rfl

theorem State.ringBusy_eq (h : ∀ y, s.ringOf x = some y → y.claimed = y.freed ∧ y.owner = r.g.ctx ∧ s.ringAwaited x = false) :
    s.ringBusy r x = false := by
  rw [State.ringBusy]
  cases hy : s.ringOf x with
  | none => rfl
  | some y =>
    obtain ⟨h1, h2, h3⟩ := h y hy
    simp [h1, h2, h3]

theorem State.ringBusy_of (h : ¬∀ y, s.ringOf x = some y → y.claimed = y.freed ∧ y.owner = r.g.ctx ∧ s.ringAwaited x = false) :
    s.ringBusy r x = true := by
  by_contra hb
  refine h fun y hy => ?_
  simpa [State.ringBusy, hy, and_comm, and_assoc, and_left_comm] using hb

theorem ringCfgOk_eq (cfg : W32) : ringCfgOk cfg = decide (cfg.extractLsb' 28 4 = 0 ∧ cfg.extractLsb' 4 4 = 0
    ∧ (cfg.extractLsb' 8 20).toNat ≠ 0 ∧ (cfg.extractLsb' 8 20).toNat % 16 = 0 ∧ (cfg.extractLsb' 0 4).toNat ≤ 8) := by
  simp [ringCfgOk, Bool.beq_eq_decide_eq, bne, Bool.and_assoc]

/-- An area that fits passes the checks (R88, R97, R247). -/
theorem State.ringArea_none {name : W32} {base : W64} {n : Nat}
    (h : if name.getLsbD 31 then
        ∃ e a, s.capEntry r.g.ctx base [.loft] = some e ∧ e.ldie = (name.extractLsb' 28 3).toNat
          ∧ s.checkCap r.g.ctx base (capOff base) n (rightRD ||| rightWR) [.loft] false false = .ok (e, a)
          ∧ s.heldLen r.g.die r.g.core r.g.ctx (capObj base) e = e.len
      else base.toNat + n ≤ r.d.shared) : s.ringArea r name base n = none := by
  rw [State.ringArea]
  split at h
  · next hn =>
    obtain ⟨e, a, he, hd, hc, hl⟩ := h
    have hin := State.checkCap_within hc
    have hheld : s.checkHeld r.g base (capOff base) n (rightRD ||| rightWR) [.loft] false false = .ok (e, a) := by
      rw [State.checkHeld, hc]
      exact if_neg (by rw [hl]; omega)
    simp [hn, he, hd, hheld]
  · next hn => rw [if_neg hn, if_neg (by omega)]

theorem exec_ringi_none {o : Ops} (h : Issues (.ringi o) s r) (c : Calm s r) (hl : r.lead = none) :
    exec (.ringi o) s = .next (s.moved r fun _ => nextSlot r.pc) := by
  change execRingi o s = _
  rw [execRingi, issued_next h]
  simp only [hl, State.advance_calm h.stands c]

theorem exec_ringi_some {o : Ops} (h : Issues (.ringi o) s r) (hl : r.lead = some l) (hb : r.baseOk l = true) :
    exec (.ringi o) s = .next (match s.ringInit r l with
      | .ok t => t.advance r r.ls
      | .error f => (s.advance r (r.ls.filter fun k => !r.isAct k)).raiseAll r r.act f.code f.s45) := by
  change execRingi o s = _
  rw [execRingi, issued_next h]
  simp only [hl, hb]
  rfl

theorem exec_ringi_ok {o : Ops} (h : Issues (.ringi o) s r) (hl : r.lead = some l) (hb : r.baseOk l = true)
    (ht : s.ringInit r l = .ok t) (hs : Stands t r) (hc : Calm t r) :
    exec (.ringi o) s = .next (t.moved r fun _ => nextSlot r.pc) := by
  rw [exec_ringi_some h hl hb, ht]
  exact congrArg _ (State.advance_calm hs hc)

theorem exec_ringi_error {o : Ops} {f : Flt} (h : Issues (.ringi o) s r) (hl : r.lead = some l) (hb : r.baseOk l = true)
    (ha : r.act = r.ls) (hf : s.ringInit r l = .error f) : exec (.ringi o) s = .next (s.faults r fun _ => f) := by
  rw [exec_ringi_some h hl hb, hf]
  simp only [Run.others_nil ha, State.advance_nil, State.raiseAll, h.noPre.raiseRun, ha, State.faults]

theorem Stands.ringMade (h : Stands s r) (l : Nat) (x : RingAt) : Stands (s.ringMade r l x) r :=
  ((h.lands (.drainMask ..)).setRing x _).of_groups (State.holdCaps_groups ..).1

theorem Calm.ringMade (c : Calm s r) (l : Nat) (x : RingAt) : Calm (s.ringMade r l x) r :=
  ((c.lands (.drainMask ..)).setRing x _).of_groups (State.holdCaps_groups ..).1

end

end Sys2Proof.Machine
end

section
/-! PROOFS. Obligation O45: slots are waited for, and claimed (R133, R248, R249). -/

namespace Sys2Proof.Machine

/-! ## Registers that lanes write one after the other -/

theorem mapErase_of_none {β : Type} {i : Nat} : ∀ {m : KMap β}, mapGet m i = none → mapErase m i = m
  | [], _ => rfl
  | (k, x) :: m, h => by
    rw [mapGet] at h
    rw [mapErase]
    split at h
    · cases h
    · next hk =>
      rw [if_neg hk]
      split at h
      · next hlt => rw [if_pos hlt]
      · next hlt => rw [if_neg hlt, mapErase_of_none h]

theorem zset_zset {w : Nat} {m : ZMap w} (h : zwf m = true) (i : Nat) (x : BitVec w) : zset (zset m i x) i x = zset m i x := by
  have hs : mapSorted none m = true := by
    simp only [zwf, Bool.and_eq_true] at h
    exact h.1
  by_cases hx : x = 0
  · simp only [zset, hx, if_true]
    exact mapErase_of_none (by rw [mapGet_mapErase _ _ _ hs, if_pos rfl])
  · simp only [zset, hx, if_false]
    exact mapSet_self (mapGet_mapSet_same ..)

/-- Lanes put their values into a register each, or into a shared one. -/
def Warp.puts (d : Dst) (v : Nat → W64) (ls : List Nat) (x : Warp) : Warp := ls.foldl (fun w l => w.put l d (v l) false) x

theorem Warp.orFlags_zero (w : Warp) : w.orFlags 0 = w := by simp [Warp.orFlags]

theorem Warp.put_put {x : Warp} (hx : x.canon = true) (n l k : Nat) (v : W64) :
    (x.put l (.s n) v false).put k (.s n) v false = x.put l (.s n) v false := by
  have hs : zwf x.s = true := by
    simp only [Warp.canon, Bool.and_eq_true] at hx
    exact hx.1.2
  simp [Warp.put, Warp.setS, Warp.clearErr, zset_zset hs, BitVec.and_assoc]

theorem Warp.puts_write {x : Warp} (hx : x.canon = true) {d : Dst} (hd : d.shared = false ∨ ∃ n, d = .s n) (v : Nat → W64)
    {ls : List Nat} (hv : d.shared = true → ∀ l ∈ ls, v l = v (ls.headD 0)) :
    x.puts d v ls = x.write d (ls.map fun l => (l, .ofVal (v l))) := by
  obtain hd | ⟨n, rfl⟩ := hd
  · simp only [Warp.write, hd, Bool.false_eq_true, if_false, List.foldl_map, Warp.puts]
    exact List.foldl_ext _ _ _ fun w l _ => (Warp.orFlags_zero _).symm
  · cases ls with
    | nil => exact (Warp.write_nil ..).symm
    | cons l ls =>
      have hflags : (l :: ls).foldl (fun f l => f ||| (Res.ofVal (v l)).flags) (0 : W32) = 0 := by
        refine List.foldl_fixed' (fun k => ?_) _
        show (0 : W32) ||| 0 = 0
        rfl
      have hput : ∀ ks : List Nat, (∀ k ∈ ks, k ∈ l :: ls) → (x.put l (.s n) (v l) false).puts (.s n) v ks = x.put l (.s n) (v l) false := by
        intro ks
        induction ks with
        | nil => exact fun _ => rfl
        | cons k ks ih =>
          intro hks
          obtain ⟨hk, hks⟩ := List.forall_mem_cons.1 hks
          have he : v k = v l := hv rfl k hk
          rw [Warp.puts, List.foldl_cons, he, Warp.put_put hx]
          exact ih hks
      rw [Warp.write_shared _ _ rfl, hflags, Warp.orFlags_zero]
      exact hput ls fun k hk => List.mem_cons_of_mem _ hk

/-- Predicates of the lanes. -/
def Warp.setPs (p : Nat) (b : Nat → Bool) (ls : List Nat) (x : Warp) : Warp :=
  x.modLanes (maskOf ls) fun l z => z.setP p (b l)

theorem Warp.setPs_cons {x : Warp} (p : Nat) (b : Nat → Bool) {l : Nat} (hl : l < 64) (ls : List Nat) :
    (x.modLane l (·.setP p (b l))).setPs p b ls = x.setPs p b (l :: ls) := by
  have hidem : ∀ z : Lane, (z.setP p (b l)).setP p (b l) = z.setP p (b l) := by
    intro z
    simp only [Lane.setP]
    split
    · rfl
    · have hset : ∀ m q : BitVec 15, (((q &&& ~~~m) ||| m) &&& ~~~m) ||| m = (q &&& ~~~m) ||| m := fun m q => by
        ext i hi
        cases hm : m[i] <;> simp [hm]
      cases b l
      · simp [BitVec.and_assoc]
      · simpa using hset (1#15 <<< p) z.p
  refine Warp.ext_lanes rfl (by simp [Warp.setPs]) fun k hk => ?_
  have hk' : k < x.lanes.length := by simpa [Warp.setPs] using hk
  simp only [Warp.setPs, Warp.lane_modLanes, Warp.lane_modLane, Warp.modLane_length, getLsbD_maskOf, List.contains_cons]
  by_cases he : k = l
  · subst he
    by_cases hm : ls.contains k = true <;> simp [hk', hl, hidem, hm]
  · simp [he]

theorem Warp.setPs_put (x : Warp) (p : Nat) (b : Nat → Bool) (ls : List Nat) {d : Dst} (hd : ∀ q, d ≠ .pred q) (l : Nat) (v : W64) :
    (x.setPs p b ls).put l d v false = (x.put l d v false).setPs p b ls := by
  have hcomm : ∀ g : Lane → Lane, (∀ z c, (g z).setP p c = g (z.setP p c)) →
      (x.setPs p b ls).modLane l g = (x.modLane l g).setPs p b ls := fun g hg => Warp.modLane_modLanes _ _ _ _ _ fun i z => hg z _
  have hv : ∀ n w (z : Lane) c, (z.setV n w).setP p c = (z.setP p c).setV n w := fun n w z c => by
    simp only [Lane.setP, Lane.setV]
    split <;> rfl
  cases d with
  | none => rfl
  | s n => rfl
  | sHi n => rfl
  | pred q => exact absurd rfl (hd q)
  | v32 n =>
    simp only [Warp.put, hcomm _ fun z c => hv n _ z c]
    rfl
  | v64 n =>
    simp only [Warp.put, hcomm (·.setV64 n v) fun z c => by simp only [Lane.setV64, hv]]
    rfl

/-- Lane by lane a value and a predicate. -/
theorem Warp.foldl_put_pred {d : Dst} (hd : ∀ q, d ≠ .pred q) (v : Nat → W64) (p : Nat) (b : Nat → Bool) {ls : List Nat}
    (hls : ∀ l ∈ ls, l < 64) : ∀ x : Warp,
    ls.foldl (fun w l => (w.put l d (v l) false).put l (.pred p) (if b l then 1 else 0) false) x = (x.setPs p b ls).puts d v ls := by
  induction ls with
  | nil => exact fun x => (Warp.modLanes_id _ _ _ (by simp)).symm
  | cons l ls ih =>
    intro x
    obtain ⟨hl, hls⟩ := List.forall_mem_cons.1 hls
    have hpred : ∀ w : Warp, w.put l (.pred p) (if b l then 1 else 0) false = w.modLane l (·.setP p (b l)) := fun w => by
      have hb : ((if b l then 1 else 0 : W64)).getLsbD 0 = b l := by cases b l <;> rfl
      rw [Warp.put, hb]
    rw [List.foldl_cons, ih hls, hpred, Warp.setPs_cons p b hl, Warp.puts, Warp.puts, List.foldl_cons, Warp.setPs_put _ _ _ _ hd]

end Sys2Proof.Machine
end

section
/-! PROOFS. Obligation O45: the lanes that wait for slots and claim them (R133, R248, R249). -/

namespace Sys2Proof.Machine

section
variable {s t : State} {r : Run} {x : RingAt} {y z : Ring}

/-! ## What commutes -/

/-- Lanes learn what those knew who last used the slots (R133). -/
def State.learnt (s : State) (r : Run) (x : RingAt) (ls : List Nat) : State :=
  ls.foldl (fun t l => t.learn x.agent [.lane r.gid r.w l]) s

theorem State.Lands.learnt (s : State) (r : Run) (x : RingAt) (ls : List Nat) : s.Lands (s.learnt r x ls) :=
  State.Lands.foldl (fun _ _ => .learn ..) ls s

theorem State.learnt_modWarp (f : Warp → Warp) (ls : List Nat) : ∀ s : State,
    (s.modWarp r.gid r.w f).learnt r x ls = (s.learnt r x ls).modWarp r.gid r.w f := by
  induction ls with
  | nil => exact fun _ => rfl
  | cons l ls ih => exact fun s => ih (s.learn x.agent [.lane r.gid r.w l])

theorem State.setRing_learn (s : State) (x : RingAt) (z : Option Ring) (a : Agent) (bs : List Agent) :
    (s.learn a bs).setRing x z = (s.setRing x z).learn a bs := by
  cases x <;> rfl

theorem State.setRing_modWarp {name : W32} (hx : s.ringAt r.gid r.g name = .ok x) (t : State) (z : Option Ring) (f : Warp → Warp) :
    (t.modWarp r.gid r.w f).setRing x z = (t.setRing x z).modWarp r.gid r.w f := by
  obtain ⟨i, rfl⟩ | ⟨d, i, rfl⟩ := State.ringAt_cases hx
  · simp only [State.setRing, State.modWarp, State.modGroup, mapMod_mapMod]
    rfl
  · rfl

theorem mapSet_mapSet {β : Type} (i : Nat) (a b : β) : ∀ m : KMap β, mapSet (mapSet m i a) i b = mapSet m i b
  | [] => by simp [mapSet]
  | (k, x) :: m => by
    rw [mapSet, mapSet]
    split
    · next h => simp [mapSet, h]
    · split
      · simp [mapSet]
      · next h1 h2 => rw [mapSet, if_neg h1, if_neg h2, mapSet_mapSet]

theorem State.setRing_setRing (t : State) (x : RingAt) (a b : Ring) : (t.setRing x (some a)).setRing x (some b) = t.setRing x (some b) := by
  cases x with
  | group gid i => simp only [State.setRing, State.modGroup, mapMod_mapMod, mapSet_mapSet]
  | loft d i => simp only [State.setRing, State.modDie, listMod_listMod, mapSet_mapSet]

/-! ## Lanes that write and go on -/

/-- The registers that the lanes of a run write, before they leave together. -/
def State.written (s : State) (r : Run) (d : Dst) (v : Nat → W64) : State :=
  s.modWarp r.gid r.w fun w => w.write d (r.act.map fun l => (l, .ofVal (v l)))

theorem State.written_nil (h : r.act = []) (d : Dst) (v : Nat → W64) : s.written r d v = s := by
  refine State.modWarp_id _ _ _ _ ?_
  rw [h]
  exact Warp.write_nil _ _

theorem Stands.written (h : Stands s r) (d : Dst) (v : Nat → W64) : Stands (s.written r d v) r := by
  obtain ⟨-, hlen, -⟩ := Warp.write_spec _ h.canon d r.act (fun l => .ofVal (v l)) (fun l hl => h.len l (h.sub l hl)) h.nodup
  exact h.modWarp _ hlen (Warp.canon_write h.canon ..)

theorem Calm.written (h : Stands s r) (c : Calm s r) (d : Dst) (v : Nat → W64) : Calm (s.written r d v) r := by
  obtain ⟨-, -, hlane, -⟩ := Warp.write_spec _ h.canon d r.act (fun l => .ofVal (v l)) (fun l hl => h.len l (h.sub l hl)) h.nodup
  obtain ⟨g, hg, hw⟩ := h.group
  refine ⟨fun l hl w hy => c.windows l hl w ?_, c.soft⟩
  rw [State.written, State.warp_modWarp _ _ _ _ hg hw, hlane] at hy
  split at hy
  · simpa using hy
  · exact hy

theorem State.written_completes (h : Stands s r) (c : Calm s r) (d : Dst) (v : Nat → W64) :
    Completes s ((s.written r d v).moved r fun _ => nextSlot r.pc).nextStamp r false d fun l => .ofVal (v l) := by
  have hf := State.finish_short h c false false d (fun l => .ofVal (v l)) fun _ _ => rfl
  rw [State.finish_calm c false false false d (fun l => .ofVal (v l)) fun _ _ => rfl, State.modWarp_id _ _ _ (Warp.countChecks r false) rfl] at hf
  rwa [← State.advance_calm (h.written d v) (c.written h d v)]

/-! ## RINGW (R249) -/

/-- What RINGW does for a lane. -/
def Run.waitLane (r : Run) (m : RingwMod) (acc : State × List (Nat × Hop)) (l : Nat) : State × List (Nat × Hop) :=
  let x := r.waitSlot l
  let n := x.2.1
  match acc.1.useRing r.gid r.g x.1 with
  | .error f => (acc.1, acc.2 ++ [(l, .flt f)])
  | .ok (_, y) =>
    if n < y.freed ∧ !x.2.2 then (acc.1, acc.2 ++ [(l, .flt (ringMisuse 5))])
    else if n < y.filled then
      ((acc.1.modWarp r.gid r.w fun w =>
        (w.put l (r.dst .dstV) (BitVec.ofNat 64 (n % y.slots)) false).put l (.pred m.k.toNat)
          (if n / y.slots % 2 = 1 then 1 else 0) false).learnRing r x.1 [r.agent l],
       acc.2 ++ [(l, .go (nextSlot r.pc))])
    else (acc.1, acc.2 ++ [(l, .wait (.ringw x.1 (BitVec.ofNat 64 n)))])

theorem exec_ringw {o : Ops} {m : RingwMod} (h : Issues (.ringw o m) s r) : exec (.ringw o m) s
    = .next ((r.act.foldl (r.waitLane m) (s, [])).1.transfer r false (r.act.foldl (r.waitLane m) (s, [])).2) := by
  obtain rfl : r.o = o := (Run.of_runOf h.run).2.2.1
  exact issued_next h _ _

theorem Run.waitSlot_eq {l : Nat} (hl : (r.snap.lane l).wait = .none) : r.waitSlot l = (r.rd32 l r.o.a, r.num l, false) := by
  rw [Run.waitSlot, hl]

/-- Lanes that stay, one hop each. -/
theorem Run.foldl_waitLane_stay {m : RingwMod} {hop : Nat → Hop} {ls : List Nat} (hstay : ∀ l ∈ ls, ∀ hs,
    r.waitLane m (s, hs) l = (s, hs ++ [(l, hop l)])) : ∀ hs, ls.foldl (r.waitLane m) (s, hs) = (s, hs ++ ls.map fun l => (l, hop l)) := by
  induction ls with
  | nil => exact fun hs => by simp
  | cons l ls ih =>
    obtain ⟨hl, hls⟩ := List.forall_mem_cons.1 hstay
    exact fun hs => by rw [List.foldl_cons, hl, ih hls]; simp

/-- The slot is not filled, or a lane asks for one that is gone. -/
theorem exec_ringw_stay {o : Ops} {m : RingwMod} (h : Issues (.ringw o m) s r) (hf : Fresh r)
    (hname : ∀ l ∈ r.act, s.useRing r.gid r.g (r.rd32 l r.o.a) = .ok (x, y)) {hop : Nat → Hop}
    (hhop : ∀ l ∈ r.act, hop l = if r.num l < y.freed then .flt (ringMisuse 5) else .wait (.ringw (r.rd32 l r.o.a) (BitVec.ofNat 64 (r.num l))))
    (hn : ∀ l ∈ r.act, ¬(y.freed ≤ r.num l ∧ r.num l < y.filled)) :
    exec (.ringw o m) s = .next (s.transfer r false (r.act.map fun l => (l, hop l))) := by
  rw [exec_ringw h, Run.foldl_waitLane_stay (hop := hop) fun l hl hs => ?_]
  · rfl
  · rw [Run.waitLane]
    simp only [Run.waitSlot_eq (hf l hl), hname l hl, hhop l hl]
    by_cases hlt : r.num l < y.freed
    · simp [hlt]
    · have : ¬r.num l < y.filled := fun h => hn l hl ⟨by omega, h⟩
      simp [hlt, this]

theorem Run.foldl_waitLane_go {m : RingwMod} {ls : List Nat} (hls : ∀ l ∈ ls, (r.snap.lane l).wait = .none
      ∧ s.useRing r.gid r.g (r.rd32 l r.o.a) = .ok (x, y) ∧ y.freed ≤ r.num l ∧ r.num l < y.filled) :
    ∀ {t : State}, Uses s r x t y → ∀ hs, ls.foldl (r.waitLane m) (t, hs)
      = ((t.learnt r x ls).modWarp r.gid r.w fun w => ls.foldl (fun w l =>
          (w.put l (r.dst .dstV) (BitVec.ofNat 64 (r.num l % 2 ^ y.k)) false).put l (.pred m.k.toNat)
            (if decide (r.num l / 2 ^ y.k % 2 = 1) = true then 1 else 0) false) w,
        hs ++ ls.map fun l => (l, .go (nextSlot r.pc))) := by
  induction ls with
  | nil => exact fun _ hs => by rw [List.map_nil, List.append_nil]; exact congrArg (·, hs) (State.modWarp_id _ _ _ _ rfl).symm
  | cons l ls ih =>
    intro t u hs
    obtain ⟨⟨hw, hname, h1, h2⟩, hls⟩ := List.forall_mem_cons.1 hls
    have hstep : r.waitLane m (t, hs) l = (((t.learn x.agent [.lane r.gid r.w l]).modWarp r.gid r.w fun w =>
        (w.put l (r.dst .dstV) (BitVec.ofNat 64 (r.num l % 2 ^ y.k)) false).put l (.pred m.k.toNat)
            (if decide (r.num l / 2 ^ y.k % 2 = 1) = true then 1 else 0) false), hs ++ [(l, .go (nextSlot r.pc))]) := by
      rw [Run.waitLane]
      simp only [Run.waitSlot_eq hw, u.useRing hname rfl, show ¬r.num l < y.freed by omega, h2, false_and, if_true, if_false,
        decide_eq_true_eq, Ring.slots]
      rw [State.learnRing, (u.modWarp _).names, (State.useRing_ok hname).1]
      rfl
    rw [List.foldl_cons, hstep, ih hls ((u.learn _ _).modWarp _), State.learnt_modWarp, State.modWarp_modWarp]
    simp only [List.map_cons, List.append_assoc, List.singleton_append]
    rfl

theorem Run.dst_dstV (r : Run) : (∀ q, r.dst .dstV ≠ .pred q) ∧ ((r.dst .dstV).shared = false ∨ ∃ n, r.dst .dstV = .s n)
    ∧ ((r.dst .dstV).shared = true → isS r.o.d = true) := by
  by_cases hv : isV r.o.d = true <;> by_cases hs : isS r.o.d = true <;> simp [Run.dst, hv, hs, Dst.shared]

theorem Run.num_head {l : Nat} (hd : isS r.o.d = true) (hl : l ∈ r.act) : r.num l = r.num (r.act.headD 0) := by
  have h := Run.rd64_src hl .zero r.o.b
  rw [Run.src, if_pos hd] at h
  rw [Run.num, Run.num, h]

theorem Warp.canon_setPs {w : Warp} (h : w.canon = true) (p : Nat) (b : Nat → Bool) (ls : List Nat) : (w.setPs p b ls).canon = true :=
  Warp.canon_modLanes h _ fun l z hz => by
    rw [Lane.setP]
    split <;> exact hz

theorem Stands.setPs (h : Stands s r) (p : Nat) (b : Nat → Bool) (ls : List Nat) :
    Stands (s.modWarp r.gid r.w (Warp.setPs p b ls)) r := h.modWarp _ (by simp [Warp.setPs]) (Warp.canon_setPs h.canon ..)

theorem Calm.setPs (c : Calm s r) (h : Stands s r) (p : Nat) (b : Nat → Bool) (ls : List Nat) :
    Calm (s.modWarp r.gid r.w (Warp.setPs p b ls)) r := by
  obtain ⟨g, hg, hw⟩ := h.group
  refine ⟨fun l hl z hz => c.windows l hl z ?_, c.soft⟩
  have hwin : ∀ (y : Lane) (q : Bool), (y.setP p q).windows = y.windows := fun y q => by
    rw [Lane.setP]
    split <;> rfl
  rw [State.warp_modWarp _ _ _ _ hg hw, Warp.setPs, Warp.lane_modLanes] at hz
  split at hz
  · rwa [hwin] at hz
  · exact hz

theorem exec_ringw_go {o : Ops} {m : RingwMod} (h : Issues (.ringw o m) s r) (hf : Fresh r) (c : Calm s r)
    (hname : ∀ l ∈ r.act, s.useRing r.gid r.g (r.rd32 l r.o.a) = .ok (x, y))
    (hn : ∀ l ∈ r.act, y.freed ≤ r.num l ∧ r.num l < y.filled) :
    ∃ t, exec (.ringw o m) s = .next t
      ∧ Completes ((s.modWarp r.gid r.w (Warp.setPs m.k.toNat (fun l => decide (r.num l / 2 ^ y.k % 2 = 1)) r.act)).learnt r x r.act)
        t.nextStamp r false (r.dst .dstV) fun l => .ofVal (BitVec.ofNat 64 (r.num l % 2 ^ y.k)) := by
  set X := (s.modWarp r.gid r.w (Warp.setPs m.k.toNat (fun l => decide (r.num l / 2 ^ y.k % 2 = 1)) r.act)).learnt r x r.act with hX
  obtain ⟨hd1, hd2, hd3⟩ := Run.dst_dstV r
  have hs := h.stands
  have hsX : Stands X r := (hs.setPs ..).lands (.learnt ..)
  have hcX : Calm X r := (c.setPs hs ..).lands (.learnt ..)
  have hsame : (r.dst .dstV).shared = true → ∀ l ∈ r.act,
      BitVec.ofNat 64 (r.num l % 2 ^ y.k) = BitVec.ofNat 64 (r.num (r.act.headD 0) % 2 ^ y.k) := fun hd l hl => by
    rw [Run.num_head (hd3 hd) hl]
  have hall : (r.act.foldl (r.waitLane m) (s, []))
      = (X.written r (r.dst .dstV) fun l => BitVec.ofNat 64 (r.num l % 2 ^ y.k), r.act.map fun l => (l, .go (nextSlot r.pc))) := by
    by_cases hne : r.act = []
    · have hXs : X = s := by
        rw [hX, hne]
        exact State.modWarp_id _ _ _ _ (Warp.modLanes_id _ _ _ (by simp))
      rw [hXs, State.written_nil hne, hne]
      rfl
    obtain ⟨k, hk⟩ := List.exists_mem_of_ne_nil _ hne
    rw [Run.foldl_waitLane_go (fun l hl => ⟨hf l hl, hname l hl, hn l hl⟩) (.start (hname k hk)), List.nil_append, hX,
      State.learnt_modWarp, State.written, State.modWarp_modWarp]
    refine congrArg (·, _) (State.modWarp_congr _ _ _ _ _ ?_)
    rw [Warp.foldl_put_pred hd1 (fun l => BitVec.ofNat 64 (r.num l % 2 ^ y.k)) _ _ fun l hl => hs.lt l (hs.sub l hl)]
    exact Warp.puts_write (Warp.canon_setPs (hs.lands (.learnt ..)).canon ..) hd2 _ hsame
  refine ⟨_, exec_ringw h, ?_⟩
  rw [hall, State.transfer_go (hsX.written _ _) (hcX.written hsX _ _) hf]
  simpa using State.written_completes hsX hcX (r.dst .dstV) fun l => BitVec.ofNat 64 (r.num l % 2 ^ y.k)

end

end Sys2Proof.Machine
end

section
/-! PROOFS. Obligation O45: slots are claimed (R133, R248), and the obligation. -/

namespace Sys2Proof.Machine

section
variable {s t : State} {r : Run} {x : RingAt} {y z : Ring}

/-! ## RINGP.TAKE (R248) -/

theorem Run.takeRing_eq {l : Nat} (hl : (r.snap.lane l).wait = .none) : r.takeRing l = r.rd32 l r.o.a := by
  rw [Run.takeRing, hl]

/-- The real ones of some lanes. -/
abbrev Run.realOf (r : Run) (ls : List Nat) : List Nat := ls.filter fun l => (r.snap.lane l).isReal

/-- The ring with some more slots claimed. -/
def Ring.claim (y : Ring) (n : Nat) : Ring := { y with claimed := y.claimed + n }

theorem Ring.claim_claim (y : Ring) (n m : Nat) : (y.claim n).claim m = y.claim (n + m) := by
  simp [Ring.claim, Nat.add_assoc]

/-- The state with them; a run without real lanes claims none. -/
def State.claims (s : State) (x : RingAt) (y : Ring) (n : Nat) : State := if n = 0 then s else s.setRing x (some (y.claim n))

theorem State.claims_succ (s : State) (x : RingAt) (y : Ring) (n : Nat) :
    (s.setRing x (some (y.claim 1))).claims x (y.claim 1) n = s.claims x y (n + 1) := by
  rw [State.claims, State.claims, if_neg (Nat.succ_ne_zero n)]
  split
  · next h => rw [h]
  · rw [State.setRing_setRing, Ring.claim_claim, Nat.add_comm]

theorem State.claims_modWarp {name : W32} (hx : s.ringAt r.gid r.g name = .ok x) (t : State) (y : Ring) (n : Nat) (f : Warp → Warp) :
    (t.modWarp r.gid r.w f).claims x y n = (t.claims x y n).modWarp r.gid r.w f := by
  rw [State.claims, State.claims]
  split
  · rfl
  · exact State.setRing_modWarp hx t _ f

theorem State.claims_learn (t : State) (y : Ring) (n : Nat) (a : Agent) (bs : List Agent) :
    (t.learn a bs).claims x y n = (t.claims x y n).learn a bs := by
  rw [State.claims, State.claims]
  split
  · rfl
  · exact State.setRing_learn ..

/-- A lane that claims a slot, or as a helper receives 0. -/
theorem takeLane_go {d : Dst} {l : Nat} {y0 : Ring} (u : Uses s r x t y) (hw : (r.snap.lane l).wait = .none)
    (hname : s.useRing r.gid r.g (r.rd32 l r.o.a) = .ok (x, y0)) (ho : y.owner = y0.owner)
    (hfree : (r.snap.lane l).isReal = true → y.claimed - y.freed < 2 ^ y.k) (hs : List (Nat × Hop)) :
    takeLane r d (t, hs) l = ((((if (r.snap.lane l).isReal then t.setRing x (some (y.claim 1)) else t).learn x.agent [.lane r.gid r.w l]).modWarp
        r.gid r.w fun w => w.put l d (BitVec.ofNat 64 (if (r.snap.lane l).isReal then y.claimed else 0)) false),
      hs ++ [(l, .go (nextSlot r.pc))]) := by
  have huse := u.useRing hname ho
  obtain ⟨hx, -⟩ := State.useRing_ok hname
  rw [takeLane]
  simp only [Run.takeRing_eq hw]
  by_cases hreal : (r.snap.lane l).isReal = true
  · simp only [hreal, Bool.not_true, Bool.false_eq_true, if_false, if_true, State.ringTake, huse, Ring.slots, hfree hreal]
    rw [State.learnRing, ((u.setRing _).modWarp _).names, hx]
    rfl
  · simp only [hreal, Bool.not_false, if_true, huse, Bool.false_eq_true, if_false]
    rw [State.learnRing, (u.modWarp _).names, hx]
    rfl

theorem foldl_takeLane {d : Dst} {y0 : Ring} {v : Nat → Nat} {ls : List Nat} (hls : ∀ l ∈ ls, (r.snap.lane l).wait = .none
      ∧ s.useRing r.gid r.g (r.rd32 l r.o.a) = .ok (x, y0)) : ∀ {t : State} {y : Ring}, Uses s r x t y → y.owner = y0.owner →
    y.claimed + (r.realOf ls).length ≤ y.freed + 2 ^ y.k → y.freed ≤ y.claimed →
    (∀ pre l post, ls = pre ++ l :: post → v l = if (r.snap.lane l).isReal then y.claimed + (r.realOf pre).length else 0) →
    ∀ hs, ls.foldl (takeLane r d) (t, hs) = ((((t.claims x y (r.realOf ls).length).learnt r x ls).modWarp r.gid r.w
        (Warp.puts d (fun l => BitVec.ofNat 64 (v l)) ls)), hs ++ ls.map fun l => (l, .go (nextSlot r.pc))) := by
  induction ls with
  | nil =>
    intro t y u ho hle hfc hv hs
    rw [List.map_nil, List.append_nil]
    exact congrArg (·, hs) (State.modWarp_id _ _ _ _ rfl).symm
  | cons l ls ih =>
    intro t y u ho hle hfc hv hs
    obtain ⟨⟨hw, hname⟩, hls⟩ := List.forall_mem_cons.1 hls
    have hx := (State.useRing_ok hname).1
    have hvl := hv [] l ls rfl
    have hval : ∀ k post pre, ls = pre ++ k :: post → v k = if (r.snap.lane k).isReal then
        y.claimed + (r.realOf (l :: pre)).length else 0 := fun k post pre e => hv (l :: pre) k post (by rw [e]; rfl)
    have hlast : ∀ T : State, (((T.learn x.agent [.lane r.gid r.w l]).modWarp r.gid r.w fun w =>
        w.put l d (BitVec.ofNat 64 (v l)) false).learnt r x ls).modWarp r.gid r.w (Warp.puts d (fun l => BitVec.ofNat 64 (v l)) ls)
        = (T.learnt r x (l :: ls)).modWarp r.gid r.w (Warp.puts d (fun l => BitVec.ofNat 64 (v l)) (l :: ls)) := fun T => by
      rw [State.learnt_modWarp, State.modWarp_modWarp]
      rfl
    rw [List.foldl_cons, takeLane_go u hw hname ho fun hreal => ?_]
    · by_cases hreal : (r.snap.lane l).isReal = true
      · have hf : ∀ ls, r.realOf (l :: ls) = l :: r.realOf ls := fun _ =>
          List.filter_cons_of_pos (p := fun l => (r.snap.lane l).isReal) hreal
        rw [hf, List.length_cons] at hle
        have hput : v l = y.claimed := by simpa [hreal] using hvl
        simp only [hreal, if_true]
        rw [ih hls (((u.setRing _).learn _ _).modWarp _) (y := y.claim 1) ho (by simp only [Ring.claim]; omega)
          (by simp only [Ring.claim]; omega) fun pre k post e => ?_, State.claims_modWarp hx, State.claims_learn, State.claims_succ,
          ← hput, hlast, hf, List.length_cons]
        · simp
        · rw [hval k post pre e, hf, List.length_cons]
          simp only [Ring.claim, Nat.add_assoc, Nat.add_comm 1]
      · have hf : ∀ ls, r.realOf (l :: ls) = r.realOf ls := fun _ =>
          List.filter_cons_of_neg (p := fun l => (r.snap.lane l).isReal) hreal
        rw [hf] at hle
        have hput : v l = 0 := by simpa [hreal] using hvl
        simp only [hreal, if_false, Bool.false_eq_true]
        rw [ih hls ((u.learn _ _).modWarp _) ho hle hfc fun pre k post e => ?_, State.claims_modWarp hx, State.claims_learn,
          ← hput, hlast, hf]
        · simp
        · rw [hval k post pre e, hf]
    · have hf : r.realOf (l :: ls) = l :: r.realOf ls := List.filter_cons_of_pos (p := fun l => (r.snap.lane l).isReal) hreal
      rw [hf, List.length_cons] at hle
      omega

/-- What RINGP.TAKE gives a run. -/
def State.takeAll (s : State) (r : Run) (d : Dst) : State × List (Nat × Hop) :=
  if isS r.o.d then
    match r.act with
    | [] => (s, [])
    | l :: _ =>
      ((takeLane r d (s, []) l).1, r.act.map fun k => (k, ((takeLane r d (s, []) l).2.head?.map (·.2)).getD (.go (nextSlot r.pc))))
  else r.act.foldl (takeLane r d) (s, [])

theorem exec_ringpTake {o : Ops} (h : Issues (.ringpTake o) s r) : exec (.ringpTake o) s
    = .next ((s.takeAll r (r.dst .dst64)).1.transfer r false (s.takeAll r (r.dst .dst64)).2) := by
  obtain rfl : r.o = o := (Run.of_runOf h.run).2.2.1
  exact issued_next h _ _

theorem Run.dst_dst64 (r : Run) : (isS r.o.d = true → ∃ n, r.dst .dst64 = .s n) ∧ (isS r.o.d = false → (r.dst .dst64).shared = false) := by
  have hv : isS r.o.d = true → isV r.o.d = false := fun hs => by
    simp only [isS, isV, Bool.and_eq_true, decide_eq_true_eq, decide_eq_false_iff_not] at hs ⊢
    omega
  refine ⟨fun hs => ⟨sNum r.o.d, by simp [Run.dst, hs, hv hs]⟩, fun hs => ?_⟩
  by_cases hv : isV r.o.d = true <;> simp [Run.dst, hv, hs, Dst.shared]

theorem Run.act_sorted {o : Ops} (h : s.runOf o = some r) : r.act.Pairwise (· < ·) := by
  rw [Run.act_eq h, (Run.of_runOf h).2.2.2.2.2.2.1]
  exact (List.Pairwise.filter _ List.pairwise_lt_range).filter _

/-- The real lanes before a lane. -/
theorem Run.realOf_before {l : Nat} {pre post : List Nat} (h : (pre ++ l :: post).Pairwise (· < ·)) :
    (r.realOf (pre ++ l :: post)).filter (· < l) = r.realOf pre := by
  obtain ⟨-, h2, h3⟩ := List.pairwise_append.1 h
  have hpre : (r.realOf pre).filter (· < l) = r.realOf pre := by
    rw [List.filter_eq_self]
    intro k hk
    exact decide_eq_true (h3 k (List.mem_filter.1 hk).1 l List.mem_cons_self)
  have hpost : (r.realOf (l :: post)).filter (· < l) = [] := by
    rw [List.filter_eq_nil_iff]
    intro k hk
    obtain rfl | hk := List.mem_cons.1 (List.mem_filter.1 hk).1
    · simp
    · have := List.rel_of_pairwise_cons h2 hk
      simp only [decide_eq_true_eq]
      omega
  rw [Run.realOf, List.filter_append, List.filter_append, hpre, hpost, List.append_nil]

/-- Does the lowest issuing lane claim? -/
def Run.headReal (r : Run) : Bool := match r.act with
  | [] => false
  | l :: _ => (r.snap.lane l).isReal

/-- How many slots the run claims, and which each of its lanes is given. -/
def Run.takes (r : Run) : Nat := if isS r.o.d then (if r.headReal then 1 else 0) else (r.realOf r.act).length
def Run.slot (r : Run) (y : Ring) (l : Nat) : Nat :=
  if isS r.o.d then (if r.headReal then y.claimed else 0)
  else if (r.snap.lane l).isReal then y.claimed + ((r.realOf r.act).filter (· < l)).length else 0

/-- The state where the slots are claimed, and those who claim know what those knew who released them (R133). -/
def State.taken (s : State) (r : Run) (x : RingAt) (y : Ring) : State :=
  (s.claims x y r.takes).learnt r x (if isS r.o.d then r.act.take 1 else r.act)

theorem Stands.taken (h : Stands s r) (x : RingAt) (y : Ring) : Stands (s.taken r x y) r := by
  have hc : Stands (s.claims x y r.takes) r := by
    rw [State.claims]
    split
    · exact h
    · exact h.setRing _ _
  exact hc.lands (.learnt ..)

theorem Calm.taken (c : Calm s r) (x : RingAt) (y : Ring) : Calm (s.taken r x y) r := by
  have hc : Calm (s.claims x y r.takes) r := by
    rw [State.claims]
    split
    · exact c
    · exact c.setRing _ _
  exact hc.lands (.learnt ..)

/-- A shared register holds what the lowest lane puts there (R30). -/
theorem Warp.puts_head (x : Warp) (n : Nat) (v : Nat → W64) (l : Nat) (ls : List Nat) :
    x.puts (.s n) v [l] = x.write (.s n) ((l :: ls).map fun l => (l, .ofVal (v l))) := by
  have hflags : (l :: ls).foldl (fun f l => f ||| (Res.ofVal (v l)).flags) (0 : W32) = 0 := by
    refine List.foldl_fixed' (fun k => ?_) _
    show (0 : W32) ||| 0 = 0
    rfl
  rw [Warp.write_shared _ _ rfl, hflags, Warp.orFlags_zero]
  rfl

theorem State.takeAll_go {o : Ops} (h : Issues (.ringpTake o) s r) (hf : Fresh r)
    (hname : ∀ l ∈ r.act, s.useRing r.gid r.g (r.rd32 l r.o.a) = .ok (x, y)) (hle : y.claimed + r.takes ≤ y.freed + 2 ^ y.k)
    (hfc : y.freed ≤ y.claimed) : s.takeAll r (r.dst .dst64)
      = ((s.taken r x y).written r (r.dst .dst64) fun l => BitVec.ofNat 64 (r.slot y l), r.act.map fun l => (l, .go (nextSlot r.pc))) := by
  obtain ⟨hd1, hd2⟩ := Run.dst_dst64 r
  rw [State.takeAll]
  by_cases hs : isS r.o.d = true
  · rw [if_pos hs]
    obtain ⟨n, hd⟩ := hd1 hs
    cases hact : r.act with
    | nil =>
      have hx : s.taken r x y = s := by simp [State.taken, Run.takes, Run.headReal, hact, hs, State.claims, State.learnt]
      rw [hx, State.written_nil hact]
      rfl
    | cons l ls =>
      have hl : l ∈ r.act := hact ▸ List.mem_cons_self
      have hhead : r.headReal = (r.snap.lane l).isReal := by rw [Run.headReal, hact]
      have htakes : (r.realOf [l]).length = r.takes := by
        rw [Run.takes, if_pos hs, hhead]
        cases hr : (r.snap.lane l).isReal <;> simp [hr]
      have hone := foldl_takeLane (d := r.dst .dst64) (v := r.slot y) (ls := [l]) (fun k hk => by
          obtain rfl := List.mem_singleton.1 hk
          exact ⟨hf k hl, hname k hl⟩) (.start (hname l hl)) rfl (by rw [htakes]; exact hle) hfc (fun pre k post e => by
          obtain ⟨rfl, rfl, rfl⟩ : pre = [] ∧ k = l ∧ post = [] := by
            cases pre <;> simp_all
          simp [Run.slot, hs, hhead]) []
      rw [List.foldl_cons, List.foldl_nil, List.nil_append] at hone
      have hwrite : (s.taken r x y).modWarp r.gid r.w (Warp.puts (r.dst .dst64) (fun l => BitVec.ofNat 64 (r.slot y l)) [l])
          = (s.taken r x y).written r (r.dst .dst64) fun l => BitVec.ofNat 64 (r.slot y l) := by
        rw [State.written, hact, hd]
        exact State.modWarp_congr _ _ _ _ _ (Warp.puts_head ..)
      rw [← hwrite, State.taken, if_pos hs, hact, ← htakes]
      simp only [hone]
      rfl
  · rw [if_neg hs]
    by_cases hne : r.act = []
    · have hx : s.taken r x y = s := by simp [State.taken, Run.takes, hne, hs, State.claims, State.learnt]
      rw [hx, State.written_nil hne, hne]
      rfl
    obtain ⟨k, hk⟩ := List.exists_mem_of_ne_nil _ hne
    have htakes : (r.realOf r.act).length = r.takes := by rw [Run.takes, if_neg hs]
    have hsort := Run.act_sorted h.run
    rw [foldl_takeLane (v := r.slot y) (fun l hl => ⟨hf l hl, hname l hl⟩) (.start (hname k hk)) rfl (by rw [htakes]; exact hle) hfc
      fun pre l post e => ?_, List.nil_append]
    · refine congrArg (·, _) ?_
      rw [State.taken, if_neg hs, htakes]
      refine State.modWarp_congr _ _ _ _ _ (Warp.puts_write ?_ (.inl (hd2 (by simpa using hs))) _ fun hd => ?_)
      · have := (h.stands.taken x y).canon
        rwa [State.taken, if_neg hs] at this
      · rw [hd2 (by simpa using hs)] at hd
        cases hd
    · rw [Run.slot, if_neg hs, e, Run.realOf_before (e ▸ hsort)]

theorem exec_ringpTake_go {o : Ops} (h : Issues (.ringpTake o) s r) (hf : Fresh r) (c : Calm s r)
    (hname : ∀ l ∈ r.act, s.useRing r.gid r.g (r.rd32 l r.o.a) = .ok (x, y)) (hle : y.claimed + r.takes ≤ y.freed + 2 ^ y.k)
    (hfc : y.freed ≤ y.claimed) : ∃ t, exec (.ringpTake o) s = .next t ∧ Completes (s.taken r x y) t.nextStamp r false (r.dst .dst64)
      fun l => .ofVal (BitVec.ofNat 64 (r.slot y l)) := by
  have hs := h.stands.taken x y
  have hc := c.taken x y
  refine ⟨_, exec_ringpTake h, ?_⟩
  rw [State.takeAll_go h hf hname hle hfc, State.transfer_go (hs.written _ _) (hc.written hs _ _) hf]
  simpa using State.written_completes hs hc (r.dst .dst64) fun l => BitVec.ofNat 64 (r.slot y l)

/-- No slot is free: the lanes wait for their ring. -/
theorem exec_ringpTake_waits {o : Ops} (h : Issues (.ringpTake o) s r) (hf : Fresh r)
    (hname : ∀ l ∈ r.act, s.useRing r.gid r.g (r.rd32 l r.o.a) = .ok (x, y)) (ha : r.act = r.ls) (hd : r.d.isDuet = false)
    (hreal : ∀ l ∈ r.act, (r.snap.lane l).isReal = true) (hfull : y.claimed = y.freed + 2 ^ y.k) :
    exec (.ringpTake o) s
      = .next (s.waiting r fun l => .ringp (r.rd32 (if isS r.o.d then r.act.headD 0 else l) r.o.a)) := by
  have hstep : ∀ l ∈ r.act, ∀ hs, takeLane r (r.dst .dst64) (s, hs) l = (s, hs ++ [(l, .wait (.ringp (r.rd32 l r.o.a)))]) :=
    fun l hl hs => by
      have hno : ¬y.claimed - y.freed < 2 ^ y.k := by omega
      simp only [takeLane, Run.takeRing_eq (hf l hl), hreal l hl, Bool.not_true, Bool.false_eq_true, if_false, State.ringTake,
        hname l hl, Ring.slots, hno]
  have hall : s.takeAll r (r.dst .dst64)
      = (s, r.act.map fun l => (l, .wait (.ringp (r.rd32 (if isS r.o.d then r.act.headD 0 else l) r.o.a)))) := by
    rw [State.takeAll]
    by_cases hs : isS r.o.d = true
    · rw [if_pos hs]
      cases hact : r.act with
      | nil => rfl
      | cons l ls =>
        simp only [hstep l (hact ▸ List.mem_cons_self), hs, if_true]
        rfl
    · rw [if_neg hs]
      have hfold : ∀ (ls : List Nat) hs, (∀ l ∈ ls, l ∈ r.act) → ls.foldl (takeLane r (r.dst .dst64)) (s, hs)
          = (s, hs ++ ls.map fun l => (l, .wait (.ringp (r.rd32 l r.o.a)))) := by
        intro ls
        induction ls with
        | nil => exact fun hs _ => by simp
        | cons l ls ih =>
          intro hs hls
          obtain ⟨hl, hls⟩ := List.forall_mem_cons.1 hls
          rw [List.foldl_cons, hstep l hl, ih _ hls]
          simp
      rw [hfold r.act [] fun _ h => h]
      simp [hs]
  rw [exec_ringpTake h, hall, State.transfer_wait (.of_run h.run hd) ha hf fun _ _ => rfl]

/-- Settles O45, a lemma for each instruction: `Uses` follows the ring through the steps of a run, `Ring.Marked` says what
a mark leaves, and the registers that the lanes write one after the other are those that `written` writes at once. -/
theorem stageRings : Obligations.StageRings := by
  unfold Obligations.StageRings
  intro misuse reals named num marked learnt
  refine ⟨fun o s r h c hl => exec_ringi_none h c hl, ?_, ?_, ?_, ?_, ?_, ?_⟩
  · intro o s r l x h hl nm cfg size k base legal fits idle hb hx
    obtain rfl : r.o = o := (Run.of_runOf h.run).2.2.1
    refine ⟨fun c hi h0 => ?_, fun c hi h0 hleg hfit => ?_, fun ha hi => ?_, fun ha hi h0 hleg => ?_⟩
    · have ht : s.ringInit r l = .ok ((s.drainMask r.gid r.w (oneLane l)).setRing x none) := by
        rw [State.ringInit_eq hx, State.ringBusy_eq hi]
        exact if_pos h0
      exact exec_ringi_ok h hl hb ht ((h.stands.lands (.drainMask ..)).setRing _ _) ((c.lands (.drainMask ..)).setRing _ _)
    · have hok : ringCfgOk (r.ringCfg l).cfg = true := (ringCfgOk_eq _).trans (decide_eq_true hleg)
      have ht : s.ringInit r l = .ok (s.ringMade r l x) := by
        rw [State.ringInit_eq hx, State.ringBusy_eq hi, if_neg Bool.false_ne_true, if_neg (c := (r.ringCfg l).cfg = 0) h0, hok, if_neg (by simp),
          State.ringArea_none (base := (r.ringCfg l).base) (n := (r.ringCfg l).size * 2 ^ (r.ringCfg l).k) hfit]
      exact exec_ringi_ok h hl hb ht (h.stands.ringMade l x) (c.ringMade l x)
    · refine exec_ringi_error h hl hb ha ?_
      rw [State.ringInit_eq hx, State.ringBusy_of hi, if_pos rfl]
      rfl
    · have hok : ringCfgOk (r.ringCfg l).cfg = false := (ringCfgOk_eq _).trans (decide_eq_false hleg)
      refine exec_ringi_error h hl hb ha ?_
      rw [State.ringInit_eq hx, State.ringBusy_eq hi, if_neg Bool.false_ne_true, if_neg (c := (r.ringCfg l).cfg = 0) h0, hok, if_pos (by simp)]
      rfl
  · intro o s r x y h hf hname lead n slot
    obtain rfl : r.o = o := (Run.of_runOf h.run).2.2.1
    exact ⟨fun c hle hfc => exec_ringpTake_go h hf c hname hle hfc, fun ha hd hreal hfull =>
      exec_ringpTake_waits h hf hname ha hd (fun l hl => (List.mem_filter.1 (show l ∈ reals r from hreal ▸ ha ▸ hl)).2) hfull⟩
  · intro o s r x y h hname bad
    rw [exec_ringpFill h]
    exact ⟨fun c hok hinj => congrArg _ (Run.markLane_done marks_fill h.toBegins c hname 3 hok hinj),
      fun ha hbad => congrArg _ (Run.markLane_bad h.toBegins hname 3 ha hbad)⟩
  · intro o s r x y h hname bad
    rw [exec_ringr h]
    exact ⟨fun c hok hinj => congrArg _ (Run.markLane_done marks_release h.toBegins c hname 4 hok hinj),
      fun ha hbad => congrArg _ (Run.markLane_bad h.toBegins hname 4 ha hbad)⟩
  · intro o m s r x y h hf hname
    obtain rfl : r.o = o := (Run.of_runOf h.run).2.2.1
    refine ⟨fun c hn => exec_ringw_go h hf c hname hn, fun ha hd hn => ?_, fun ha hn => ?_⟩
    · rw [exec_ringw_stay h hf hname (hop := fun l => .wait (.ringw (r.rd32 l r.o.a) (BitVec.ofNat 64 (r.num l))))
          (fun l hl => (if_neg (not_lt.2 (hn l hl).1)).symm) (fun l hl hin => absurd hin.2 (not_lt.2 (hn l hl).2)),
        State.transfer_wait (.of_run h.run hd) ha hf fun _ _ => rfl]
    · rw [exec_ringw_stay h hf hname (hop := fun _ => .flt (ringMisuse 5)) (fun l hl => (if_pos (hn l hl)).symm)
          (fun l hl hin => absurd (hn l hl) (not_lt.2 hin.1)),
        State.transfer_flt h.noPre ha]
      rfl
  · intro y n
    refine ⟨fun hn hm => ?_, fun hn hm => ?_⟩
    · obtain ⟨h1, h2, h3, -, h4, h5⟩ := y.fill_marked n
      exact ⟨h1, h2, h4, h5, h3⟩
    · obtain ⟨h1, h2, h3, -, h4, h5⟩ := y.release_marked n
      exact ⟨congrArg Ring.flip h1, h2, h4, h5, h3⟩

end

end Sys2Proof.Machine
end

section
/-! PROOFS. Obligation O55: nodes complete (R133, R150, R401, R406, R407, R452, R455). -/

namespace Sys2Proof.Machine

section
variable {s : State} {c n : Nat} {x : Ctx} {y : Node}

/-- The cues of a context and a node of it change, in either order (R406). -/
theorem State.modCtx_cues_modNode (s : State) (c n : Nat) (f : Node → Node) (g : Ctx → KMap (List Byte)) (hg : ∀ x m, g { x with nodes := m } = g x) :
    (s.modCtx c fun x => { x with cues := g x }).modNode c n f = (s.modNode c n f).modCtx c fun x => { x with cues := g x } := by
  simp only [State.modNode, State.modCtx, mapMod_mapMod, hg]

/-! ## The event -/

theorem State.exec_nodeComplete (hx : s.ctx c = some x) (hy : s.node c n = some y) : exec (.nodeComplete c n) s
    = .next (if s.canComplete c n x y then s.completeNode c n y (!y.failed && !y.aborted) else s) := by
  change execNodeComplete c n s = _
  simp only [execNodeComplete, hx, hy]

/-- No control node that is ready comes before this one (R455). -/
def State.FirstCtl (s : State) (y : Node) : Prop :=
  ∀ p ∈ s.ctxs, ∀ q ∈ p.2.nodes, q.2.live = true → q.2.complete = false → q.2.desc.ctl ≠ 0 →
    ∀ a b, q.2.board = some a → y.board = some b → b ≤ a

theorem State.ctlReady_some (hy : s.node c n = some y) (hl : y.live = true) (hc : y.complete = false) (hb : y.board.isSome = true)
    (hf : s.FirstCtl y) : s.ctlReady c n y.desc.ctl = some y := by
  rw [State.ctlReady, hy, Option.filter_some, if_pos]
  simp only [hl, hc, hb, beq_self_eq_true, Bool.not_false, Bool.and_self, Bool.true_and, Bool.not_eq_true', List.any_eq_false,
    List.any_eq_true, Bool.and_eq_true, bne_iff_ne, not_exists, not_and]
  rintro p hp q hq ⟨⟨h1, h2⟩, h3⟩
  have hle := hf p hp q hq h1 h2 h3
  cases hq : q.2.board with
  | none => simp
  | some a => cases hy : y.board with
    | none => simp
    | some b => simpa using hle a b hq hy

theorem State.ctlAct_eq {ctl : Nat} (h : s.ctlReady c n ctl = some y) (f : State → Node → State) :
    ctlAct c n ctl f s = .next ((f s y).completeNode c n y true) := by
  rw [ctlAct, h]

/-! ## HOST ranges (R453, R455) -/

theorem State.handOver_same {o : Obj} (ho : s.obj c (capObj (y.desc.ops.getD 0 0)) = some o) : s.handOver c y o.hostOwned = s := by
  rw [State.handOver, ho, Option.any_some, bne_self_eq_false]
  rfl

theorem State.handOver_other {o : Obj} (ho : s.obj c (capObj (y.desc.ops.getD 0 0)) = some o) {host : Bool} (hh : o.hostOwned = !host) :
    s.handOver c y host = (if host then s.drain fun w => w.op.isSome && w.ctx == c else s).modObj c (capObj (y.desc.ops.getD 0 0))
      fun o => { o with hostOwned := host, gen := if host then o.gen else o.gen + 1 } := by
  have hne : (o.hostOwned != host) = true := by rw [hh]; cases host <;> rfl
  rw [State.handOver, ho, Option.any_some, hne]
  rfl

/-! ## The launch queue (R407, R451) -/

theorem State.advanceLq_next {q place : Nat} {x : LQueue} (hx : mapGet s.lqs q = some x) (hp : place = x.counter + 1) (hd : x.done = []) :
    s.advanceLq q place = { s with
      lqs := mapSet s.lqs q { x with counter := place, done := [] }
      hostOut := s.hostOut ++ [{ addr := x.completion, bytes := bytesOfWord 8 place }] } := by
  subst hp
  simp [State.advanceLq, hx, hd, LQueue.pass]

theorem State.advanceLq_ahead {q place : Nat} {x : LQueue} (hx : mapGet s.lqs q = some x) (hp : x.counter + 1 ≠ place)
    (hd : x.counter + 1 ∉ x.done) :
    s.advanceLq q place = { s with lqs := mapSet s.lqs q { x with done := x.done ++ [place] } } := by
  simp [State.advanceLq, hx, LQueue.pass, hd, hp]

end

/-- Settles O55: a node's end is written here as the model does it, but for the order of two changes of its context. -/
theorem nodesComplete : Obligations.NodesComplete := by
  unfold Obligations.NodesComplete
  intro reports ends last
  have hends : ∀ (s : State) (c n : Nat) (y : Node) (ok : Bool), s.completeNode c n y ok = last s (ends s c n y ok) c y := by
    intro s c n y ok
    have hcomm := State.modCtx_cues_modNode s c n
      (fun y => { y with complete := true, live := false, handles := [], board := none })
      (fun x => y.handles.foldl (fun m h => mapErase m h.2) x.cues) fun _ _ => rfl
    rw [State.completeNode, hcomm]
    rfl
  refine ⟨?_, ?_, ?_⟩
  · intro c n s x y hx hy hl hc hctl
    refine ⟨fun hq => ?_, fun hq hf => ?_, fun hq hf ha hb hr hd => ?_⟩
    · rw [State.exec_nodeComplete hx hy, State.canComplete, hq, Bool.and_false, if_neg Bool.false_ne_true]
    · have hok : (!y.failed && !y.aborted) = false := by
        obtain h | h := hf <;> simp [h]
      have hcan : s.canComplete c n x y = true := by
        obtain h | h := hf <;> simp [State.canComplete, hl, hc, hctl, hq, h]
      rw [State.exec_nodeComplete hx hy, if_pos hcan, hok, hends]
    · have hcan : s.canComplete c n x y = true := by simp [State.canComplete, hl, hc, hctl, hq, hb, Ctx.allOut, hr, hd]
      rw [State.exec_nodeComplete hx hy, if_pos hcan, hf, ha, hends]
      rfl
  · intro c n s y hy hl hc hb hfirst i does
    have hready := fun ctl (h : y.desc.ctl = ctl) => h ▸ State.ctlReady_some hy hl hc hb hfirst
    have hact : ∀ {ctl : Nat} (h : y.desc.ctl = ctl) (f : State → Node → State),
        ctlAct c n ctl f s = .next (last (f s y) (ends (f s y) c n y true) c y) := fun h f => by
      rw [State.ctlAct_eq (hready _ h), hends]
    have hto : ∀ {host : Bool} {ctl : Nat} {t : State}, y.desc.ctl = ctl → s.handOver c y host = t →
        ctlAct c n ctl (fun s y => s.handOver c y host) s = .next (last t (ends t c n y true) c y) := fun h ht =>
      ht ▸ hact h fun s y => s.handOver c y _
    exact ⟨fun o h1 ho => ⟨fun hh => hto h1 (hh ▸ State.handOver_same ho), fun hh => hto h1 (State.handOver_other ho hh)⟩,
      fun o h2 ho => ⟨fun hh => hto h2 (hh ▸ State.handOver_same ho), fun hh => hto h2 (State.handOver_other ho hh)⟩,
      fun h3 => hact h3 fun s _ => s⟩
  · exact fun s q place x hx => ⟨State.advanceLq_next hx, State.advanceLq_ahead hx⟩

end Sys2Proof.Machine
end

section
/-! PROOFS. Obligation O46 fails: the number of the read of CUEB where an atomic of its lane lands first (R142, R318). -/

namespace Sys2Proof.Machine.CueAfterAtomic

/-- An atomic of lane 0 is on its way to address 0 of shared memory. -/
def atomic : PWrite :=
  { cycle := 0, gid := 0, warp := 0, lane := 0, op := none, rels := [], seen := false, space := .shared 0, addr := 0
    bytes := [0, 0, 0, 0], ord := .rc, release := false, obj := none, ctx := 1, node := 0
    rmw := some { win := 0, fn := .atom .add, c := 0, shared := false }, late := [] }

/-- A kernel of one warp with 256 bytes of shared memory, all zero; the instruction issues to lane 0. -/
def before : State :=
  let s := (State.reset.withFetchWord 96 0).modNode 1 0 fun n => { n with desc := { n.desc with shared := 256 } }
  { s with agenda := [], writes := [atomic], issue := some { gid := 0, warp := 0, lanes := 1, pc := 0, snap := s.warp 0 0, busy := 1
                                                             cycle := 0, out := 0, pre := [] } }

/-- A `CUEB` of the 96 bytes from address 0, no legal record; the atomic's bytes are among them. -/
def fields : Ops := { g := { neg := false, p := 15 }, la := 0, d := 0xC8, a := 4, b := 0xF0, c := 0xF0, imm := 0 }

def modifier : FlagMod := { b := false }

def run : Run := (before.runOf fields).get (by decide +kernel)

theorem issues : Issues (.cueb fields modifier) before run where
  run := (Option.some_get _).symm
  legal := by decide +kernel
  limits := by decide +kernel
  noErr := by decide +kernel
  lanes := by decide +kernel
  live := by decide +kernel
  first := by decide +kernel
  canon := by decide +kernel
  noTag := by decide +kernel

theorem calm : Calm before run where
  windows := by decide +kernel
  soft := by decide +kernel

/-- The atomic lands first, which takes a number, and the read has the next. -/
theorem exec_numbers_read :
    (match exec (.cueb fields modifier) before with | .next t => t.loads.map (·.id) | _ => []) = [before.stamp + 1] := by
  decide +kernel

end Sys2Proof.Machine.CueAfterAtomic

namespace Sys2Proof.Machine

theorem OnlyWarp.loads {s t : State} {gid w : Nat} (h : OnlyWarp s t gid w) : t.loads = s.loads := (congrArg State.loads h :)

/-- Refutes O46: the clauses on CUEB number the read by the state before the instruction, but the lane's own atomics on
the record land before it, and each landing takes a number of its own. -/
theorem not_cuesAndScrimStatus : ¬ Obligations.CuesAndScrimStatus := by
  intro h
  obtain ⟨hcueb, _⟩ := h
  obtain ⟨_, hlead⟩ := hcueb CueAfterAtomic.fields CueAfterAtomic.modifier CueAfterAtomic.before CueAfterAtomic.run
    CueAfterAtomic.issues CueAfterAtomic.calm
  obtain ⟨hbad, _⟩ := hlead 0 (.shared 0) 0 (by decide +kernel) false (by decide +kernel)
    (by rw [if_neg (by decide)]; decide +kernel)
  obtain ⟨t, ht, hopens⟩ := hbad (by decide +kernel)
  have hread := CueAfterAtomic.exec_numbers_read
  rw [ht] at hread
  simp only [OnlyWarp.loads hopens.rest] at hread
  revert hread
  decide +kernel

end Sys2Proof.Machine
end

section
/-! PROOFS. Obligation O49: the events of the crossings between dies (R252, R375, R384, R385, R387). -/

namespace Sys2Proof.Machine

/-! ## Reads of an operation that has nothing on its way -/

section
variable {s : State} {x : Op} {e : End} {n : Nat}

/-- A read inside an endpoint is a read at the start of what is left of it. -/
theorem State.readEnd_shift (k : Nat) : s.readEnd x e (k : Int) n = s.readEnd x { e with off := e.off + k } 0 n := by
  have hspan : e.span (k : Int) n = End.span { e with off := e.off + k } 0 n := by
    simp only [End.span, Nat.cast_add, Int.add_zero]
  have hparts : s.partsOf x e .read (k : Int) n = s.partsOf x { e with off := e.off + k } .read 0 n := by
    simp only [State.partsOf, hspan, State.homes, Nat.cast_add, Int.add_zero]
  rw [State.readEnd, hparts, State.readEnd]

/-- A read of one part. -/
theorem State.readEnd_part {p : Part} {lo : Int} (hp : s.partsOf x e .read lo n = .ok [p]) (hb : s.badRead p.space p.addr p.n = false)
    (hw : ∀ w ∈ s.writes, w.agent ≠ x.agent) : s.readEnd x e lo n
      = .ok (s.readAs x.agent (s.keyOf x.ctx) p.space p.addr p.n, s.noteRead x.agent p.space p.addr p.n none) := by
  have hso : s.soOp x [p] = s := by
    rw [State.soOp]
    split
    · exact State.drain_none fun w h => by rw [beq_eq_false_iff_ne.2 (hw w h), Bool.false_and]
    · rfl
  have hbad : ([p].any fun h => s.badRead h.space h.addr h.n) = false := by
    rw [List.any_cons, List.any_nil, Bool.or_false]
    exact hb
  simp only [State.readEnd, hp, hbad, hso, State.fixParts_none hw, Bool.false_eq_true, if_false, List.flatMap_cons, List.flatMap_nil,
    List.append_nil, List.foldl_cons, List.foldl_nil]

/-- A read puts nothing on its way. -/
theorem State.noteRead_agents {b : Agent} (hw : ∀ w ∈ s.writes, w.agent ≠ b) (a : Agent) (sp : Space) (i n : Nat) :
    ∀ w ∈ (s.noteRead a sp i n none).writes, w.agent ≠ b := by
  intro w h
  obtain ⟨v, hv, rfl⟩ := List.mem_map.1 h
  have hag : (if v.agent == a && touches v.space v.addr v.bytes.length sp i n then { v with seen := true } else v).agent = v.agent := by
    split <;> rfl
  rw [hag]
  exact hw v hv

end

/-! ## CROSSING_START (R384) -/

section
variable {s : State} {id : Nat} {x : Op} {back loft keepy : Bool} {src d : W64}

theorem exec_crossingStart (h : s.op id = some x) (hk : x.kind = .cross back loft keepy src d) (hs : x.started = false)
    (he : s.earlierCross x (·.started) = false) : exec (.crossingStart id) s
      = .next (match s.crossRun x back loft keepy src d with
        | .error w => s.modOp id fun y => { y with started := true, moved := true, status := w }
        | .ok (t, bytes, st) => t.modOp id fun y =>
          { y with started := true, moved := true, stats := st
                   slots := [{ pieces := [(0, bytes)], count := bytes.length, status := 0 }] }) := by
  change execCrossingStart id s = _
  rw [execCrossingStart]
  simp only [h, hk, hs, he, Bool.or_self, Bool.false_eq_true, if_false] <;> rfl

/-- A bank that holds the context's own contents is used as it is (R375). -/
theorem State.useBank_own {c die b : Nat} (h : (s.bank die b).holder = some c) : s.useBank c die b = .ok s := if_pos h

/-- The vectors of a crossing are read from shared memory one after another. -/
theorem State.readVectors {e : End} {n : Nat} {place : Nat → Nat} {off : Nat → Nat} (f : List Byte → Crossed) (vs : List Nat) :
    ∀ (t : State) (acc : List (List Byte)), (∀ w ∈ t.writes, w.agent ≠ x.agent) → t.keyOf x.ctx = s.keyOf x.ctx →
    e.place = .shared x.gid → (∀ v ∈ vs, e.off + off v = place v ∧ place v + n ≤ e.len
      ∧ t.badRead (.shared x.gid) (place v) n = false) →
    let r := vs.foldl (fun (p : State × List (List Byte)) v =>
      (p.1.noteRead x.agent (.shared x.gid) (place v) n none,
       p.2 ++ [p.1.readAs x.agent (s.keyOf x.ctx) (.shared x.gid) (place v) n])) (t, acc)
    vs.foldl (fun (acc : Except Stop (State × List Crossed)) v =>
        acc.bind fun p => (p.1.readEnd x e ((off v : Nat) : Int) n).map fun q => (q.2, p.2 ++ [f q.1])) (.ok (t, acc.map f))
      = .ok (r.1, r.2.map f) := by
  induction vs with
  | nil => exact fun _ _ _ _ _ _ => rfl
  | cons v vs ih =>
    intro t acc hw hkey hpl hin
    obtain ⟨hoff, hlen, hbad⟩ := hin v (List.mem_cons_self ..)
    have hread : t.readEnd x e (off v : Int) n = .ok (t.readAs x.agent (s.keyOf x.ctx) (.shared x.gid) (place v) n,
        t.noteRead x.agent (.shared x.gid) (place v) n none) := by
      rw [State.readEnd_shift, ← hkey, ← hoff]
      exact State.readEnd_shared ⟨hpl, hoff ▸ hlen⟩ (hoff ▸ hbad) hw
    have hrest := ih (t.noteRead x.agent (.shared x.gid) (place v) n none)
      (acc ++ [t.readAs x.agent (s.keyOf x.ctx) (.shared x.gid) (place v) n]) (State.noteRead_agents hw _ _ _ _) hkey hpl
      fun u hu => hin u (List.mem_cons_of_mem v hu)
    rw [List.map_append] at hrest
    simp only [List.foldl_cons, Except.bind, hread, Except.map]
    exact hrest

theorem State.crossRun_shared {g : Group} {da la db rb : Nat} {a b : List Byte} (hg : s.group x.gid = some g)
    (hbanks : x.banks = [(da, la), (db, rb)]) (hl : (s.bank da la).holder = some x.ctx) (hr : (s.bank db rb).holder = some x.ctx)
    (ha : s.bankRec x.ctx da la = some a) (hb : s.bankRec x.ctx db rb = some b) (hh : (s.hops x.die db).isSome = true)
    (hw : ∀ w ∈ s.writes, w.agent ≠ x.agent) :
    let n := brK a * if back = true ∨ brBf a = true then 2 else 1
    let place := fun v : Nat => src.toNat + v * dVpitch d
    (∀ v, v < dNvec d → place v + n ≤ (s.desc g).shared ∧ s.badRead (.shared x.gid) (place v) n = false) →
    let r := (List.range (dNvec d)).foldl (fun (p : State × List (List Byte)) v =>
      (p.1.noteRead x.agent (.shared x.gid) (place v) n none,
       p.2 ++ [p.1.readAs x.agent (s.keyOf x.ctx) (.shared x.gid) (place v) n])) (s, [])
    s.crossRun x back false keepy src d = .ok (r.1, crossSlot back keepy a (r.2.map fun bs => crossOne back a b bs)) := by
  intro n place hin r
  have hlb : x.lbank = (da, la) := by rw [Op.lbank, hbanks]; rfl
  have hrb : x.rbank = (db, rb) := by rw [Op.rbank, hbanks]; rfl
  have hn : brK a * srcSize back a = n := by
    simp only [srcSize, n, Bool.or_eq_true]
  have hroute : (s.hops x.die db).isNone = false := by rw [← Option.not_isSome, hh]; rfl
  have hread := State.readVectors (s := s) (x := x) (e := { place := .shared x.gid, off := src.toNat, len := (s.desc g).shared })
    (n := n) (place := place) (off := fun v => v * dVpitch d) (crossOne back a b) (List.range (dNvec d)) s [] hw rfl rfl
    fun v hv => ⟨rfl, hin v (List.mem_range.1 hv)⟩
  simp only [State.crossRun, hlb, hrb, State.useBank_own hl, State.useBank_own hr, ha, hb, Option.getD_some, hroute,
    State.crossSource, hg, hn, Bool.false_eq_true, if_false]
  rw [List.map_nil] at hread
  rw [hread]

end

/-! ## ENGINE_RING_CLAIM of a crossing (R252, R385) -/

/-- The bytes of an operation at their home in a loft. -/
def Op.putLoft (x : Op) (die : Nat) (ord : Machine.Ord) (a : Nat) (bs : List Byte) (s : State) : State :=
  (s.commit { id := 0, by_ := x.agent, space := .loft die, addr := a, old := [], ord := ord, rels := []
              known := if ord = .uo then [] else [x.agent], wide := [], ctx := x.ctx, node := x.node } bs).1

/-- The slots of a loft ring are in reach of an operation, and no unit there is in error. -/
structure Op.Reaches (x : Op) (die : Nat) (cap : W64) (o : Obj) (s : State) : Prop where
  entry : s.capEntry x.ctx cap [.loft] = some o
  route : (s.hops x.die die).isSome = true
  clean : s.errUnits (.loft die) = []

section
variable {s : State} {x : Op} {die i : Nat} {o : Obj} {h : Ring} {cap : W64} {bs : List Byte}

theorem State.hops_setRing (s : State) (die i : Nat) (h : Option Ring) (a b : Nat) :
    (s.setRing (.loft die i) h).hops a b = s.hops a b :=
  State.hops_congr (fun k => by
    rw [State.die, State.setRing, State.modDie, listMod_getD]
    split
    · next hk => rw [hk.1]; rfl
    · rfl) a b

theorem Op.Reaches.setRing (r : x.Reaches die cap o s) (i : Nat) (h : Option Ring) : x.Reaches die cap o (s.setRing (.loft die i) h) :=
  ⟨r.entry, (congrArg Option.isSome (State.hops_setRing ..)).trans r.route, r.clean⟩

theorem Op.Reaches.learn (r : x.Reaches die cap o s) (a : Agent) (bs : List Agent) : x.Reaches die cap o (s.learn a bs) :=
  ⟨r.entry, r.route, r.clean⟩

/-- A write into a loft without errors is kept, and changes the loft's bytes alone. -/
theorem State.commit_loft {e : Recent} (he : s.errUnits (.loft die) = []) (hsp : e.space = .loft die) (bs : List Byte) :
    s.commit e bs = ({ s with
      loft := writeBytes s.loft (loftKey die e.addr) bs
      recent := s.recent ++ [{ e with id := s.stamp, old := s.readHome 0 (.loft die) e.addr bs.length }]
      stamp := s.stamp + 1 }, false) := by
  have hc := State.commit_clean (s := s) (e := e) (bs := bs) (by rw [hsp]; exact Space.noConfusion) fun u hu => by
    rw [hsp, he] at hu
    cases hu
  rw [hc, hsp]
  rfl

theorem Op.Reaches.putLoft (r : x.Reaches die cap o s) (ord : Machine.Ord) (a : Nat) (bs : List Byte) :
    x.Reaches die cap o (x.putLoft die ord a bs s) := by
  rw [Op.putLoft, State.commit_loft r.clean rfl]
  exact ⟨r.entry, r.route, r.clean⟩

theorem Op.putLoft_ringOf (he : s.errUnits (.loft die) = []) (ord : Machine.Ord) (a : Nat) (bs : List Byte) (y : RingAt) :
    (x.putLoft die ord a bs s).ringOf y = s.ringOf y := by
  rw [Op.putLoft, State.commit_loft he rfl]
  cases y <;> rfl

/-- Bytes inside a slot of a loft ring are inside its object. -/
theorem Ring.slot_within {c len off n : Nat} (hend : c + 2 ^ h.k * h.size ≤ len) (hoff : off + n ≤ h.size) (m : Nat) :
    c + (m % 2 ^ h.k * h.size + off) + n ≤ len := by
  have hm : m % 2 ^ h.k + 1 ≤ 2 ^ h.k := Nat.mod_lt _ (Nat.two_pow_pos _)
  have hle := Nat.mul_le_mul_right h.size hm
  rw [Nat.add_mul, Nat.one_mul] at hle
  omega

/-- A write into a slot of a loft ring in reach. -/
theorem State.writeSlot_loft (r : x.Reaches die h.base o s) (hr : rightWR &&& (capRights h.base &&& o.rights) = rightWR)
    (hp : o.placed = some die) (hend : capOff h.base + 2 ^ h.k * h.size ≤ o.len) (n : Nat) {off : Nat} (hoff : off + bs.length ≤ h.size)
    (hbs : bs ≠ []) : s.writeSlot x (.loft die i) h n off bs
      = (x.putLoft die o.ord (o.base + (capOff h.base + (n % 2 ^ h.k * h.size + off))) bs s, 0) := by
  have hne : bs.isEmpty = false := List.isEmpty_eq_false_iff.2 hbs
  have hin := Ring.slot_within hend hoff n
  have hcap : s.checkCap x.ctx h.base ((capOff h.base + (n % 2 ^ h.k * h.size + off) : Nat) : Int) bs.length rightWR [.loft] false false
      = .ok (o, capOff h.base + (n % 2 ^ h.k * h.size + off)) := by
    have hb : (decide (((capOff h.base + (n % 2 ^ h.k * h.size + off) : Nat) : Int) < 0)
        || decide ((o.len : Int) < ((capOff h.base + (n % 2 ^ h.k * h.size + off) : Nat) : Int) + bs.length)) = false := by
      simp only [Bool.or_eq_false_iff, decide_eq_false_iff_not]
      omega
    simp only [State.checkCap, r.entry, hr, ne_eq, not_true_eq_false, if_false, hb, hp, Option.isNone_some, Bool.and_false,
      Bool.false_and, Bool.false_eq_true, Int.toNat_natCast]
  have hroute : (s.hops x.die die).isNone = false := by rw [← Option.not_isSome, r.route]; rfl
  simp only [State.writeSlot, hne, Bool.false_eq_true, if_false, State.slotPart, Ring.slots, hcap, hp, Option.getD_some, hroute,
    State.writeNow, Op.putLoft]
  exact Prod.ext rfl (if_neg fun hlost =>
    Bool.false_ne_true ((congrArg Prod.snd (State.commit_loft r.clean rfl bs)).symm.trans hlost))

/-- The slot of a loft ring with its bytes and its trailer (R245, R316). -/
def State.loftFilled (s : State) (x : Op) (die i : Nat) (h : Ring) (o : Obj) (bs : List Byte) : State :=
  let p := o.base + (capOff h.base + h.claimed % 2 ^ h.k * h.size)
  let t := (s.setRing (.loft die i) (some { h with claimed := h.claimed + 1 })).learn (.ring true die i) [x.agent]
  let t := x.putLoft die o.ord (p + (h.size - 8)) (bytesOfWord 4 0x80000000 ++ bytesOfWord 4 bs.length) (x.putLoft die o.ord p bs t)
  (t.setRing (.loft die i) (some (({ h with claimed := h.claimed + 1 } : Ring).fill h.claimed))).learn x.agent [.ring true die i]

theorem State.fillSlot_loft (r : x.Reaches die h.base o s) (hr : rightWR &&& (capRights h.base &&& o.rights) = rightWR)
    (hp : o.placed = some die) (hend : capOff h.base + 2 ^ h.k * h.size ≤ o.len) (hring : s.ringOf (.loft die i) = some h)
    (hbs : bs ≠ []) (hfit : bs.length + 8 ≤ h.size) :
    s.fillSlot x (.loft die i) h { pieces := [(0, bs)], count := bs.length, status := 0 } = (s.loftFilled x die i h o bs, 0, true) := by
  set t := (s.setRing (.loft die i) (some { h with claimed := h.claimed + 1 })).learn (.ring true die i) [x.agent] with ht
  set p := o.base + (capOff h.base + h.claimed % 2 ^ h.k * h.size) with hpd
  set tr := bytesOfWord 4 0x80000000 ++ bytesOfWord 4 bs.length with htr
  have r1 : x.Reaches die h.base o t := (r.setRing i _).learn _ _
  have r2 := r1.putLoft o.ord p bs
  have hw1 : t.writeSlot x (.loft die i) h h.claimed 0 bs = (x.putLoft die o.ord p bs t, 0) :=
    State.writeSlot_loft r1 hr hp hend _ (by omega) hbs
  have hw2 : (x.putLoft die o.ord p bs t).writeSlot x (.loft die i) h h.claimed (h.size - 8) (trailer 0 bs.length)
      = (x.putLoft die o.ord (p + (h.size - 8)) tr (x.putLoft die o.ord p bs t), 0) := by
    rw [hpd, Nat.add_assoc, Nat.add_assoc]
    exact State.writeSlot_loft r2 hr hp hend _ (by
      have hlen : (trailer 0 bs.length).length = 8 := rfl
      omega) (List.cons_ne_nil _ _)
  have hkept : (x.putLoft die o.ord (p + (h.size - 8)) tr (x.putLoft die o.ord p bs t)).ringOf (.loft die i)
      = some { h with claimed := h.claimed + 1 } := by
    rw [Op.putLoft_ringOf r2.clean, Op.putLoft_ringOf r1.clean]
    exact State.ringOf_setRing hring _
  have hne : bs.isEmpty = false := List.isEmpty_eq_false_iff.2 hbs
  have hfit' : ¬h.size < 0 + bs.length + 8 := by omega
  have hpiece : Fill.piece x (.loft die i) h h.claimed x.overCode { s := t, status := 0, wrote := false } (0, bs)
      = { s := x.putLoft die o.ord p bs t, status := 0, wrote := true } := by
    simp only [Fill.piece, hne, Bool.false_eq_true, if_false, if_neg hfit', hw1]
    rfl
  have hclose : Fill.close x (.loft die i) h h.claimed 0 bs.length { s := x.putLoft die o.ord p bs t, status := 0, wrote := true }
      = { s := x.putLoft die o.ord (p + (h.size - 8)) tr (x.putLoft die o.ord p bs t), status := 0, wrote := true } := by
    simp only [Fill.close, hw2]
    rfl
  simp only [State.fillSlot, List.foldl_cons, List.foldl_nil, RingAt.agent, ← ht, hpiece, if_true, hclose, hkept]
  rfl

end

section
variable {s : State} {id : Nat} {x : Op} {back loft keepy : Bool} {src d : W64}

theorem exec_engineRingClaim_cross {y : Slot} {rest : List Slot} (h : s.op id = some x) (hk : x.kind = .cross back loft keepy src d)
    (hs : x.slots = y :: rest) : exec (.engineRingClaim id) s = .next (s.crossClaim x y) := by
  have hno : ¬x.kind.isCopy = true := by
    rw [hk]
    exact Bool.false_ne_true
  change execEngineRingClaim id s = _
  simp only [execEngineRingClaim, h, hs, if_neg hno]

/-- A claim that finds its turn and a ring with room takes, writes and fills the slot. -/
theorem State.crossClaim_loft {die i : Nat} {h : Ring} {o : Obj} {bs : List Byte} (hx : x.crossRing = .loft die i)
    (ht : (s.earlierCross x fun z => (z.moved && z.slots.isEmpty) || z.crossRing != x.crossRing) = false)
    (hring : s.ringOf (.loft die i) = some h) (ho : h.owner = x.ctx) (hfit : bs.length + 8 ≤ h.size)
    (hroom : h.claimed - h.freed < 2 ^ h.k) (hbs : bs ≠ []) (r : x.Reaches die h.base o s)
    (hr : rightWR &&& (capRights h.base &&& o.rights) = rightWR) (hp : o.placed = some die)
    (hend : capOff h.base + 2 ^ h.k * h.size ≤ o.len) :
    s.crossClaim x { pieces := [(0, bs)], count := bs.length, status := 0 }
      = (s.loftFilled x die i h o bs).modOp x.id fun z => { z with slots := [], status := 0, wrote := [(x.ctx, capObj h.base)] } := by
  have hfree : ¬h.slots ≤ h.claimed - h.freed := by
    rw [Ring.slots]
    omega
  rw [hx] at ht
  simp only [State.crossClaim, hx, ht, Bool.false_eq_true, if_false, hring, ho, ne_eq, not_true_eq_false, if_neg (Nat.not_lt.2 hfit),
    if_neg hfree, State.fillSlot_loft r hr hp hend hring hbs hfit, Ring.object, if_true]

end

/-! ## CROSSING_DELIVERY (R380, R385) -/

/-- A completed crossing or load is counted for its scrim context (R380, R388). -/
def State.scrimCounted (s : State) (x : Op) : State := s.modDie x.die fun d =>
  let o := (mapGet d.scrimStat (x.ectx - 0x40)).getD { sent := 0, sat := 0, nan := 0 }
  let n : ScrimStat := { sent := o.sent + 1, sat := o.sat + x.stats.sat, nan := o.nan + x.stats.nan }
  { d with scrimStat := mapSet d.scrimStat (x.ectx - 0x40) n }

section
variable {s : State} {id : Nat} {x y : Op} {back loft keepy : Bool} {src d : W64}

theorem State.addStat_scrim (h : 0x40 ≤ x.ectx) : s.addStat x = s.scrimCounted x := if_neg (Nat.not_lt.2 h)

theorem exec_crossingDelivery (h : s.op id = some x) (hk : x.kind = .cross back loft keepy src d) (hm : x.moved = true) :
    exec (.crossingDelivery id) s = .next
      (let t := match x.slots with
        | [] => s
        | y :: _ => s.crossClaim x y
      match t.op id with
      | none => t
      | some x => if x.slots.isEmpty then (t.addStat x).finishOp x else t) := by
  change execCrossingDelivery id s = _
  rw [execCrossingDelivery]
  simp only [h, hk, hm, Bool.not_true, Bool.false_eq_true, if_false] <;> rfl

theorem exec_crossingDelivery_filled (h : s.op id = some x) (hk : x.kind = .cross back loft keepy src d) (hm : x.moved = true)
    (hs : x.slots = []) : exec (.crossingDelivery id) s = .next ((s.addStat x).finishOp x) := by
  rw [exec_crossingDelivery h hk hm, hs]
  simp only [h, hs, List.isEmpty_nil, if_true]

/-! ## What a slot is filled with touches no operation -/

theorem State.ops_poke (s : State) (key : Nat) (sp : Space) (a : Nat) (bs : List Byte) : (s.poke key sp a bs).ops = s.ops := by
  cases sp <;> rfl

theorem State.ops_setErrUnits (s : State) (sp : Space) (us : List Nat) : (s.setErrUnits sp us).ops = s.ops := by
  cases sp <;> rfl

theorem State.ops_setRing (s : State) (r : RingAt) (h : Option Ring) : (s.setRing r h).ops = s.ops := by
  cases r <;> rfl

theorem State.ops_putHome (s : State) (key : Nat) (sp : Space) (a : Nat) (bs : List Byte) :
    (s.putHome key sp a bs).1.ops = s.ops := by
  have hbytes : ∀ (p : Byte × Nat → Bool) (t : State) (ps : List (Byte × Nat)), t.ops = s.ops →
      (ps.foldl (fun t q => if p q then t else t.poke key sp (a + q.2) [q.1]) t).ops = s.ops := fun p t ps ht =>
    List.foldlRecOn (motive := fun u => State.ops u = s.ops) ps _ ht fun u hu q _ => by
      split
      · exact hu
      · exact (State.ops_poke ..).trans hu
  rw [State.putHome]
  split
  · exact State.ops_poke ..
  · dsimp only
    split <;> exact hbytes _ _ _ (State.ops_setErrUnits ..)

theorem State.ops_commit (s : State) (e : Recent) (bs : List Byte) : (s.commit e bs).1.ops = s.ops := State.ops_putHome ..

theorem State.ops_writeSlot (s : State) (x : Op) (r : RingAt) (h : Ring) (n off : Nat) (bs : List Byte) :
    (s.writeSlot x r h n off bs).1.ops = s.ops := by
  rw [State.writeSlot]
  split
  · rfl
  · split
    · rfl
    · exact State.ops_commit ..

theorem Fill.ops_piece (x : Op) (r : RingAt) (h : Ring) (n code : Nat) (acc : Fill) (p : Nat × List Byte) :
    (acc.piece x r h n code p).s.ops = acc.s.ops := by
  rw [Fill.piece]
  split
  · rfl
  · dsimp only
    split
    · rfl
    · exact State.ops_writeSlot ..

theorem Fill.ops_close (x : Op) (r : RingAt) (h : Ring) (n : Nat) (status : W32) (count : Nat) (acc : Fill) :
    (acc.close x r h n status count).s.ops = acc.s.ops := State.ops_writeSlot ..

theorem State.ops_fillSlot (s : State) (x : Op) (r : RingAt) (h : Ring) (y : Slot) : (s.fillSlot x r h y).1.ops = s.ops := by
  set t := (s.setRing r (some { h with claimed := h.claimed + 1 })).learn r.agent [x.agent] with ht
  set w := y.pieces.foldl (Fill.piece x r h h.claimed x.overCode) { s := t, status := 0, wrote := false } with hw
  have htops : t.ops = s.ops := State.ops_setRing ..
  have hwops : w.s.ops = s.ops := List.foldlRecOn (motive := fun a : Fill => a.s.ops = s.ops) y.pieces _ htops fun a ha p _ =>
    (Fill.ops_piece ..).trans ha
  have hfill : (if w.status = 0 then w.close x r h h.claimed y.status y.count
      else (({ w with status := 0 } : Fill).piece x r h h.claimed 5 (0, List.replicate (h.size - 8) 0)).close x r h h.claimed
        (statusWord w.status 0) 0).s.ops = s.ops := by
    split
    · exact (Fill.ops_close ..).trans hwops
    · exact (Fill.ops_close ..).trans ((Fill.ops_piece ..).trans hwops)
  rw [State.fillSlot]
  simp only [← ht, ← hw]
  split
  · exact (State.ops_setRing ..).trans hfill
  · exact hfill

/-- A claim leaves what a crossing is. -/
theorem State.crossClaim_keeps {z : Op} {v : Slot} (h : s.op x.id = some x) (hz : (s.crossClaim x v).op x.id = some z) :
    z.kind = x.kind ∧ z.moved = x.moved := by
  have hsame : ∀ (t : State) (f : Op → Op), (t.modOp x.id f).op x.id = some z → t.ops = s.ops → (∀ y, (f y).id = y.id) →
      (∀ y, (f y).kind = y.kind ∧ (f y).moved = y.moved) → z.kind = x.kind ∧ z.moved = x.moved := fun t f hfz ht hid hf => by
    have hop : t.op x.id = some x := (congrArg (List.find? _) ht).trans h
    rw [State.op_modOp hop hid] at hfz
    obtain rfl := Option.some.inj hfz
    exact hf x
  have hstay : s.op x.id = some z → z.kind = x.kind ∧ z.moved = x.moved := fun hs => by
    obtain rfl := Option.some.inj (h.symm.trans hs)
    exact ⟨rfl, rfl⟩
  have hfail : ∀ w, (s.modOp x.id fun y => { y with slots := [], status := w }).op x.id = some z →
      z.kind = x.kind ∧ z.moved = x.moved := fun w hw =>
    hsame s _ hw rfl (fun _ => rfl) fun _ => ⟨rfl, rfl⟩
  rw [State.crossClaim] at hz
  dsimp only at hz
  split at hz
  · exact hstay hz
  split at hz
  · exact hfail _ hz
  split at hz
  · exact hfail _ hz
  split at hz
  · exact hfail _ hz
  split at hz
  · exact hstay hz
  · exact hsame _ _ hz (State.ops_fillSlot ..) (fun _ => rfl) fun _ => ⟨rfl, rfl⟩

/-- A delivery that is not yet claimed claims first. -/
theorem exec_crossingDelivery_claims {u : State} {z : Op} (h : s.op id = some x) (hk : x.kind = .cross back loft keepy src d)
    (hm : x.moved = true) (hu : exec (.engineRingClaim id) s = .next u) (hz : u.op id = some z) (hs : x.slots ≠ [])
    (hzs : z.slots = []) : exec (.crossingDelivery id) s = exec (.crossingDelivery id) u := by
  obtain rfl := State.id_of_op h
  obtain ⟨v, rest, hv⟩ := List.exists_cons_of_ne_nil hs
  obtain rfl : s.crossClaim x v = u := Host.Outcome.next.inj ((exec_engineRingClaim_cross h hk hv).symm.trans hu)
  obtain ⟨hkind, hmoved⟩ := State.crossClaim_keeps h hz
  rw [exec_crossingDelivery_filled hz (hkind.trans hk) (hmoved.trans hm) hzs, exec_crossingDelivery h hk hm, hv]
  simp only [hz, hzs, List.isEmpty_nil, if_true]

end

/-! ## XBANK_LOAD_COMPLETE (R375, R387) -/

section
variable {s : State} {id : Nat} {x : Op} {src : W64} {b die p : Nat} {o : Obj}

theorem exec_xbankLoadComplete (h : s.op id = some x) (hk : x.kind = .xbank src b die) (hs : x.started = false) :
    exec (.xbankLoadComplete id) s = .next (match (s.startLoad x src die).op id with
      | none => s.startLoad x src die
      | some y => (s.startLoad x src die).endBank y b die) := by
  change execXbankLoadComplete id s = _
  rw [execXbankLoadComplete]
  simp only [h, hk, hs, Bool.false_eq_true, if_false] <;> cases (s.startLoad x src die).op id <;> rfl

/-- The endpoint that a capability of a loft object names. -/
def loftEnd (cap : W64) (o : Obj) : End := { place := .obj (capObj cap) o, off := capOff cap, len := o.len }

theorem State.endpoint_loft (hc : capObj src ≠ 0xFFFFF) (he : s.capEntry x.ctx src [.loft] = some o)
    (hr : rightRD &&& (capRights src &&& o.rights) = rightRD) : s.endpoint x src rightRD [.loft] = .ok (loftEnd src o) := by
  rw [State.endpoint, if_neg (show ¬capObj src = sharedObj from hc), he]
  exact if_neg (not_not_intro hr)

theorem State.capEntry_loft (he : s.capEntry x.ctx src [.loft] = some o) : o.kind = .loft := by
  rw [State.capEntry] at he
  split at he
  · cases he
  · have hkind := (Bool.and_eq_true_iff.1 (Option.filter_eq_some_iff.1 he).2).2
    simpa using hkind

/-- The one part of bytes at the place of a loft object. -/
theorem State.partsOf_loft {n : Nat} (hk : o.kind = .loft) (hp : o.placed = some p) (hh : (s.hops x.die p).isSome = true)
    (hn : capOff src + n ≤ o.len) (acc : Acc) : s.partsOf x (loftEnd src o) acc 0 n
      = .ok [{ space := .loft p, addr := o.base + capOff src, n := n, ord := o.ord }] := by
  have hspan : (loftEnd src o).span 0 n = .ok () := by
    have hin : ¬((((loftEnd src o).off : Nat) : Int) + 0 < 0 ∨ (((loftEnd src o).len : Nat) : Int) < (((loftEnd src o).off : Nat) : Int) + 0 + n) := by
      simp only [loftEnd]
      omega
    rw [End.span, if_neg hin]
    simp only [loftEnd, hp, Option.isNone_some, Bool.and_false, Bool.false_eq_true, if_false]
  have hroute : (s.hops x.die p).isNone = false := by rw [← Option.not_isSome, hh]; rfl
  rw [State.partsOf, hspan]
  simp only [State.homes, loftEnd, hk, hp, Option.getD_some, hroute, Bool.false_eq_true, if_false, Int.add_zero, Int.toNat_natCast]

theorem State.badRead_clean {sp : Space} (h : s.errUnits sp = []) (a n : Nat) : s.badRead sp a n = false := by
  rw [State.badRead, h]
  rfl

/-- A record in a loft in reach, without errors there, is read head first (R387). -/
theorem State.loadRec_loft (hc : capObj src ≠ 0xFFFFF) (he : s.capEntry x.ctx src [.loft] = some o)
    (hr : rightRD &&& (capRights src &&& o.rights) = rightRD) (hp : o.placed = some p) (hh : (s.hops x.die p).isSome = true)
    (ha : capOff src % 16 = 0) (herr : s.errUnits (.loft p) = []) (hw : ∀ w ∈ s.writes, w.agent ≠ x.agent) :
    let a := o.base + capOff src
    let key := s.keyOf x.ctx
    let n := brSize (s.readAs x.agent key (.loft p) a 16)
    let head := s.noteRead x.agent (.loft p) a 16 none
    brOk (s.readAs x.agent key (.loft p) a 16) = true → 16 ≤ n → capOff src + n ≤ o.len →
    s.loadRec x src = .ok (head.noteRead x.agent (.loft p) a n none, head.readAs x.agent key (.loft p) a n) := by
  intro a key n head hok h16 hlen
  have hkind := State.capEntry_loft he
  have hhead : s.readEnd x (loftEnd src o) 0 16 = .ok (s.readAs x.agent key (.loft p) a 16, head) :=
    State.readEnd_part (State.partsOf_loft hkind hp hh (by omega) .read) (State.badRead_clean herr ..) hw
  have hbody : head.readEnd x (loftEnd src o) 0 n
      = .ok (head.readAs x.agent key (.loft p) a n, head.noteRead x.agent (.loft p) a n none) :=
    State.readEnd_part (State.partsOf_loft (s := head) hkind hp hh hlen .read) (State.badRead_clean herr ..)
      (State.noteRead_agents hw _ _ _ _)
  have hoff : ¬(loftEnd src o).off % 16 ≠ 0 := not_not_intro ha
  rw [State.loadRec, State.endpoint_loft hc he hr]
  simp only [bind, Except.bind, if_neg hoff, hhead, hok, if_true]
  rw [hbody]

theorem State.ops_noteRead (s : State) (a : Agent) (sp : Space) (i n : Nat) : (s.noteRead a sp i n none).ops = s.ops := rfl

theorem State.bank_noteRead (s : State) (a : Agent) (sp : Space) (i n die b : Nat) :
    (s.noteRead a sp i n none).bank die b = s.bank die b := rfl

/-- A bank that is free of other contexts is taken without saving any contents. -/
theorem State.evict_free {c : Nat} (h : (s.bank die b).holder = none ∨ (s.bank die b).holder = some c) : s.evict c die b = some s := by
  rw [State.evict]
  rcases h with h | h <;> rw [h]
  exact if_pos rfl

/-- An operation of a group that stays completes with its status, or with the one that its last writes gave it (R440). -/
theorem State.finishOp_opDone {g : Group} :
    let t := s.drainOp x
    let st := (t.op x.id).map (·.status)
    t.group x.gid = some g → g.res ≠ .draining →
    s.finishOp x = t.opDone x (if st = (s.op x.id).map (·.status) then x.status else st.getD x.status) g := by
  intro t st hg hr
  have hframe := State.foldl_bumpGen_frame x.wrote t
  rw [State.finishOp, State.opDone]
  generalize x.wrote.foldl (fun s p => s.bumpGen p.1 p.2) t = u at hframe
  generalize u.ctxs = cs at hframe
  subst hframe
  have hgu : State.group { t with
      ctxs := cs
      ops := t.ops.filter fun y => y.id != x.id
      walks := t.walks.filter fun w => w.who != Walker.op x.id } x.gid = some g := hg
  simp only [State.completeOp, hgu]
  refine State.drained_self (g := g) ?_ hr
  rw [← hg]
  exact congrArg (mapGet · x.gid) (State.modEctx_groups ..)

/-- A load of a record ends with success: it is counted and completes. -/
theorem State.endLoad_ok {g : Group} {bs : List Byte} (h : s.op x.id = some { x with started := true, record := bs })
    (hc : 0x40 ≤ x.ectx) :
    let t := (s.scrimCounted x).drainOp x
    let st := (t.op x.id).map (·.status)
    t.group x.gid = some g → g.res ≠ .draining →
    s.endLoad { x with started := true, record := bs } 0 = t.opDone x (if st = some x.status then 0 else st.getD 0) g := by
  intro t st hg hr
  have hop : (s.scrimCounted x).op x.id = some { x with started := true, record := bs } := h
  have hfin := State.finishOp_opDone (s := s.scrimCounted x) (x := { x with started := true, record := bs, status := 0 }) hg hr
  rw [hop] at hfin
  have hstat : s.addStat { x with started := true, record := bs, status := 0 } = s.scrimCounted x := State.addStat_scrim hc
  rw [State.endLoad]
  dsimp only
  rw [hstat]
  exact hfin

/-- No crossing that came before the load still has to use the bank once the load has started. -/
theorem State.bankInUse_modOp (hid : x.id = id) {f : Op → Op} (hf : ∀ y, (f y).id = y.id) {y : Op} (hy : y.id = x.id) :
    (s.modOp id f).bankInUse y die b = s.bankInUse x die b := by
  have hone : ∀ z : Op, (decide ((if z.id == id then f z else z).id < y.id) && !(if z.id == id then f z else z).moved
      && (if z.id == id then f z else z).banks.contains (die, b))
      = (decide (z.id < x.id) && !z.moved && z.banks.contains (die, b)) := fun z => by
    rw [hy]
    split
    · next hz =>
      have hlt : ¬z.id < x.id := by
        rw [beq_iff_eq.1 hz, hid]
        exact lt_irrefl _
      simp only [hf, decide_eq_false hlt, Bool.false_and]
    · rfl
  rw [State.bankInUse, State.bankInUse, State.modOp, List.any_map]
  exact congrArg (List.any s.ops) (funext hone)

/-- The load of a legal record into a bank that no other context holds (R375, R387). -/
theorem exec_xbankLoadComplete_ok {u : State} {bs : List Byte} {g : Group} (h : s.op id = some x) (hk : x.kind = .xbank src b die)
    (hs : x.started = false) (hb : s.bankInUse x die b = false) (hh : (s.hops x.die die).isSome = true) (hc : 0x40 ≤ x.ectx)
    (hload : s.loadRec x src = .ok (u, bs)) (hops : u.ops = s.ops) (hbank : u.bank die b = s.bank die b)
    (hfree : (s.bank die b).holder = none ∨ (s.bank die b).holder = some x.ctx) :
    let v := u.modOp id fun y => { y with started := true, record := bs }
    let t := ((v.putBank x.ctx die b bs).scrimCounted x).drainOp x
    let st := (t.op id).map (·.status)
    t.group x.gid = some g → g.res ≠ .draining →
    exec (.xbankLoadComplete id) s = .next (t.opDone x (if st = some x.status then 0 else st.getD 0) g) := by
  intro v t st hg hr
  obtain rfl := State.id_of_op h
  have hroute : (s.hops x.die die).isNone = false := by rw [← Option.not_isSome, hh]; rfl
  have hstart : s.startLoad x src die = v := by
    simp only [State.startLoad, hroute, hload, Bool.false_eq_true, if_false]
    rfl
  have hop : v.op x.id = some { x with started := true, record := bs } :=
    State.op_modOp ((congrArg (List.find? _) hops).trans h) fun _ => rfl
  have hidle : v.bankInUse { x with started := true, record := bs } die b = false := by
    refine (State.bankInUse_modOp (f := fun y => { y with started := true, record := bs }) rfl (fun _ => rfl) rfl).trans ?_
    rw [State.bankInUse, hops]
    exact hb
  have hput : (v.putBank x.ctx die b bs).op x.id = some { x with started := true, record := bs } := by
    rw [← hop, State.putBank, State.restoreRec]
    split <;> rfl
  rw [exec_xbankLoadComplete h hk hs, hstart, hop]
  refine congrArg _ ?_
  have hevict : v.evict x.ctx die b = some v := State.evict_free (hbank ▸ hfree)
  simp only [State.endBank, hidle, Bool.false_eq_true, if_false, hevict]
  exact State.endLoad_ok hput hc hg hr

end

/-- Settles O49: each event runs as the crossing or the load that it belongs to. -/
theorem scrimEvents : Obligations.ScrimEvents := by
  unfold Obligations.ScrimEvents
  intro done counted
  obtain ⟨hdone, hcounted⟩ : done = State.opDone ∧ counted = State.scrimCounted := ⟨rfl, rfl⟩
  clear_value done counted
  subst hdone hcounted
  refine ⟨?_, ?_, ?_, ?_⟩
  · intro id s x back loft keepy src d h hk hs he
    refine ⟨fun w hw => ?_, fun u bs st hu => ?_, ?_⟩
    · rw [exec_crossingStart h hk hs he, hw]
    · rw [exec_crossingStart h hk hs he, hu]
    · intro g da la db rb a b hl hg hbanks hla hrb ha hb hh hw n place hin r
      subst hl
      exact State.crossRun_shared hg hbanks hla hrb ha hb hh hw hin
  · intro id s x back loft keepy src d die rb lb h o bs hop hk hbanks hbs hsl ht hring ho hfit hroom he hr hp hh hend herr
      put p ring
    have hx : x.crossRing = .loft die (dRidx d) := by
      rw [Op.crossRing, hk, Op.rbank, hbanks]
      rfl
    obtain rfl := State.id_of_op hop
    exact (exec_engineRingClaim_cross hop hk hsl).trans (congrArg _
      (State.crossClaim_loft hx ht hring ho hfit hroom hbs ⟨he, hh, herr⟩ hr hp hend))
  · intro id s x back loft keepy src d hop hk hm hc
    refine ⟨fun hsl y g => ?_, fun u y hu hy hsl hys => exec_crossingDelivery_claims hop hk hm hu hy hsl hys⟩
    intro t hy hg hr
    obtain rfl := State.id_of_op hop
    rw [exec_crossingDelivery_filled hop hk hm hsl, State.addStat_scrim hc]
    exact congrArg _ (State.finishOp_eq (s := s.scrimCounted x) hop hy hg hr)
  · intro id s x src b die p o hop hk hs hb hh hc hsh he hr hp hhp ha a key n head bs hok h16 hlen herr hfree hw
    have hload : s.loadRec x src = .ok (head.noteRead x.agent (.loft p) a n none, bs) :=
      State.loadRec_loft hsh he hr hp hhp ha herr hw hok h16 hlen
    have hops := (head.ops_noteRead x.agent (.loft p) a n).trans (s.ops_noteRead x.agent (.loft p) a 16)
    have hbank := (head.bank_noteRead x.agent (.loft p) a n die b).trans (s.bank_noteRead x.agent (.loft p) a 16 die b)
    generalize head.noteRead x.agent (.loft p) a n none = v at hload hops hbank ⊢
    clear_value bs
    intro u t st g hg hgr
    exact exec_xbankLoadComplete_ok hop hk hs hb hh hc hload hops hbank hfree hg hgr

end Sys2Proof.Machine
end

section
/-! PROOFS. Obligation O50: the instructions that append to the matrix queue (R330, R331, R347 to R351, R361, R362). -/

namespace Sys2Proof.Machine

/-! ## The matrix queue (R330) -/

/-- A new entry of the run finds no place in the queue of its core. -/
def State.queueFull (s : State) (r : Run) : Prop :=
  8 ≤ (s.core r.g.die r.g.core).queue.length ∨ (s.core r.g.die r.g.core).waiting ≠ []

/-- A new entry in the queue of a core, or behind those that wait for a place. -/
def Core.put (e : MEntry) (stamp : Nat) (c : Core) : Core :=
  if c.queue.length < 8 ∧ c.waiting = [] then { c with queue := c.queue ++ [{ e with entered := some stamp }] }
  else { c with waiting := c.waiting ++ [e] }

/-- The state with the entry of the run. -/
def State.putEntry (u : State) (r : Run) (op : MOp) (numbered : Bool) (rdv : Rdv) : State :=
  let e : MEntry := { id := u.stamp, entered := none, cycles := 0, numbered := numbered, gid := r.gid, warp := r.w
                      tile := r.o.d.toNat, op := op, rdv := rdv }
  (u.modCore r.g.die r.g.core (Core.put e u.stamp)).nextStamp

/-- The core of the run has the same entries in both states. -/
def State.SameQueue (s t : State) (r : Run) : Prop :=
  (t.core r.g.die r.g.core).queue = (s.core r.g.die r.g.core).queue
  ∧ (t.core r.g.die r.g.core).waiting = (s.core r.g.die r.g.core).waiting

section
variable {s t u : State} {r : Run}

theorem State.hasPlace_iff : s.hasPlace r.g = true ↔ ¬s.queueFull r := by
  simp only [State.hasPlace, State.queueFull, Bool.and_eq_true, List.isEmpty_iff, decide_eq_true_eq, not_or, not_not, Nat.not_le]
  exact and_comm

theorem State.SameQueue.trans (h : s.SameQueue t r) (k : t.SameQueue u r) : s.SameQueue u r := ⟨k.1.trans h.1, k.2.trans h.2⟩

theorem State.SameQueue.of_dies (h : t.dies = s.dies) (r : Run) : s.SameQueue t r := by
  simp only [State.SameQueue, State.core, State.die, h, and_self]

theorem State.SameQueue.full (h : s.SameQueue t r) : t.queueFull r ↔ s.queueFull r := by
  simp only [State.queueFull, h.1, h.2]

theorem State.SameQueue.modCore {f : Core → Core} (h : ∀ k, (f k).queue = k.queue ∧ (f k).waiting = k.waiting) :
    s.SameQueue (s.modCore r.g.die r.g.core f) r := by
  rcases s.core_modCore r.g.die r.g.core f with hc | hc <;> rw [State.SameQueue, hc]
  · exact ⟨rfl, rfl⟩
  · exact h _

theorem State.SameQueue.holdCaps (r : Run) (caps : List W64) : ∀ s : State, s.SameQueue (s.holdCaps r.g caps) r := by
  induction caps with
  | nil => exact fun s => ⟨rfl, rfl⟩
  | cons cap caps ih =>
    refine fun s => State.SameQueue.trans ?_ (ih _)
    unfold State.holdObj
    dsimp only
    split
    · exact ⟨rfl, rfl⟩
    · exact State.SameQueue.modCore fun k => by split <;> exact ⟨rfl, rfl⟩

theorem State.append_eq_putEntry (op : MOp) (numbered : Bool) (rdv : Rdv) : u.append r r.tile op numbered rdv
    = u.putEntry r op numbered rdv := by
  refine congrArg State.nextStamp (State.modCore_congr ?_)
  by_cases hp : u.hasPlace r.g = true
  · obtain ⟨hw, hq⟩ := Bool.and_eq_true_iff.1 hp
    rw [if_pos hp, Core.put, if_pos ⟨of_decide_eq_true hq, List.isEmpty_iff.1 hw⟩]
    rfl
  · have hno : ¬((u.core r.g.die r.g.core).queue.length < 8 ∧ (u.core r.g.die r.g.core).waiting = []) := fun h =>
      hp (Bool.and_eq_true_iff.2 ⟨List.isEmpty_iff.2 h.2, decide_eq_true h.1⟩)
    rw [if_neg hp, Core.put, if_neg hno]
    rfl

theorem State.putEntry_groups (u : State) (r : Run) (op : MOp) (numbered : Bool) (rdv : Rdv) :
    (u.putEntry r op numbered rdv).groups = u.groups := rfl

/-- With its entry in place a calm run goes on; it stalls at an entry that waits for its place. -/
theorem State.pass_moved (h : Stands t r) (c : Calm t r) (hp : ¬u.queueFull r) (id : Nat) :
    t.pass r (u.hasPlace r.g) id = t.moved r fun _ => nextSlot r.pc := by
  rw [State.pass, State.hasPlace_iff.2 hp, if_pos rfl, State.advance_calm h c]

theorem State.pass_waiting (hp : u.queueFull r) (id : Nat) : t.pass r (u.hasPlace r.g) id = t.waiting r fun _ => .queue id := by
  have hno : u.hasPlace r.g ≠ true := fun h => State.hasPlace_iff.1 h hp
  rw [State.pass, if_neg hno]
  rfl

end

/-! ## Reading the parameter block (R347, R348) -/

/-- The state after the lane that acts has read the block. -/
def State.blockRead (s : State) (r : Run) (l : Nat) : State :=
  (s.blockSettled r l).noteRead (r.agent l) (.shared r.gid) (r.blockOff l).toNat 64 none

/-- The loft objects that a block names. -/
def Run.blockCaps (r : Run) (ws : List W32) : List W64 :=
  (if bAloft ws = true then [(r.pair ws false).1] else []) ++ if bBloft ws = true then [(r.pair ws true).1] else []

/-- The state in which the entry of a block is appended: it is an engine operation of the lane (R133). -/
def State.blockIssued (s : State) (r : Run) (l : Nat) (ws : List W32) : State :=
  let u := (s.blockRead r l).drain (·.byLane r.gid r.w l)
  (u.issueEdge r l [.op u.stamp r.gid]).holdCaps r.g (r.blockCaps ws)

/-- The words of a legal block, at a legal place. -/
structure Run.Block (r : Run) (s : State) (l : Nat) (modes : List Nat) (ws : List W32) : Prop where
  lead : r.lead = some l
  tile : r.o.d.toNat < r.d.acc
  low : 0 ≤ r.blockOff l
  high : r.blockOff l + 64 ≤ r.d.shared
  align : (r.blockOff l).toNat % 16 = 0
  clean : (s.blockSettled r l).blockBad r l = false
  words : ws = (s.blockSettled r l).blockWords r l
  legal : r.blockDetail ws modes = 0
  noTag : ∀ n ∈ pairRegs ws, r.snap.tagged n = false

/-- The operands of a block pass their tests. -/
structure Run.Operands (r : Run) (s : State) (ws : List W32) : Prop where
  lanes : (bAloft ws && bBloft ws && !bScl ws) = true ∨ r.missing = 0
  regs : r.badOperands ws = false
  a : s.operandFault r ws false = none
  b : s.operandFault r ws true = none

section
variable {s : State} {r : Run} {l : Nat} {modes : List Nat} {ws : List W32}

theorem Run.blockFault_none (h : r.Block s l modes ws) : r.blockFault l = none := by
  have hlow := h.low
  have hhigh := h.high
  have ht : ¬r.d.acc ≤ r.tile := Nat.not_le.2 h.tile
  have hin : ¬(r.blockOff l < 0 ∨ (r.d.shared : Int) < r.blockOff l + 64) := by omega
  simp only [Run.blockFault, if_neg ht, if_neg hin, h.align, ne_eq, not_true_eq_false, if_false]

theorem Run.blockFault_tile (h : r.d.acc ≤ r.o.d.toNat) : r.blockFault l = some (accRange r.o.d.toNat) := if_pos h

theorem Run.blockFault_bounds (ht : r.o.d.toNat < r.d.acc) (hb : (r.d.shared : Int) < r.blockOff l + 64) :
    r.blockFault l = some { code := .bounds, s45 := BitVec.ofInt 64 (r.blockOff l) } :=
  (if_neg (Nat.not_le.2 ht)).trans (if_pos (.inr hb))

theorem State.operandFault_noteRead (s : State) (a : Agent) (sp : Space) (i n : Nat) (r : Run) (ws : List W32) (b : Bool) :
    (s.noteRead a sp i n none).operandFault r ws b = s.operandFault r ws b := rfl

/-- Some operand or the scales come from registers, unless both operands come from a loft and there are no scales. -/
theorem someRegister : ∀ a b c : Bool, (!a || !b || c) = !(a && b && !c) := by decide

/-- A block whose operands pass their tests. -/
theorem State.matrixRead_ok (h : r.Block s l modes ws) (ho : r.Operands (s.blockSettled r l) ws) :
    s.matrixRead r l modes = (s.blockRead r l, .ok (some ws)) := by
  have hb := h.words
  subst hb
  have hlanes : ((!bAloft ((s.blockSettled r l).blockWords r l) || !bBloft ((s.blockSettled r l).blockWords r l)
      || bScl ((s.blockSettled r l).blockWords r l)) && r.missing != 0) = false := by
    rcases ho.lanes with hl | hl
    · rw [someRegister, hl, Bool.not_true, Bool.false_and]
    · rw [hl, bne_self_eq_false, Bool.and_false]
  have htag := fun t : State => t.tagWait_none r r.ls r.act _ h.noTag
  simp only [State.matrixRead, Run.blockFault_none h, h.clean, h.legal, Bool.false_eq_true, if_false, ne_eq, not_true_eq_false,
    false_and, htag, List.isEmpty_nil, Bool.not_true, hlanes, ho.regs, State.operandFault_noteRead, ho.a, ho.b, State.blockRead]

/-- A register operand needs every live lane (R333). -/
theorem State.matrixRead_missing (h : r.Block s l modes ws) (hreg : (bAloft ws && bBloft ws && !bScl ws) = false)
    (hm : r.missing ≠ 0) : s.matrixRead r l modes = (s.blockRead r l, .error { code := .maskMismatch, s45 := r.missing }) := by
  have hb := h.words
  subst hb
  have hlanes : ((!bAloft ((s.blockSettled r l).blockWords r l) || !bBloft ((s.blockSettled r l).blockWords r l)
      || bScl ((s.blockSettled r l).blockWords r l)) && r.missing != 0) = true := by
    rw [someRegister, hreg, bne_iff_ne.2 hm]
    rfl
  have htag := fun t : State => t.tagWait_none r r.ls r.act _ h.noTag
  simp only [State.matrixRead, Run.blockFault_none h, h.clean, h.legal, Bool.false_eq_true, if_false, ne_eq, not_true_eq_false,
    false_and, htag, List.isEmpty_nil, Bool.not_true, hlanes, if_true, State.blockRead]

theorem State.Beside.fixLoads (s : State) (p : Load → Bool) : s.Beside (s.fixLoads p) := ⟨rfl, fun _ => rfl, rfl⟩

theorem State.Lands.blockRead (s : State) (r : Run) (l : Nat) : s.Lands (s.blockRead r l) :=
  (State.Lands.settleOwn ..).trans (.noteRead ..)

/-- Landings and reads leave the run and the queue, and the issue of an engine operation teaches it alone. -/
theorem State.blockIssued_eq (s : State) (r : Run) (l : Nat) (ws : List W32) : ∃ t, s.Lands t ∧ s.Beside t
    ∧ s.blockIssued r l ws = t.holdCaps r.g (r.blockCaps ws) := by
  refine ⟨_, ?_, ?_, rfl⟩
  · exact (State.Lands.blockRead ..).trans ((State.Lands.drain ..).trans ((State.Lands.drain ..).trans
      ((State.Lands.bindLoads ..).trans (.teach ..))))
  · have hread : s.Beside (s.blockRead r l) := (State.Beside.drain ..).trans (.noteRead ..)
    exact hread.trans ((State.Beside.drain ..).trans ((State.Beside.drain ..).trans
      ((State.Beside.fixLoads ..).trans (.teach ..))))

theorem Stands.blockIssued (h : Stands s r) (l : Nat) (ws : List W32) : Stands (s.blockIssued r l ws) r := by
  obtain ⟨t, hl, -, he⟩ := s.blockIssued_eq r l ws
  rw [he]
  exact (h.lands hl).of_groups (State.holdCaps_groups ..).1

theorem Calm.blockIssued (c : Calm s r) (l : Nat) (ws : List W32) : Calm (s.blockIssued r l ws) r := by
  obtain ⟨t, hl, -, he⟩ := s.blockIssued_eq r l ws
  rw [he]
  exact (c.lands hl).of_groups (State.holdCaps_groups ..).1

theorem State.SameQueue.blockIssued (s : State) (r : Run) (l : Nat) (ws : List W32) : s.SameQueue (s.blockIssued r l ws) r := by
  obtain ⟨t, -, hb, he⟩ := s.blockIssued_eq r l ws
  rw [he]
  exact (State.SameQueue.of_dies hb.dies r).trans (.holdCaps r _ t)

end

/-! ## The shape of the instructions that read a block -/

/-- With the entry in place a calm run goes on, and it stalls at an entry that waits for its place. -/
def State.Leaves (i : Instr) (s u t : State) (r : Run) : Prop :=
  (Calm s r → ¬s.queueFull r → exec i s = .next (t.moved r fun _ => nextSlot r.pc))
  ∧ (s.queueFull r → exec i s = .next (t.waiting r fun _ => .queue u.stamp))

section
variable {i : Instr} {s t u : State} {r : Run} {l : Nat} {modes : List Nat} {ws : List W32} {enter : Run → List W32 → State → State}

theorem State.Leaves.of_pass (he : exec i s = .next (t.pass r (u.hasPlace r.g) u.stamp)) (hs : Stands t r)
    (hc : Calm s r → Calm t r) (hq : s.SameQueue u r) : State.Leaves i s u t r := by
  refine ⟨fun c hf => ?_, fun hf => ?_⟩
  · rw [he, State.pass_moved hs (hc c) (hq.full.not.2 hf)]
  · rw [he, State.pass_waiting (hq.full.2 hf)]

theorem matrixIssue_ok (h : r.Block s l modes ws) (ho : r.Operands (s.blockSettled r l) ws) :
    matrixIssue modes enter r s = enter r ws (s.blockIssued r l ws) := by
  have hcaps : ([false, true].filterMap fun isB => if operandLoft ws isB then some (r.pair ws isB).1 else none) = r.blockCaps ws := by
    cases ha : bAloft ws <;> cases hb : bBloft ws <;> simp [operandLoft, Run.blockCaps, ha, hb]
  simp only [matrixIssue, h.lead, State.matrixRead_ok h ho, hcaps]
  rfl

theorem matrixIssue_error {f : Flt} (hl : r.lead = some l) (hr : s.matrixRead r l modes = (t, .error f)) :
    matrixIssue modes enter r s = t.failRun r f := by
  simp only [matrixIssue, hl, hr]

/-- What an instruction that reads a block does, whatever its entry is: the entry is entered, or a fault is raised. -/
theorem Issues.matrix (h : Issues i s r) (he : exec i s = .next (matrixIssue modes enter r s)) :
    (Calm s r → r.lead = none → exec i s = .next (s.moved r fun _ => nextSlot r.pc))
    ∧ (∀ l ws, r.Block s l modes ws → r.Operands (s.blockSettled r l) ws → exec i s = .next (enter r ws (s.blockIssued r l ws)))
    ∧ (∀ l ws, r.act = r.ls → r.Block s l modes ws → (bAloft ws && bBloft ws && !bScl ws) = false → r.missing ≠ 0 →
      exec i s = .next ((s.blockRead r l).faults r fun _ => { code := .maskMismatch, s45 := r.missing }))
    ∧ (∀ l, r.act = r.ls → r.lead = some l → r.d.acc ≤ r.o.d.toNat →
      exec i s = .next (s.faults r fun _ => accRange r.o.d.toNat))
    ∧ (∀ l, r.act = r.ls → r.lead = some l → r.o.d.toNat < r.d.acc → (r.d.shared : Int) < r.blockOff l + 64 →
      exec i s = .next (s.faults r fun _ => { code := .bounds, s45 := BitVec.ofInt 64 (r.blockOff l) })) := by
  have hpre : s.NoPre := Begins.noPre h.toBegins
  have hfault : ∀ l f, r.blockFault l = some f → s.matrixRead r l modes = (s, .error f) := fun l f hf => by
    simp only [State.matrixRead, hf]
  refine ⟨fun c hl => ?_, fun l ws hb ho => ?_, fun l ws ha hb hreg hm => ?_, fun l ha hl ht => ?_, fun l ha hl ht hb => ?_⟩
  · rw [he, ← State.advance_calm h.stands c]
    simp only [matrixIssue, hl]
  · rw [he, matrixIssue_ok hb ho]
  · have hread : (s.blockRead r l).NoPre := by
      rw [State.NoPre, (State.Lands.blockRead s r l).issue]
      exact hpre
    rw [he, matrixIssue_error hb.lead (State.matrixRead_missing hb hreg hm), hread.failRun ha]
  · rw [he, matrixIssue_error hl (hfault l _ (Run.blockFault_tile ht)), hpre.failRun ha]
  · rw [he, matrixIssue_error hl (hfault l _ (Run.blockFault_bounds ht hb)), hpre.failRun ha]

/-- An entry that is not held. -/
theorem State.Leaves.entered {op : MOp} (he : exec i s = .next (u.enter r r.tile op)) (hs : Stands u r) (hc : Calm s r → Calm u r)
    (hq : s.SameQueue u r) : State.Leaves i s u (u.putEntry r op false .free) r := by
  rw [State.enter, State.append_eq_putEntry] at he
  exact .of_pass he (hs.of_groups rfl) (fun c => (hc c).of_groups rfl) hq

end

/-! ## The rendezvous of MMAD (R360 to R366) -/

/-- The state in which a warp of a duet launch comes to its rendezvous. -/
def State.rendezvous (s : State) (r : Run) (l : Nat) (ws : List W32) : State :=
  (s.blockIssued r l ws).modWarp r.gid r.w fun w => { w with pairing := (s.warp r.gid r.w).pairing + 1 }

/-- What a find in a map meets, when another entry changes in a way that the test does not see. -/
theorem find?_mapMod {β : Type} (m : KMap β) (i : Nat) {f : β → β} {p : Nat × β → Bool} {k : Nat} {x : β}
    (hp : ∀ j y, p (j, f y) = p (j, y)) (hk : k ≠ i) (h : m.find? p = some (k, x)) : (mapMod m i f).find? p = some (k, x) := by
  induction m with
  | nil => cases h
  | cons q m ih =>
    obtain ⟨j, y⟩ := q
    rw [mapMod]
    split
    · next hij =>
      rw [List.find?_cons] at h ⊢
      rw [hp]
      split at h
      · obtain ⟨rfl, rfl⟩ := Prod.mk.inj (Option.some.inj h)
        exact absurd hij.symm hk
      · exact h
    · split
      · exact h
      · rw [List.find?_cons] at h ⊢
        split at h
        · exact h
        · exact ih h

section
variable {s t u : State} {r : Run} {l pid : Nat} {ws : List W32} {p : Group} {e : MEntry}

/-- The partner of another group's warp that changes. -/
theorem State.partner_modWarp {g : Group} {gid w : Nat} {f : Warp → Warp} (h : s.partner g = some (pid, p)) (hp : pid ≠ gid) :
    (s.modWarp gid w f).partner g = some (pid, p) :=
  find?_mapMod s.groups gid (fun _ _ => rfl) hp h

theorem State.blockIssued_warp (s : State) (r : Run) (l : Nat) (ws : List W32) :
    (s.warp r.gid r.w).Keeps ((s.blockIssued r l ws).warp r.gid r.w) := by
  obtain ⟨t, hl, -, he⟩ := s.blockIssued_eq r l ws
  have hw : (s.blockIssued r l ws).warp r.gid r.w = t.warp r.gid r.w := by
    rw [he]
    simp only [State.warp, State.group, (State.holdCaps_groups r.g (r.blockCaps ws) t).1]
  rw [hw]
  exact hl.warp ..

theorem State.blockIssued_pairing (s : State) (r : Run) (l : Nat) (ws : List W32) :
    ((s.blockIssued r l ws).warp r.gid r.w).pairing = (s.warp r.gid r.w).pairing :=
  (congrArg Warp.pairing (s.blockIssued_warp r l ws).rest :)

theorem State.rendezvous_eq (s : State) (r : Run) (l : Nat) (ws : List W32) :
    ((s.blockIssued r l ws).modWarp r.gid r.w fun w => { w with pairing := (s.warp r.gid r.w).pairing + 1 })
      = s.rendezvous r l ws := rfl

theorem Stands.rendezvous (h : Stands s r) (l : Nat) (ws : List W32) : Stands (s.rendezvous r l ws) r :=
  (h.blockIssued l ws).modWarp _ rfl (h.blockIssued l ws).canon

theorem Calm.rendezvous (c : Calm s r) (h : Stands s r) (l : Nat) (ws : List W32) : Calm (s.rendezvous r l ws) r where
  windows := fun k hk y hy => by
    obtain ⟨g, hg, hw⟩ := (h.blockIssued l ws).group
    rw [State.rendezvous, State.warp_modWarp _ _ _ _ hg hw] at hy
    exact (c.blockIssued l ws).windows k hk y hy
  soft := c.soft

theorem State.SameQueue.rendezvous (s : State) (r : Run) (l : Nat) (ws : List W32) : s.SameQueue (s.rendezvous r l ws) r :=
  (State.SameQueue.blockIssued s r l ws).trans ⟨rfl, rfl⟩

/-- A warp whose partner is gone goes on alone, and its pair is split (R365). -/
theorem rendezvousMmad_alone (hd : r.d.isDuet = true) (hu : (s.rendezvous r l ws).partner r.g = none) :
    rendezvousMmad r ws (s.blockIssued r l ws)
      = (((s.rendezvous r l ws).putEntry r (r.macOp ws) true .free).setSplit r.g true).pass r
        ((s.rendezvous r l ws).hasPlace r.g) (s.rendezvous r l ws).stamp := by
  rw [rendezvousMmad]
  simp only [hd, Bool.not_true, Bool.false_eq_true, if_false, State.blockIssued_pairing, State.rendezvous_eq, hu, State.append_eq_putEntry]
  rfl

/-- The number of the rendezvous that a warp comes to. -/
def State.nextPair (s : State) (r : Run) : Nat := ((s.warp r.gid r.w).pairing + 1).toNat

/-- The first of a pair holds its entry. -/
theorem rendezvousMmad_first (hd : r.d.isDuet = true) (hu : (s.rendezvous r l ws).partner r.g = some (pid, p))
    (hh : (s.rendezvous r l ws).heldBy pid p r.w = []) (hq : (p.warp r.w).pairing.toNat < s.nextPair r)
    (hp : (s.rendezvous r l ws).parted pid r.w = false) : rendezvousMmad r ws (s.blockIssued r l ws)
      = ((s.rendezvous r l ws).putEntry r (r.macOp ws) true (.held (s.nextPair r) (descriptor ws (r.macOp ws)))).block r r.ls
        (.duet (s.rendezvous r l ws).stamp) := by
  have hgo : ¬(s.nextPair r ≤ (p.warp r.w).pairing.toNat ∨ (s.rendezvous r l ws).parted pid r.w = true) := by
    rw [hp]
    simpa using hq
  rw [State.nextPair] at hgo
  rw [rendezvousMmad]
  simp only [hd, Bool.not_true, Bool.false_eq_true, if_false, State.rendezvous_eq, hu, hh, List.find?_nil, State.blockIssued_pairing, if_neg hgo,
    State.append_eq_putEntry, State.nextPair]
  rfl

/-- The second of a pair with the same descriptor releases the entry that the first has held. -/
theorem rendezvousMmad_second (hd : r.d.isDuet = true) (hu : (s.rendezvous r l ws).partner r.g = some (pid, p))
    (hh : (s.rendezvous r l ws).heldBy pid p r.w = [e])
    (he : e.rdv = .held (s.nextPair r) (descriptor ws (r.macOp ws))) : rendezvousMmad r ws (s.blockIssued r l ws)
      = (((s.rendezvous r l ws).putEntry r (r.macOp ws) true (.paired e.id)).pass r ((s.rendezvous r l ws).hasPlace r.g)
        (s.rendezvous r l ws).stamp).releaseEntry pid p e (.paired (s.rendezvous r l ws).stamp) := by
  rw [State.nextPair] at he
  rw [rendezvousMmad]
  simp only [hd, Bool.not_true, Bool.false_eq_true, if_false, State.rendezvous_eq, hu, hh, List.find?_cons, State.blockIssued_pairing, he, beq_self_eq_true,
    if_true, State.append_eq_putEntry]
  rfl

/-- A warp that holds nothing loses nothing when its partner parts (R362). -/
theorem State.partCheck_unheld {gid w : Nat} {g : Group} (hg : s.group gid = some g) (hu : s.partner g = some (pid, p))
    (hh : s.heldBy pid p w = []) : s.partCheck gid w = s := by
  simp only [State.partCheck, hg, hu, hh, List.foldl_nil, ite_self]

/-- A core is as it was, or the one that changes. -/
theorem State.core_modCore_or (s : State) (d c : Nat) (f : Core → Core) (i j : Nat) :
    (s.modCore d c f).core i j = s.core i j ∨ (s.modCore d c f).core i j = f (s.core i j) := by
  simp only [State.core, State.die, State.modCore, State.modDie, listMod_getD]
  split
  · simp only [listMod_getD]
    split
    · exact .inr rfl
    · exact .inl rfl
  · exact .inl rfl

theorem Core.entries_put {e x : MEntry} {stamp : Nat} {c : Core} (h : x ∈ (c.put e stamp).entries) : x ∈ c.entries ∨ x.gid = e.gid := by
  rw [Core.put] at h
  split at h <;> simp only [Core.entries, List.mem_append, List.mem_singleton] at h ⊢
  · rcases h with (h | rfl) | h
    · exact .inl (.inl h)
    · exact .inr rfl
    · exact .inl (.inr h)
  · rcases h with h | h | rfl
    · exact .inl (.inl h)
    · exact .inl (.inr h)
    · exact .inr rfl

/-- The entries that another group holds, when the run appends one. -/
theorem State.heldBy_putEntry {op : MOp} {numbered : Bool} {rdv : Rdv} {w : Nat} (hp : pid ≠ r.gid) (hh : u.heldBy pid p w = []) :
    (u.putEntry r op numbered rdv).heldBy pid p w = [] := by
  have hold := List.filter_eq_nil_iff.1 hh
  refine List.filter_eq_nil_iff.2 fun x hx => ?_
  by_cases hg : x.gid = pid
  · refine hold x ?_
    rcases u.core_modCore_or r.g.die r.g.core (Core.put _ u.stamp) p.die p.core with hc | hc
    · exact hc ▸ hx
    · exact (Core.entries_put (hc ▸ hx)).resolve_right fun h => hp (hg.symm.trans h)
  · simp [hg]

/-- The first of a pair waits, and its partner holds no entry that its wait would release (R358, R362). -/
theorem State.block_first {op : MOp} {rdv : Rdv} {g : Group} (hg : u.group r.gid = some g)
    (hk : g.ctx = r.g.ctx ∧ g.node = r.g.node ∧ g.lin = r.g.lin) (hu : u.partner r.g = some (pid, p)) (hp : pid ≠ r.gid)
    (hh : u.heldBy pid p r.w = []) (w : Wait) :
    (u.putEntry r op true rdv).block r r.ls w = (u.putEntry r op true rdv).waiting r fun _ => w := by
  set v := u.putEntry r op true rdv with hv
  have hgv : (v.hold r r.ls w).group r.gid
      = some (g.modWarp r.w fun x => x.modLanes (maskOf r.ls) fun _ y => { y with wait := w }) := by
    refine (State.group_modGroup v r.gid r.gid _).trans ?_
    rw [if_pos rfl]
    exact congrArg (Option.map _) hg
  have hpart : (v.hold r r.ls w).partner (g.modWarp r.w fun x => x.modLanes (maskOf r.ls) fun _ y => { y with wait := w })
      = some (pid, p) := by
    obtain ⟨h1, h2, h3⟩ := hk
    have hsame : ∀ t : State, t.partner (g.modWarp r.w fun x => x.modLanes (maskOf r.ls) fun _ y => { y with wait := w })
        = t.partner r.g := fun t => by
      simp only [State.partner, Group.modWarp, h1, h2, h3]
    rw [hsame]
    exact State.partner_modWarp (s := v) hu hp
  exact State.partCheck_unheld hgv hpart (State.heldBy_putEntry hp hh)

/-- The group of the run at its rendezvous: what names it is as it was. -/
theorem State.rendezvous_group (hg : s.group r.gid = some r.g) (l : Nat) (ws : List W32) : ∃ g, (s.rendezvous r l ws).group r.gid = some g
    ∧ g.ctx = r.g.ctx ∧ g.node = r.g.node ∧ g.lin = r.g.lin := by
  obtain ⟨t, hl, -, he⟩ := s.blockIssued_eq r l ws
  obtain ⟨g, ht, hk⟩ := hl.group_some hg
  have hi : (s.blockIssued r l ws).group r.gid = some g := by
    rw [he, State.group, (State.holdCaps_groups r.g (r.blockCaps ws) t).1]
    exact ht
  refine ⟨_, (State.group_modGroup (s.blockIssued r l ws) r.gid r.gid _).trans ((if_pos rfl).trans (congrArg _ hi)), ?_⟩
  have hrest := hk.rest
  exact ⟨(congrArg Group.ctx hrest :), (congrArg Group.node hrest :), (congrArg Group.lin hrest :)⟩

end

/-! ## Each instruction -/

section
variable {s : State} {r : Run} {l : Nat} {ws : List W32} {o : Ops}

theorem exec_mma (h : Issues (.mma o) s r) : exec (.mma o) s
    = .next (matrixIssue [0] (fun r ws s => s.enter r r.tile (r.macOp ws)) r s) := by
  change execMma o s = _
  rw [execMma, issued_next h]

theorem exec_mmab (h : Issues (.mmab o) s r) : exec (.mmab o) s
    = .next (matrixIssue [1] (fun r ws s => s.enter r r.tile (r.macOp ws)) r s) := by
  change execMmab o s = _
  rw [execMmab, issued_next h]

theorem exec_mmad (h : Issues (.mmad o) s r) : exec (.mmad o) s = .next (matrixIssue [2, 3] rendezvousMmad r s) := by
  change execMmad o s = _
  rw [execMmad, issued_next h]

/-- Outside a duet launch there is no rendezvous. -/
theorem rendezvousMmad_single (hd : r.d.isDuet = false) (t : State) : rendezvousMmad r ws t = t.enter r r.tile (r.macOp ws) := by
  simp only [rendezvousMmad, hd, Bool.not_false, if_true]

/-- ACCZ and ACCI: an entry that needs no block. -/
theorem exec_accz_none (h : Issues (.accz o) s r) (c : Calm s r) (hl : r.lead = none) :
    exec (.accz o) s = .next (s.moved r fun _ => nextSlot r.pc) := by
  change execAccz o s = _
  rw [execAccz, issued_next h, ← State.advance_calm h.stands c]
  simp only [hl]

theorem exec_accz_tile (h : Issues (.accz o) s r) (hl : r.lead = some l) (ha : r.act = r.ls) (ht : r.d.acc ≤ r.o.d.toNat) :
    exec (.accz o) s = .next (s.faults r fun _ => accRange r.o.d.toNat) := by
  have hpre : s.NoPre := Begins.noPre h.toBegins
  change execAccz o s = _
  rw [execAccz, issued_next h, ← hpre.failRun ha]
  simp only [hl]
  exact congrArg _ (if_pos ht)

theorem exec_accz_entry (h : Issues (.accz o) s r) (hl : r.lead = some l) (ht : r.o.d.toNat < r.d.acc) :
    exec (.accz o) s = .next (s.enter r r.tile .zero) := by
  change execAccz o s = _
  rw [execAccz, issued_next h]
  simp only [hl]
  exact congrArg _ (if_neg (Nat.not_le.2 ht))

variable {m : StdMod}

theorem exec_acci_none (h : Issues (.acci o m) s r) (c : Calm s r) (hl : r.lead = none) :
    exec (.acci o m) s = .next (s.moved r fun _ => nextSlot r.pc) := by
  change execAcci o m s = _
  rw [execAcci, issued_next h, ← State.advance_calm h.stands c]
  simp only [hl]

theorem exec_acci_missing (h : Issues (.acci o m) s r) (hl : r.lead = some l) (ht : r.o.d.toNat < r.d.acc) (ha : r.act = r.ls)
    (hm : r.missing ≠ 0) : exec (.acci o m) s = .next (s.faults r fun _ => { code := .maskMismatch, s45 := r.missing }) := by
  have hpre : s.NoPre := Begins.noPre h.toBegins
  change execAcci o m s = _
  rw [execAcci, issued_next h, ← hpre.failRun ha]
  simp only [hl, Run.tile, if_neg (Nat.not_le.2 ht), if_pos hm]

/-- The image that `ACCI` gives to its entry (R351). -/
def Run.initImage (r : Run) (m : StdMod) : List W32 :=
  let word := fun k : Nat => if (r.snap.lane (k % 64)).isLive then (r.snap.lane (k % 64)).getV (r.o.a.toNat + k / 64) else 0
  if m.ty = .bf16 then (List.range 512).flatMap fun k => [word k <<< 16, word k &&& 0xFFFF0000#32] else (List.range 1024).map word

theorem Run.initImage_eq (r : Run) (m : StdMod) : widen (m.ty == .bf16) (r.image r.o.a.toNat (if (m.ty == .bf16) = true then 512 else 1024))
    = r.initImage m := by
  have hword : ∀ k, r.imageWord r.o.a.toNat k
      = if (r.snap.lane (k % 64)).isLive then (r.snap.lane (k % 64)).getV (r.o.a.toNat + k / 64) else 0 := fun _ => rfl
  rw [Run.initImage, widen, Run.image]
  by_cases hb : m.ty = .bf16
  · simp only [hb, beq_self_eq_true, if_true, List.flatMap_map, hword]
  · simp only [beq_eq_false_iff_ne.2 hb, Bool.false_eq_true, if_false, if_neg hb]
    rfl

theorem exec_acci_entry (h : Issues (.acci o m) s r) (hl : r.lead = some l) (ht : r.o.d.toNat < r.d.acc) (hm : r.missing = 0) :
    exec (.acci o m) s = .next (s.enter r r.tile (.init (r.initImage m))) := by
  change execAcci o m s = _
  rw [execAcci, issued_next h, ← Run.initImage_eq]
  simp only [hl, Run.tile, if_neg (Nat.not_le.2 ht), hm, ne_eq, not_true_eq_false, if_false]

end

/-- Settles O50: what each instruction reads, tests and appends, and how its lanes leave. -/
theorem MatrixEntries.matrixIssue : Obligations.MatrixIssue := by
  unfold Obligations.MatrixIssue
  intro full put on fails leaves off own read issue block passes shape
  have hblock : ∀ {s : State} {r : Run} {l : Nat} {modes : List Nat} {ws : List W32}, block s r l modes ws → r.Block s l modes ws :=
    fun ⟨h1, h2, h3, h4, h5, h6, h7, h8, h9⟩ => ⟨h1, h2, h3, h4, h5, h6, h7, h8, h9⟩
  have hpass : ∀ {s : State} {r : Run} {ws : List W32}, passes s r ws → r.Operands s ws :=
    fun ⟨h1, h2, h3, h4⟩ => ⟨h1, h2, h3, h4⟩
  have hshape : ∀ {i : Instr} {modes : List Nat} {always : Bool} {enter : Run → List W32 → State → State},
      (∀ s r, Issues i s r → exec i s = .next (Machine.matrixIssue modes enter r s)) →
      (∀ r ws s, (always = true ∨ r.d.isDuet = false) → enter r ws s = s.enter r r.tile (r.macOp ws)) → shape i modes always := by
    intro i modes always enter he hent s r h
    obtain ⟨hidle, henter, hmissing, htile, hbounds⟩ := h.matrix (he s r h)
    refine ⟨hidle, fun l ws hb hp ha => ?_, fun l ws ha hb hreg hm => hmissing l ws ha (hblock hb) hreg hm, htile, hbounds⟩
    have hexec := henter l ws (hblock hb) (hpass hp)
    rw [hent r ws _ ha] at hexec
    exact State.Leaves.entered hexec (h.stands.blockIssued l ws) (fun c => c.blockIssued l ws) (.blockIssued s r l ws)
  refine ⟨fun o => ⟨hshape (fun s r h => exec_mma h) fun _ _ _ _ => rfl, hshape (fun s r h => exec_mmab h) fun _ _ _ _ => rfl,
    hshape (fun s r h => exec_mmad h) fun r ws s ha => rendezvousMmad_single (ha.resolve_left Bool.false_ne_true) s⟩, ?_, ?_, ?_⟩
  · intro o s r l ws h hd hb hp op q u desc
    have hexec := (h.matrix (exec_mmad h)).2.1 l ws (hblock hb) (hpass hp)
    have hs : Stands (s.rendezvous r l ws) r := h.stands.rendezvous l ws
    have hc : Calm s r → Calm (s.rendezvous r l ws) r := fun c => c.rendezvous h.stands l ws
    have hq : s.SameQueue (s.rendezvous r l ws) r := .rendezvous s r l ws
    refine ⟨fun hu => ?_, fun pid p hu hne => ⟨fun hh hlt hpart => ?_, fun e hh he => ?_⟩⟩
    · rw [rendezvousMmad_alone hd hu] at hexec
      exact State.Leaves.of_pass hexec (hs.of_groups rfl) (fun c => (hc c).of_groups rfl) hq
    · obtain ⟨g, hg, hk⟩ := State.rendezvous_group (Run.of_runOf h.run).2.1 l ws
      rw [rendezvousMmad_first hd hu hh hlt hpart, State.block_first hg hk hu hne hh] at hexec
      exact hexec
    · rw [rendezvousMmad_second hd hu hh he] at hexec
      refine ⟨fun c hf => ?_, fun hf => ?_⟩
      · have hst : Stands ((s.rendezvous r l ws).putEntry r (r.macOp ws) true (.paired e.id)) r := hs.of_groups rfl
        rw [State.pass_moved hst ((hc c).of_groups rfl) (hq.full.not.2 hf)] at hexec
        exact hexec
      · rw [State.pass_waiting (hq.full.2 hf)] at hexec
        exact hexec
  · intro o s r h
    refine ⟨exec_accz_none h, fun l hl => ⟨fun ht => ?_, exec_accz_tile h hl⟩⟩
    exact State.Leaves.entered (exec_accz_entry h hl ht) h.stands id ⟨rfl, rfl⟩
  · intro o m s r h word image
    refine ⟨exec_acci_none h, fun l hl ht => ⟨fun hm => ?_, exec_acci_missing h hl ht⟩⟩
    exact State.Leaves.entered (exec_acci_entry h hl ht hm) h.stands id ⟨rfl, rfl⟩

end Sys2Proof.Machine
end
